-- ==== Sys2Proof/Word.lean ====
section
/-! DEFINITION. Word types of the ZV64P (R2, R6) and their plainest arithmetic. -/

namespace Sys2Proof

/-- A 64-bit scalar register, lane or memory word. -/
abbrev Word := BitVec 64

/-- A 32-bit slot word, flag half or FP32 pattern. -/
abbrev Half := BitVec 32

/-- One byte of memory (R2). -/
abbrev Byte := BitVec 8

/-- The 128 lanes of a vector register: entry `l` is lane `l`, a missing entry is 0 (R75). -/
abbrev Lanes := List Word

/-- The truth value as a scalar 0 or 1. -/
def Word.ofBool (b : Bool) : Word := if b then 1 else 0

end Sys2Proof
end

