-- ==== Sys2Proof/Syntax.lean ====
section
/-! DEFINITION. The steps of the part: one constructor of `Instr` for each row of the table of operations and events.
Slot instructions carry the fields of their 32-bit word (R56 to R59); a tile instruction carries its tile word (R66);
an event names the unit that moves and the outside data it meets (R4, R344 to R348). -/

namespace Sys2Proof

/-- A tile word, field by field (R66). -/
structure TileWord where
  /-- [7:0] tile opcode -/
  op : BitVec 8
  /-- [11:8] level, 0 lane cluster to 5 domain -/
  level : BitVec 4
  /-- [15:12] split -/
  split : BitVec 4
  /-- [18:16] die-mask register -/
  dm : BitVec 3
  /-- [19] invert the die mask -/
  inv : Bool
  /-- [20] ordered -/
  ord : Bool
  /-- [21] continue on fault -/
  cof : Bool
  /-- [22] speculative -/
  spec : Bool
  /-- [23] reserved -/
  rsv : Bool
  /-- [31:24] function selector -/
  func : BitVec 8
  /-- [63:32] parameter -/
  param : BitVec 32
  /-- [127:64] VA of descriptor A -/
  da : BitVec 64
  /-- [191:128] VA of descriptor B -/
  db : BitVec 64
  /-- [255:192] VA of descriptor C -/
  dc : BitVec 64
  deriving DecidableEq, Repr

/-- A unit that holds tile words (R18): the Pour of a panel, a die sequencer, a cluster sequencer, a core's tile unit.
Dies, clusters and cores are numbered through the domain. -/
inductive UnitId where
  | pour (pan : Nat)
  | die (d : Nat)
  | clu (u : Nat)
  | core (c : Nat)
  deriving DecidableEq, Repr

/-- Who makes a write of a control register (R303, R313, R335, R339). -/
inductive Maker where
  /-- a context, a copy command or a request of one, with its privilege -/
  | context (priv : Bool)
  /-- the host, through BAR0 of a port, or its window BAR2 -/
  | host (window : Bool)
  /-- the board controller, over I3C -/
  | board
  /-- boot firmware of a die, and the stage that runs -/
  | firmware (die stage : Nat)
  deriving DecidableEq, Repr

/-- The maker is the host. -/
def Maker.isHost : Maker → Bool
  | .host _ => true
  | _ => false

/-- The maker is boot firmware. -/
def Maker.isFirmware : Maker → Bool
  | .firmware _ _ => true
  | _ => false

/-- A write of a control register: the value, and the maker with its world (R4, R382). -/
structure Access where
  /-- the value written -/
  data : Word
  /-- the maker is secure -/
  secure : Bool
  /-- the maker -/
  who : Maker
  deriving DecidableEq, Repr

/-- One access of the host through a port (R345, R346). -/
structure HostReq where
  /-- through BAR2 (the window) rather than BAR0 -/
  window : Bool
  /-- through CXL.mem, the panel's HBM in one range (R344), rather than a BAR -/
  hdm : Bool := false
  /-- offset within the BAR or the range -/
  offset : Nat
  /-- size in bytes -/
  size : Nat
  /-- the bytes written; none for a read -/
  wdata : Option (List Byte)
  deriving DecidableEq, Repr

/-- One management message of the board controller (R348). -/
structure MgmtReq where
  /-- control-space address reached -/
  addr : Nat
  /-- the value written; none for a read -/
  wdata : Option Word
  deriving DecidableEq, Repr

/-- The instruction set of the model: one constructor for each row of the table. -/
inductive Instr where
  /-- NOP (R52). All-zero slot word in any slot; does nothing. -/
  | nop
  /-- XHDR (R54). Extension header in slot 0: widens the immediates of slots 1-3 of the same bundle; the bundle has no C operation. -/
  | xhdr (e : BitVec 8) (f : BitVec 8) (g : BitVec 8)
  /-- ADD (R126). s[d] := s[a] + s[b] modulo 2^64. -/
  | add (d : BitVec 5) (a : BitVec 5) (b : BitVec 5)
  /-- SUB (R126). s[d] := s[a] - s[b] modulo 2^64. -/
  | sub (d : BitVec 5) (a : BitVec 5) (b : BitVec 5)
  /-- AND (R126). Bitwise AND of two scalars. -/
  | and (d : BitVec 5) (a : BitVec 5) (b : BitVec 5)
  /-- OR (R126). Bitwise OR of two scalars. -/
  | or (d : BitVec 5) (a : BitVec 5) (b : BitVec 5)
  /-- XOR (R126). Bitwise XOR of two scalars. -/
  | xor (d : BitVec 5) (a : BitVec 5) (b : BitVec 5)
  /-- ANDN (R126). s[a] AND NOT s[b]. -/
  | andn (d : BitVec 5) (a : BitVec 5) (b : BitVec 5)
  /-- SHL (R126). Shift left by s[b][5:0]. -/
  | shl (d : BitVec 5) (a : BitVec 5) (b : BitVec 5)
  /-- SHR (R126). Logical shift right by s[b][5:0]. -/
  | shr (d : BitVec 5) (a : BitVec 5) (b : BitVec 5)
  /-- SAR (R126). Arithmetic shift right by s[b][5:0]. -/
  | sar (d : BitVec 5) (a : BitVec 5) (b : BitVec 5)
  /-- ROL (R126). Rotate left by s[b][5:0]. -/
  | rol (d : BitVec 5) (a : BitVec 5) (b : BitVec 5)
  /-- ROR (R126). Rotate right by s[b][5:0]. -/
  | ror (d : BitVec 5) (a : BitVec 5) (b : BitVec 5)
  /-- MIN (R126). Signed minimum of two scalars. -/
  | min (d : BitVec 5) (a : BitVec 5) (b : BitVec 5)
  /-- MAX (R126). Signed maximum of two scalars. -/
  | max (d : BitVec 5) (a : BitVec 5) (b : BitVec 5)
  /-- MINU (R126). Unsigned minimum of two scalars. -/
  | minu (d : BitVec 5) (a : BitVec 5) (b : BitVec 5)
  /-- MAXU (R126). Unsigned maximum of two scalars. -/
  | maxu (d : BitVec 5) (a : BitVec 5) (b : BitVec 5)
  /-- SLT (R126). 1 if s[a] < s[b] signed, else 0. -/
  | slt (d : BitVec 5) (a : BitVec 5) (b : BitVec 5)
  /-- SLTU (R126). 1 if s[a] < s[b] unsigned, else 0. -/
  | sltu (d : BitVec 5) (a : BitVec 5) (b : BitVec 5)
  /-- SEQ (R126). 1 if s[a] = s[b], else 0. -/
  | seq (d : BitVec 5) (a : BitVec 5) (b : BitVec 5)
  /-- SNE (R126). 1 if s[a] differs from s[b], else 0. -/
  | sne (d : BitVec 5) (a : BitVec 5) (b : BitVec 5)
  /-- ADDI (R127). Adds a sign-extended 16-bit immediate. -/
  | addi (d : BitVec 5) (a : BitVec 5) (i : BitVec 16)
  /-- ANDI (R127). AND with a zero-extended immediate. -/
  | andi (d : BitVec 5) (a : BitVec 5) (i : BitVec 16)
  /-- ORI (R127). OR with a zero-extended immediate. -/
  | ori (d : BitVec 5) (a : BitVec 5) (i : BitVec 16)
  /-- XORI (R127). XOR with a zero-extended immediate. -/
  | xori (d : BitVec 5) (a : BitVec 5) (i : BitVec 16)
  /-- SLTI (R127). Signed compare with a signed immediate. -/
  | slti (d : BitVec 5) (a : BitVec 5) (i : BitVec 16)
  /-- SLTIU (R127). Unsigned compare with a sign-extended immediate. -/
  | sltiu (d : BitVec 5) (a : BitVec 5) (i : BitVec 16)
  /-- SHLI (R128). Shift left by an immediate amount. -/
  | shli (d : BitVec 5) (a : BitVec 5) (c : BitVec 6)
  /-- SHRI (R128). Logical shift right by an immediate amount. -/
  | shri (d : BitVec 5) (a : BitVec 5) (c : BitVec 6)
  /-- SARI (R128). Arithmetic shift right by an immediate amount. -/
  | sari (d : BitVec 5) (a : BitVec 5) (c : BitVec 6)
  /-- ROLI (R128). Rotate left by an immediate amount. -/
  | roli (d : BitVec 5) (a : BitVec 5) (c : BitVec 6)
  /-- MOVI (R129). Writes a sign-extended 21-bit immediate. -/
  | movi (d : BitVec 5) (i : BitVec 21)
  /-- MOVK (R129). Replaces one 16-bit field of s[d] with an immediate. -/
  | movk (d : BitVec 5) (p : BitVec 2) (i : BitVec 16)
  /-- MUL (R130). Low 64 bits of the product, latency 3. -/
  | mul (d : BitVec 5) (a : BitVec 5) (b : BitVec 5)
  /-- MULH (R130). High 64 bits of the signed product. -/
  | mulh (d : BitVec 5) (a : BitVec 5) (b : BitVec 5)
  /-- MULHU (R130). High 64 bits of the unsigned product. -/
  | mulhu (d : BitVec 5) (a : BitVec 5) (b : BitVec 5)
  /-- MULHSU (R130). High 64 bits of signed by unsigned product. -/
  | mulhsu (d : BitVec 5) (a : BitVec 5) (b : BitVec 5)
  /-- DIV (R131). Signed truncating division, latency 18, IDZ on zero divisor. -/
  | div (d : BitVec 5) (a : BitVec 5) (b : BitVec 5)
  /-- DIVU (R131). Unsigned division. -/
  | divu (d : BitVec 5) (a : BitVec 5) (b : BitVec 5)
  /-- REM (R131). Signed remainder. -/
  | rem (d : BitVec 5) (a : BitVec 5) (b : BitVec 5)
  /-- REMU (R131). Unsigned remainder. -/
  | remu (d : BitVec 5) (a : BitVec 5) (b : BitVec 5)
  /-- CLZ (R132). Counts leading zero bits. -/
  | clz (d : BitVec 5) (a : BitVec 5)
  /-- CTZ (R132). Counts trailing zero bits. -/
  | ctz (d : BitVec 5) (a : BitVec 5)
  /-- POPC (R132). Counts set bits. -/
  | popc (d : BitVec 5) (a : BitVec 5)
  /-- BREV (R132). Reverses bit order. -/
  | brev (d : BitVec 5) (a : BitVec 5)
  /-- BYTREV (R132). Reverses byte order. -/
  | bytrev (d : BitVec 5) (a : BitVec 5)
  /-- BFX (R133). Extracts a sign-extended bit field given by a control register. -/
  | bfx (d : BitVec 5) (a : BitVec 5) (b : BitVec 5)
  /-- BFXZ (R133). Extracts a zero-extended bit field given by a control register. -/
  | bfxz (d : BitVec 5) (a : BitVec 5) (b : BitVec 5)
  /-- BFXI (R133). Extracts a sign-extended bit field with immediate offset and width. -/
  | bfxi (d : BitVec 5) (a : BitVec 5) (w : BitVec 7) (o : BitVec 6)
  /-- BFI (R133). Inserts a bit field given by a control register. -/
  | bfi (d : BitVec 5) (a : BitVec 5) (b : BitVec 5)
  /-- BFII (R133). Inserts a bit field with immediate offset and width. -/
  | bfii (d : BitVec 5) (a : BitVec 5) (w : BitVec 7) (o : BitVec 6)
  /-- SEL (R134). Selects s[a] or s[b] by whether s[c] is nonzero. -/
  | sel (d : BitVec 5) (a : BitVec 5) (b : BitVec 5) (c : BitVec 5)
  /-- BEQ (R136). Branches when equal. -/
  | beq (a : BitVec 5) (b : BitVec 5) (o : BitVec 13)
  /-- BNE (R136). Branches when not equal. -/
  | bne (a : BitVec 5) (b : BitVec 5) (o : BitVec 13)
  /-- BLT (R136). Branches when less, signed. -/
  | blt (a : BitVec 5) (b : BitVec 5) (o : BitVec 13)
  /-- BGE (R136). Branches when greater or equal, signed. -/
  | bge (a : BitVec 5) (b : BitVec 5) (o : BitVec 13)
  /-- BLTU (R136). Branches when less, unsigned. -/
  | bltu (a : BitVec 5) (b : BitVec 5) (o : BitVec 13)
  /-- BGEU (R136). Branches when greater or equal, unsigned. -/
  | bgeu (a : BitVec 5) (b : BitVec 5) (o : BitVec 13)
  /-- J (R137). Jumps by a 26-bit bundle offset. -/
  | j (o : BitVec 26)
  /-- JAL (R137). Jumps and writes the link to s31. -/
  | jal (o : BitVec 26)
  /-- JR (R137). Jumps to the bundle address in s[a], optionally linking in s[d]. -/
  | jr (d : BitVec 5) (a : BitVec 5)
  /-- LOOP (R138). Opens a hardware loop with its count in a register. -/
  | loop (a : BitVec 5) (o : BitVec 13)
  /-- LOOPI (R138). Opens a hardware loop with an immediate count. -/
  | loopi (n : BitVec 13) (o : BitVec 13)
  /-- JBANK (R140). Swaps the overlay banks core-wide and continues at the target. -/
  | jbank (d : BitVec 5) (i : BitVec 21)
  /-- MFS (R141). Reads a special register into s[d]. -/
  | mfs (d : BitVec 5) (i : BitVec 16)
  /-- MTS (R141). Writes s[a] into a special register, including START and FEL0. -/
  | mts (a : BitVec 5) (i : BitVec 16)
  /-- STOP (R120). Retires the context, which becomes dormant. -/
  | stop
  /-- YIELD (R142). Gives the issue stage to another ready context. -/
  | yield
  /-- BRK (R142). Raises BREAKPOINT after issue. -/
  | brk
  /-- TRAP (R142). Raises SOFTWARE_TRAP with s[a] in FADDR. -/
  | trap (a : BitVec 5)
  /-- ECALL (R143). Raises ECALL with the immediate in FADDR. -/
  | ecall (i : BitVec 16)
  /-- VADD (R86). Lane-wise add. -/
  | vadd (d : BitVec 5) (a : BitVec 5) (b : BitVec 5) (p : BitVec 3) (t : BitVec 3)
  /-- VSUB (R86). Lane-wise subtract. -/
  | vsub (d : BitVec 5) (a : BitVec 5) (b : BitVec 5) (p : BitVec 3) (t : BitVec 3)
  /-- VMUL (R86). Lane-wise multiply. -/
  | vmul (d : BitVec 5) (a : BitVec 5) (b : BitVec 5) (p : BitVec 3) (t : BitVec 3)
  /-- VFMA (R86). Fused multiply-add into vd. -/
  | vfma (d : BitVec 5) (a : BitVec 5) (b : BitVec 5) (p : BitVec 3) (t : BitVec 3)
  /-- VFMS (R86). Fused multiply-subtract. -/
  | vfms (d : BitVec 5) (a : BitVec 5) (b : BitVec 5) (p : BitVec 3) (t : BitVec 3)
  /-- VFNMA (R86). Negated fused multiply-add. -/
  | vfnma (d : BitVec 5) (a : BitVec 5) (b : BitVec 5) (p : BitVec 3) (t : BitVec 3)
  /-- VMIN (R87). Lane-wise minimum. -/
  | vmin (d : BitVec 5) (a : BitVec 5) (b : BitVec 5) (p : BitVec 3) (t : BitVec 3)
  /-- VMAX (R87). Lane-wise maximum. -/
  | vmax (d : BitVec 5) (a : BitVec 5) (b : BitVec 5) (p : BitVec 3) (t : BitVec 3)
  /-- VDIV (R88). Lane-wise division. -/
  | vdiv (d : BitVec 5) (a : BitVec 5) (b : BitVec 5) (p : BitVec 3) (t : BitVec 3)
  /-- VSQRT (R88). Lane-wise square root. -/
  | vsqrt (d : BitVec 5) (a : BitVec 5) (p : BitVec 3) (t : BitVec 3)
  /-- VRCP (R89). Faithful reciprocal. -/
  | vrcp (d : BitVec 5) (a : BitVec 5) (p : BitVec 3) (t : BitVec 3)
  /-- VRSQ (R89). Faithful reciprocal square root. -/
  | vrsq (d : BitVec 5) (a : BitVec 5) (p : BitVec 3) (t : BitVec 3)
  /-- VEXP2 (R89). Faithful power of two. -/
  | vexp2 (d : BitVec 5) (a : BitVec 5) (p : BitVec 3) (t : BitVec 3)
  /-- VLOG2 (R89). Faithful base-2 logarithm. -/
  | vlog2 (d : BitVec 5) (a : BitVec 5) (p : BitVec 3) (t : BitVec 3)
  /-- VTANH (R89). Faithful hyperbolic tangent. -/
  | vtanh (d : BitVec 5) (a : BitVec 5) (p : BitVec 3) (t : BitVec 3)
  /-- VCVT (R91). Converts element type with a static rounding mode and part number. -/
  | vcvt (d : BitVec 5) (a : BitVec 5) (k : BitVec 5) (p : BitVec 3) (t : BitVec 3) (u : BitVec 3) (r : BitVec 2)
  /-- VCMP_EQ (R92). Writes a predicate of lanes whose elements are equal. -/
  | vcmpEq (q : BitVec 3) (a : BitVec 5) (b : BitVec 5) (p : BitVec 3) (t : BitVec 3)
  /-- VCMP_NE (R92). Predicate of not-equal lanes. -/
  | vcmpNe (q : BitVec 3) (a : BitVec 5) (b : BitVec 5) (p : BitVec 3) (t : BitVec 3)
  /-- VCMP_LT (R92). Predicate of less-than lanes. -/
  | vcmpLt (q : BitVec 3) (a : BitVec 5) (b : BitVec 5) (p : BitVec 3) (t : BitVec 3)
  /-- VCMP_LE (R92). Predicate of less-or-equal lanes. -/
  | vcmpLe (q : BitVec 3) (a : BitVec 5) (b : BitVec 5) (p : BitVec 3) (t : BitVec 3)
  /-- VCMP_GT (R92). Predicate of greater-than lanes. -/
  | vcmpGt (q : BitVec 3) (a : BitVec 5) (b : BitVec 5) (p : BitVec 3) (t : BitVec 3)
  /-- VCMP_GE (R92). Predicate of greater-or-equal lanes. -/
  | vcmpGe (q : BitVec 3) (a : BitVec 5) (b : BitVec 5) (p : BitVec 3) (t : BitVec 3)
  /-- VCMP_UNORD (R92). Predicate of lanes with a NaN operand. -/
  | vcmpUnord (q : BitVec 3) (a : BitVec 5) (b : BitVec 5) (p : BitVec 3) (t : BitVec 3)
  /-- VCMP_ORD (R92). Predicate of lanes without a NaN operand. -/
  | vcmpOrd (q : BitVec 3) (a : BitVec 5) (b : BitVec 5) (p : BitVec 3) (t : BitVec 3)
  /-- VSEL (R93). Selects each lane from va or vb by a predicate. -/
  | vsel (d : BitVec 5) (a : BitVec 5) (b : BitVec 5) (p : BitVec 3)
  /-- VAND (R94). Bitwise AND of lanes. -/
  | vand (d : BitVec 5) (a : BitVec 5) (b : BitVec 5) (p : BitVec 3)
  /-- VOR (R94). Bitwise OR of lanes. -/
  | vor (d : BitVec 5) (a : BitVec 5) (b : BitVec 5) (p : BitVec 3)
  /-- VXOR (R94). Bitwise XOR of lanes. -/
  | vxor (d : BitVec 5) (a : BitVec 5) (b : BitVec 5) (p : BitVec 3)
  /-- VANDN (R94). va AND NOT vb. -/
  | vandn (d : BitVec 5) (a : BitVec 5) (b : BitVec 5) (p : BitVec 3)
  /-- VNOT (R94). Bitwise NOT of lanes. -/
  | vnot (d : BitVec 5) (a : BitVec 5) (p : BitVec 3)
  /-- VSHL (R95). Per-element shift left by register amounts. -/
  | vshl (d : BitVec 5) (a : BitVec 5) (b : BitVec 5) (p : BitVec 3) (t : BitVec 3)
  /-- VSHR (R95). Per-element logical shift right by register amounts. -/
  | vshr (d : BitVec 5) (a : BitVec 5) (b : BitVec 5) (p : BitVec 3) (t : BitVec 3)
  /-- VSAR (R95). Per-element arithmetic shift right by register amounts. -/
  | vsar (d : BitVec 5) (a : BitVec 5) (b : BitVec 5) (p : BitVec 3) (t : BitVec 3)
  /-- VSHLI (R95). Shift left by an immediate, unpredicated. -/
  | vshli (d : BitVec 5) (a : BitVec 5) (c : BitVec 6) (t : BitVec 3)
  /-- VSHRI (R95). Logical shift right by an immediate. -/
  | vshri (d : BitVec 5) (a : BitVec 5) (c : BitVec 6) (t : BitVec 3)
  /-- VSARI (R95). Arithmetic shift right by an immediate. -/
  | vsari (d : BitVec 5) (a : BitVec 5) (c : BitVec 6) (t : BitVec 3)
  /-- VADDS (R96). Saturating add. -/
  | vadds (d : BitVec 5) (a : BitVec 5) (b : BitVec 5) (p : BitVec 3) (t : BitVec 3)
  /-- VSUBS (R96). Saturating subtract. -/
  | vsubs (d : BitVec 5) (a : BitVec 5) (b : BitVec 5) (p : BitVec 3) (t : BitVec 3)
  /-- VABS (R97). Absolute value. -/
  | vabs (d : BitVec 5) (a : BitVec 5) (p : BitVec 3) (t : BitVec 3)
  /-- VNEG (R97). Negation. -/
  | vneg (d : BitVec 5) (a : BitVec 5) (p : BitVec 3) (t : BitVec 3)
  /-- VCLZ (R97). Leading zero count per element. -/
  | vclz (d : BitVec 5) (a : BitVec 5) (p : BitVec 3) (t : BitVec 3)
  /-- VPOPC (R97). Set-bit count per element. -/
  | vpopc (d : BitVec 5) (a : BitVec 5) (p : BitVec 3) (t : BitVec 3)
  /-- VMOV (R98). Copies on lanes of va into vd. -/
  | vmov (d : BitVec 5) (a : BitVec 5) (p : BitVec 3)
  /-- VBCAST (R99). Broadcasts a scalar into every element of the on lanes. -/
  | vbcast (d : BitVec 5) (sf : BitVec 5) (p : BitVec 3) (t : BitVec 3)
  /-- VEXT (R100). Extracts one element into a scalar. -/
  | vext (d : BitVec 5) (a : BitVec 5) (b : BitVec 5) (t : BitVec 3)
  /-- VINS (R100). Inserts a scalar into one element. -/
  | vins (d : BitVec 5) (sf : BitVec 5) (b : BitVec 5) (p : BitVec 3) (t : BitVec 3)
  /-- VIMM (R101). Writes an immediate constant into every element of every lane. -/
  | vimm (d : BitVec 5) (i : BitVec 8) (t : BitVec 3)
  /-- VRED_ADD (R102). Fixed-tree sum over a lane cluster or the core. -/
  | vredAdd (d : BitVec 5) (a : BitVec 5) (p : BitVec 3) (t : BitVec 3) (sf : BitVec 1)
  /-- VRED_MIN (R102). Fixed-tree minimum reduction. -/
  | vredMin (d : BitVec 5) (a : BitVec 5) (p : BitVec 3) (t : BitVec 3) (sf : BitVec 1)
  /-- VRED_MAX (R102). Fixed-tree maximum reduction. -/
  | vredMax (d : BitVec 5) (a : BitVec 5) (p : BitVec 3) (t : BitVec 3) (sf : BitVec 1)
  /-- VSHUF (R103). Permutes whole lanes across the core by an index vector. -/
  | vshuf (d : BitVec 5) (a : BitVec 5) (b : BitVec 5) (p : BitVec 3)
  /-- VPAT (R105). Applies a stored pattern, optionally swapping pattern banks first. -/
  | vpat (d : BitVec 5) (a : BitVec 5) (n : BitVec 5) (p : BitVec 3) (w : BitVec 1) (h : BitVec 1)
  /-- XCOPY (R106). Copies one lane cluster's lanes into the lane clusters of a mask. -/
  | xcopy (d : BitVec 5) (a : BitVec 5) (b : BitVec 5) (p : BitVec 3) (c : BitVec 3)
  /-- VTOPK (R107). Ranks the k best values of a group with their indices. -/
  | vtopk (d : BitVec 5) (a : BitVec 5) (p : BitVec 3) (t : BitVec 3) (sf : BitVec 1) (k : BitVec 3)
  /-- VIOTA (R108). Writes each on lane's number. -/
  | viota (d : BitVec 5) (p : BitVec 3) (t : BitVec 3)
  /-- VIOTA_CNT (R108). Writes the count of set predicate bits below each lane. -/
  | viotaCnt (d : BitVec 5) (p : BitVec 3) (t : BitVec 3)
  /-- PAND (R109). Predicate AND. -/
  | pand (d : BitVec 5) (a : BitVec 5) (b : BitVec 5)
  /-- POR (R109). Predicate OR. -/
  | por (d : BitVec 5) (a : BitVec 5) (b : BitVec 5)
  /-- PXOR (R109). Predicate XOR. -/
  | pxor (d : BitVec 5) (a : BitVec 5) (b : BitVec 5)
  /-- PNOT (R109). Predicate NOT. -/
  | pnot (d : BitVec 5) (a : BitVec 5)
  /-- PMOV (R109). Predicate copy. -/
  | pmov (d : BitVec 5) (a : BitVec 5)
  /-- PCNT (R110). Counts set bits of a masked predicate into a scalar. -/
  | pcnt (d : BitVec 5) (a : BitVec 5) (p : BitVec 3)
  /-- PFIRST (R110). Finds the lowest set bit of a masked predicate. -/
  | pfirst (d : BitVec 5) (a : BitVec 5) (p : BitVec 3)
  /-- RQPOP (R111). Pops the oldest result-queue entry into a vector, optionally its valid bits into a predicate. -/
  | rqpop (d : BitVec 5) (a : BitVec 5) (p : BitVec 3) (f : BitVec 1) (k : BitVec 3)
  /-- TMMA_WS (R189). Matrix multiply-accumulate with B from weight SRAM. -/
  | tmmaWs (t : BitVec 4) (a : BitVec 4) (b : BitVec 4) (f : BitVec 2) (z : BitVec 1) (sf : BitVec 1)
  /-- TMMA_GR (R189). Matrix multiply-accumulate with B expanded by the Grinder. -/
  | tmmaGr (t : BitVec 4) (a : BitVec 4) (b : BitVec 4) (f : BitVec 2) (z : BitVec 1) (sf : BitVec 1)
  /-- TMMA_CS (R189). Matrix multiply-accumulate with B from a staging buffer. -/
  | tmmaCs (t : BitVec 4) (a : BitVec 4) (b : BitVec 4) (f : BitVec 2) (z : BitVec 1) (sf : BitVec 1)
  /-- TZERO (R192). Zeros an accumulator and sets its KIND, optionally speculatively. -/
  | tzero (t : BitVec 4) (k : BitVec 1) (sf : BitVec 1)
  /-- TLDC (R193). Loads an accumulator from a cluster-SRAM tile. -/
  | tldc (t : BitVec 4) (d : BitVec 5) (sf : BitVec 1)
  /-- TSTC (R194). Stores an accumulator to a cluster-SRAM tile. -/
  | tstc (t : BitVec 4) (d : BitVec 5)
  /-- TDRAIN_F (R196). Drains an accumulator as FP32 with optional bias and ReLU into a result queue. -/
  | tdrainF (t : BitVec 4) (d : BitVec 5) (a : BitVec 5) (r : BitVec 1) (b : BitVec 1)
  /-- TDRAIN_BF (R196). Drains an accumulator as BF16 into a result queue. -/
  | tdrainBf (t : BitVec 4) (d : BitVec 5) (a : BitVec 5) (r : BitVec 1) (b : BitVec 1)
  /-- TDRAIN_RAW (R196). Drains the raw 32-bit accumulator elements into a result queue. -/
  | tdrainRaw (t : BitVec 4) (d : BitVec 5)
  /-- TSCL_A (R184). Loads A block scales into a scale register half. -/
  | tsclA (t : BitVec 4) (d : BitVec 5) (k : BitVec 10) (g : BitVec 5) (h : BitVec 1)
  /-- TSCL_B (R184). Loads B block scales into a scale register. -/
  | tsclB (t : BitVec 4) (d : BitVec 5) (k : BitVec 10) (g : BitVec 5)
  /-- TLDB (R188). Loads a B staging buffer from cluster SRAM. -/
  | tldb (t : BitVec 4) (d : BitVec 5)
  /-- SETFMT (R185). Writes a format profile register. -/
  | setfmt (t : BitVec 4) (a : BitVec 5)
  /-- TDLD (R186). Loads a tile descriptor from cluster SRAM. -/
  | tdld (t : BitVec 4) (d : BitVec 5) (i : BitVec 17)
  /-- TDSET_BASE (R187). Sets a descriptor's BASE. -/
  | tdsetBase (t : BitVec 4) (a : BitVec 5)
  /-- TDSET_SHAPE (R187). Sets a descriptor's ROWS and COLS. -/
  | tdsetShape (t : BitVec 4) (a : BitVec 5)
  /-- TDSET_LAYOUT (R187). Sets STRIDE, FMT, FLAGS and DSHIFT. -/
  | tdsetLayout (t : BitVec 4) (a : BitVec 5)
  /-- TDSET_SBASE (R187). Sets a descriptor's scale base. -/
  | tdsetSbase (t : BitVec 4) (a : BitVec 5)
  /-- TDSET_SUB (R187). Builds a sub-tile descriptor. -/
  | tdsetSub (t : BitVec 4) (d : BitVec 5) (a : BitVec 5)
  /-- TDSET_MOV (R187). Copies a descriptor register. -/
  | tdsetMov (t : BitVec 4) (d : BitVec 5)
  /-- TSEND (R256). Sends a tile word from cluster SRAM to the cluster or die sequencer. -/
  | tsend (t : BitVec 4) (a : BitVec 5) (b : BitVec 5)
  /-- XSPEC (R212). Allocates the lowest free speculation tag and makes it current. -/
  | xspec (d : BitVec 5)
  /-- XCFM (R212). Confirms a tag once its work is done, clearing tentative marks. -/
  | xcfm (a : BitVec 5)
  /-- XSQ (R212). Squashes a tag, zeroing its tentative accumulators and discarding its faults. -/
  | xsq (a : BitVec 5)
  /-- XTAGQ (R212). Reads a tag's state word or stored FADDR. -/
  | xtagq (d : BitVec 5) (a : BitVec 5) (f : BitVec 1)
  /-- XPRED (R216). Reads predictor entries for up to 32 tokens. -/
  | xpred (t : BitVec 4) (d : BitVec 5) (a : BitVec 5) (b : BitVec 5) (k : BitVec 2)
  /-- XTRAIN (R217). Trains predictor entries with the true routes. -/
  | xtrain (t : BitVec 4) (a : BitVec 5) (b : BitVec 5)
  /-- XRES (R220). Resolves one expert's tentative rows into a commit accumulator. -/
  | xres (t : BitVec 4) (d : BitVec 5) (a : BitVec 5) (b : BitVec 5) (f : BitVec 3) (g : BitVec 3)
  /-- XMISS (R221). Lists true but unpredicted token-expert pairs. -/
  | xmiss (t : BitVec 4) (d : BitVec 5) (a : BitVec 5) (b : BitVec 5)
  /-- XLOOK (R224). Looks up an expert key in the residency table and ages entries. -/
  | xlook (d : BitVec 5) (a : BitVec 5)
  /-- XINS (R225). Inserts a residency entry. -/
  | xins (a : BitVec 5) (b : BitVec 5)
  /-- XINV (R225). Invalidates a residency entry. -/
  | xinv (a : BitVec 5)
  /-- XRDT (R225). Reads a residency entry word. -/
  | xrdt (d : BitVec 5) (a : BitVec 5)
  /-- XPIN (R225). Sets or clears a residency entry's PIN. -/
  | xpin (a : BitVec 5) (b : BitVec 5)
  /-- SEEDSCAN (R201). Searches seeds for the best one-basis fit of a BF16 target. -/
  | seedscan (t : BitVec 4) (d : BitVec 5) (a : BitVec 5) (b : BitVec 5)
  /-- GRX (R202). Expands a seeded tile into a BF16 tile in cluster SRAM. -/
  | grx (t : BitVec 4) (d : BitVec 5)
  /-- TMOV (R195). Copies one accumulator into another. -/
  | tmov (t : BitVec 4) (d : BitVec 5)
  /-- TACC (R195). Adds one accumulator into another element by element. -/
  | tacc (t : BitVec 4) (d : BitVec 5) (sf : BitVec 1)
  /-- LD (R152). Scalar load at handle base plus scaled offset. -/
  | ld (d : BitVec 5) (h : BitVec 4) (c : BitVec 4) (z : BitVec 3) (o : BitVec 10)
  /-- ST (R152). Scalar store at handle base plus scaled offset. -/
  | st (d : BitVec 5) (h : BitVec 4) (c : BitVec 4) (z : BitVec 3) (o : BitVec 10)
  /-- LDX (R152). Scalar load at handle base plus register offset. -/
  | ldx (d : BitVec 5) (h : BitVec 4) (c : BitVec 4) (z : BitVec 3) (b : BitVec 5)
  /-- STX (R152). Scalar store at handle base plus register offset. -/
  | stx (d : BitVec 5) (h : BitVec 4) (c : BitVec 4) (z : BitVec 3) (b : BitVec 5)
  /-- LDA (R153). Acquire load of a scope. -/
  | lda (d : BitVec 5) (h : BitVec 4) (c : BitVec 4) (z : BitVec 3) (sf : BitVec 3) (o : BitVec 7)
  /-- STL (R153). Release store of a scope. -/
  | stl (d : BitVec 5) (h : BitVec 4) (c : BitVec 4) (z : BitVec 3) (sf : BitVec 3) (o : BitVec 7)
  /-- VLD (R154). Contiguous vector load. -/
  | vld (d : BitVec 5) (h : BitVec 4) (c : BitVec 4) (z : BitVec 3) (o : BitVec 10)
  /-- VST (R154). Contiguous vector store. -/
  | vst (d : BitVec 5) (h : BitVec 4) (c : BitVec 4) (z : BitVec 3) (o : BitVec 10)
  /-- VLDS (R154). Strided vector load. -/
  | vlds (d : BitVec 5) (h : BitVec 4) (c : BitVec 4) (z : BitVec 3) (b : BitVec 5)
  /-- VSTS (R154). Strided vector store. -/
  | vsts (d : BitVec 5) (h : BitVec 4) (c : BitVec 4) (z : BitVec 3) (b : BitVec 5)
  /-- VGATH (R154). Gather load by per-lane offsets. -/
  | vgath (d : BitVec 5) (h : BitVec 4) (c : BitVec 4) (z : BitVec 3) (b : BitVec 5)
  /-- VSCAT (R154). Scatter store by per-lane offsets. -/
  | vscat (d : BitVec 5) (h : BitVec 4) (c : BitVec 4) (z : BitVec 3) (b : BitVec 5)
  /-- TRANS (R146). Translates a VA into a handle for its page. -/
  | trans (d : BitVec 5) (a : BitVec 5)
  /-- HCHK (R148). Tests whether a handle is valid. -/
  | hchk (d : BitVec 5) (a : BitVec 5)
  /-- HREL (R148). Invalidates a handle. -/
  | hrel (a : BitVec 5)
  /-- HMOV (R148). Copies a handle. -/
  | hmov (d : BitVec 5) (a : BitVec 5)
  /-- HINFO (R148). Reads a handle's description word. -/
  | hinfo (d : BitVec 5) (a : BitVec 5)
  /-- FENCE (R155). Orders later masked-class accesses after earlier ones at a scope. -/
  | fence (sf : BitVec 3) (i : BitVec 16)
  /-- XDFI (R156). Issues a cross-die fence and returns a token. -/
  | xdfi (d : BitVec 5) (i : BitVec 16)
  /-- XDFW (R156). Waits until a token's cross-die stores are acknowledged and frees it. -/
  | xdfw (a : BitVec 5)
  /-- QPUSH (R157). Pushes a scalar as lane 0 of a channel-queue entry. -/
  | qpush (n : BitVec 5) (a : BitVec 5)
  /-- QPOP (R157). Pops a channel-queue entry's lane 0 into a scalar. -/
  | qpop (d : BitVec 5) (n : BitVec 5)
  /-- VQPUSH (R157). Pushes a whole vector onto a channel queue. -/
  | vqpush (n : BitVec 5) (a : BitVec 5) (k : BitVec 5) (f : BitVec 1)
  /-- VQPOP (R157). Pops a whole channel-queue entry into a vector. -/
  | vqpop (d : BitVec 5) (n : BitVec 5) (k : BitVec 5) (f : BitVec 1)
  /-- QSTAT (R158). Reads a channel queue's status word. -/
  | qstat (d : BitVec 5) (n : BitVec 5)
  /-- QCFG (R159). Binds or unbinds q6 or q7 to a core of the die. -/
  | qcfg (n : BitVec 5) (a : BitVec 5)
  /-- STRQ (R160). Pops a result-queue entry and stores it to memory. -/
  | strq (n : BitVec 5) (h : BitVec 5) (b : BitVec 5) (v : BitVec 1) (z : BitVec 2)
  /-- QRQ (R161). Moves a result-queue entry onto a channel send queue. -/
  | qrq (m : BitVec 5) (n : BitVec 5)
  /-- CPY (R162). Puts a copy descriptor into a copy queue. -/
  | cpy (d : BitVec 5) (a : BitVec 5) (b : BitVec 5) (n : BitVec 2)
  /-- CPYA (R166). Puts an accumulate-on-write copy descriptor into a copy queue. -/
  | cpya (d : BitVec 5) (a : BitVec 5) (b : BitVec 5) (n : BitVec 2)
  /-- TLWAIT (R170). Waits until a timeline counter reaches a value and acquires. -/
  | tlwait (a : BitVec 5) (n : BitVec 5)
  /-- TLRD (R170). Reads a timeline counter without acquiring. -/
  | tlrd (d : BitVec 5) (n : BitVec 5)
  /-- FLADD_ARR (R281). Arrives at a flag word: COUNT plus 1, as a release. -/
  | fladdArr (a : BitVec 5) (sf : BitVec 3)
  /-- FLADD_DROP (R281). Arrive-and-drop: EXPECTED minus 1. -/
  | fladdDrop (a : BitVec 5) (sf : BitVec 3)
  /-- FLADD_ADD (R281). Adds an operand to a flag's COUNT. -/
  | fladdAdd (a : BitVec 5) (b : BitVec 5) (sf : BitVec 3)
  /-- FLSET (R282). Multicast-writes a value into a flag of masked cores and dies. -/
  | flset (d : BitVec 5) (a : BitVec 5) (b : BitVec 5) (sf : BitVec 3) (n : BitVec 6)
  /-- FLWAIT_EQ (R283). Waits until a flag word equals a value. -/
  | flwaitEq (d : BitVec 5) (a : BitVec 5) (b : BitVec 5) (sf : BitVec 3)
  /-- FLWAIT_GE (R283). Waits until a flag's COUNT reaches a value. -/
  | flwaitGe (d : BitVec 5) (a : BitVec 5) (b : BitVec 5) (sf : BitVec 3)
  /-- FLWAIT_BAR (R283). Waits until a flag word is complete. -/
  | flwaitBar (d : BitVec 5) (a : BitVec 5) (sf : BitVec 3)
  /-- NBPV (R287). Posts a value to a notice-board slot and returns the view. -/
  | nbpv (d : BitVec 5) (a : BitVec 5) (b : BitVec 5) (sf : BitVec 3) (k : BitVec 3)
  /-- NBRD (R288). Reads a board slot's value. -/
  | nbrd (d : BitVec 5) (a : BitVec 5) (sf : BitVec 3)
  /-- NBRD_ST (R288). Reads a board slot's status word. -/
  | nbrdSt (d : BitVec 5) (a : BitVec 5) (sf : BitVec 3)
  /-- NBRD_MASK (R288). Reads a board's posted mask into a vm register. -/
  | nbrdMask (k : BitVec 5) (a : BitVec 5) (sf : BitVec 3)
  /-- NBRD_VM (R288). Reads 64 bits of a vm register into a scalar. -/
  | nbrdVm (d : BitVec 5) (k : BitVec 5) (q : BitVec 2)
  /-- NBCLR (R289). Empties a notice board, keeping its level. -/
  | nbclr (a : BitVec 5)
  /-- ISTORE (R172). Writes one slot word into the idle overlay bank. -/
  | istore (a : BitVec 5) (b : BitVec 5)
  /-- IFENCE (R172). Waits until the context's istore writes have landed. -/
  | ifence
  /-- COLL_AR (R367). Starts an all-reduce on a group. -/
  | collAr (d : BitVec 5) (a : BitVec 5) (b : BitVec 5) (w : BitVec 1) (o : BitVec 2)
  /-- COLL_RS (R367). Starts a reduce-scatter on a group. -/
  | collRs (d : BitVec 5) (a : BitVec 5) (b : BitVec 5) (w : BitVec 1) (o : BitVec 2)
  /-- COLL_AG (R367). Starts an all-gather on a group. -/
  | collAg (d : BitVec 5) (a : BitVec 5) (b : BitVec 5)
  /-- COLL_BC (R367). Starts a broadcast on a group. -/
  | collBc (d : BitVec 5) (a : BitVec 5) (b : BitVec 5)
  /-- COLL_A2A (R367). Starts an all-to-all on a group. -/
  | collA2a (d : BitVec 5) (a : BitVec 5) (b : BitVec 5)
  /-- GRP_MK (R364). Creates a group at the issuing die and reserves its staging. -/
  | grpMk (d : BitVec 5) (a : BitVec 5) (b : BitVec 5)
  /-- GRP_FREE (R365). Ends a group at this die once idle and raises its generation. -/
  | grpFree (a : BitVec 5)
  /-- GRP_Q (R365). Reads a group's status word. -/
  | grpQ (d : BitVec 5) (a : BitVec 5)
  /-- DISCARD (R173). Declares or removes a discardable cluster-SRAM region. -/
  | discard (a : BitVec 5) (b : BitVec 5) (i : BitVec 4)
  /-- EVRD (R174). Reads an event counter. -/
  | evrd (d : BitVec 5) (a : BitVec 5)
  /-- SYS_SAVE (R175). Saves a dormant or frozen context of the core to a save area. -/
  | sysSave (a : BitVec 5) (b : BitVec 5)
  /-- SYS_REST (R175). Restores a context of the core from a save area. -/
  | sysRest (a : BitVec 5) (b : BitVec 5)
  /-- SYS_WORLD (R175). Sets the core's world for its next start. -/
  | sysWorld (a : BitVec 5)
  /-- SYS_SHOOT (R175). Shoots down a page's translations and handles domain-wide. -/
  | sysShoot (a : BitVec 5)
  /-- TMM (R237). Tile matrix multiply, split down the hierarchy. -/
  | tmm (w : TileWord)
  /-- TEW (R238). Tile elementwise binary operation. -/
  | tew (w : TileWord)
  /-- TEU (R238). Tile elementwise unary operation. -/
  | teu (w : TileWord)
  /-- TCVT (R238). Tile format conversion. -/
  | tcvt (w : TileWord)
  /-- TCOPY (R238). Tile copy, plain or transposed. -/
  | tcopy (w : TileWord)
  /-- TRED (R239). Tile reduction along one axis. -/
  | tred (w : TileWord)
  /-- TTOPK (R240). Ranks the k best entries of each row of a tile. -/
  | ttopk (w : TileWord)
  /-- TCALL (R241). Starts kernel children on cores with sub-descriptors. -/
  | tcall (w : TileWord)
  /-- TSYNC (R242). Holds later words until earlier words complete everywhere below. -/
  | tsync (w : TileWord)
  /-- TFENCE (R242). Holds later words at each die until its earlier words complete. -/
  | tfence (w : TileWord)
  /-- TWAIT (R242). Waits until a memory word meets a condition, then acquires. -/
  | twait (w : TileWord)
  /-- TCOLL (R243). Runs a collective on each selected die at level 5. -/
  | tcoll (w : TileWord)
  /-- TJMP (R244). Sets the stream's next word address. -/
  | tjmp (w : TileWord)
  /-- TLOOP (R244). Counts a stream loop counter and branches back. -/
  | tloop (w : TileWord)
  /-- TEND (R244). Ends fetch of the stream; it finishes once earlier words complete. -/
  | tend (w : TileWord)
  /-- TDMSET (R244). Writes half of a stream die-mask register. -/
  | tdmset (w : TileWord)
  /-- TSTAG (R244). Leaves a per-region stagger pending for the next word sent to dies. -/
  | tstag (w : TileWord)
  /-- TSIG (R244). Posts a signal to the host once earlier words complete. -/
  | tsig (w : TileWord)
  /-- DIE_RESET (R76). A die reset sets contexts dormant, clears state and runs the boot ROM. -/
  | dieReset (die : Nat)
  /-- BOOTCTL_GO (R339). Write of BOOTCTL.GO lets boot proceed. -/
  | bootctlGo (die : Nat) (w : Access)
  /-- BOOT_ROM_RUN (R337). Each die's ROM brings up links, loads and checks stage images and extends measurements. -/
  | bootRomRun (die : Nat)
  /-- BOOT_COMPLETION (R337). Conductor stage 2 gathers BOOTSTAT of every die, writes DPRESSET and enables the Pour. -/
  | bootCompletion (pan : Nat)
  /-- DPRESSET_WRITE (R339). One write per reset sets the present-die mask. -/
  | dpressetWrite (die : Nat) (w : Access)
  /-- DOMCFG_WRITE (R341). Sets the domain shape and position, brings up optical links and enables the conductor's Pour. -/
  | domcfgWrite (die : Nat) (w : Access)
  /-- MSEXT_EXTEND (R339). Writing the last word of MSEXTj extends measurement slot j. -/
  | msextExtend (die : Nat) (j : Nat) (w : Access)
  /-- WRLOCK_WRITE (R336). Locks the world-region, CEWORLD and FPWORLD registers until reset. -/
  | wrlockWrite (die : Nat) (w : Access)
  /-- ATTCTL_GO (R342). Starts an attestation report over the current nonce. -/
  | attctlGo (die : Nat) (w : Access)
  /-- ATTEST_REPORT_DONE (R342). The signed report lands in ATTBUF, BUSY clears, DONE sets and vector 12 is raised. -/
  | attestReportDone (die : Nat)
  /-- HPOST_WRITE (R345). Host posts a HOST_SIGNAL frame to a die's ring. -/
  | hpostWrite (die : Nat) (w : Access)
  /-- HOST_ACCESS (R346). A host read or write through BAR0 or BAR2 with its world, size and ordering rules. -/
  | hostAccess (die : Nat) (q : HostReq)
  /-- I3C_MANAGEMENT_MESSAGE (R348). A board-controller MCTP message over I3C reads or writes the reachable registers. -/
  | i3cManagementMessage (die : Nat) (q : MgmtReq)
  /-- REGISTER_WRITE (R4). Write of a control register with no row of its own, by its access codes. -/
  | registerWrite (addr : Nat) (w : Access)
  /-- STRDB_START (R304). Doorbell START puts an idle or finished stream into RUN. -/
  | strdbStart (pan : Nat) (k : Nat) (w : Access)
  /-- STRDB_GRACEFUL (R319). Doorbell GRACEFUL makes a running stream DRAINING. -/
  | strdbGraceful (pan : Nat) (k : Nat) (w : Access)
  /-- STRDB_HARD (R320). Doorbell HARD stops the stream's work and saves it. -/
  | strdbHard (pan : Nat) (k : Nat) (w : Access)
  /-- STRDB_RESUME (R328). Doorbell RESUME restores a saved stream or resumes a trapped one. -/
  | strdbResume (pan : Nat) (k : Nat) (w : Access)
  /-- STRDB_ABORT (R304). Doorbell ABORT makes the stream IDLE. -/
  | strdbAbort (pan : Nat) (k : Nat) (w : Access)
  /-- CXCMD_RESUME (R313). Makes a frozen context ready to present its bundle again. -/
  | cxcmdResume (core : Nat) (w : Access)
  /-- CXCMD_RETIRE (R313). Makes a frozen context dormant. -/
  | cxcmdRetire (core : Nat) (w : Access)
  /-- CXCMD_RESUME_AT (R313). Makes a frozen context ready at a given bundle address. -/
  | cxcmdResumeAt (core : Nat) (w : Access)
  /-- TURETRY (R317). Releases a fault entry so every waiter presents again. -/
  | turetry (die : Nat) (w : Access)
  /-- MIGCTL_GO (R377). Starts migration of a page. -/
  | migctlGo (die : Nat) (w : Access)
  /-- MIGCTL_ABORT (R378). Aborts a migration in the copying phase. -/
  | migctlAbort (die : Nat) (w : Access)
  /-- MIGCTL_FIN (R378). Ends forwarding so the old frame is ordinary memory. -/
  | migctlFin (die : Nat) (w : Access)
  /-- NBCFG_WRITE (R285). Configures a notice board and empties it. -/
  | nbcfgWrite (die : Nat) (b : Nat) (w : Access)
  /-- TRRING_WRITE (R310). Sets a trap ring and clears HEAD and TAIL. -/
  | trringWrite (die : Nat) (world : Nat) (w : Access)
  /-- ISSUE_STAGE_SELECT (R116). The issue stage picks a context after a block, freeze, yield, stop or trap. -/
  | issueStageSelect (core : Nat)
  /-- BLOCK_CLEAR (R117). A blocking condition clears and the context becomes ready. -/
  | blockClear (ctx : Nat)
  /-- CONTEXT_START (R114). A waiting tcall child or handler start takes a context that became dormant. -/
  | contextStart (core : Nat)
  /-- EXPOSED_RESULT_LAND (R119). An exposed result is written when the issue count reaches n + L, with its flags and log. -/
  | exposedResultLand (ctx : Nat)
  /-- LONG_LOAD_DATA (R151). Long-load data arrives, writes the register and clears its pending bit. -/
  | longLoadData (ctx : Nat) (n : Nat)
  /-- TRANSLATION_WALK_DONE (R316). A page walk completes, releasing or faulting its waiters. -/
  | translationWalkDone (die : Nat) (n : Nat)
  /-- SHOOTDOWN_COMPLETE (R149). A shootdown completes once affected accesses have performed. -/
  | shootdownComplete (n : Nat)
  /-- STORE_BUFFER_DRAIN (R267). The head entry of a class queue leaves toward its home when credit and release conditions allow. -/
  | storeBufferDrain (clu : Nat) (cls : Nat)
  /-- WCB_FLUSH_TIMEOUT (R293). A write-combining entry is flushed by read-modify-write after WCBWAIT. -/
  | wcbFlushTimeout (clu : Nat) (n : Nat)
  /-- ISTORE_LAND (R172). An istore write reaches the idle bank. -/
  | istoreLand (core : Nat)
  /-- ACC_WRITE_COMPLETE (R177). The last element of an accumulator write lands and the busy mark clears. -/
  | accWriteComplete (core : Nat) (n : Nat)
  /-- STAGING_BUFFER_READY (R188). A tldb's bytes are in place and the B buffer leaves busy. -/
  | stagingBufferReady (core : Nat) (b : Nat)
  /-- SEEDSCAN_RESULT (R201). The seedscan result is written after 32c + 20 cycles. -/
  | seedscanResult (core : Nat)
  /-- COPY_COMMAND_START (R384). A queued copy command starts, translating and checking before moving bytes. -/
  | copyCommandStart (core : Nat) (k : Nat)
  /-- COPY_TRANSFER (R384). An engine starts one transfer of up to 64 bytes for a running command. -/
  | copyTransfer (clu : Nat) (k : Nat)
  /-- COPY_COMMAND_COMPLETE (R168). A command writes STAT, advances its timeline and may start a handler or deliver or defer a fault. -/
  | copyCommandComplete (core : Nat) (k : Nat) (n : Nat)
  /-- TRAP_FRAME_WRITE (R312). A frame leaves the trap store into its ring and starts a handler context. -/
  | trapFrameWrite (die : Nat)
  /-- CORE_QUIET (R331). A core idle for 3,000 cycles becomes quiet. -/
  | coreQuiet (core : Nat)
  /-- ADMISSION_STEP (R331). At each 200 ns step boundary the region admits waiting cores up to its limit. -/
  | admissionStep (pan : Nat) (region : Nat)
  /-- STAGGER_HOLD_END (R332). A staggered word's hold ends at a die and the word starts. -/
  | staggerHoldEnd (die : Nat)
  /-- DROOP_TRIP (R333). A droop trips the monitor and sets DTHR. -/
  | droopTrip (pan : Nat) (region : Nat) (mv : Nat)
  /-- DROOP_HOLD_EXPIRE (R333). DTHR clears after its hold time. -/
  | droopHoldExpire (pan : Nat) (region : Nat)
  /-- THERMAL_THRESHOLD (R333). Region temperature crosses THI, 110 C or TLO and sets or clears the thermal throttle. -/
  | thermalThreshold (pan : Nat) (region : Nat) (temp : Nat)
  /-- POWER_STEP_LIMIT (R334). A measured current rise from ungated units exceeds the step limit. -/
  | powerStepLimit (pan : Nat) (region : Nat) (rise : Nat)
  /-- POUR_WORD_FETCH (R309). A stream's tile-word fetch returns, or faults with STREAM_FETCH. -/
  | pourWordFetch (pan : Nat) (k : Nat)
  /-- POUR_DISPATCH (R305). The Pour dispatches one word of the stream whose turn it is. -/
  | pourDispatch (pan : Nat)
  /-- STAGING_RESERVE (R251). A waiting word's staging reservation fits and its children may start. -/
  | stagingReserve (unit : UnitId) (n : Nat)
  /-- CHILD_START (R259). A unit starts or aborts a child word when the child unit is free. -/
  | childStart (unit : UnitId) (n : Nat) (child : Nat)
  /-- PULL_TICKET (R249). A free child unit takes the next ticket of a pull split. -/
  | pullTicket (unit : UnitId) (n : Nat) (child : Nat)
  /-- LEAF_WORK (R253). A core's tile unit runs a native step or element work of a leaf word. -/
  | leafWork (core : Nat)
  /-- CHILD_COMPLETE (R259). A child's status returns and is aggregated into its parent. -/
  | childComplete (unit : UnitId) (n : Nat) (child : Nat)
  /-- WORD_COMPLETE_AT_POUR (R261). A word completes at the Pour; a fault traps the stream. -/
  | wordCompleteAtPour (pan : Nat) (k : Nat) (n : Nat)
  /-- TSEND_COMPLETION (R257). A sent word completes, writing its record and adding to the sender's flag. -/
  | tsendCompletion (unit : UnitId) (n : Nat)
  /-- TWAIT_POLL (R242). A twait reader re-reads its word within 256 cycles. -/
  | twaitPoll (pan : Nat) (k : Nat)
  /-- WATCHDOG_EXPIRE (R308). No word of the stream completes for LIMIT microseconds and the stream traps. -/
  | watchdogExpire (pan : Nat) (k : Nat)
  /-- DRAIN_COMPLETE (R319). A draining stream's words and contexts finish, and it is saved. -/
  | drainComplete (pan : Nat) (k : Nat)
  /-- GRACEFUL_ESCALATE (R319). A graceful pre-emption not done within 200 us escalates to a hard save. -/
  | gracefulEscalate (pan : Nat) (k : Nat)
  /-- SAVE_COMPLETE (R320). The stream's state is written to its save area and it becomes SAVED. -/
  | saveComplete (pan : Nat) (k : Nat)
  /-- RESTORE_CORE (R328). A core is restored once it holds no started context, and the reply log is replayed. -/
  | restoreCore (core : Nat)
  /-- FLAG_APPLY (R280). The flag port applies one update to a flag word. -/
  | flagApply (core : Nat)
  /-- BOARD_OP_APPLY (R290). A board's home applies one post, read or clear in its order. -/
  | boardOpApply (die : Nat)
  /-- COLL_TOKEN_PASS (R371). The collective's completion token passes a member, which completes on the second pass. -/
  | collTokenPass (die : Nat) (g : Nat)
  /-- PACKET_FORWARD (R354). A router forwards a transit packet one hop by dimension order and VC rules. -/
  | packetForward (die : Nat) (n : Nat)
  /-- FLIT_CRC_FAIL (R355). A flit fails its link CRC and is sent again. `at_` is the port plus 6 times the flit's number in
  its packet. -/
  | flitCrcFail (die : Nat) (at_ : Nat)
  /-- LOAD_REQUEST (R359). A load request executes at its target in sequence order. -/
  | loadRequest (die : Nat) (n : Nat)
  /-- STORE_REQUEST (R359). A store request executes once at its target and is acknowledged. -/
  | storeRequest (die : Nat) (n : Nat)
  /-- ATOMIC_REQUEST (R360). An atomic executes once at its target and its old value is saved. -/
  | atomicRequest (die : Nat) (n : Nat)
  /-- READ_REPLY (R357). Read data or an atomic's old value arrives at the source. -/
  | readReply (die : Nat) (n : Nat)
  /-- ACKNOWLEDGEMENT (R357). A store acknowledgement arrives and the buffer entry leaves. -/
  | acknowledgement (die : Nat) (n : Nat)
  /-- NAK (R360). A NAK delivers a cause to the request's issuer. -/
  | nak (die : Nat) (n : Nat)
  /-- QUEUE_ENTRY_HALF (R358). Half of a channel-queue entry arrives at the neighbour's receive store. -/
  | queueEntryHalf (die : Nat) (n : Nat)
  /-- COLLECTIVE_CHUNK (R369). A ring sequencer receives a chunk, adds or forwards it, or poisons on disagreement. -/
  | collectiveChunk (die : Nat) (n : Nat)
  /-- SELF_DESCRIBING (R373). A self-describing packet pops its route and op lists at a router. -/
  | selfDescribing (die : Nat) (n : Nat)
  /-- FLAG_OPERATION (R357). A flag operation from another die arrives at the flag port. -/
  | flagOperation (die : Nat) (n : Nat)
  /-- BOARD_OPERATION (R357). A board operation arrives at the board's home die. -/
  | boardOperation (die : Nat) (n : Nat)
  /-- BOARD_REPLY (R287). A board reply arrives and writes vm and s[d], or is refused. -/
  | boardReply (die : Nat) (n : Nat)
  /-- MANAGEMENT (R357). A management packet carries an attestation request. -/
  | management (die : Nat) (n : Nat)
  /-- CREDIT_GRANT (R366). A member grants chunk credit from its group reservation. -/
  | creditGrant (die : Nat) (n : Nat)
  /-- RESET_NOTICE (R362). A target ends the source's pending requests, empties its filter and acknowledges. -/
  | resetNotice (die : Nat) (n : Nat)
  /-- REQUEST_RESEND_TIMEOUT (R360). After 20 us without a reply the source resends the request with RTY set. -/
  | requestResendTimeout (die : Nat) (n : Nat)
  /-- REMOTE_TIMEOUT (R360). After eight sends the request ends with REMOTE_TIMEOUT. -/
  | remoteTimeout (die : Nat) (n : Nat)
  /-- RESET_NOTICE_RESEND (R362). An unacknowledged reset notice is sent again every 20 us. -/
  | resetNoticeResend (die : Nat) (peer : Nat)
  /-- MIGRATION_LINE_COPY (R378). The old home copies one 64-byte line of a migrating page. -/
  | migrationLineCopy (die : Nat)
  /-- MIGRATION_SWITCH (R378). With no dirty line left the old home switches to forwarding. -/
  | migrationSwitch (die : Nat)
  /-- UNCORRECTABLE_SOFT_ERROR (R315). An uncorrectable soft error is found in state that has no owner and is reported to the host as MACHINE_CHECK. -/
  | uncorrectableSoftError (die : Nat) (addr : Nat)
  deriving DecidableEq, Repr

end Sys2Proof
end

