-- ==== Sys2Proof/Decode.lean ====
section
/-! DEFINITION. Decoding of slot words (R51 to R65) and tile words (R66), and their encoder. A word is a number;
bit `i` of a word is bit `i` of the number. -/

namespace Sys2Proof

/-- Why a slot word is no instruction (R52, R54, R61). -/
inductive DecodeErr where
  /-- an unassigned primary opcode -/
  | illegalOpcode
  /-- a header kind 0x3D to 0x3F in slot 0 -/
  | illegalHeader
  /-- a nonzero reserved field or a selector that names no instruction -/
  | reservedField
  /-- the same in the privileged system group, where PRIV_INSTR comes first -/
  | privReserved
  deriving DecidableEq, Repr

/-- What a slot word decodes to. -/
inductive Decoded where
  | ok (i : Instr)
  | bad (e : DecodeErr)
  deriving DecidableEq, Repr

/-- C slot, primary opcode 0x1. -/
def decC1 (w : Nat) : Decoded :=
  if w % 2048 = 0 then .ok (.add (BitVec.ofNat 5 (w / 2097152)) (BitVec.ofNat 5 (w / 65536)) (BitVec.ofNat 5 (w / 2048)))
  else if w % 2048 = 1 then .ok (.sub (BitVec.ofNat 5 (w / 2097152)) (BitVec.ofNat 5 (w / 65536)) (BitVec.ofNat 5 (w / 2048)))
  else if w % 2048 = 2 then .ok (.and (BitVec.ofNat 5 (w / 2097152)) (BitVec.ofNat 5 (w / 65536)) (BitVec.ofNat 5 (w / 2048)))
  else if w % 2048 = 3 then .ok (.or (BitVec.ofNat 5 (w / 2097152)) (BitVec.ofNat 5 (w / 65536)) (BitVec.ofNat 5 (w / 2048)))
  else if w % 2048 = 4 then .ok (.xor (BitVec.ofNat 5 (w / 2097152)) (BitVec.ofNat 5 (w / 65536)) (BitVec.ofNat 5 (w / 2048)))
  else if w % 2048 = 5 then .ok (.andn (BitVec.ofNat 5 (w / 2097152)) (BitVec.ofNat 5 (w / 65536)) (BitVec.ofNat 5 (w / 2048)))
  else if w % 2048 = 6 then .ok (.shl (BitVec.ofNat 5 (w / 2097152)) (BitVec.ofNat 5 (w / 65536)) (BitVec.ofNat 5 (w / 2048)))
  else if w % 2048 = 7 then .ok (.shr (BitVec.ofNat 5 (w / 2097152)) (BitVec.ofNat 5 (w / 65536)) (BitVec.ofNat 5 (w / 2048)))
  else if w % 2048 = 8 then .ok (.sar (BitVec.ofNat 5 (w / 2097152)) (BitVec.ofNat 5 (w / 65536)) (BitVec.ofNat 5 (w / 2048)))
  else if w % 2048 = 9 then .ok (.rol (BitVec.ofNat 5 (w / 2097152)) (BitVec.ofNat 5 (w / 65536)) (BitVec.ofNat 5 (w / 2048)))
  else if w % 2048 = 10 then .ok (.ror (BitVec.ofNat 5 (w / 2097152)) (BitVec.ofNat 5 (w / 65536)) (BitVec.ofNat 5 (w / 2048)))
  else if w % 2048 = 11 then .ok (.min (BitVec.ofNat 5 (w / 2097152)) (BitVec.ofNat 5 (w / 65536)) (BitVec.ofNat 5 (w / 2048)))
  else if w % 2048 = 12 then .ok (.max (BitVec.ofNat 5 (w / 2097152)) (BitVec.ofNat 5 (w / 65536)) (BitVec.ofNat 5 (w / 2048)))
  else if w % 2048 = 13 then .ok (.minu (BitVec.ofNat 5 (w / 2097152)) (BitVec.ofNat 5 (w / 65536)) (BitVec.ofNat 5 (w / 2048)))
  else if w % 2048 = 14 then .ok (.maxu (BitVec.ofNat 5 (w / 2097152)) (BitVec.ofNat 5 (w / 65536)) (BitVec.ofNat 5 (w / 2048)))
  else if w % 2048 = 15 then .ok (.slt (BitVec.ofNat 5 (w / 2097152)) (BitVec.ofNat 5 (w / 65536)) (BitVec.ofNat 5 (w / 2048)))
  else if w % 2048 = 16 then .ok (.sltu (BitVec.ofNat 5 (w / 2097152)) (BitVec.ofNat 5 (w / 65536)) (BitVec.ofNat 5 (w / 2048)))
  else if w % 2048 = 17 then .ok (.seq (BitVec.ofNat 5 (w / 2097152)) (BitVec.ofNat 5 (w / 65536)) (BitVec.ofNat 5 (w / 2048)))
  else if w % 2048 = 18 then .ok (.sne (BitVec.ofNat 5 (w / 2097152)) (BitVec.ofNat 5 (w / 65536)) (BitVec.ofNat 5 (w / 2048)))
  else .bad .reservedField

/-- C slot, primary opcode 0x2. -/
def decC2 (w : Nat) : Decoded :=
  .ok (.addi (BitVec.ofNat 5 (w / 2097152)) (BitVec.ofNat 5 (w / 65536)) (BitVec.ofNat 16 w))

/-- C slot, primary opcode 0x3. -/
def decC3 (w : Nat) : Decoded :=
  .ok (.andi (BitVec.ofNat 5 (w / 2097152)) (BitVec.ofNat 5 (w / 65536)) (BitVec.ofNat 16 w))

/-- C slot, primary opcode 0x4. -/
def decC4 (w : Nat) : Decoded :=
  .ok (.ori (BitVec.ofNat 5 (w / 2097152)) (BitVec.ofNat 5 (w / 65536)) (BitVec.ofNat 16 w))

/-- C slot, primary opcode 0x5. -/
def decC5 (w : Nat) : Decoded :=
  .ok (.xori (BitVec.ofNat 5 (w / 2097152)) (BitVec.ofNat 5 (w / 65536)) (BitVec.ofNat 16 w))

/-- C slot, primary opcode 0x6. -/
def decC6 (w : Nat) : Decoded :=
  .ok (.slti (BitVec.ofNat 5 (w / 2097152)) (BitVec.ofNat 5 (w / 65536)) (BitVec.ofNat 16 w))

/-- C slot, primary opcode 0x7. -/
def decC7 (w : Nat) : Decoded :=
  .ok (.sltiu (BitVec.ofNat 5 (w / 2097152)) (BitVec.ofNat 5 (w / 65536)) (BitVec.ofNat 16 w))

/-- C slot, primary opcode 0x8. -/
def decC8 (w : Nat) : Decoded :=
  if w / 64 % 1024 = 0 then .ok (.shli (BitVec.ofNat 5 (w / 2097152)) (BitVec.ofNat 5 (w / 65536)) (BitVec.ofNat 6 w))
  else if w / 64 % 1024 = 1 then .ok (.shri (BitVec.ofNat 5 (w / 2097152)) (BitVec.ofNat 5 (w / 65536)) (BitVec.ofNat 6 w))
  else if w / 64 % 1024 = 2 then .ok (.sari (BitVec.ofNat 5 (w / 2097152)) (BitVec.ofNat 5 (w / 65536)) (BitVec.ofNat 6 w))
  else if w / 64 % 1024 = 3 then .ok (.roli (BitVec.ofNat 5 (w / 2097152)) (BitVec.ofNat 5 (w / 65536)) (BitVec.ofNat 6 w))
  else .bad .reservedField

/-- C slot, primary opcode 0x9. -/
def decC9 (w : Nat) : Decoded :=
  .ok (.movi (BitVec.ofNat 5 (w / 2097152)) (BitVec.ofNat 21 w))

/-- C slot, primary opcode 0xa. -/
def decC10 (w : Nat) : Decoded :=
  if w / 262144 % 8 = 0 then .ok (.movk (BitVec.ofNat 5 (w / 2097152)) (BitVec.ofNat 2 (w / 65536)) (BitVec.ofNat 16 w))
  else .bad .reservedField

/-- C slot, primary opcode 0xb. -/
def decC11 (w : Nat) : Decoded :=
  if w % 2048 = 0 then .ok (.mul (BitVec.ofNat 5 (w / 2097152)) (BitVec.ofNat 5 (w / 65536)) (BitVec.ofNat 5 (w / 2048)))
  else if w % 2048 = 1 then .ok (.mulh (BitVec.ofNat 5 (w / 2097152)) (BitVec.ofNat 5 (w / 65536)) (BitVec.ofNat 5 (w / 2048)))
  else if w % 2048 = 2 then .ok (.mulhu (BitVec.ofNat 5 (w / 2097152)) (BitVec.ofNat 5 (w / 65536)) (BitVec.ofNat 5 (w / 2048)))
  else if w % 2048 = 3 then .ok (.mulhsu (BitVec.ofNat 5 (w / 2097152)) (BitVec.ofNat 5 (w / 65536)) (BitVec.ofNat 5 (w / 2048)))
  else .bad .reservedField

/-- C slot, primary opcode 0xc. -/
def decC12 (w : Nat) : Decoded :=
  if w % 2048 = 0 then .ok (.div (BitVec.ofNat 5 (w / 2097152)) (BitVec.ofNat 5 (w / 65536)) (BitVec.ofNat 5 (w / 2048)))
  else if w % 2048 = 1 then .ok (.divu (BitVec.ofNat 5 (w / 2097152)) (BitVec.ofNat 5 (w / 65536)) (BitVec.ofNat 5 (w / 2048)))
  else if w % 2048 = 2 then .ok (.rem (BitVec.ofNat 5 (w / 2097152)) (BitVec.ofNat 5 (w / 65536)) (BitVec.ofNat 5 (w / 2048)))
  else if w % 2048 = 3 then .ok (.remu (BitVec.ofNat 5 (w / 2097152)) (BitVec.ofNat 5 (w / 65536)) (BitVec.ofNat 5 (w / 2048)))
  else .bad .reservedField

/-- C slot, primary opcode 0xd. -/
def decC13 (w : Nat) : Decoded :=
  if w % 65536 = 0 then .ok (.clz (BitVec.ofNat 5 (w / 2097152)) (BitVec.ofNat 5 (w / 65536)))
  else if w % 65536 = 1 then .ok (.ctz (BitVec.ofNat 5 (w / 2097152)) (BitVec.ofNat 5 (w / 65536)))
  else if w % 65536 = 2 then .ok (.popc (BitVec.ofNat 5 (w / 2097152)) (BitVec.ofNat 5 (w / 65536)))
  else if w % 65536 = 3 then .ok (.brev (BitVec.ofNat 5 (w / 2097152)) (BitVec.ofNat 5 (w / 65536)))
  else if w % 65536 = 4 then .ok (.bytrev (BitVec.ofNat 5 (w / 2097152)) (BitVec.ofNat 5 (w / 65536)))
  else .bad .reservedField

/-- C slot, primary opcode 0xe. -/
def decC14 (w : Nat) : Decoded :=
  if w % 2048 = 0 then .ok (.bfx (BitVec.ofNat 5 (w / 2097152)) (BitVec.ofNat 5 (w / 65536)) (BitVec.ofNat 5 (w / 2048)))
  else if w % 2048 = 1 then .ok (.bfxz (BitVec.ofNat 5 (w / 2097152)) (BitVec.ofNat 5 (w / 65536)) (BitVec.ofNat 5 (w / 2048)))
  else .bad .reservedField

/-- C slot, primary opcode 0xf. -/
def decC15 (w : Nat) : Decoded :=
  if w / 8192 % 8 = 0 then .ok (.bfxi (BitVec.ofNat 5 (w / 2097152)) (BitVec.ofNat 5 (w / 65536)) (BitVec.ofNat 7 (w / 64)) (BitVec.ofNat 6 w))
  else .bad .reservedField

/-- C slot, primary opcode 0x10. -/
def decC16 (w : Nat) : Decoded :=
  if w % 2048 = 0 then .ok (.bfi (BitVec.ofNat 5 (w / 2097152)) (BitVec.ofNat 5 (w / 65536)) (BitVec.ofNat 5 (w / 2048)))
  else .bad .reservedField

/-- C slot, primary opcode 0x11. -/
def decC17 (w : Nat) : Decoded :=
  if w / 8192 % 8 = 0 then .ok (.bfii (BitVec.ofNat 5 (w / 2097152)) (BitVec.ofNat 5 (w / 65536)) (BitVec.ofNat 7 (w / 64)) (BitVec.ofNat 6 w))
  else .bad .reservedField

/-- C slot, primary opcode 0x12. -/
def decC18 (w : Nat) : Decoded :=
  if w % 64 = 0 then .ok (.sel (BitVec.ofNat 5 (w / 2097152)) (BitVec.ofNat 5 (w / 65536)) (BitVec.ofNat 5 (w / 2048)) (BitVec.ofNat 5 (w / 64)))
  else .bad .reservedField

/-- C slot, primary opcode 0x13. -/
def decC19 (w : Nat) : Decoded :=
  if w / 8192 % 8 = 0 then .ok (.beq (BitVec.ofNat 5 (w / 2097152)) (BitVec.ofNat 5 (w / 65536)) (BitVec.ofNat 13 w))
  else if w / 8192 % 8 = 1 then .ok (.bne (BitVec.ofNat 5 (w / 2097152)) (BitVec.ofNat 5 (w / 65536)) (BitVec.ofNat 13 w))
  else if w / 8192 % 8 = 2 then .ok (.blt (BitVec.ofNat 5 (w / 2097152)) (BitVec.ofNat 5 (w / 65536)) (BitVec.ofNat 13 w))
  else if w / 8192 % 8 = 3 then .ok (.bge (BitVec.ofNat 5 (w / 2097152)) (BitVec.ofNat 5 (w / 65536)) (BitVec.ofNat 13 w))
  else if w / 8192 % 8 = 4 then .ok (.bltu (BitVec.ofNat 5 (w / 2097152)) (BitVec.ofNat 5 (w / 65536)) (BitVec.ofNat 13 w))
  else if w / 8192 % 8 = 5 then .ok (.bgeu (BitVec.ofNat 5 (w / 2097152)) (BitVec.ofNat 5 (w / 65536)) (BitVec.ofNat 13 w))
  else .bad .reservedField

/-- C slot, primary opcode 0x14. -/
def decC20 (w : Nat) : Decoded :=
  .ok (.j (BitVec.ofNat 26 w))

/-- C slot, primary opcode 0x15. -/
def decC21 (w : Nat) : Decoded :=
  .ok (.jal (BitVec.ofNat 26 w))

/-- C slot, primary opcode 0x16. -/
def decC22 (w : Nat) : Decoded :=
  if w % 65536 = 0 then .ok (.jr (BitVec.ofNat 5 (w / 2097152)) (BitVec.ofNat 5 (w / 65536)))
  else .bad .reservedField

/-- C slot, primary opcode 0x17. -/
def decC23 (w : Nat) : Decoded :=
  if w / 8192 % 256 = 0 then .ok (.loop (BitVec.ofNat 5 (w / 2097152)) (BitVec.ofNat 13 w))
  else .bad .reservedField

/-- C slot, primary opcode 0x18. -/
def decC24 (w : Nat) : Decoded :=
  .ok (.loopi (BitVec.ofNat 13 (w / 8192)) (BitVec.ofNat 13 w))

/-- C slot, primary opcode 0x19. -/
def decC25 (w : Nat) : Decoded :=
  .ok (.jbank (BitVec.ofNat 5 (w / 2097152)) (BitVec.ofNat 21 w))

/-- C slot, primary opcode 0x1a. -/
def decC26 (w : Nat) : Decoded :=
  if w / 65536 % 32 = 0 then .ok (.mfs (BitVec.ofNat 5 (w / 2097152)) (BitVec.ofNat 16 w))
  else .bad .reservedField

/-- C slot, primary opcode 0x1b. -/
def decC27 (w : Nat) : Decoded :=
  if w / 2097152 % 32 = 0 then .ok (.mts (BitVec.ofNat 5 (w / 65536)) (BitVec.ofNat 16 w))
  else .bad .reservedField

/-- C slot, primary opcode 0x1c. -/
def decC28 (w : Nat) : Decoded :=
  if w % 67108864 = 0 then .ok (.stop)
  else if w % 67108864 = 1 then .ok (.yield)
  else if w % 67108864 = 2 then .ok (.brk)
  else if w % 65536 = 3 ∧ w / 2097152 % 32 = 0 then .ok (.trap (BitVec.ofNat 5 (w / 65536)))
  else .bad .reservedField

/-- C slot, primary opcode 0x1d. -/
def decC29 (w : Nat) : Decoded :=
  if w / 65536 % 1024 = 0 then .ok (.ecall (BitVec.ofNat 16 w))
  else .bad .reservedField

/-- C slot, primary opcode 0x3c. -/
def decC60 (w : Nat) : Decoded :=
  if w / 16777216 % 4 = 0 then .ok (.xhdr (BitVec.ofNat 8 (w / 65536)) (BitVec.ofNat 8 (w / 256)) (BitVec.ofNat 8 w))
  else .bad .reservedField

/-- Decoding a word of the control and scalar slot (R62), by its primary opcode. -/
def decC (w : Nat) : Decoded :=
  match w / 67108864 with
  | 0 => if w = 0 then .ok .nop else .bad .reservedField
  | 1 => decC1 w
  | 2 => decC2 w
  | 3 => decC3 w
  | 4 => decC4 w
  | 5 => decC5 w
  | 6 => decC6 w
  | 7 => decC7 w
  | 8 => decC8 w
  | 9 => decC9 w
  | 10 => decC10 w
  | 11 => decC11 w
  | 12 => decC12 w
  | 13 => decC13 w
  | 14 => decC14 w
  | 15 => decC15 w
  | 16 => decC16 w
  | 17 => decC17 w
  | 18 => decC18 w
  | 19 => decC19 w
  | 20 => decC20 w
  | 21 => decC21 w
  | 22 => decC22 w
  | 23 => decC23 w
  | 24 => decC24 w
  | 25 => decC25 w
  | 26 => decC26 w
  | 27 => decC27 w
  | 28 => decC28 w
  | 29 => decC29 w
  | 60 => decC60 w
  | 61 => .bad .illegalHeader
  | 62 => .bad .illegalHeader
  | 63 => .bad .illegalHeader
  | _ => .bad .illegalOpcode

/-- V slot, primary opcode 0x1. -/
def decV1 (w : Nat) : Decoded :=
  if w % 32 = 0 then .ok (.vadd (BitVec.ofNat 5 (w / 2097152)) (BitVec.ofNat 5 (w / 65536)) (BitVec.ofNat 5 (w / 2048)) (BitVec.ofNat 3 (w / 256)) (BitVec.ofNat 3 (w / 32)))
  else .bad .reservedField

/-- V slot, primary opcode 0x2. -/
def decV2 (w : Nat) : Decoded :=
  if w % 32 = 0 then .ok (.vsub (BitVec.ofNat 5 (w / 2097152)) (BitVec.ofNat 5 (w / 65536)) (BitVec.ofNat 5 (w / 2048)) (BitVec.ofNat 3 (w / 256)) (BitVec.ofNat 3 (w / 32)))
  else .bad .reservedField

/-- V slot, primary opcode 0x3. -/
def decV3 (w : Nat) : Decoded :=
  if w % 32 = 0 then .ok (.vmul (BitVec.ofNat 5 (w / 2097152)) (BitVec.ofNat 5 (w / 65536)) (BitVec.ofNat 5 (w / 2048)) (BitVec.ofNat 3 (w / 256)) (BitVec.ofNat 3 (w / 32)))
  else .bad .reservedField

/-- V slot, primary opcode 0x4. -/
def decV4 (w : Nat) : Decoded :=
  if w % 32 = 0 then .ok (.vfma (BitVec.ofNat 5 (w / 2097152)) (BitVec.ofNat 5 (w / 65536)) (BitVec.ofNat 5 (w / 2048)) (BitVec.ofNat 3 (w / 256)) (BitVec.ofNat 3 (w / 32)))
  else .bad .reservedField

/-- V slot, primary opcode 0x5. -/
def decV5 (w : Nat) : Decoded :=
  if w % 32 = 0 then .ok (.vfms (BitVec.ofNat 5 (w / 2097152)) (BitVec.ofNat 5 (w / 65536)) (BitVec.ofNat 5 (w / 2048)) (BitVec.ofNat 3 (w / 256)) (BitVec.ofNat 3 (w / 32)))
  else .bad .reservedField

/-- V slot, primary opcode 0x6. -/
def decV6 (w : Nat) : Decoded :=
  if w % 32 = 0 then .ok (.vfnma (BitVec.ofNat 5 (w / 2097152)) (BitVec.ofNat 5 (w / 65536)) (BitVec.ofNat 5 (w / 2048)) (BitVec.ofNat 3 (w / 256)) (BitVec.ofNat 3 (w / 32)))
  else .bad .reservedField

/-- V slot, primary opcode 0x7. -/
def decV7 (w : Nat) : Decoded :=
  if w % 32 = 0 then .ok (.vmin (BitVec.ofNat 5 (w / 2097152)) (BitVec.ofNat 5 (w / 65536)) (BitVec.ofNat 5 (w / 2048)) (BitVec.ofNat 3 (w / 256)) (BitVec.ofNat 3 (w / 32)))
  else .bad .reservedField

/-- V slot, primary opcode 0x8. -/
def decV8 (w : Nat) : Decoded :=
  if w % 32 = 0 then .ok (.vmax (BitVec.ofNat 5 (w / 2097152)) (BitVec.ofNat 5 (w / 65536)) (BitVec.ofNat 5 (w / 2048)) (BitVec.ofNat 3 (w / 256)) (BitVec.ofNat 3 (w / 32)))
  else .bad .reservedField

/-- V slot, primary opcode 0x9. -/
def decV9 (w : Nat) : Decoded :=
  if w % 32 = 0 then .ok (.vdiv (BitVec.ofNat 5 (w / 2097152)) (BitVec.ofNat 5 (w / 65536)) (BitVec.ofNat 5 (w / 2048)) (BitVec.ofNat 3 (w / 256)) (BitVec.ofNat 3 (w / 32)))
  else .bad .reservedField

/-- V slot, primary opcode 0xa. -/
def decV10 (w : Nat) : Decoded :=
  if w % 32 = 0 ∧ w / 2048 % 32 = 0 then .ok (.vsqrt (BitVec.ofNat 5 (w / 2097152)) (BitVec.ofNat 5 (w / 65536)) (BitVec.ofNat 3 (w / 256)) (BitVec.ofNat 3 (w / 32)))
  else .bad .reservedField

/-- V slot, primary opcode 0xb. -/
def decV11 (w : Nat) : Decoded :=
  if w % 32 = 0 ∧ w / 2048 % 32 = 0 then .ok (.vrcp (BitVec.ofNat 5 (w / 2097152)) (BitVec.ofNat 5 (w / 65536)) (BitVec.ofNat 3 (w / 256)) (BitVec.ofNat 3 (w / 32)))
  else if w % 32 = 1 ∧ w / 2048 % 32 = 0 then .ok (.vrsq (BitVec.ofNat 5 (w / 2097152)) (BitVec.ofNat 5 (w / 65536)) (BitVec.ofNat 3 (w / 256)) (BitVec.ofNat 3 (w / 32)))
  else if w % 32 = 2 ∧ w / 2048 % 32 = 0 then .ok (.vexp2 (BitVec.ofNat 5 (w / 2097152)) (BitVec.ofNat 5 (w / 65536)) (BitVec.ofNat 3 (w / 256)) (BitVec.ofNat 3 (w / 32)))
  else if w % 32 = 3 ∧ w / 2048 % 32 = 0 then .ok (.vlog2 (BitVec.ofNat 5 (w / 2097152)) (BitVec.ofNat 5 (w / 65536)) (BitVec.ofNat 3 (w / 256)) (BitVec.ofNat 3 (w / 32)))
  else if w % 32 = 4 ∧ w / 2048 % 32 = 0 then .ok (.vtanh (BitVec.ofNat 5 (w / 2097152)) (BitVec.ofNat 5 (w / 65536)) (BitVec.ofNat 3 (w / 256)) (BitVec.ofNat 3 (w / 32)))
  else .bad .reservedField

/-- V slot, primary opcode 0xc. -/
def decV12 (w : Nat) : Decoded :=
  .ok (.vcvt (BitVec.ofNat 5 (w / 2097152)) (BitVec.ofNat 5 (w / 65536)) (BitVec.ofNat 5 (w / 2048)) (BitVec.ofNat 3 (w / 256)) (BitVec.ofNat 3 (w / 32)) (BitVec.ofNat 3 (w / 4)) (BitVec.ofNat 2 w))

/-- V slot, primary opcode 0xd. -/
def decV13 (w : Nat) : Decoded :=
  if w % 32 = 0 ∧ w / 16777216 % 4 = 0 then .ok (.vcmpEq (BitVec.ofNat 3 (w / 2097152)) (BitVec.ofNat 5 (w / 65536)) (BitVec.ofNat 5 (w / 2048)) (BitVec.ofNat 3 (w / 256)) (BitVec.ofNat 3 (w / 32)))
  else if w % 32 = 1 ∧ w / 16777216 % 4 = 0 then .ok (.vcmpNe (BitVec.ofNat 3 (w / 2097152)) (BitVec.ofNat 5 (w / 65536)) (BitVec.ofNat 5 (w / 2048)) (BitVec.ofNat 3 (w / 256)) (BitVec.ofNat 3 (w / 32)))
  else if w % 32 = 2 ∧ w / 16777216 % 4 = 0 then .ok (.vcmpLt (BitVec.ofNat 3 (w / 2097152)) (BitVec.ofNat 5 (w / 65536)) (BitVec.ofNat 5 (w / 2048)) (BitVec.ofNat 3 (w / 256)) (BitVec.ofNat 3 (w / 32)))
  else if w % 32 = 3 ∧ w / 16777216 % 4 = 0 then .ok (.vcmpLe (BitVec.ofNat 3 (w / 2097152)) (BitVec.ofNat 5 (w / 65536)) (BitVec.ofNat 5 (w / 2048)) (BitVec.ofNat 3 (w / 256)) (BitVec.ofNat 3 (w / 32)))
  else if w % 32 = 4 ∧ w / 16777216 % 4 = 0 then .ok (.vcmpGt (BitVec.ofNat 3 (w / 2097152)) (BitVec.ofNat 5 (w / 65536)) (BitVec.ofNat 5 (w / 2048)) (BitVec.ofNat 3 (w / 256)) (BitVec.ofNat 3 (w / 32)))
  else if w % 32 = 5 ∧ w / 16777216 % 4 = 0 then .ok (.vcmpGe (BitVec.ofNat 3 (w / 2097152)) (BitVec.ofNat 5 (w / 65536)) (BitVec.ofNat 5 (w / 2048)) (BitVec.ofNat 3 (w / 256)) (BitVec.ofNat 3 (w / 32)))
  else if w % 32 = 6 ∧ w / 16777216 % 4 = 0 then .ok (.vcmpUnord (BitVec.ofNat 3 (w / 2097152)) (BitVec.ofNat 5 (w / 65536)) (BitVec.ofNat 5 (w / 2048)) (BitVec.ofNat 3 (w / 256)) (BitVec.ofNat 3 (w / 32)))
  else if w % 32 = 7 ∧ w / 16777216 % 4 = 0 then .ok (.vcmpOrd (BitVec.ofNat 3 (w / 2097152)) (BitVec.ofNat 5 (w / 65536)) (BitVec.ofNat 5 (w / 2048)) (BitVec.ofNat 3 (w / 256)) (BitVec.ofNat 3 (w / 32)))
  else .bad .reservedField

/-- V slot, primary opcode 0xe. -/
def decV14 (w : Nat) : Decoded :=
  if w % 256 = 0 then .ok (.vsel (BitVec.ofNat 5 (w / 2097152)) (BitVec.ofNat 5 (w / 65536)) (BitVec.ofNat 5 (w / 2048)) (BitVec.ofNat 3 (w / 256)))
  else .bad .reservedField

/-- V slot, primary opcode 0xf. -/
def decV15 (w : Nat) : Decoded :=
  if w % 256 = 0 then .ok (.vand (BitVec.ofNat 5 (w / 2097152)) (BitVec.ofNat 5 (w / 65536)) (BitVec.ofNat 5 (w / 2048)) (BitVec.ofNat 3 (w / 256)))
  else if w % 256 = 1 then .ok (.vor (BitVec.ofNat 5 (w / 2097152)) (BitVec.ofNat 5 (w / 65536)) (BitVec.ofNat 5 (w / 2048)) (BitVec.ofNat 3 (w / 256)))
  else if w % 256 = 2 then .ok (.vxor (BitVec.ofNat 5 (w / 2097152)) (BitVec.ofNat 5 (w / 65536)) (BitVec.ofNat 5 (w / 2048)) (BitVec.ofNat 3 (w / 256)))
  else if w % 256 = 3 then .ok (.vandn (BitVec.ofNat 5 (w / 2097152)) (BitVec.ofNat 5 (w / 65536)) (BitVec.ofNat 5 (w / 2048)) (BitVec.ofNat 3 (w / 256)))
  else if w % 256 = 4 ∧ w / 2048 % 32 = 0 then .ok (.vnot (BitVec.ofNat 5 (w / 2097152)) (BitVec.ofNat 5 (w / 65536)) (BitVec.ofNat 3 (w / 256)))
  else .bad .reservedField

/-- V slot, primary opcode 0x10. -/
def decV16 (w : Nat) : Decoded :=
  if w % 32 = 0 then .ok (.vshl (BitVec.ofNat 5 (w / 2097152)) (BitVec.ofNat 5 (w / 65536)) (BitVec.ofNat 5 (w / 2048)) (BitVec.ofNat 3 (w / 256)) (BitVec.ofNat 3 (w / 32)))
  else if w % 32 = 1 then .ok (.vshr (BitVec.ofNat 5 (w / 2097152)) (BitVec.ofNat 5 (w / 65536)) (BitVec.ofNat 5 (w / 2048)) (BitVec.ofNat 3 (w / 256)) (BitVec.ofNat 3 (w / 32)))
  else if w % 32 = 2 then .ok (.vsar (BitVec.ofNat 5 (w / 2097152)) (BitVec.ofNat 5 (w / 65536)) (BitVec.ofNat 5 (w / 2048)) (BitVec.ofNat 3 (w / 256)) (BitVec.ofNat 3 (w / 32)))
  else .bad .reservedField

/-- V slot, primary opcode 0x11. -/
def decV17 (w : Nat) : Decoded :=
  if w % 32 = 0 ∧ w / 16384 % 4 = 0 then .ok (.vshli (BitVec.ofNat 5 (w / 2097152)) (BitVec.ofNat 5 (w / 65536)) (BitVec.ofNat 6 (w / 256)) (BitVec.ofNat 3 (w / 32)))
  else if w % 32 = 1 ∧ w / 16384 % 4 = 0 then .ok (.vshri (BitVec.ofNat 5 (w / 2097152)) (BitVec.ofNat 5 (w / 65536)) (BitVec.ofNat 6 (w / 256)) (BitVec.ofNat 3 (w / 32)))
  else if w % 32 = 2 ∧ w / 16384 % 4 = 0 then .ok (.vsari (BitVec.ofNat 5 (w / 2097152)) (BitVec.ofNat 5 (w / 65536)) (BitVec.ofNat 6 (w / 256)) (BitVec.ofNat 3 (w / 32)))
  else .bad .reservedField

/-- V slot, primary opcode 0x12. -/
def decV18 (w : Nat) : Decoded :=
  if w % 32 = 0 then .ok (.vadds (BitVec.ofNat 5 (w / 2097152)) (BitVec.ofNat 5 (w / 65536)) (BitVec.ofNat 5 (w / 2048)) (BitVec.ofNat 3 (w / 256)) (BitVec.ofNat 3 (w / 32)))
  else if w % 32 = 1 then .ok (.vsubs (BitVec.ofNat 5 (w / 2097152)) (BitVec.ofNat 5 (w / 65536)) (BitVec.ofNat 5 (w / 2048)) (BitVec.ofNat 3 (w / 256)) (BitVec.ofNat 3 (w / 32)))
  else .bad .reservedField

/-- V slot, primary opcode 0x13. -/
def decV19 (w : Nat) : Decoded :=
  if w % 32 = 0 ∧ w / 2048 % 32 = 0 then .ok (.vabs (BitVec.ofNat 5 (w / 2097152)) (BitVec.ofNat 5 (w / 65536)) (BitVec.ofNat 3 (w / 256)) (BitVec.ofNat 3 (w / 32)))
  else if w % 32 = 1 ∧ w / 2048 % 32 = 0 then .ok (.vneg (BitVec.ofNat 5 (w / 2097152)) (BitVec.ofNat 5 (w / 65536)) (BitVec.ofNat 3 (w / 256)) (BitVec.ofNat 3 (w / 32)))
  else if w % 32 = 2 ∧ w / 2048 % 32 = 0 then .ok (.vclz (BitVec.ofNat 5 (w / 2097152)) (BitVec.ofNat 5 (w / 65536)) (BitVec.ofNat 3 (w / 256)) (BitVec.ofNat 3 (w / 32)))
  else if w % 32 = 3 ∧ w / 2048 % 32 = 0 then .ok (.vpopc (BitVec.ofNat 5 (w / 2097152)) (BitVec.ofNat 5 (w / 65536)) (BitVec.ofNat 3 (w / 256)) (BitVec.ofNat 3 (w / 32)))
  else .bad .reservedField

/-- V slot, primary opcode 0x14. -/
def decV20 (w : Nat) : Decoded :=
  if w % 256 = 0 ∧ w / 2048 % 32 = 0 then .ok (.vmov (BitVec.ofNat 5 (w / 2097152)) (BitVec.ofNat 5 (w / 65536)) (BitVec.ofNat 3 (w / 256)))
  else .bad .reservedField

/-- V slot, primary opcode 0x15. -/
def decV21 (w : Nat) : Decoded :=
  if w % 32 = 0 ∧ w / 2048 % 32 = 0 then .ok (.vbcast (BitVec.ofNat 5 (w / 2097152)) (BitVec.ofNat 5 (w / 65536)) (BitVec.ofNat 3 (w / 256)) (BitVec.ofNat 3 (w / 32)))
  else .bad .reservedField

/-- V slot, primary opcode 0x16. -/
def decV22 (w : Nat) : Decoded :=
  if w % 32 = 0 ∧ w / 256 % 8 = 0 then .ok (.vext (BitVec.ofNat 5 (w / 2097152)) (BitVec.ofNat 5 (w / 65536)) (BitVec.ofNat 5 (w / 2048)) (BitVec.ofNat 3 (w / 32)))
  else .bad .reservedField

/-- V slot, primary opcode 0x17. -/
def decV23 (w : Nat) : Decoded :=
  if w % 32 = 0 then .ok (.vins (BitVec.ofNat 5 (w / 2097152)) (BitVec.ofNat 5 (w / 65536)) (BitVec.ofNat 5 (w / 2048)) (BitVec.ofNat 3 (w / 256)) (BitVec.ofNat 3 (w / 32)))
  else .bad .reservedField

/-- V slot, primary opcode 0x18. -/
def decV24 (w : Nat) : Decoded :=
  if w % 32 = 0 ∧ w / 65536 % 32 = 0 then .ok (.vimm (BitVec.ofNat 5 (w / 2097152)) (BitVec.ofNat 8 (w / 256)) (BitVec.ofNat 3 (w / 32)))
  else .bad .reservedField

/-- V slot, primary opcode 0x19. -/
def decV25 (w : Nat) : Decoded :=
  if w % 8 = 0 ∧ w / 16 % 2 = 0 ∧ w / 2048 % 32 = 0 then .ok (.vredAdd (BitVec.ofNat 5 (w / 2097152)) (BitVec.ofNat 5 (w / 65536)) (BitVec.ofNat 3 (w / 256)) (BitVec.ofNat 3 (w / 32)) (BitVec.ofNat 1 (w / 8)))
  else if w % 8 = 1 ∧ w / 16 % 2 = 0 ∧ w / 2048 % 32 = 0 then .ok (.vredMin (BitVec.ofNat 5 (w / 2097152)) (BitVec.ofNat 5 (w / 65536)) (BitVec.ofNat 3 (w / 256)) (BitVec.ofNat 3 (w / 32)) (BitVec.ofNat 1 (w / 8)))
  else if w % 8 = 2 ∧ w / 16 % 2 = 0 ∧ w / 2048 % 32 = 0 then .ok (.vredMax (BitVec.ofNat 5 (w / 2097152)) (BitVec.ofNat 5 (w / 65536)) (BitVec.ofNat 3 (w / 256)) (BitVec.ofNat 3 (w / 32)) (BitVec.ofNat 1 (w / 8)))
  else .bad .reservedField

/-- V slot, primary opcode 0x1a. -/
def decV26 (w : Nat) : Decoded :=
  if w % 256 = 0 then .ok (.vshuf (BitVec.ofNat 5 (w / 2097152)) (BitVec.ofNat 5 (w / 65536)) (BitVec.ofNat 5 (w / 2048)) (BitVec.ofNat 3 (w / 256)))
  else .bad .reservedField

/-- V slot, primary opcode 0x1b. -/
def decV27 (w : Nat) : Decoded :=
  if w / 4 % 64 = 0 then .ok (.vpat (BitVec.ofNat 5 (w / 2097152)) (BitVec.ofNat 5 (w / 65536)) (BitVec.ofNat 5 (w / 2048)) (BitVec.ofNat 3 (w / 256)) (BitVec.ofNat 1 (w / 2)) (BitVec.ofNat 1 w))
  else .bad .reservedField

/-- V slot, primary opcode 0x1c. -/
def decV28 (w : Nat) : Decoded :=
  if w / 8 % 32 = 0 then .ok (.xcopy (BitVec.ofNat 5 (w / 2097152)) (BitVec.ofNat 5 (w / 65536)) (BitVec.ofNat 5 (w / 2048)) (BitVec.ofNat 3 (w / 256)) (BitVec.ofNat 3 w))
  else .bad .reservedField

/-- V slot, primary opcode 0x1d. -/
def decV29 (w : Nat) : Decoded :=
  if w / 16 % 2 = 0 ∧ w / 2048 % 32 = 0 then .ok (.vtopk (BitVec.ofNat 5 (w / 2097152)) (BitVec.ofNat 5 (w / 65536)) (BitVec.ofNat 3 (w / 256)) (BitVec.ofNat 3 (w / 32)) (BitVec.ofNat 1 (w / 8)) (BitVec.ofNat 3 w))
  else .bad .reservedField

/-- V slot, primary opcode 0x1e. -/
def decV30 (w : Nat) : Decoded :=
  if w % 32 = 0 ∧ w / 2048 % 1024 = 0 then .ok (.viota (BitVec.ofNat 5 (w / 2097152)) (BitVec.ofNat 3 (w / 256)) (BitVec.ofNat 3 (w / 32)))
  else if w % 32 = 1 ∧ w / 2048 % 1024 = 0 then .ok (.viotaCnt (BitVec.ofNat 5 (w / 2097152)) (BitVec.ofNat 3 (w / 256)) (BitVec.ofNat 3 (w / 32)))
  else .bad .reservedField

/-- V slot, primary opcode 0x1f. -/
def decV31 (w : Nat) : Decoded :=
  if w % 2048 = 0 then .ok (.pand (BitVec.ofNat 5 (w / 2097152)) (BitVec.ofNat 5 (w / 65536)) (BitVec.ofNat 5 (w / 2048)))
  else if w % 2048 = 1 then .ok (.por (BitVec.ofNat 5 (w / 2097152)) (BitVec.ofNat 5 (w / 65536)) (BitVec.ofNat 5 (w / 2048)))
  else if w % 2048 = 2 then .ok (.pxor (BitVec.ofNat 5 (w / 2097152)) (BitVec.ofNat 5 (w / 65536)) (BitVec.ofNat 5 (w / 2048)))
  else if w % 65536 = 3 then .ok (.pnot (BitVec.ofNat 5 (w / 2097152)) (BitVec.ofNat 5 (w / 65536)))
  else if w % 65536 = 4 then .ok (.pmov (BitVec.ofNat 5 (w / 2097152)) (BitVec.ofNat 5 (w / 65536)))
  else .bad .reservedField

/-- V slot, primary opcode 0x20. -/
def decV32 (w : Nat) : Decoded :=
  if w % 256 = 0 ∧ w / 2048 % 32 = 0 then .ok (.pcnt (BitVec.ofNat 5 (w / 2097152)) (BitVec.ofNat 5 (w / 65536)) (BitVec.ofNat 3 (w / 256)))
  else if w % 256 = 1 ∧ w / 2048 % 32 = 0 then .ok (.pfirst (BitVec.ofNat 5 (w / 2097152)) (BitVec.ofNat 5 (w / 65536)) (BitVec.ofNat 3 (w / 256)))
  else .bad .reservedField

/-- V slot, primary opcode 0x21. -/
def decV33 (w : Nat) : Decoded :=
  if w / 16 % 16 = 0 ∧ w / 2048 % 32 = 0 then .ok (.rqpop (BitVec.ofNat 5 (w / 2097152)) (BitVec.ofNat 5 (w / 65536)) (BitVec.ofNat 3 (w / 256)) (BitVec.ofNat 1 (w / 8)) (BitVec.ofNat 3 w))
  else .bad .reservedField

/-- Decoding a word of the vector slot (R63), by its primary opcode. -/
def decV (w : Nat) : Decoded :=
  match w / 67108864 with
  | 0 => if w = 0 then .ok .nop else .bad .reservedField
  | 1 => decV1 w
  | 2 => decV2 w
  | 3 => decV3 w
  | 4 => decV4 w
  | 5 => decV5 w
  | 6 => decV6 w
  | 7 => decV7 w
  | 8 => decV8 w
  | 9 => decV9 w
  | 10 => decV10 w
  | 11 => decV11 w
  | 12 => decV12 w
  | 13 => decV13 w
  | 14 => decV14 w
  | 15 => decV15 w
  | 16 => decV16 w
  | 17 => decV17 w
  | 18 => decV18 w
  | 19 => decV19 w
  | 20 => decV20 w
  | 21 => decV21 w
  | 22 => decV22 w
  | 23 => decV23 w
  | 24 => decV24 w
  | 25 => decV25 w
  | 26 => decV26 w
  | 27 => decV27 w
  | 28 => decV28 w
  | 29 => decV29 w
  | 30 => decV30 w
  | 31 => decV31 w
  | 32 => decV32 w
  | 33 => decV33 w
  | _ => .bad .illegalOpcode

/-- T slot, primary opcode 0x1. -/
def decT1 (w : Nat) : Decoded :=
  if w % 256 = 0 ∧ w / 1024 % 4 = 0 then .ok (.tmmaWs (BitVec.ofNat 4 (w / 4194304)) (BitVec.ofNat 4 (w / 262144)) (BitVec.ofNat 4 (w / 16384)) (BitVec.ofNat 2 (w / 4096)) (BitVec.ofNat 1 (w / 512)) (BitVec.ofNat 1 (w / 256)))
  else if w % 256 = 0 ∧ w / 1024 % 4 = 1 then .ok (.tmmaGr (BitVec.ofNat 4 (w / 4194304)) (BitVec.ofNat 4 (w / 262144)) (BitVec.ofNat 4 (w / 16384)) (BitVec.ofNat 2 (w / 4096)) (BitVec.ofNat 1 (w / 512)) (BitVec.ofNat 1 (w / 256)))
  else if w % 256 = 0 ∧ w / 1024 % 4 = 2 then .ok (.tmmaCs (BitVec.ofNat 4 (w / 4194304)) (BitVec.ofNat 4 (w / 262144)) (BitVec.ofNat 4 (w / 16384)) (BitVec.ofNat 2 (w / 4096)) (BitVec.ofNat 1 (w / 512)) (BitVec.ofNat 1 (w / 256)))
  else .bad .reservedField

/-- T slot, primary opcode 0x2. -/
def decT2 (w : Nat) : Decoded :=
  if w / 2 % 8 = 0 ∧ w / 32 % 131072 = 0 then .ok (.tzero (BitVec.ofNat 4 (w / 4194304)) (BitVec.ofNat 1 (w / 16)) (BitVec.ofNat 1 w))
  else .bad .reservedField

/-- T slot, primary opcode 0x3. -/
def decT3 (w : Nat) : Decoded :=
  if w / 2 % 65536 = 0 then .ok (.tldc (BitVec.ofNat 4 (w / 4194304)) (BitVec.ofNat 5 (w / 131072)) (BitVec.ofNat 1 w))
  else .bad .reservedField

/-- T slot, primary opcode 0x4. -/
def decT4 (w : Nat) : Decoded :=
  if w % 131072 = 0 then .ok (.tstc (BitVec.ofNat 4 (w / 4194304)) (BitVec.ofNat 5 (w / 131072)))
  else .bad .reservedField

/-- T slot, primary opcode 0x5. -/
def decT5 (w : Nat) : Decoded :=
  if w / 4 % 1024 = 0 then .ok (.tdrainF (BitVec.ofNat 4 (w / 4194304)) (BitVec.ofNat 5 (w / 131072)) (BitVec.ofNat 5 (w / 4096)) (BitVec.ofNat 1 (w / 2)) (BitVec.ofNat 1 w))
  else if w / 4 % 1024 = 4 then .ok (.tdrainBf (BitVec.ofNat 4 (w / 4194304)) (BitVec.ofNat 5 (w / 131072)) (BitVec.ofNat 5 (w / 4096)) (BitVec.ofNat 1 (w / 2)) (BitVec.ofNat 1 w))
  else if w % 131072 = 32 then .ok (.tdrainRaw (BitVec.ofNat 4 (w / 4194304)) (BitVec.ofNat 5 (w / 131072)))
  else .bad .reservedField

/-- T slot, primary opcode 0x6. -/
def decT6 (w : Nat) : Decoded :=
  if w % 2 = 0 then .ok (.tsclA (BitVec.ofNat 4 (w / 4194304)) (BitVec.ofNat 5 (w / 131072)) (BitVec.ofNat 10 (w / 128)) (BitVec.ofNat 5 (w / 4)) (BitVec.ofNat 1 (w / 2)))
  else if w % 4 = 1 then .ok (.tsclB (BitVec.ofNat 4 (w / 4194304)) (BitVec.ofNat 5 (w / 131072)) (BitVec.ofNat 10 (w / 128)) (BitVec.ofNat 5 (w / 4)))
  else .bad .reservedField

/-- T slot, primary opcode 0x7. -/
def decT7 (w : Nat) : Decoded :=
  if w % 131072 = 0 then .ok (.tldb (BitVec.ofNat 4 (w / 4194304)) (BitVec.ofNat 5 (w / 131072)))
  else .bad .reservedField

/-- T slot, primary opcode 0x8. -/
def decT8 (w : Nat) : Decoded :=
  if w % 4096 = 0 ∧ w / 131072 % 32 = 0 then .ok (.setfmt (BitVec.ofNat 4 (w / 4194304)) (BitVec.ofNat 5 (w / 4096)))
  else .bad .reservedField

/-- T slot, primary opcode 0x9. -/
def decT9 (w : Nat) : Decoded :=
  .ok (.tdld (BitVec.ofNat 4 (w / 4194304)) (BitVec.ofNat 5 (w / 131072)) (BitVec.ofNat 17 w))

/-- T slot, primary opcode 0xa. -/
def decT10 (w : Nat) : Decoded :=
  if w % 4096 = 0 ∧ w / 131072 % 32 = 0 then .ok (.tdsetBase (BitVec.ofNat 4 (w / 4194304)) (BitVec.ofNat 5 (w / 4096)))
  else if w % 4096 = 16 ∧ w / 131072 % 32 = 0 then .ok (.tdsetShape (BitVec.ofNat 4 (w / 4194304)) (BitVec.ofNat 5 (w / 4096)))
  else if w % 4096 = 32 ∧ w / 131072 % 32 = 0 then .ok (.tdsetLayout (BitVec.ofNat 4 (w / 4194304)) (BitVec.ofNat 5 (w / 4096)))
  else if w % 4096 = 48 ∧ w / 131072 % 32 = 0 then .ok (.tdsetSbase (BitVec.ofNat 4 (w / 4194304)) (BitVec.ofNat 5 (w / 4096)))
  else if w % 4096 = 64 then .ok (.tdsetSub (BitVec.ofNat 4 (w / 4194304)) (BitVec.ofNat 5 (w / 131072)) (BitVec.ofNat 5 (w / 4096)))
  else if w % 131072 = 80 then .ok (.tdsetMov (BitVec.ofNat 4 (w / 4194304)) (BitVec.ofNat 5 (w / 131072)))
  else .bad .reservedField

/-- T slot, primary opcode 0xb. -/
def decT11 (w : Nat) : Decoded :=
  if w % 128 = 0 ∧ w / 131072 % 32 = 0 then .ok (.tsend (BitVec.ofNat 4 (w / 4194304)) (BitVec.ofNat 5 (w / 4096)) (BitVec.ofNat 5 (w / 128)))
  else .bad .reservedField

/-- T slot, primary opcode 0xc. -/
def decT12 (w : Nat) : Decoded :=
  if w % 131072 = 0 ∧ w / 4194304 % 16 = 0 then .ok (.xspec (BitVec.ofNat 5 (w / 131072)))
  else if w % 4096 = 16 ∧ w / 131072 % 512 = 0 then .ok (.xcfm (BitVec.ofNat 5 (w / 4096)))
  else if w % 4096 = 32 ∧ w / 131072 % 512 = 0 then .ok (.xsq (BitVec.ofNat 5 (w / 4096)))
  else if w / 2 % 2048 = 24 ∧ w / 4194304 % 16 = 0 then .ok (.xtagq (BitVec.ofNat 5 (w / 131072)) (BitVec.ofNat 5 (w / 4096)) (BitVec.ofNat 1 w))
  else .bad .reservedField

/-- T slot, primary opcode 0xd. -/
def decT13 (w : Nat) : Decoded :=
  if w % 16 = 0 ∧ w / 64 % 2 = 0 then .ok (.xpred (BitVec.ofNat 4 (w / 4194304)) (BitVec.ofNat 5 (w / 131072)) (BitVec.ofNat 5 (w / 4096)) (BitVec.ofNat 5 (w / 128)) (BitVec.ofNat 2 (w / 16)))
  else .bad .reservedField

/-- T slot, primary opcode 0xe. -/
def decT14 (w : Nat) : Decoded :=
  if w % 128 = 0 ∧ w / 131072 % 32 = 0 then .ok (.xtrain (BitVec.ofNat 4 (w / 4194304)) (BitVec.ofNat 5 (w / 4096)) (BitVec.ofNat 5 (w / 128)))
  else .bad .reservedField

/-- T slot, primary opcode 0xf. -/
def decT15 (w : Nat) : Decoded :=
  if w / 8 % 2 = 0 then .ok (.xres (BitVec.ofNat 4 (w / 4194304)) (BitVec.ofNat 5 (w / 131072)) (BitVec.ofNat 5 (w / 4096)) (BitVec.ofNat 5 (w / 128)) (BitVec.ofNat 3 (w / 16)) (BitVec.ofNat 3 w))
  else .bad .reservedField

/-- T slot, primary opcode 0x10. -/
def decT16 (w : Nat) : Decoded :=
  if w % 128 = 0 then .ok (.xmiss (BitVec.ofNat 4 (w / 4194304)) (BitVec.ofNat 5 (w / 131072)) (BitVec.ofNat 5 (w / 4096)) (BitVec.ofNat 5 (w / 128)))
  else .bad .reservedField

/-- T slot, primary opcode 0x11. -/
def decT17 (w : Nat) : Decoded :=
  if w % 4096 = 0 ∧ w / 4194304 % 16 = 0 then .ok (.xlook (BitVec.ofNat 5 (w / 131072)) (BitVec.ofNat 5 (w / 4096)))
  else .bad .reservedField

/-- T slot, primary opcode 0x12. -/
def decT18 (w : Nat) : Decoded :=
  if w % 128 = 0 ∧ w / 131072 % 512 = 0 then .ok (.xins (BitVec.ofNat 5 (w / 4096)) (BitVec.ofNat 5 (w / 128)))
  else if w % 4096 = 16 ∧ w / 131072 % 512 = 0 then .ok (.xinv (BitVec.ofNat 5 (w / 4096)))
  else if w % 4096 = 32 ∧ w / 4194304 % 16 = 0 then .ok (.xrdt (BitVec.ofNat 5 (w / 131072)) (BitVec.ofNat 5 (w / 4096)))
  else if w % 128 = 48 ∧ w / 131072 % 512 = 0 then .ok (.xpin (BitVec.ofNat 5 (w / 4096)) (BitVec.ofNat 5 (w / 128)))
  else .bad .reservedField

/-- T slot, primary opcode 0x13. -/
def decT19 (w : Nat) : Decoded :=
  if w % 128 = 0 then .ok (.seedscan (BitVec.ofNat 4 (w / 4194304)) (BitVec.ofNat 5 (w / 131072)) (BitVec.ofNat 5 (w / 4096)) (BitVec.ofNat 5 (w / 128)))
  else .bad .reservedField

/-- T slot, primary opcode 0x14. -/
def decT20 (w : Nat) : Decoded :=
  if w % 131072 = 0 then .ok (.grx (BitVec.ofNat 4 (w / 4194304)) (BitVec.ofNat 5 (w / 131072)))
  else .bad .reservedField

/-- T slot, primary opcode 0x15. -/
def decT21 (w : Nat) : Decoded :=
  if w % 131072 = 0 then .ok (.tmov (BitVec.ofNat 4 (w / 4194304)) (BitVec.ofNat 5 (w / 131072)))
  else .bad .reservedField

/-- T slot, primary opcode 0x16. -/
def decT22 (w : Nat) : Decoded :=
  if w % 16 = 0 ∧ w / 32 % 4096 = 0 then .ok (.tacc (BitVec.ofNat 4 (w / 4194304)) (BitVec.ofNat 5 (w / 131072)) (BitVec.ofNat 1 (w / 16)))
  else .bad .reservedField

/-- Decoding a word of the tile slot (R64), by its primary opcode. -/
def decT (w : Nat) : Decoded :=
  match w / 67108864 with
  | 0 => if w = 0 then .ok .nop else .bad .reservedField
  | 1 => decT1 w
  | 2 => decT2 w
  | 3 => decT3 w
  | 4 => decT4 w
  | 5 => decT5 w
  | 6 => decT6 w
  | 7 => decT7 w
  | 8 => decT8 w
  | 9 => decT9 w
  | 10 => decT10 w
  | 11 => decT11 w
  | 12 => decT12 w
  | 13 => decT13 w
  | 14 => decT14 w
  | 15 => decT15 w
  | 16 => decT16 w
  | 17 => decT17 w
  | 18 => decT18 w
  | 19 => decT19 w
  | 20 => decT20 w
  | 21 => decT21 w
  | 22 => decT22 w
  | _ => .bad .illegalOpcode

/-- M slot, primary opcode 0x1. -/
def decM1 (w : Nat) : Decoded :=
  .ok (.ld (BitVec.ofNat 5 (w / 2097152)) (BitVec.ofNat 4 (w / 131072)) (BitVec.ofNat 4 (w / 8192)) (BitVec.ofNat 3 (w / 1024)) (BitVec.ofNat 10 w))

/-- M slot, primary opcode 0x2. -/
def decM2 (w : Nat) : Decoded :=
  .ok (.st (BitVec.ofNat 5 (w / 2097152)) (BitVec.ofNat 4 (w / 131072)) (BitVec.ofNat 4 (w / 8192)) (BitVec.ofNat 3 (w / 1024)) (BitVec.ofNat 10 w))

/-- M slot, primary opcode 0x3. -/
def decM3 (w : Nat) : Decoded :=
  if w % 32 = 0 then .ok (.ldx (BitVec.ofNat 5 (w / 2097152)) (BitVec.ofNat 4 (w / 131072)) (BitVec.ofNat 4 (w / 8192)) (BitVec.ofNat 3 (w / 1024)) (BitVec.ofNat 5 (w / 32)))
  else .bad .reservedField

/-- M slot, primary opcode 0x4. -/
def decM4 (w : Nat) : Decoded :=
  if w % 32 = 0 then .ok (.stx (BitVec.ofNat 5 (w / 2097152)) (BitVec.ofNat 4 (w / 131072)) (BitVec.ofNat 4 (w / 8192)) (BitVec.ofNat 3 (w / 1024)) (BitVec.ofNat 5 (w / 32)))
  else .bad .reservedField

/-- M slot, primary opcode 0x5. -/
def decM5 (w : Nat) : Decoded :=
  .ok (.lda (BitVec.ofNat 5 (w / 2097152)) (BitVec.ofNat 4 (w / 131072)) (BitVec.ofNat 4 (w / 8192)) (BitVec.ofNat 3 (w / 1024)) (BitVec.ofNat 3 (w / 128)) (BitVec.ofNat 7 w))

/-- M slot, primary opcode 0x6. -/
def decM6 (w : Nat) : Decoded :=
  .ok (.stl (BitVec.ofNat 5 (w / 2097152)) (BitVec.ofNat 4 (w / 131072)) (BitVec.ofNat 4 (w / 8192)) (BitVec.ofNat 3 (w / 1024)) (BitVec.ofNat 3 (w / 128)) (BitVec.ofNat 7 w))

/-- M slot, primary opcode 0x7. -/
def decM7 (w : Nat) : Decoded :=
  .ok (.vld (BitVec.ofNat 5 (w / 2097152)) (BitVec.ofNat 4 (w / 131072)) (BitVec.ofNat 4 (w / 8192)) (BitVec.ofNat 3 (w / 1024)) (BitVec.ofNat 10 w))

/-- M slot, primary opcode 0x8. -/
def decM8 (w : Nat) : Decoded :=
  .ok (.vst (BitVec.ofNat 5 (w / 2097152)) (BitVec.ofNat 4 (w / 131072)) (BitVec.ofNat 4 (w / 8192)) (BitVec.ofNat 3 (w / 1024)) (BitVec.ofNat 10 w))

/-- M slot, primary opcode 0x9. -/
def decM9 (w : Nat) : Decoded :=
  if w % 32 = 0 then .ok (.vlds (BitVec.ofNat 5 (w / 2097152)) (BitVec.ofNat 4 (w / 131072)) (BitVec.ofNat 4 (w / 8192)) (BitVec.ofNat 3 (w / 1024)) (BitVec.ofNat 5 (w / 32)))
  else .bad .reservedField

/-- M slot, primary opcode 0xa. -/
def decM10 (w : Nat) : Decoded :=
  if w % 32 = 0 then .ok (.vsts (BitVec.ofNat 5 (w / 2097152)) (BitVec.ofNat 4 (w / 131072)) (BitVec.ofNat 4 (w / 8192)) (BitVec.ofNat 3 (w / 1024)) (BitVec.ofNat 5 (w / 32)))
  else .bad .reservedField

/-- M slot, primary opcode 0xb. -/
def decM11 (w : Nat) : Decoded :=
  if w % 32 = 0 then .ok (.vgath (BitVec.ofNat 5 (w / 2097152)) (BitVec.ofNat 4 (w / 131072)) (BitVec.ofNat 4 (w / 8192)) (BitVec.ofNat 3 (w / 1024)) (BitVec.ofNat 5 (w / 32)))
  else .bad .reservedField

/-- M slot, primary opcode 0xc. -/
def decM12 (w : Nat) : Decoded :=
  if w % 32 = 0 then .ok (.vscat (BitVec.ofNat 5 (w / 2097152)) (BitVec.ofNat 4 (w / 131072)) (BitVec.ofNat 4 (w / 8192)) (BitVec.ofNat 3 (w / 1024)) (BitVec.ofNat 5 (w / 32)))
  else .bad .reservedField

/-- M slot, primary opcode 0xd. -/
def decM13 (w : Nat) : Decoded :=
  if w % 65536 = 0 then .ok (.trans (BitVec.ofNat 5 (w / 2097152)) (BitVec.ofNat 5 (w / 65536)))
  else .bad .reservedField

/-- M slot, primary opcode 0xe. -/
def decM14 (w : Nat) : Decoded :=
  if w % 65536 = 0 then .ok (.hchk (BitVec.ofNat 5 (w / 2097152)) (BitVec.ofNat 5 (w / 65536)))
  else if w % 65536 = 1 ∧ w / 2097152 % 32 = 0 then .ok (.hrel (BitVec.ofNat 5 (w / 65536)))
  else if w % 65536 = 2 then .ok (.hmov (BitVec.ofNat 5 (w / 2097152)) (BitVec.ofNat 5 (w / 65536)))
  else if w % 65536 = 3 then .ok (.hinfo (BitVec.ofNat 5 (w / 2097152)) (BitVec.ofNat 5 (w / 65536)))
  else .bad .reservedField

/-- M slot, primary opcode 0xf. -/
def decM15 (w : Nat) : Decoded :=
  if w / 524288 % 128 = 0 then .ok (.fence (BitVec.ofNat 3 (w / 65536)) (BitVec.ofNat 16 w))
  else .bad .reservedField

/-- M slot, primary opcode 0x10. -/
def decM16 (w : Nat) : Decoded :=
  if w / 65536 % 32 = 0 then .ok (.xdfi (BitVec.ofNat 5 (w / 2097152)) (BitVec.ofNat 16 w))
  else .bad .reservedField

/-- M slot, primary opcode 0x11. -/
def decM17 (w : Nat) : Decoded :=
  if w % 65536 = 0 ∧ w / 2097152 % 32 = 0 then .ok (.xdfw (BitVec.ofNat 5 (w / 65536)))
  else .bad .reservedField

/-- M slot, primary opcode 0x12. -/
def decM18 (w : Nat) : Decoded :=
  if w % 65536 = 0 then .ok (.qpush (BitVec.ofNat 5 (w / 2097152)) (BitVec.ofNat 5 (w / 65536)))
  else .bad .reservedField

/-- M slot, primary opcode 0x13. -/
def decM19 (w : Nat) : Decoded :=
  if w % 65536 = 0 then .ok (.qpop (BitVec.ofNat 5 (w / 2097152)) (BitVec.ofNat 5 (w / 65536)))
  else .bad .reservedField

/-- M slot, primary opcode 0x14. -/
def decM20 (w : Nat) : Decoded :=
  if w % 8 = 0 ∧ w / 16 % 128 = 0 then .ok (.vqpush (BitVec.ofNat 5 (w / 2097152)) (BitVec.ofNat 5 (w / 65536)) (BitVec.ofNat 5 (w / 2048)) (BitVec.ofNat 1 (w / 8)))
  else .bad .reservedField

/-- M slot, primary opcode 0x15. -/
def decM21 (w : Nat) : Decoded :=
  if w % 8 = 0 ∧ w / 16 % 128 = 0 then .ok (.vqpop (BitVec.ofNat 5 (w / 2097152)) (BitVec.ofNat 5 (w / 65536)) (BitVec.ofNat 5 (w / 2048)) (BitVec.ofNat 1 (w / 8)))
  else .bad .reservedField

/-- M slot, primary opcode 0x16. -/
def decM22 (w : Nat) : Decoded :=
  if w % 65536 = 0 then .ok (.qstat (BitVec.ofNat 5 (w / 2097152)) (BitVec.ofNat 5 (w / 65536)))
  else .bad .reservedField

/-- M slot, primary opcode 0x17. -/
def decM23 (w : Nat) : Decoded :=
  if w % 65536 = 0 then .ok (.qcfg (BitVec.ofNat 5 (w / 2097152)) (BitVec.ofNat 5 (w / 65536)))
  else .bad .reservedField

/-- M slot, primary opcode 0x18. -/
def decM24 (w : Nat) : Decoded :=
  if w / 8 % 256 = 0 then .ok (.strq (BitVec.ofNat 5 (w / 2097152)) (BitVec.ofNat 5 (w / 65536)) (BitVec.ofNat 5 (w / 2048)) (BitVec.ofNat 1 (w / 4)) (BitVec.ofNat 2 w))
  else .bad .reservedField

/-- M slot, primary opcode 0x19. -/
def decM25 (w : Nat) : Decoded :=
  if w % 65536 = 0 then .ok (.qrq (BitVec.ofNat 5 (w / 2097152)) (BitVec.ofNat 5 (w / 65536)))
  else .bad .reservedField

/-- M slot, primary opcode 0x1a. -/
def decM26 (w : Nat) : Decoded :=
  if w / 4 % 512 = 0 then .ok (.cpy (BitVec.ofNat 5 (w / 2097152)) (BitVec.ofNat 5 (w / 65536)) (BitVec.ofNat 5 (w / 2048)) (BitVec.ofNat 2 w))
  else .bad .reservedField

/-- M slot, primary opcode 0x1b. -/
def decM27 (w : Nat) : Decoded :=
  if w / 4 % 512 = 0 then .ok (.cpya (BitVec.ofNat 5 (w / 2097152)) (BitVec.ofNat 5 (w / 65536)) (BitVec.ofNat 5 (w / 2048)) (BitVec.ofNat 2 w))
  else .bad .reservedField

/-- M slot, primary opcode 0x1c. -/
def decM28 (w : Nat) : Decoded :=
  if w % 2048 = 0 ∧ w / 2097152 % 32 = 0 then .ok (.tlwait (BitVec.ofNat 5 (w / 65536)) (BitVec.ofNat 5 (w / 2048)))
  else .bad .reservedField

/-- M slot, primary opcode 0x1d. -/
def decM29 (w : Nat) : Decoded :=
  if w % 2048 = 0 ∧ w / 65536 % 32 = 0 then .ok (.tlrd (BitVec.ofNat 5 (w / 2097152)) (BitVec.ofNat 5 (w / 2048)))
  else .bad .reservedField

/-- M slot, primary opcode 0x1e. -/
def decM30 (w : Nat) : Decoded :=
  if w % 16 = 0 ∧ w / 128 % 512 = 0 ∧ w / 2097152 % 32 = 0 then .ok (.fladdArr (BitVec.ofNat 5 (w / 65536)) (BitVec.ofNat 3 (w / 16)))
  else if w % 16 = 1 ∧ w / 128 % 512 = 0 ∧ w / 2097152 % 32 = 0 then .ok (.fladdDrop (BitVec.ofNat 5 (w / 65536)) (BitVec.ofNat 3 (w / 16)))
  else if w % 16 = 2 ∧ w / 128 % 16 = 0 ∧ w / 2097152 % 32 = 0 then .ok (.fladdAdd (BitVec.ofNat 5 (w / 65536)) (BitVec.ofNat 5 (w / 2048)) (BitVec.ofNat 3 (w / 16)))
  else .bad .reservedField

/-- M slot, primary opcode 0x1f. -/
def decM31 (w : Nat) : Decoded :=
  if w / 512 % 4 = 0 then .ok (.flset (BitVec.ofNat 5 (w / 2097152)) (BitVec.ofNat 5 (w / 65536)) (BitVec.ofNat 5 (w / 2048)) (BitVec.ofNat 3 (w / 64)) (BitVec.ofNat 6 w))
  else .bad .reservedField

/-- M slot, primary opcode 0x20. -/
def decM32 (w : Nat) : Decoded :=
  if w % 16 = 0 ∧ w / 128 % 16 = 0 then .ok (.flwaitEq (BitVec.ofNat 5 (w / 2097152)) (BitVec.ofNat 5 (w / 65536)) (BitVec.ofNat 5 (w / 2048)) (BitVec.ofNat 3 (w / 16)))
  else if w % 16 = 1 ∧ w / 128 % 16 = 0 then .ok (.flwaitGe (BitVec.ofNat 5 (w / 2097152)) (BitVec.ofNat 5 (w / 65536)) (BitVec.ofNat 5 (w / 2048)) (BitVec.ofNat 3 (w / 16)))
  else if w % 16 = 2 ∧ w / 128 % 512 = 0 then .ok (.flwaitBar (BitVec.ofNat 5 (w / 2097152)) (BitVec.ofNat 5 (w / 65536)) (BitVec.ofNat 3 (w / 16)))
  else .bad .reservedField

/-- M slot, primary opcode 0x21. -/
def decM33 (w : Nat) : Decoded :=
  if w / 8 % 2 = 0 ∧ w / 128 % 16 = 0 then .ok (.nbpv (BitVec.ofNat 5 (w / 2097152)) (BitVec.ofNat 5 (w / 65536)) (BitVec.ofNat 5 (w / 2048)) (BitVec.ofNat 3 (w / 16)) (BitVec.ofNat 3 w))
  else .bad .reservedField

/-- M slot, primary opcode 0x22. -/
def decM34 (w : Nat) : Decoded :=
  if w % 16 = 0 ∧ w / 128 % 512 = 0 then .ok (.nbrd (BitVec.ofNat 5 (w / 2097152)) (BitVec.ofNat 5 (w / 65536)) (BitVec.ofNat 3 (w / 16)))
  else if w % 16 = 1 ∧ w / 128 % 512 = 0 then .ok (.nbrdSt (BitVec.ofNat 5 (w / 2097152)) (BitVec.ofNat 5 (w / 65536)) (BitVec.ofNat 3 (w / 16)))
  else if w % 16 = 2 ∧ w / 128 % 512 = 0 then .ok (.nbrdMask (BitVec.ofNat 5 (w / 2097152)) (BitVec.ofNat 5 (w / 65536)) (BitVec.ofNat 3 (w / 16)))
  else if w % 4 = 3 ∧ w / 16 % 4096 = 0 then .ok (.nbrdVm (BitVec.ofNat 5 (w / 2097152)) (BitVec.ofNat 5 (w / 65536)) (BitVec.ofNat 2 (w / 4)))
  else .bad .reservedField

/-- M slot, primary opcode 0x23. -/
def decM35 (w : Nat) : Decoded :=
  if w % 65536 = 0 ∧ w / 2097152 % 32 = 0 then .ok (.nbclr (BitVec.ofNat 5 (w / 65536)))
  else .bad .reservedField

/-- M slot, primary opcode 0x24. -/
def decM36 (w : Nat) : Decoded :=
  if w % 2048 = 0 ∧ w / 2097152 % 32 = 0 then .ok (.istore (BitVec.ofNat 5 (w / 65536)) (BitVec.ofNat 5 (w / 2048)))
  else .bad .reservedField

/-- M slot, primary opcode 0x25. -/
def decM37 (w : Nat) : Decoded :=
  if w % 67108864 = 0 then .ok (.ifence)
  else .bad .reservedField

/-- M slot, primary opcode 0x26. -/
def decM38 (w : Nat) : Decoded :=
  if w % 8 = 0 ∧ w / 64 % 32 = 0 then .ok (.collAr (BitVec.ofNat 5 (w / 2097152)) (BitVec.ofNat 5 (w / 65536)) (BitVec.ofNat 5 (w / 2048)) (BitVec.ofNat 1 (w / 32)) (BitVec.ofNat 2 (w / 8)))
  else if w % 8 = 1 ∧ w / 64 % 32 = 0 then .ok (.collRs (BitVec.ofNat 5 (w / 2097152)) (BitVec.ofNat 5 (w / 65536)) (BitVec.ofNat 5 (w / 2048)) (BitVec.ofNat 1 (w / 32)) (BitVec.ofNat 2 (w / 8)))
  else if w % 2048 = 2 then .ok (.collAg (BitVec.ofNat 5 (w / 2097152)) (BitVec.ofNat 5 (w / 65536)) (BitVec.ofNat 5 (w / 2048)))
  else if w % 2048 = 3 then .ok (.collBc (BitVec.ofNat 5 (w / 2097152)) (BitVec.ofNat 5 (w / 65536)) (BitVec.ofNat 5 (w / 2048)))
  else if w % 2048 = 4 then .ok (.collA2a (BitVec.ofNat 5 (w / 2097152)) (BitVec.ofNat 5 (w / 65536)) (BitVec.ofNat 5 (w / 2048)))
  else .bad .reservedField

/-- M slot, primary opcode 0x27. -/
def decM39 (w : Nat) : Decoded :=
  if w % 2048 = 0 then .ok (.grpMk (BitVec.ofNat 5 (w / 2097152)) (BitVec.ofNat 5 (w / 65536)) (BitVec.ofNat 5 (w / 2048)))
  else if w % 65536 = 1 ∧ w / 2097152 % 32 = 0 then .ok (.grpFree (BitVec.ofNat 5 (w / 65536)))
  else if w % 65536 = 2 then .ok (.grpQ (BitVec.ofNat 5 (w / 2097152)) (BitVec.ofNat 5 (w / 65536)))
  else .bad .reservedField

/-- M slot, primary opcode 0x28. -/
def decM40 (w : Nat) : Decoded :=
  if w / 16 % 128 = 0 ∧ w / 2097152 % 32 = 0 then .ok (.discard (BitVec.ofNat 5 (w / 65536)) (BitVec.ofNat 5 (w / 2048)) (BitVec.ofNat 4 w))
  else .bad .reservedField

/-- M slot, primary opcode 0x29. -/
def decM41 (w : Nat) : Decoded :=
  if w % 65536 = 0 then .ok (.evrd (BitVec.ofNat 5 (w / 2097152)) (BitVec.ofNat 5 (w / 65536)))
  else .bad .reservedField

/-- M slot, primary opcode 0x2a. -/
def decM42 (w : Nat) : Decoded :=
  if w % 2048 = 0 ∧ w / 2097152 % 32 = 0 then .ok (.sysSave (BitVec.ofNat 5 (w / 65536)) (BitVec.ofNat 5 (w / 2048)))
  else if w % 2048 = 1 ∧ w / 2097152 % 32 = 0 then .ok (.sysRest (BitVec.ofNat 5 (w / 65536)) (BitVec.ofNat 5 (w / 2048)))
  else if w % 65536 = 2 ∧ w / 2097152 % 32 = 0 then .ok (.sysWorld (BitVec.ofNat 5 (w / 65536)))
  else if w % 65536 = 3 ∧ w / 2097152 % 32 = 0 then .ok (.sysShoot (BitVec.ofNat 5 (w / 65536)))
  else .bad .privReserved

/-- Decoding a word of the memory slot (R65), by its primary opcode. -/
def decM (w : Nat) : Decoded :=
  match w / 67108864 with
  | 0 => if w = 0 then .ok .nop else .bad .reservedField
  | 1 => decM1 w
  | 2 => decM2 w
  | 3 => decM3 w
  | 4 => decM4 w
  | 5 => decM5 w
  | 6 => decM6 w
  | 7 => decM7 w
  | 8 => decM8 w
  | 9 => decM9 w
  | 10 => decM10 w
  | 11 => decM11 w
  | 12 => decM12 w
  | 13 => decM13 w
  | 14 => decM14 w
  | 15 => decM15 w
  | 16 => decM16 w
  | 17 => decM17 w
  | 18 => decM18 w
  | 19 => decM19 w
  | 20 => decM20 w
  | 21 => decM21 w
  | 22 => decM22 w
  | 23 => decM23 w
  | 24 => decM24 w
  | 25 => decM25 w
  | 26 => decM26 w
  | 27 => decM27 w
  | 28 => decM28 w
  | 29 => decM29 w
  | 30 => decM30 w
  | 31 => decM31 w
  | 32 => decM32 w
  | 33 => decM33 w
  | 34 => decM34 w
  | 35 => decM35 w
  | 36 => decM36 w
  | 37 => decM37 w
  | 38 => decM38 w
  | 39 => decM39 w
  | 40 => decM40 w
  | 41 => decM41 w
  | 42 => decM42 w
  | _ => .bad .illegalOpcode

/-- The word of a slot instruction, from the layouts of R54 and R56 to R59; 0 for every other step. -/
def encode : Instr → Nat
  | .nop => 0
  | .xhdr e f g => 4026531840 + e.toNat * 65536 + f.toNat * 256 + g.toNat
  | .add d a b => 67108864 + d.toNat * 2097152 + a.toNat * 65536 + b.toNat * 2048
  | .sub d a b => 67108865 + d.toNat * 2097152 + a.toNat * 65536 + b.toNat * 2048
  | .and d a b => 67108866 + d.toNat * 2097152 + a.toNat * 65536 + b.toNat * 2048
  | .or d a b => 67108867 + d.toNat * 2097152 + a.toNat * 65536 + b.toNat * 2048
  | .xor d a b => 67108868 + d.toNat * 2097152 + a.toNat * 65536 + b.toNat * 2048
  | .andn d a b => 67108869 + d.toNat * 2097152 + a.toNat * 65536 + b.toNat * 2048
  | .shl d a b => 67108870 + d.toNat * 2097152 + a.toNat * 65536 + b.toNat * 2048
  | .shr d a b => 67108871 + d.toNat * 2097152 + a.toNat * 65536 + b.toNat * 2048
  | .sar d a b => 67108872 + d.toNat * 2097152 + a.toNat * 65536 + b.toNat * 2048
  | .rol d a b => 67108873 + d.toNat * 2097152 + a.toNat * 65536 + b.toNat * 2048
  | .ror d a b => 67108874 + d.toNat * 2097152 + a.toNat * 65536 + b.toNat * 2048
  | .min d a b => 67108875 + d.toNat * 2097152 + a.toNat * 65536 + b.toNat * 2048
  | .max d a b => 67108876 + d.toNat * 2097152 + a.toNat * 65536 + b.toNat * 2048
  | .minu d a b => 67108877 + d.toNat * 2097152 + a.toNat * 65536 + b.toNat * 2048
  | .maxu d a b => 67108878 + d.toNat * 2097152 + a.toNat * 65536 + b.toNat * 2048
  | .slt d a b => 67108879 + d.toNat * 2097152 + a.toNat * 65536 + b.toNat * 2048
  | .sltu d a b => 67108880 + d.toNat * 2097152 + a.toNat * 65536 + b.toNat * 2048
  | .seq d a b => 67108881 + d.toNat * 2097152 + a.toNat * 65536 + b.toNat * 2048
  | .sne d a b => 67108882 + d.toNat * 2097152 + a.toNat * 65536 + b.toNat * 2048
  | .addi d a i => 134217728 + d.toNat * 2097152 + a.toNat * 65536 + i.toNat
  | .andi d a i => 201326592 + d.toNat * 2097152 + a.toNat * 65536 + i.toNat
  | .ori d a i => 268435456 + d.toNat * 2097152 + a.toNat * 65536 + i.toNat
  | .xori d a i => 335544320 + d.toNat * 2097152 + a.toNat * 65536 + i.toNat
  | .slti d a i => 402653184 + d.toNat * 2097152 + a.toNat * 65536 + i.toNat
  | .sltiu d a i => 469762048 + d.toNat * 2097152 + a.toNat * 65536 + i.toNat
  | .shli d a c => 536870912 + d.toNat * 2097152 + a.toNat * 65536 + c.toNat
  | .shri d a c => 536870976 + d.toNat * 2097152 + a.toNat * 65536 + c.toNat
  | .sari d a c => 536871040 + d.toNat * 2097152 + a.toNat * 65536 + c.toNat
  | .roli d a c => 536871104 + d.toNat * 2097152 + a.toNat * 65536 + c.toNat
  | .movi d i => 603979776 + d.toNat * 2097152 + i.toNat
  | .movk d p i => 671088640 + d.toNat * 2097152 + p.toNat * 65536 + i.toNat
  | .mul d a b => 738197504 + d.toNat * 2097152 + a.toNat * 65536 + b.toNat * 2048
  | .mulh d a b => 738197505 + d.toNat * 2097152 + a.toNat * 65536 + b.toNat * 2048
  | .mulhu d a b => 738197506 + d.toNat * 2097152 + a.toNat * 65536 + b.toNat * 2048
  | .mulhsu d a b => 738197507 + d.toNat * 2097152 + a.toNat * 65536 + b.toNat * 2048
  | .div d a b => 805306368 + d.toNat * 2097152 + a.toNat * 65536 + b.toNat * 2048
  | .divu d a b => 805306369 + d.toNat * 2097152 + a.toNat * 65536 + b.toNat * 2048
  | .rem d a b => 805306370 + d.toNat * 2097152 + a.toNat * 65536 + b.toNat * 2048
  | .remu d a b => 805306371 + d.toNat * 2097152 + a.toNat * 65536 + b.toNat * 2048
  | .clz d a => 872415232 + d.toNat * 2097152 + a.toNat * 65536
  | .ctz d a => 872415233 + d.toNat * 2097152 + a.toNat * 65536
  | .popc d a => 872415234 + d.toNat * 2097152 + a.toNat * 65536
  | .brev d a => 872415235 + d.toNat * 2097152 + a.toNat * 65536
  | .bytrev d a => 872415236 + d.toNat * 2097152 + a.toNat * 65536
  | .bfx d a b => 939524096 + d.toNat * 2097152 + a.toNat * 65536 + b.toNat * 2048
  | .bfxz d a b => 939524097 + d.toNat * 2097152 + a.toNat * 65536 + b.toNat * 2048
  | .bfxi d a w o => 1006632960 + d.toNat * 2097152 + a.toNat * 65536 + w.toNat * 64 + o.toNat
  | .bfi d a b => 1073741824 + d.toNat * 2097152 + a.toNat * 65536 + b.toNat * 2048
  | .bfii d a w o => 1140850688 + d.toNat * 2097152 + a.toNat * 65536 + w.toNat * 64 + o.toNat
  | .sel d a b c => 1207959552 + d.toNat * 2097152 + a.toNat * 65536 + b.toNat * 2048 + c.toNat * 64
  | .beq a b o => 1275068416 + a.toNat * 2097152 + b.toNat * 65536 + o.toNat
  | .bne a b o => 1275076608 + a.toNat * 2097152 + b.toNat * 65536 + o.toNat
  | .blt a b o => 1275084800 + a.toNat * 2097152 + b.toNat * 65536 + o.toNat
  | .bge a b o => 1275092992 + a.toNat * 2097152 + b.toNat * 65536 + o.toNat
  | .bltu a b o => 1275101184 + a.toNat * 2097152 + b.toNat * 65536 + o.toNat
  | .bgeu a b o => 1275109376 + a.toNat * 2097152 + b.toNat * 65536 + o.toNat
  | .j o => 1342177280 + o.toNat
  | .jal o => 1409286144 + o.toNat
  | .jr d a => 1476395008 + d.toNat * 2097152 + a.toNat * 65536
  | .loop a o => 1543503872 + a.toNat * 2097152 + o.toNat
  | .loopi n o => 1610612736 + n.toNat * 8192 + o.toNat
  | .jbank d i => 1677721600 + d.toNat * 2097152 + i.toNat
  | .mfs d i => 1744830464 + d.toNat * 2097152 + i.toNat
  | .mts a i => 1811939328 + a.toNat * 65536 + i.toNat
  | .stop => 1879048192
  | .yield => 1879048193
  | .brk => 1879048194
  | .trap a => 1879048195 + a.toNat * 65536
  | .ecall i => 1946157056 + i.toNat
  | .vadd d a b p t => 67108864 + d.toNat * 2097152 + a.toNat * 65536 + b.toNat * 2048 + p.toNat * 256 + t.toNat * 32
  | .vsub d a b p t => 134217728 + d.toNat * 2097152 + a.toNat * 65536 + b.toNat * 2048 + p.toNat * 256 + t.toNat * 32
  | .vmul d a b p t => 201326592 + d.toNat * 2097152 + a.toNat * 65536 + b.toNat * 2048 + p.toNat * 256 + t.toNat * 32
  | .vfma d a b p t => 268435456 + d.toNat * 2097152 + a.toNat * 65536 + b.toNat * 2048 + p.toNat * 256 + t.toNat * 32
  | .vfms d a b p t => 335544320 + d.toNat * 2097152 + a.toNat * 65536 + b.toNat * 2048 + p.toNat * 256 + t.toNat * 32
  | .vfnma d a b p t => 402653184 + d.toNat * 2097152 + a.toNat * 65536 + b.toNat * 2048 + p.toNat * 256 + t.toNat * 32
  | .vmin d a b p t => 469762048 + d.toNat * 2097152 + a.toNat * 65536 + b.toNat * 2048 + p.toNat * 256 + t.toNat * 32
  | .vmax d a b p t => 536870912 + d.toNat * 2097152 + a.toNat * 65536 + b.toNat * 2048 + p.toNat * 256 + t.toNat * 32
  | .vdiv d a b p t => 603979776 + d.toNat * 2097152 + a.toNat * 65536 + b.toNat * 2048 + p.toNat * 256 + t.toNat * 32
  | .vsqrt d a p t => 671088640 + d.toNat * 2097152 + a.toNat * 65536 + p.toNat * 256 + t.toNat * 32
  | .vrcp d a p t => 738197504 + d.toNat * 2097152 + a.toNat * 65536 + p.toNat * 256 + t.toNat * 32
  | .vrsq d a p t => 738197505 + d.toNat * 2097152 + a.toNat * 65536 + p.toNat * 256 + t.toNat * 32
  | .vexp2 d a p t => 738197506 + d.toNat * 2097152 + a.toNat * 65536 + p.toNat * 256 + t.toNat * 32
  | .vlog2 d a p t => 738197507 + d.toNat * 2097152 + a.toNat * 65536 + p.toNat * 256 + t.toNat * 32
  | .vtanh d a p t => 738197508 + d.toNat * 2097152 + a.toNat * 65536 + p.toNat * 256 + t.toNat * 32
  | .vcvt d a k p t u r => 805306368 + d.toNat * 2097152 + a.toNat * 65536 + k.toNat * 2048 + p.toNat * 256 + t.toNat * 32 + u.toNat * 4 + r.toNat
  | .vcmpEq q a b p t => 872415232 + q.toNat * 2097152 + a.toNat * 65536 + b.toNat * 2048 + p.toNat * 256 + t.toNat * 32
  | .vcmpNe q a b p t => 872415233 + q.toNat * 2097152 + a.toNat * 65536 + b.toNat * 2048 + p.toNat * 256 + t.toNat * 32
  | .vcmpLt q a b p t => 872415234 + q.toNat * 2097152 + a.toNat * 65536 + b.toNat * 2048 + p.toNat * 256 + t.toNat * 32
  | .vcmpLe q a b p t => 872415235 + q.toNat * 2097152 + a.toNat * 65536 + b.toNat * 2048 + p.toNat * 256 + t.toNat * 32
  | .vcmpGt q a b p t => 872415236 + q.toNat * 2097152 + a.toNat * 65536 + b.toNat * 2048 + p.toNat * 256 + t.toNat * 32
  | .vcmpGe q a b p t => 872415237 + q.toNat * 2097152 + a.toNat * 65536 + b.toNat * 2048 + p.toNat * 256 + t.toNat * 32
  | .vcmpUnord q a b p t => 872415238 + q.toNat * 2097152 + a.toNat * 65536 + b.toNat * 2048 + p.toNat * 256 + t.toNat * 32
  | .vcmpOrd q a b p t => 872415239 + q.toNat * 2097152 + a.toNat * 65536 + b.toNat * 2048 + p.toNat * 256 + t.toNat * 32
  | .vsel d a b p => 939524096 + d.toNat * 2097152 + a.toNat * 65536 + b.toNat * 2048 + p.toNat * 256
  | .vand d a b p => 1006632960 + d.toNat * 2097152 + a.toNat * 65536 + b.toNat * 2048 + p.toNat * 256
  | .vor d a b p => 1006632961 + d.toNat * 2097152 + a.toNat * 65536 + b.toNat * 2048 + p.toNat * 256
  | .vxor d a b p => 1006632962 + d.toNat * 2097152 + a.toNat * 65536 + b.toNat * 2048 + p.toNat * 256
  | .vandn d a b p => 1006632963 + d.toNat * 2097152 + a.toNat * 65536 + b.toNat * 2048 + p.toNat * 256
  | .vnot d a p => 1006632964 + d.toNat * 2097152 + a.toNat * 65536 + p.toNat * 256
  | .vshl d a b p t => 1073741824 + d.toNat * 2097152 + a.toNat * 65536 + b.toNat * 2048 + p.toNat * 256 + t.toNat * 32
  | .vshr d a b p t => 1073741825 + d.toNat * 2097152 + a.toNat * 65536 + b.toNat * 2048 + p.toNat * 256 + t.toNat * 32
  | .vsar d a b p t => 1073741826 + d.toNat * 2097152 + a.toNat * 65536 + b.toNat * 2048 + p.toNat * 256 + t.toNat * 32
  | .vshli d a c t => 1140850688 + d.toNat * 2097152 + a.toNat * 65536 + c.toNat * 256 + t.toNat * 32
  | .vshri d a c t => 1140850689 + d.toNat * 2097152 + a.toNat * 65536 + c.toNat * 256 + t.toNat * 32
  | .vsari d a c t => 1140850690 + d.toNat * 2097152 + a.toNat * 65536 + c.toNat * 256 + t.toNat * 32
  | .vadds d a b p t => 1207959552 + d.toNat * 2097152 + a.toNat * 65536 + b.toNat * 2048 + p.toNat * 256 + t.toNat * 32
  | .vsubs d a b p t => 1207959553 + d.toNat * 2097152 + a.toNat * 65536 + b.toNat * 2048 + p.toNat * 256 + t.toNat * 32
  | .vabs d a p t => 1275068416 + d.toNat * 2097152 + a.toNat * 65536 + p.toNat * 256 + t.toNat * 32
  | .vneg d a p t => 1275068417 + d.toNat * 2097152 + a.toNat * 65536 + p.toNat * 256 + t.toNat * 32
  | .vclz d a p t => 1275068418 + d.toNat * 2097152 + a.toNat * 65536 + p.toNat * 256 + t.toNat * 32
  | .vpopc d a p t => 1275068419 + d.toNat * 2097152 + a.toNat * 65536 + p.toNat * 256 + t.toNat * 32
  | .vmov d a p => 1342177280 + d.toNat * 2097152 + a.toNat * 65536 + p.toNat * 256
  | .vbcast d sf p t => 1409286144 + d.toNat * 2097152 + sf.toNat * 65536 + p.toNat * 256 + t.toNat * 32
  | .vext d a b t => 1476395008 + d.toNat * 2097152 + a.toNat * 65536 + b.toNat * 2048 + t.toNat * 32
  | .vins d sf b p t => 1543503872 + d.toNat * 2097152 + sf.toNat * 65536 + b.toNat * 2048 + p.toNat * 256 + t.toNat * 32
  | .vimm d i t => 1610612736 + d.toNat * 2097152 + i.toNat * 256 + t.toNat * 32
  | .vredAdd d a p t sf => 1677721600 + d.toNat * 2097152 + a.toNat * 65536 + p.toNat * 256 + t.toNat * 32 + sf.toNat * 8
  | .vredMin d a p t sf => 1677721601 + d.toNat * 2097152 + a.toNat * 65536 + p.toNat * 256 + t.toNat * 32 + sf.toNat * 8
  | .vredMax d a p t sf => 1677721602 + d.toNat * 2097152 + a.toNat * 65536 + p.toNat * 256 + t.toNat * 32 + sf.toNat * 8
  | .vshuf d a b p => 1744830464 + d.toNat * 2097152 + a.toNat * 65536 + b.toNat * 2048 + p.toNat * 256
  | .vpat d a n p w h => 1811939328 + d.toNat * 2097152 + a.toNat * 65536 + n.toNat * 2048 + p.toNat * 256 + w.toNat * 2 + h.toNat
  | .xcopy d a b p c => 1879048192 + d.toNat * 2097152 + a.toNat * 65536 + b.toNat * 2048 + p.toNat * 256 + c.toNat
  | .vtopk d a p t sf k => 1946157056 + d.toNat * 2097152 + a.toNat * 65536 + p.toNat * 256 + t.toNat * 32 + sf.toNat * 8 + k.toNat
  | .viota d p t => 2013265920 + d.toNat * 2097152 + p.toNat * 256 + t.toNat * 32
  | .viotaCnt d p t => 2013265921 + d.toNat * 2097152 + p.toNat * 256 + t.toNat * 32
  | .pand d a b => 2080374784 + d.toNat * 2097152 + a.toNat * 65536 + b.toNat * 2048
  | .por d a b => 2080374785 + d.toNat * 2097152 + a.toNat * 65536 + b.toNat * 2048
  | .pxor d a b => 2080374786 + d.toNat * 2097152 + a.toNat * 65536 + b.toNat * 2048
  | .pnot d a => 2080374787 + d.toNat * 2097152 + a.toNat * 65536
  | .pmov d a => 2080374788 + d.toNat * 2097152 + a.toNat * 65536
  | .pcnt d a p => 2147483648 + d.toNat * 2097152 + a.toNat * 65536 + p.toNat * 256
  | .pfirst d a p => 2147483649 + d.toNat * 2097152 + a.toNat * 65536 + p.toNat * 256
  | .rqpop d a p f k => 2214592512 + d.toNat * 2097152 + a.toNat * 65536 + p.toNat * 256 + f.toNat * 8 + k.toNat
  | .tmmaWs t a b f z sf => 67108864 + t.toNat * 4194304 + a.toNat * 262144 + b.toNat * 16384 + f.toNat * 4096 + z.toNat * 512 + sf.toNat * 256
  | .tmmaGr t a b f z sf => 67109888 + t.toNat * 4194304 + a.toNat * 262144 + b.toNat * 16384 + f.toNat * 4096 + z.toNat * 512 + sf.toNat * 256
  | .tmmaCs t a b f z sf => 67110912 + t.toNat * 4194304 + a.toNat * 262144 + b.toNat * 16384 + f.toNat * 4096 + z.toNat * 512 + sf.toNat * 256
  | .tzero t k sf => 134217728 + t.toNat * 4194304 + k.toNat * 16 + sf.toNat
  | .tldc t d sf => 201326592 + t.toNat * 4194304 + d.toNat * 131072 + sf.toNat
  | .tstc t d => 268435456 + t.toNat * 4194304 + d.toNat * 131072
  | .tdrainF t d a r b => 335544320 + t.toNat * 4194304 + d.toNat * 131072 + a.toNat * 4096 + r.toNat * 2 + b.toNat
  | .tdrainBf t d a r b => 335544336 + t.toNat * 4194304 + d.toNat * 131072 + a.toNat * 4096 + r.toNat * 2 + b.toNat
  | .tdrainRaw t d => 335544352 + t.toNat * 4194304 + d.toNat * 131072
  | .tsclA t d k g h => 402653184 + t.toNat * 4194304 + d.toNat * 131072 + k.toNat * 128 + g.toNat * 4 + h.toNat * 2
  | .tsclB t d k g => 402653185 + t.toNat * 4194304 + d.toNat * 131072 + k.toNat * 128 + g.toNat * 4
  | .tldb t d => 469762048 + t.toNat * 4194304 + d.toNat * 131072
  | .setfmt t a => 536870912 + t.toNat * 4194304 + a.toNat * 4096
  | .tdld t d i => 603979776 + t.toNat * 4194304 + d.toNat * 131072 + i.toNat
  | .tdsetBase t a => 671088640 + t.toNat * 4194304 + a.toNat * 4096
  | .tdsetShape t a => 671088656 + t.toNat * 4194304 + a.toNat * 4096
  | .tdsetLayout t a => 671088672 + t.toNat * 4194304 + a.toNat * 4096
  | .tdsetSbase t a => 671088688 + t.toNat * 4194304 + a.toNat * 4096
  | .tdsetSub t d a => 671088704 + t.toNat * 4194304 + d.toNat * 131072 + a.toNat * 4096
  | .tdsetMov t d => 671088720 + t.toNat * 4194304 + d.toNat * 131072
  | .tsend t a b => 738197504 + t.toNat * 4194304 + a.toNat * 4096 + b.toNat * 128
  | .xspec d => 805306368 + d.toNat * 131072
  | .xcfm a => 805306384 + a.toNat * 4096
  | .xsq a => 805306400 + a.toNat * 4096
  | .xtagq d a f => 805306416 + d.toNat * 131072 + a.toNat * 4096 + f.toNat
  | .xpred t d a b k => 872415232 + t.toNat * 4194304 + d.toNat * 131072 + a.toNat * 4096 + b.toNat * 128 + k.toNat * 16
  | .xtrain t a b => 939524096 + t.toNat * 4194304 + a.toNat * 4096 + b.toNat * 128
  | .xres t d a b f g => 1006632960 + t.toNat * 4194304 + d.toNat * 131072 + a.toNat * 4096 + b.toNat * 128 + f.toNat * 16 + g.toNat
  | .xmiss t d a b => 1073741824 + t.toNat * 4194304 + d.toNat * 131072 + a.toNat * 4096 + b.toNat * 128
  | .xlook d a => 1140850688 + d.toNat * 131072 + a.toNat * 4096
  | .xins a b => 1207959552 + a.toNat * 4096 + b.toNat * 128
  | .xinv a => 1207959568 + a.toNat * 4096
  | .xrdt d a => 1207959584 + d.toNat * 131072 + a.toNat * 4096
  | .xpin a b => 1207959600 + a.toNat * 4096 + b.toNat * 128
  | .seedscan t d a b => 1275068416 + t.toNat * 4194304 + d.toNat * 131072 + a.toNat * 4096 + b.toNat * 128
  | .grx t d => 1342177280 + t.toNat * 4194304 + d.toNat * 131072
  | .tmov t d => 1409286144 + t.toNat * 4194304 + d.toNat * 131072
  | .tacc t d sf => 1476395008 + t.toNat * 4194304 + d.toNat * 131072 + sf.toNat * 16
  | .ld d h c z o => 67108864 + d.toNat * 2097152 + h.toNat * 131072 + c.toNat * 8192 + z.toNat * 1024 + o.toNat
  | .st d h c z o => 134217728 + d.toNat * 2097152 + h.toNat * 131072 + c.toNat * 8192 + z.toNat * 1024 + o.toNat
  | .ldx d h c z b => 201326592 + d.toNat * 2097152 + h.toNat * 131072 + c.toNat * 8192 + z.toNat * 1024 + b.toNat * 32
  | .stx d h c z b => 268435456 + d.toNat * 2097152 + h.toNat * 131072 + c.toNat * 8192 + z.toNat * 1024 + b.toNat * 32
  | .lda d h c z sf o => 335544320 + d.toNat * 2097152 + h.toNat * 131072 + c.toNat * 8192 + z.toNat * 1024 + sf.toNat * 128 + o.toNat
  | .stl d h c z sf o => 402653184 + d.toNat * 2097152 + h.toNat * 131072 + c.toNat * 8192 + z.toNat * 1024 + sf.toNat * 128 + o.toNat
  | .vld d h c z o => 469762048 + d.toNat * 2097152 + h.toNat * 131072 + c.toNat * 8192 + z.toNat * 1024 + o.toNat
  | .vst d h c z o => 536870912 + d.toNat * 2097152 + h.toNat * 131072 + c.toNat * 8192 + z.toNat * 1024 + o.toNat
  | .vlds d h c z b => 603979776 + d.toNat * 2097152 + h.toNat * 131072 + c.toNat * 8192 + z.toNat * 1024 + b.toNat * 32
  | .vsts d h c z b => 671088640 + d.toNat * 2097152 + h.toNat * 131072 + c.toNat * 8192 + z.toNat * 1024 + b.toNat * 32
  | .vgath d h c z b => 738197504 + d.toNat * 2097152 + h.toNat * 131072 + c.toNat * 8192 + z.toNat * 1024 + b.toNat * 32
  | .vscat d h c z b => 805306368 + d.toNat * 2097152 + h.toNat * 131072 + c.toNat * 8192 + z.toNat * 1024 + b.toNat * 32
  | .trans d a => 872415232 + d.toNat * 2097152 + a.toNat * 65536
  | .hchk d a => 939524096 + d.toNat * 2097152 + a.toNat * 65536
  | .hrel a => 939524097 + a.toNat * 65536
  | .hmov d a => 939524098 + d.toNat * 2097152 + a.toNat * 65536
  | .hinfo d a => 939524099 + d.toNat * 2097152 + a.toNat * 65536
  | .fence sf i => 1006632960 + sf.toNat * 65536 + i.toNat
  | .xdfi d i => 1073741824 + d.toNat * 2097152 + i.toNat
  | .xdfw a => 1140850688 + a.toNat * 65536
  | .qpush n a => 1207959552 + n.toNat * 2097152 + a.toNat * 65536
  | .qpop d n => 1275068416 + d.toNat * 2097152 + n.toNat * 65536
  | .vqpush n a k f => 1342177280 + n.toNat * 2097152 + a.toNat * 65536 + k.toNat * 2048 + f.toNat * 8
  | .vqpop d n k f => 1409286144 + d.toNat * 2097152 + n.toNat * 65536 + k.toNat * 2048 + f.toNat * 8
  | .qstat d n => 1476395008 + d.toNat * 2097152 + n.toNat * 65536
  | .qcfg n a => 1543503872 + n.toNat * 2097152 + a.toNat * 65536
  | .strq n h b v z => 1610612736 + n.toNat * 2097152 + h.toNat * 65536 + b.toNat * 2048 + v.toNat * 4 + z.toNat
  | .qrq m n => 1677721600 + m.toNat * 2097152 + n.toNat * 65536
  | .cpy d a b n => 1744830464 + d.toNat * 2097152 + a.toNat * 65536 + b.toNat * 2048 + n.toNat
  | .cpya d a b n => 1811939328 + d.toNat * 2097152 + a.toNat * 65536 + b.toNat * 2048 + n.toNat
  | .tlwait a n => 1879048192 + a.toNat * 65536 + n.toNat * 2048
  | .tlrd d n => 1946157056 + d.toNat * 2097152 + n.toNat * 2048
  | .fladdArr a sf => 2013265920 + a.toNat * 65536 + sf.toNat * 16
  | .fladdDrop a sf => 2013265921 + a.toNat * 65536 + sf.toNat * 16
  | .fladdAdd a b sf => 2013265922 + a.toNat * 65536 + b.toNat * 2048 + sf.toNat * 16
  | .flset d a b sf n => 2080374784 + d.toNat * 2097152 + a.toNat * 65536 + b.toNat * 2048 + sf.toNat * 64 + n.toNat
  | .flwaitEq d a b sf => 2147483648 + d.toNat * 2097152 + a.toNat * 65536 + b.toNat * 2048 + sf.toNat * 16
  | .flwaitGe d a b sf => 2147483649 + d.toNat * 2097152 + a.toNat * 65536 + b.toNat * 2048 + sf.toNat * 16
  | .flwaitBar d a sf => 2147483650 + d.toNat * 2097152 + a.toNat * 65536 + sf.toNat * 16
  | .nbpv d a b sf k => 2214592512 + d.toNat * 2097152 + a.toNat * 65536 + b.toNat * 2048 + sf.toNat * 16 + k.toNat
  | .nbrd d a sf => 2281701376 + d.toNat * 2097152 + a.toNat * 65536 + sf.toNat * 16
  | .nbrdSt d a sf => 2281701377 + d.toNat * 2097152 + a.toNat * 65536 + sf.toNat * 16
  | .nbrdMask k a sf => 2281701378 + k.toNat * 2097152 + a.toNat * 65536 + sf.toNat * 16
  | .nbrdVm d k q => 2281701379 + d.toNat * 2097152 + k.toNat * 65536 + q.toNat * 4
  | .nbclr a => 2348810240 + a.toNat * 65536
  | .istore a b => 2415919104 + a.toNat * 65536 + b.toNat * 2048
  | .ifence => 2483027968
  | .collAr d a b w o => 2550136832 + d.toNat * 2097152 + a.toNat * 65536 + b.toNat * 2048 + w.toNat * 32 + o.toNat * 8
  | .collRs d a b w o => 2550136833 + d.toNat * 2097152 + a.toNat * 65536 + b.toNat * 2048 + w.toNat * 32 + o.toNat * 8
  | .collAg d a b => 2550136834 + d.toNat * 2097152 + a.toNat * 65536 + b.toNat * 2048
  | .collBc d a b => 2550136835 + d.toNat * 2097152 + a.toNat * 65536 + b.toNat * 2048
  | .collA2a d a b => 2550136836 + d.toNat * 2097152 + a.toNat * 65536 + b.toNat * 2048
  | .grpMk d a b => 2617245696 + d.toNat * 2097152 + a.toNat * 65536 + b.toNat * 2048
  | .grpFree a => 2617245697 + a.toNat * 65536
  | .grpQ d a => 2617245698 + d.toNat * 2097152 + a.toNat * 65536
  | .discard a b i => 2684354560 + a.toNat * 65536 + b.toNat * 2048 + i.toNat
  | .evrd d a => 2751463424 + d.toNat * 2097152 + a.toNat * 65536
  | .sysSave a b => 2818572288 + a.toNat * 65536 + b.toNat * 2048
  | .sysRest a b => 2818572289 + a.toNat * 65536 + b.toNat * 2048
  | .sysWorld a => 2818572290 + a.toNat * 65536
  | .sysShoot a => 2818572291 + a.toNat * 65536
  | _ => 0

/-- The slot class of an instruction: 0 C, 1 V, 2 T, 3 M; none for a step that no slot word holds. A `nop` stands in every slot. -/
def slotOf : Instr → Option Nat
  | .nop => some 0
  | .xhdr _ _ _ => some 0
  | .add _ _ _ => some 0
  | .sub _ _ _ => some 0
  | .and _ _ _ => some 0
  | .or _ _ _ => some 0
  | .xor _ _ _ => some 0
  | .andn _ _ _ => some 0
  | .shl _ _ _ => some 0
  | .shr _ _ _ => some 0
  | .sar _ _ _ => some 0
  | .rol _ _ _ => some 0
  | .ror _ _ _ => some 0
  | .min _ _ _ => some 0
  | .max _ _ _ => some 0
  | .minu _ _ _ => some 0
  | .maxu _ _ _ => some 0
  | .slt _ _ _ => some 0
  | .sltu _ _ _ => some 0
  | .seq _ _ _ => some 0
  | .sne _ _ _ => some 0
  | .addi _ _ _ => some 0
  | .andi _ _ _ => some 0
  | .ori _ _ _ => some 0
  | .xori _ _ _ => some 0
  | .slti _ _ _ => some 0
  | .sltiu _ _ _ => some 0
  | .shli _ _ _ => some 0
  | .shri _ _ _ => some 0
  | .sari _ _ _ => some 0
  | .roli _ _ _ => some 0
  | .movi _ _ => some 0
  | .movk _ _ _ => some 0
  | .mul _ _ _ => some 0
  | .mulh _ _ _ => some 0
  | .mulhu _ _ _ => some 0
  | .mulhsu _ _ _ => some 0
  | .div _ _ _ => some 0
  | .divu _ _ _ => some 0
  | .rem _ _ _ => some 0
  | .remu _ _ _ => some 0
  | .clz _ _ => some 0
  | .ctz _ _ => some 0
  | .popc _ _ => some 0
  | .brev _ _ => some 0
  | .bytrev _ _ => some 0
  | .bfx _ _ _ => some 0
  | .bfxz _ _ _ => some 0
  | .bfxi _ _ _ _ => some 0
  | .bfi _ _ _ => some 0
  | .bfii _ _ _ _ => some 0
  | .sel _ _ _ _ => some 0
  | .beq _ _ _ => some 0
  | .bne _ _ _ => some 0
  | .blt _ _ _ => some 0
  | .bge _ _ _ => some 0
  | .bltu _ _ _ => some 0
  | .bgeu _ _ _ => some 0
  | .j _ => some 0
  | .jal _ => some 0
  | .jr _ _ => some 0
  | .loop _ _ => some 0
  | .loopi _ _ => some 0
  | .jbank _ _ => some 0
  | .mfs _ _ => some 0
  | .mts _ _ => some 0
  | .stop => some 0
  | .yield => some 0
  | .brk => some 0
  | .trap _ => some 0
  | .ecall _ => some 0
  | .vadd _ _ _ _ _ => some 1
  | .vsub _ _ _ _ _ => some 1
  | .vmul _ _ _ _ _ => some 1
  | .vfma _ _ _ _ _ => some 1
  | .vfms _ _ _ _ _ => some 1
  | .vfnma _ _ _ _ _ => some 1
  | .vmin _ _ _ _ _ => some 1
  | .vmax _ _ _ _ _ => some 1
  | .vdiv _ _ _ _ _ => some 1
  | .vsqrt _ _ _ _ => some 1
  | .vrcp _ _ _ _ => some 1
  | .vrsq _ _ _ _ => some 1
  | .vexp2 _ _ _ _ => some 1
  | .vlog2 _ _ _ _ => some 1
  | .vtanh _ _ _ _ => some 1
  | .vcvt _ _ _ _ _ _ _ => some 1
  | .vcmpEq _ _ _ _ _ => some 1
  | .vcmpNe _ _ _ _ _ => some 1
  | .vcmpLt _ _ _ _ _ => some 1
  | .vcmpLe _ _ _ _ _ => some 1
  | .vcmpGt _ _ _ _ _ => some 1
  | .vcmpGe _ _ _ _ _ => some 1
  | .vcmpUnord _ _ _ _ _ => some 1
  | .vcmpOrd _ _ _ _ _ => some 1
  | .vsel _ _ _ _ => some 1
  | .vand _ _ _ _ => some 1
  | .vor _ _ _ _ => some 1
  | .vxor _ _ _ _ => some 1
  | .vandn _ _ _ _ => some 1
  | .vnot _ _ _ => some 1
  | .vshl _ _ _ _ _ => some 1
  | .vshr _ _ _ _ _ => some 1
  | .vsar _ _ _ _ _ => some 1
  | .vshli _ _ _ _ => some 1
  | .vshri _ _ _ _ => some 1
  | .vsari _ _ _ _ => some 1
  | .vadds _ _ _ _ _ => some 1
  | .vsubs _ _ _ _ _ => some 1
  | .vabs _ _ _ _ => some 1
  | .vneg _ _ _ _ => some 1
  | .vclz _ _ _ _ => some 1
  | .vpopc _ _ _ _ => some 1
  | .vmov _ _ _ => some 1
  | .vbcast _ _ _ _ => some 1
  | .vext _ _ _ _ => some 1
  | .vins _ _ _ _ _ => some 1
  | .vimm _ _ _ => some 1
  | .vredAdd _ _ _ _ _ => some 1
  | .vredMin _ _ _ _ _ => some 1
  | .vredMax _ _ _ _ _ => some 1
  | .vshuf _ _ _ _ => some 1
  | .vpat _ _ _ _ _ _ => some 1
  | .xcopy _ _ _ _ _ => some 1
  | .vtopk _ _ _ _ _ _ => some 1
  | .viota _ _ _ => some 1
  | .viotaCnt _ _ _ => some 1
  | .pand _ _ _ => some 1
  | .por _ _ _ => some 1
  | .pxor _ _ _ => some 1
  | .pnot _ _ => some 1
  | .pmov _ _ => some 1
  | .pcnt _ _ _ => some 1
  | .pfirst _ _ _ => some 1
  | .rqpop _ _ _ _ _ => some 1
  | .tmmaWs _ _ _ _ _ _ => some 2
  | .tmmaGr _ _ _ _ _ _ => some 2
  | .tmmaCs _ _ _ _ _ _ => some 2
  | .tzero _ _ _ => some 2
  | .tldc _ _ _ => some 2
  | .tstc _ _ => some 2
  | .tdrainF _ _ _ _ _ => some 2
  | .tdrainBf _ _ _ _ _ => some 2
  | .tdrainRaw _ _ => some 2
  | .tsclA _ _ _ _ _ => some 2
  | .tsclB _ _ _ _ => some 2
  | .tldb _ _ => some 2
  | .setfmt _ _ => some 2
  | .tdld _ _ _ => some 2
  | .tdsetBase _ _ => some 2
  | .tdsetShape _ _ => some 2
  | .tdsetLayout _ _ => some 2
  | .tdsetSbase _ _ => some 2
  | .tdsetSub _ _ _ => some 2
  | .tdsetMov _ _ => some 2
  | .tsend _ _ _ => some 2
  | .xspec _ => some 2
  | .xcfm _ => some 2
  | .xsq _ => some 2
  | .xtagq _ _ _ => some 2
  | .xpred _ _ _ _ _ => some 2
  | .xtrain _ _ _ => some 2
  | .xres _ _ _ _ _ _ => some 2
  | .xmiss _ _ _ _ => some 2
  | .xlook _ _ => some 2
  | .xins _ _ => some 2
  | .xinv _ => some 2
  | .xrdt _ _ => some 2
  | .xpin _ _ => some 2
  | .seedscan _ _ _ _ => some 2
  | .grx _ _ => some 2
  | .tmov _ _ => some 2
  | .tacc _ _ _ => some 2
  | .ld _ _ _ _ _ => some 3
  | .st _ _ _ _ _ => some 3
  | .ldx _ _ _ _ _ => some 3
  | .stx _ _ _ _ _ => some 3
  | .lda _ _ _ _ _ _ => some 3
  | .stl _ _ _ _ _ _ => some 3
  | .vld _ _ _ _ _ => some 3
  | .vst _ _ _ _ _ => some 3
  | .vlds _ _ _ _ _ => some 3
  | .vsts _ _ _ _ _ => some 3
  | .vgath _ _ _ _ _ => some 3
  | .vscat _ _ _ _ _ => some 3
  | .trans _ _ => some 3
  | .hchk _ _ => some 3
  | .hrel _ => some 3
  | .hmov _ _ => some 3
  | .hinfo _ _ => some 3
  | .fence _ _ => some 3
  | .xdfi _ _ => some 3
  | .xdfw _ => some 3
  | .qpush _ _ => some 3
  | .qpop _ _ => some 3
  | .vqpush _ _ _ _ => some 3
  | .vqpop _ _ _ _ => some 3
  | .qstat _ _ => some 3
  | .qcfg _ _ => some 3
  | .strq _ _ _ _ _ => some 3
  | .qrq _ _ => some 3
  | .cpy _ _ _ _ => some 3
  | .cpya _ _ _ _ => some 3
  | .tlwait _ _ => some 3
  | .tlrd _ _ => some 3
  | .fladdArr _ _ => some 3
  | .fladdDrop _ _ => some 3
  | .fladdAdd _ _ _ => some 3
  | .flset _ _ _ _ _ => some 3
  | .flwaitEq _ _ _ _ => some 3
  | .flwaitGe _ _ _ _ => some 3
  | .flwaitBar _ _ _ => some 3
  | .nbpv _ _ _ _ _ => some 3
  | .nbrd _ _ _ => some 3
  | .nbrdSt _ _ _ => some 3
  | .nbrdMask _ _ _ => some 3
  | .nbrdVm _ _ _ => some 3
  | .nbclr _ => some 3
  | .istore _ _ => some 3
  | .ifence => some 3
  | .collAr _ _ _ _ _ => some 3
  | .collRs _ _ _ _ _ => some 3
  | .collAg _ _ _ => some 3
  | .collBc _ _ _ => some 3
  | .collA2a _ _ _ => some 3
  | .grpMk _ _ _ => some 3
  | .grpFree _ => some 3
  | .grpQ _ _ => some 3
  | .discard _ _ _ => some 3
  | .evrd _ _ => some 3
  | .sysSave _ _ => some 3
  | .sysRest _ _ => some 3
  | .sysWorld _ => some 3
  | .sysShoot _ => some 3
  | _ => none

/-- Decoding the word of slot `k` (R51). -/
def decodeSlot (k w : Nat) : Decoded :=
  match k with
  | 0 => decC w
  | 1 => decV w
  | 2 => decT w
  | _ => decM w

/-- Slot word `k` of a bundle (R51). -/
def slotWord (bundle k : Nat) : Nat := bundle / 2 ^ (32 * k) % 2 ^ 32

/-- The bundle that holds `w` in slot `k` and all-zero words elsewhere. -/
def bundleOf (k w : Nat) : Nat := w % 2 ^ 32 * 2 ^ (32 * k)

/-- The first slot class, in the order C, V, T, M, whose decoder reads `w` as an instruction, with that instruction.
DESIGN CHOICE (log 9): one word means different instructions in different slots, and the table gives no slot. -/
def firstClass (w : Nat) : Option (Nat × Instr) :=
  match decC w with
  | .ok i => some (0, i)
  | .bad _ =>
    match decV w with
    | .ok i => some (1, i)
    | .bad _ =>
      match decT w with
      | .ok i => some (2, i)
      | .bad _ =>
        match decM w with
        | .ok i => some (3, i)
        | .bad _ => none

/-- The instruction of a slot word as the table of operations numbers its bits. -/
def decodeTableWord (nbits w : Nat) : Option Instr :=
  if nbits = 32 then (firstClass (w % 2 ^ 32)).map (·.2) else none

/-- The fields of a 256-bit tile word (R66). -/
def decodeTile (w : Nat) : TileWord where
  op := BitVec.ofNat 8 w
  level := BitVec.ofNat 4 (w / 2 ^ 8)
  split := BitVec.ofNat 4 (w / 2 ^ 12)
  dm := BitVec.ofNat 3 (w / 2 ^ 16)
  inv := w.testBit 19
  ord := w.testBit 20
  cof := w.testBit 21
  spec := w.testBit 22
  rsv := w.testBit 23
  func := BitVec.ofNat 8 (w / 2 ^ 24)
  param := BitVec.ofNat 32 (w / 2 ^ 32)
  da := BitVec.ofNat 64 (w / 2 ^ 64)
  db := BitVec.ofNat 64 (w / 2 ^ 128)
  dc := BitVec.ofNat 64 (w / 2 ^ 192)

/-- The 256 bits of a tile word (R66). -/
def encodeTile (t : TileWord) : Nat :=
  t.op.toNat + t.level.toNat * 2 ^ 8 + t.split.toNat * 2 ^ 12 + t.dm.toNat * 2 ^ 16 +
  t.inv.toNat * 2 ^ 19 + t.ord.toNat * 2 ^ 20 + t.cof.toNat * 2 ^ 21 + t.spec.toNat * 2 ^ 22 +
  t.rsv.toNat * 2 ^ 23 + t.func.toNat * 2 ^ 24 + t.param.toNat * 2 ^ 32 + t.da.toNat * 2 ^ 64 +
  t.db.toNat * 2 ^ 128 + t.dc.toNat * 2 ^ 192

/-- The tile opcode that an instruction is read from (R66); none for a step that no tile word holds. -/
def tileOpcode : Instr → Option Nat
  | .tmm _ => some 0x1
  | .tew _ => some 0x2
  | .teu _ => some 0x3
  | .tcvt _ => some 0x4
  | .tcopy _ => some 0x5
  | .tred _ => some 0x6
  | .ttopk _ => some 0x7
  | .tcall _ => some 0x8
  | .tsync _ => some 0x9
  | .tfence _ => some 0xa
  | .twait _ => some 0xb
  | .tcoll _ => some 0xc
  | .tjmp _ => some 0x10
  | .tloop _ => some 0x11
  | .tend _ => some 0x12
  | .tdmset _ => some 0x13
  | .tstag _ => some 0x14
  | .tsig _ => some 0x15
  | _ => none

/-- The tile word that an instruction carries. -/
def tileWordOf : Instr → Option TileWord
  | .tmm w => some w
  | .tew w => some w
  | .teu w => some w
  | .tcvt w => some w
  | .tcopy w => some w
  | .tred w => some w
  | .ttopk w => some w
  | .tcall w => some w
  | .tsync w => some w
  | .tfence w => some w
  | .twait w => some w
  | .tcoll w => some w
  | .tjmp w => some w
  | .tloop w => some w
  | .tend w => some w
  | .tdmset w => some w
  | .tstag w => some w
  | .tsig w => some w
  | _ => none

/-- `i` is the instruction that the tile word `t` holds: it carries `t`, and `t` has its opcode (R66). -/
def tileDecodes (t : TileWord) (i : Instr) : Bool := tileWordOf i == some t && tileOpcode i == some t.op.toNat

end Sys2Proof
end

