-- ==== Sys2Proof/Config.lean ====
section
/-! DEFINITION. What the manual leaves open: constants without a body, so that no statement can rest on a value. -/

namespace Sys2Proof.Config

/-- Which of the two neighbours of an inexact special-function result is delivered (R89): function, type code and input
element; MODE.RM has no part in it. Free value, log 14. -/
opaque sfuUp : Nat → Nat → Nat → Bool

/-- Which slot's access to an aligned 8-byte word of cluster SRAM comes first in a bundle whose T and M slots both make one
(R53): a fresh draw for each bundle and word, from the count of draws and the word. Free value, log 12. -/
opaque tFirst : Nat → Nat → Bool

/-- The byte read at an address of a compressed region that no logical byte aliases (R291). Free value, log 18. -/
opaque czrTail : Nat → Byte

/-- What a copy leaves in the bytes that it does not give of a control word it writes (R382): byte by byte, from the count of
draws. Free value, log 80. -/
opaque copyRest : Nat → Nat → Byte

/-- The SM3 digest (R337, R339, R340) of a message, byte by byte. Free value, log 15. -/
opaque sm3 : List Byte → Nat → Byte

/-- Whether the SM2 signature of a boot image verifies against its key (R337, R340). Free value, log 15. -/
opaque imageSigned : List Byte → Bool

/-- The fused digest of the vendor key, byte by byte (R337). Free value, log 15. -/
opaque vendorDigest : Nat → Byte

/-- The digest of a die's fuse values, by domain number of the die (R337). Free value, log 15. -/
opaque fuseDigest : Nat → Nat → Byte

/-- A die's public key and certificate, byte by byte (R342). Free values, log 15. -/
opaque deviceKey : Nat → Nat → Byte
opaque certificate : Nat → Nat → Byte

/-- A panel's serial and a die's ROM version, byte by byte (R342). Free values, log 15. -/
opaque serial : Nat → Nat → Byte
opaque romVersion : Nat → Nat → Byte

/-- A die's SM2 signature over a report, byte by byte (R342); the count of draws stands for its nonce. Free value, log 15. -/
opaque signature : Nat → Nat → List Byte → Nat → Byte

/-- Whether the port of a die is bonded and a host vector unmasked there, by domain number of the die and vector (R347). Free
value, log 82. -/
opaque vectorOn : Nat → Nat → Bool

/-- Bank-conflict cycles of a core, or of a die, up to a cycle, in both worlds or in the secure one alone (R343, source 4): the
spec fixes no bank timing. Free value, log 51. -/
opaque bankStalls : Bool → Nat → Nat → Bool → Nat

end Sys2Proof.Config
end

