-- ==== Sys2Proof/Machine/Maps.lean ====
section
/-! DEFINITION. Sparse maps from numbers: lists of (key, value) pairs. An unlisted key has the value that the
reader names (the reset value of the thing mapped), so that a state is plain data however large the panel is. -/

namespace Sys2Proof.Machine

/-- A sparse map; the first pair of a key counts. -/
abbrev Sp (α : Type) := List (Nat × α)

/-- The value of `k`, or `d` where the map lists none. -/
def spGet {α : Type} (d : α) : Sp α → Nat → α
  | [], _ => d
  | (k', v) :: t, k => if k' = k then v else spGet d t k

/-- The map with `v` at `k`; keys stay rising where they were. -/
def spPut {α : Type} (k : Nat) (v : α) : Sp α → Sp α
  | [] => [(k, v)]
  | (k', v') :: t =>
    if k < k' then (k, v) :: (k', v') :: t
    else if k = k' then (k, v) :: t
    else (k', v') :: spPut k v t

/-- The map without `k`. -/
def spDel {α : Type} (k : Nat) : Sp α → Sp α
  | [] => []
  | (k', v') :: t => if k' = k then spDel k t else (k', v') :: spDel k t

/-- The map with `f` applied to the value of `k`. -/
def spMod {α : Type} (d : α) (k : Nat) (f : α → α) (m : Sp α) : Sp α := spPut k (f (spGet d m k)) m

/-- Whether the map lists `k`. -/
def spHas {α : Type} (k : Nat) : Sp α → Bool
  | [] => false
  | (k', _) :: t => k' == k || spHas k t

/-- The list of `f 0` to `f (n - 1)`. -/
def tab {α : Type} (n : Nat) (f : Nat → α) : List α := (List.range n).map f

/-- Entry `i` of a list whose missing entries are `d`. -/
def nth {α : Type} (d : α) (l : List α) (i : Nat) : α := l.getD i d

/-- The list with entry `i` replaced, filled with `d` up to it. -/
def putAt {α : Type} (d : α) (l : List α) (i : Nat) (v : α) : List α :=
  tab (max l.length (i + 1)) fun j => if j = i then v else l.getD j d

/-- The first `k < n` at which `f` holds. -/
def firstBelow (n : Nat) (f : Nat → Bool) : Option Nat := (List.range n).find? f

/-- Bit `i` of a number. -/
def nbit (x i : Nat) : Bool := x.testBit i

/-- Bits `lo` and the `n - 1` above it of a number. -/
def nfld (x lo n : Nat) : Nat := x / 2 ^ lo % 2 ^ n

end Sys2Proof.Machine
end

