-- ==== Sys2Proof/Machine/State.lean ====
section
/-! DEFINITION. The state of the panel (R8 to R20, R113, R176, R267, R302, R352) as plain data, and the state after
reset. Dies are numbered D = 64·PAN + DID through the domain, cores C = 64·D + CID, contexts X = 4·C + CTX and
clusters U = 8·D + CLU (log 5). A sparse map gives an unlisted unit its reset value. -/

namespace Sys2Proof.Machine

/-- The states of a context (R113). -/
inductive CtxSt where
  | dormant
  | ready
  | selected
  | blocked
  | frozen
  deriving DecidableEq, Repr

/-- A handle (R147). -/
structure Handle where
  /-- handle valid -/
  valid : Bool := false
  /-- secure page -/
  world : Bool := false
  /-- reads permitted -/
  rd : Bool := false
  /-- writes permitted -/
  wr : Bool := false
  /-- striped page -/
  stripe : Bool := false
  /-- page migrating at translation -/
  mig : Bool := false
  /-- 0 16 KiB, 1 32 MiB, 2 64 GiB -/
  size : Nat := 0
  /-- physical kind (R22) -/
  kind : Nat := 0
  /-- page generation at translation -/
  gen : BitVec 14 := 0
  /-- home panel -/
  panel : Nat := 0
  /-- home die, or stripe set of a striped page -/
  die : Nat := 0
  /-- physical base address of the page; for a striped page, with die field 0 -/
  frame : Nat := 0
  /-- virtual address of the page -/
  va : Nat := 0
  /-- members of the stripe set, as domain die numbers in order (R145, R376) -/
  members : List Nat := []
  deriving DecidableEq, Repr

/-- One event of the first-event log (R48, R49). -/
structure LogEv where
  /-- issue count of the instruction since the context's start -/
  count : Nat
  /-- slot 0 C, 1 V, 2 T -/
  slot : Nat
  /-- K block, for a matrix step -/
  kblock : Nat
  /-- accumulator row -/
  row : Nat
  /-- lane or column -/
  lane : Nat
  /-- element within a packed lane -/
  elem : Nat
  /-- 1 NV, 2 DZ, 3 OF, 4 UF, 5 IDZ, 6 SAT -/
  kind : Nat
  /-- bundle address -/
  baddr : Nat
  /-- overlay bank active at issue -/
  bank : Nat
  deriving DecidableEq, Repr

/-- An entry of a result queue or a channel queue (R82). -/
structure VEntry where
  /-- 128 lanes -/
  data : Lanes := []
  /-- one valid bit for each lane -/
  valid : BitVec 128 := 0
  deriving DecidableEq, Repr

/-- A register of a context, for the pending bits of R79, R117 and R311. -/
inductive Reg where
  | s (n : Nat)
  | v (n : Nat)
  | p (n : Nat)
  | h (n : Nat)
  | td (n : Nat)
  | xs (n : Nat)
  | fm (n : Nat)
  | vm (n : Nat)
  deriving DecidableEq, Repr

/-- What an exposed result writes when it lands (R78, R119). -/
inductive Dest where
  /-- a scalar register -/
  | s (n : Nat) (v : Word)
  /-- lanes of a vector register: for each lane the bits written and their values -/
  | v (n : Nat) (w : List (Word × Word))
  /-- a predicate register -/
  | p (n : Nat) (v : BitVec 128)
  /-- a handle register -/
  | h (n : Nat) (v : Handle)
  /-- the masked bits of a descriptor register -/
  | td (n : Nat) (mask : BitVec 256) (v : BitVec 256)
  /-- elements of a scale register: first element, values -/
  | xs (n : Nat) (lo : Nat) (v : List Half)
  /-- a format profile -/
  | fm (n : Nat) (v : Half)
  /-- a mask register of the notice boards -/
  | vm (n : Nat) (v : BitVec 256)
  /-- a special register written by `mts` (R121) -/
  | sreg (n : Nat) (v : Word)
  /-- entries pushed onto a result queue (R197) -/
  | rq (n : Nat) (e : List VEntry)
  /-- no register: flags or a trap only -/
  | none
  deriving DecidableEq, Repr

/-- A snapshot register: one exposed result in flight (R119). -/
structure Snap where
  /-- issue count at which the result lands, n + L -/
  due : Nat
  /-- issue count n of the instruction -/
  issued : Nat
  /-- slot of the instruction -/
  slot : Nat
  /-- bundle address of the instruction -/
  baddr : Nat
  /-- overlay bank active at issue -/
  bank : Nat
  /-- what is written -/
  dest : Dest
  /-- sticky flags raised, in the layout of FLAGS[6:0] (R46) -/
  flags : BitVec 7 := 0
  /-- earliest event of the instruction for the first-event log -/
  ev : Option LogEv := Option.none
  /-- a trap that comes when the result is due: cause and FADDR (R151) -/
  trap : Option (Nat × Word) := Option.none
  deriving DecidableEq, Repr

/-- One entry of a loop stack (R138). -/
structure LoopEnt where
  first : Nat
  last : Nat
  count : Nat
  /-- the entry carries the loop-back of the entry below it -/
  carry : Bool := false
  deriving DecidableEq, Repr

/-- How a context was started (R114). -/
inductive Origin where
  /-- `tcall` child number `child` of the word `word` held by the core's tile unit; `spec` for a speculative word -/
  | tcall (word : Nat) (child : Nat) (spec : Bool)
  /-- a handler start of a completed copy command -/
  | handler
  /-- the trap handler of world w (R312) -/
  | trapHandler
  /-- `mts START` -/
  | start
  deriving DecidableEq, Repr

/-- Why a context is frozen (R113, R313, R316). -/
inductive Freeze where
  /-- a trap, with its cause and FADDR -/
  | trap (cause : Nat) (faddr : Word)
  /-- a translation miss on entry `e` of the die's translation unit (R316): the address, the slot, and the
  bank the core ran when the operation issued (R311: the frame's location) -/
  | miss (e va slot bank : Nat)
  /-- a miss that found every translation entry taken (R316) -/
  | missWait
  deriving DecidableEq, Repr

/-- A cross-die fence token (R156). -/
structure Token where
  /-- the class mask of the `xdfi` -/
  mask : BitVec 16
  /-- numbers of the stores that must be acknowledged -/
  waits : List Nat
  deriving DecidableEq, Repr

/-- What an interlocked result still in flight writes (R119, R151, R201, R287). -/
inductive LongDest where
  /-- a scalar, with the size code of its load -/
  | s (n : Nat) (sz : Nat)
  /-- a vector register, with the size code of its load -/
  | v (n : Nat) (sz : Nat)
  /-- a scalar that takes the value whole (board operations) -/
  | sw (n : Nat)
  /-- a mask register -/
  | vm (k : Nat)
  /-- a mask register and a scalar of a board operation -/
  | vms (k : Nat) (n : Nat)
  /-- no register -/
  | none
  deriving DecidableEq, Repr

/-- A part of a long load: the lanes and bytes that one access brings (R151, R154). -/
structure LongPart where
  /-- physical address of the first byte -/
  addr : Nat
  /-- number of bytes -/
  len : Nat
  /-- lane that the part belongs to -/
  lane : Nat
  /-- virtual address, for a trap that arrives with the data -/
  va : Word := 0
  /-- the bytes, once they have arrived -/
  got : Option (List Byte) := Option.none
  /-- a request for the part is on its way to another die -/
  sent : Bool := false
  /-- stores that must be acknowledged before the part reads at the home (R268) -/
  waits : List Nat := []
  /-- of a load that earlier accesses hold back: the entries that matched at issue, and the bytes that they forward -/
  src : List Nat := []
  fwd : List Byte := []
  deriving DecidableEq, Repr

/-- What an interlocked operation waits for. -/
inductive LongKind where
  /-- a long load; `acq` names the scope of an acquire (R153) -/
  | load (acq : Option Nat)
  /-- a `seedscan` (R201): the value computed at issue and the cycle of its completion -/
  | scan (val : Lanes) (at_ : Nat)
  /-- a board operation (R287 to R289): home die, board and scope; no acquire for a clear -/
  | board (d b : Nat) (scope : Option Nat)
  /-- a flag operation that its targets have not all applied -/
  | flag
  deriving DecidableEq, Repr

/-- An interlocked operation in flight. -/
structure LongOp where
  /-- number of the operation within the context -/
  id : Nat
  /-- issue count, slot 3 or 2 and bundle address of the instruction -/
  issued : Nat
  slot : Nat
  baddr : Nat
  bank : Nat := 0
  /-- ordering class -/
  cls : Nat := 0
  kind : LongKind
  dest : LongDest
  /-- handle number and byte offset, for the restore of a hard save (R151); the operand s[a] of a board operation -/
  handle : Nat := 0
  off : Nat := 0
  /-- the handle's value when the load issued -/
  page : Handle := {}
  parts : List LongPart := []
  /-- off-cluster access number (R272) -/
  num : Nat := 0
  /-- secure requester -/
  secure : Bool := false
  /-- numbers of earlier accesses that must have performed first (R272 to R276) -/
  waits : List Nat := []
  /-- a load of the own cluster's SRAM, read at issue, and the VA of an uncorrectable soft error that it met (R151) -/
  own : Bool := false
  bad : Option Word := Option.none
  /-- entry of the reply log that holds its reply, while a save holds the context (R327) -/
  logged : Option Nat := Option.none
  deriving DecidableEq, Repr

/-- A fence in force in a context (R155, R273): class mask, scope and the accesses it holds back for. -/
structure FenceRec where
  mask : Nat
  scope : Nat
  before : List Nat
  deriving DecidableEq, Repr

/-- What a blocked `flwait` waits for (R283): flag, condition and value, and the word that satisfied it. -/
structure Watch where
  n : Nat
  cond : Nat
  val : Word
  hit : Option Word := Option.none
  deriving DecidableEq, Repr

/-- A shootdown that a context's `sys.shoot` has begun (R149, R175): its address, and the accesses that must perform. -/
structure Shoot where
  va : Nat
  waits : List Nat
  /-- the pages that the shootdown removed -/
  pages : List Handle := []
  done : Bool := false
  deriving DecidableEq, Repr

/-- A hardware context (R113, R75, R122). -/
structure Ctx where
  st : CtxSt := .dormant
  /-- next bundle address (R124) -/
  pc : Nat := 0
  /-- issue count since the start (R119) -/
  count : Nat := 0
  /-- s0 to s31 -/
  s : Sp Word := []
  /-- v0 to v31 -/
  v : Sp Lanes := []
  /-- p0 to p7 -/
  p : Sp (BitVec 128) := []
  /-- xs0 to xs7, 64 FP32 values each -/
  xs : Sp (List Half) := []
  /-- h0 to h15 -/
  h : Sp Handle := []
  /-- td0 to td15 -/
  td : Sp (BitVec 256) := []
  /-- fm0 to fm3 -/
  fm : Sp Half := []
  /-- vm0 to vm7 -/
  vm : Sp (BitVec 256) := []
  /-- MODE.RM -/
  rm : BitVec 2 := 0
  /-- MODE.PCHK -/
  pchk : Bool := false
  /-- MODE.WORLD -/
  world : Bool := false
  /-- MODE.PRIV -/
  priv : Bool := false
  /-- FLAGS[6:0] (R46) -/
  flags : BitVec 7 := 0
  /-- FEL0 and FEL1: the logged event, or none when V is 0 (R48) -/
  fel : Option LogEv := Option.none
  /-- CSTAG.V -/
  tagV : Bool := false
  /-- CSTAG.TAG -/
  tag : BitVec 8 := 0
  /-- CHILD -/
  child : Half := 0
  /-- STREAM.STREAM -/
  stream : BitVec 2 := 0
  /-- STREAM.PRIO -/
  prio : BitVec 2 := 0
  /-- DISC -/
  disc : BitVec 16 := 0
  /-- the loop stack, innermost entry first (R138) -/
  loops : List LoopEnt := []
  /-- outstanding cross-die tokens (R156) -/
  tokens : Sp Token := []
  /-- discardable regions: physical base and length (R173) -/
  regions : Sp (Nat × Nat) := []
  /-- snapshot registers, in issue order (R119) -/
  snaps : List Snap := []
  /-- interlocked operations in flight, oldest first -/
  longs : List LongOp := []
  /-- number of the next interlocked operation -/
  nextLong : Nat := 0
  /-- how the context was started; none before any start -/
  origin : Option Origin := Option.none
  /-- why the context is frozen -/
  why : Option Freeze := Option.none
  /-- numbers of other contexts' writes that the context has observed (R273, R276) -/
  seen : List Nat := []
  /-- off-cluster accesses that the context has issued (R272): number, class, whether a write -/
  mine : List (Nat × Nat × Bool) := []
  /-- fences in force (R273) -/
  fences : List FenceRec := []
  /-- the wait of a blocked `flwait` at the flag port -/
  watch : Option Watch := Option.none
  /-- the shootdown of a blocked `sys.shoot` -/
  shoot : Option Shoot := Option.none
  /-- the context's stream is being saved or restored: it stays at its bundle boundary (R320, R328) -/
  held : Bool := false
  /-- number of the start that made this run of the context -/
  life : Nat := 0
  deriving DecidableEq, Repr

/-- A channel-queue binding of q6 or q7 (R159): target core and receive queue. -/
structure Binding where
  tq : Nat
  tcid : Nat
  deriving DecidableEq, Repr

/-- A waiting start of a context (R114, R312). -/
structure StartReq where
  entry : Nat
  /-- delivered registers: number and value -/
  regs : List (Nat × Word) := []
  /-- delivered descriptors -/
  tds : List (Nat × BitVec 256) := []
  child : Half := 0
  stream : BitVec 2 := 0
  prio : BitVec 2 := 0
  origin : Origin
  /-- the world that the context starts in; none for the world of the core -/
  world : Option Bool := Option.none
  priv : Bool := false
  /-- the speculation tag that becomes current (R211) -/
  tag : Option (BitVec 8) := Option.none
  deriving DecidableEq, Repr

/-- A trap frame (R311). -/
structure Frame where
  cause : Nat := 0
  orig : Nat := 0
  src : Nat := 0
  fl : Nat := 0
  baddr : Nat := 0
  loc : Nat := 0
  who : Nat := 0
  faddr : Word := 0
  path : Word := 0
  aux : Word := 0
  clk : Nat := 0
  /-- world whose ring takes the frame -/
  world : Bool := false
  deriving DecidableEq, Repr

/-- What one slot of the bundle being issued came to (R53, R385). -/
inductive Out where
  /-- nothing stands in the way -/
  | run
  /-- a trap at issue: cause, FADDR and original cause (R311) -/
  | trap (cause : Nat) (faddr : Word) (orig : Nat := 0)
  /-- a blocking condition (R117) -/
  | block
  /-- a translation miss (R146, R179): the virtual page -/
  | miss (va : Nat)
  deriving DecidableEq, Repr

/-- The bundle being issued: the model's own latch, between the slots of one bundle (log 11). -/
structure Iss where
  /-- the issuing context -/
  x : Nat := 0
  /-- the slot being executed, for an instruction given outside a bundle -/
  slot : Nat := 0
  /-- the header bytes E1, E2, E3 of the bundle, or none (R54) -/
  hdr : Option (Nat × Nat × Nat) := Option.none
  /-- the checks of the whole bundle that come before state-dependent ones have been made (R385) -/
  gated : Bool := false
  /-- outcome of the slots so far -/
  out : Out := .run
  /-- target of a taken control transfer, and whether it pops loops (R139) -/
  target : Option Nat := Option.none
  /-- overlay bank active as the bundle issues (R140) -/
  bank : Nat := 0
  /-- the panel and the stream whose tile word the Pour dispatches (R305) -/
  pan : Nat := 0
  strm : Nat := 0
  deriving DecidableEq, Repr

/-- A speculation tag of a core (R209). -/
structure Tag where
  /-- LIVE (FREE otherwise) -/
  live : Bool := false
  /-- a deferred fault is held -/
  df : Bool := false
  /-- cause of the first deferred fault -/
  cause : Nat := 0
  /-- faulting address of the first deferred fault -/
  faddr : Word := 0
  /-- deferred faults, saturating at 255 -/
  count : Nat := 0
  /-- commands and speculative tile words in flight -/
  infl : Nat := 0
  /-- cycle of the first deferred fault, and its place among the faults of one cycle -/
  when_ : Nat := 0
  order : List Nat := []
  deriving DecidableEq, Repr

/-- An entry of the residency table (R223). -/
structure RdtEnt where
  v : Bool := false
  pin : Bool := false
  age : Nat := 0
  slot : Nat := 0
  tag : Half := 0
  deriving DecidableEq, Repr

/-- An accumulator (R176); element (m, n) is entry 64·m + n of the data. -/
structure Acc where
  data : List Half := []
  /-- 0 FP32, 1 INT32 -/
  kind : Nat := 0
  tv : Bool := false
  tag : BitVec 8 := 0
  deriving DecidableEq, Repr

/-- A staging buffer (R188); element (k, n) is entry cols·k + n; with FMT 0, which no instruction reads, its bytes. -/
structure Staging where
  fmt : Nat := 0
  rows : Nat := 0
  cols : Nat := 0
  /-- SBASE of the descriptor is not 0 -/
  scaled : Bool := false
  elems : List Nat := []
  busy : Bool := false
  deriving DecidableEq, Repr

/-- Where a matrix step takes B from (R189). -/
inductive BSrc where
  /-- weight SRAM in column layout: BASE -/
  | ws (base : Nat)
  /-- seed records: BASE and STRIDE -/
  | gr (base : Nat) (stride : Nat)
  /-- elements latched at issue from a staging buffer -/
  | cs (elems : List Nat)
  deriving DecidableEq, Repr

/-- A matrix multiply in the array queue, with what it latched at issue (R190, R191). -/
structure Mma where
  prof : Half
  /-- rows of A, columns of B, K -/
  m : Nat
  n : Nat
  k : Nat
  /-- element (i, j) of A is entry k·i + j -/
  a : List Nat
  b : BSrc
  /-- the pages of B -/
  pages : List Handle
  /-- A and B are read with block scales -/
  sa : Bool
  sb : Bool
  /-- xs0 to xs7 as at issue -/
  xs : Sp (List Half)
  z : Bool
  deriving DecidableEq, Repr

/-- What an outstanding accumulator write puts there (R177). -/
inductive AccRes where
  /-- values fixed at issue -/
  | data (d : List Half) (flags : BitVec 7) (ev : Option LogEv)
  /-- a matrix multiply -/
  | mma (m : Mma)
  deriving DecidableEq, Repr

/-- An outstanding accumulator write (R177). -/
structure AccOp where
  /-- number of the write within its core -/
  id : Nat
  /-- context and its incarnation, for the flags (R47) -/
  x : Nat
  life : Nat
  dst : Nat
  /-- issue count, bundle address and bank of the instruction, for the log -/
  count : Nat
  baddr : Nat
  bank : Nat
  res : AccRes
  deriving DecidableEq, Repr

/-- An `istore` on its way to its bank (R172). -/
structure IStoreRec where
  x : Nat
  bank : Nat
  baddr : Nat
  slot : Nat
  word : Nat
  deriving DecidableEq, Repr

/-- The end of a `tcall` child, on its way to its parent (R259, R260). -/
structure ChildEnd where
  word : Nat
  child : Nat
  cause : Nat
  faddr : Word
  ctx : Nat
  /-- number of the start that made the child -/
  life : Nat := 0
  /-- its stores that had not performed when it stopped (R241) -/
  waits : List Nat := []
  deriving DecidableEq, Repr

/-- A waiting start with its arrival (R114): cycle, and the order among the arrivals of one cycle. -/
structure Waiting where
  cycle : Nat
  /-- 0 for a handler start, 1 for a `tcall` child -/
  rank : Nat
  /-- engine, source core and number of the copy command of a handler start -/
  order : List Nat := []
  req : StartReq
  deriving DecidableEq, Repr

/-- An entry of the write-combining buffer (R293): one logical block of a compressed region. -/
structure WcbEnt where
  /-- byte offset of the region's BASE, and the block -/
  base : Nat
  blk : Nat
  /-- the valid bytes, by their place in the block -/
  data : Sp Byte := []
  /-- cycle of the first write -/
  cycle : Nat := 0
  deriving DecidableEq, Repr

/-- An entry of an outbound store buffer (R267): bytes of one store within one 64-byte block. -/
structure SbEnt where
  id : Nat
  x : Nat
  cls : Nat
  /-- the bytes, by physical address -/
  data : Sp Byte
  /-- accesses that must have performed before the entry leaves the head of its class queue (R272 to R274) -/
  waits : List Nat := []
  /-- accesses that must have performed before the entry enters, and so performs in its cluster: behind earlier loads and
  fences of a narrow scope (R271 to R273) -/
  enterWaits : List Nat := []
  secure : Bool := false
  priv : Bool := false
  /-- bundle address and overlay bank of the store -/
  baddr : Nat := 0
  bank : Nat := 0
  /-- the entry has left toward the home and waits for its acknowledgement -/
  sent : Bool := false
  deriving DecidableEq, Repr

/-- What an acquire that reads a place acquires (R274, R276). -/
inductive RelPlace where
  | mem (addr len : Nat)
  | flag (core n : Nat)
  | board (die n : Nat)
  deriving DecidableEq, Repr

/-- A release whose covered writes have not all performed: who made it, its scope, where it wrote (R274). -/
structure RelRec where
  x : Nat
  scope : Nat
  place : RelPlace
  covered : List Nat
  deriving DecidableEq, Repr

/-- One update of flag words (R281, R282, R284). -/
inductive FlagOp where
  /-- COUNT := COUNT + v -/
  | add (v : Nat)
  /-- EXPECTED := EXPECTED − 1, held at 0 -/
  | drop
  /-- the whole word -/
  | set (v : Word)
  deriving DecidableEq, Repr

/-- One operation on a notice board (R287 to R289). -/
inductive BoardOp where
  | post (v : Word)
  | rd
  | st
  | mask
  | clear
  deriving DecidableEq, Repr

/-- A flag or board operation of a cluster's core that has not left the cluster. -/
inductive OutOp where
  /-- target cores and flag number -/
  | flag (cores : List Nat) (n : Nat) (op : FlagOp)
  /-- home die, board, slot, operation, and the interlocked operation that takes the reply -/
  | board (die n slot : Nat) (op : BoardOp) (long : Nat)
  deriving DecidableEq, Repr

/-- An operation waiting to leave its cluster (R281, R287). -/
structure OutRec where
  id : Nat
  x : Nat
  op : OutOp
  scope : Nat
  waits : List Nat
  covered : List Nat
  secure : Bool
  deriving DecidableEq, Repr

/-! ### Copy commands (R162 to R171, R384) -/

/-- One read of a copy command: at most 64 bytes of one aligned block. -/
structure CopyRead where
  addr : Nat
  va : Nat
  len : Nat
  got : Option (List Byte) := Option.none
  /-- bytes forwarded by the store buffer when the read started (R268), by physical address -/
  fwd : Sp Byte := []
  sent : Bool := false
  deriving DecidableEq, Repr

/-- One write of a copy command; for `cpya` one element, with the compare value of a compare-and-swap. -/
structure CopyWrite where
  /-- physical address; for a special destination, the bundle or pattern -/
  addr : Nat
  va : Nat
  bytes : List Byte
  cmp : List Byte := []
  /-- old value of a `cpya` element, once it has been applied -/
  old : List Byte := []
  /-- a write at AUX -/
  aux : Bool := false
  sent : Bool := false
  done : Bool := false
  deriving DecidableEq, Repr

/-- A running copy command: 0 reading the index list, 1 to be checked, 2 reading the source, 3 writing, 4 started and not yet
translated. -/
structure CopyRun where
  phase : Nat := 0
  index : List CopyRead := []
  reads : List CopyRead := []
  writes : List CopyWrite := []
  /-- the pages as the start translated them -/
  pages : List Handle := []
  /-- bytes of a compressed stream that the decoder used -/
  used : Nat := 0
  /-- arithmetic events -/
  evt : BitVec 7 := 0
  /-- idle bank of the target core at the start -/
  bank : Nat := 0
  /-- patterns that have been written whole, by their place in the target core's memory (R104) -/
  pats : List Nat := []
  /-- the fault that stops the command -/
  fault : Option (Nat × Word) := Option.none
  /-- entry of the translation unit and cycle of the walk whose fault this is (R316) -/
  walk : Option (Nat × Nat) := Option.none
  deriving DecidableEq, Repr

/-- A command of a copy queue that has not completed. -/
structure CopyCmd where
  num : Nat
  /-- issuing context with the number of its start, its world and stream -/
  x : Nat
  life : Nat
  world : Bool
  /-- the world of the issuing stream, whose handler takes the command's fault (R168) -/
  strSecure : Bool := false
  priv : Bool
  stream : BitVec 2
  prio : BitVec 2
  /-- the 64 bytes of the descriptor as read at issue -/
  desc : List Byte
  /-- virtual and physical address of the descriptor -/
  va : Nat
  pa : Nat
  /-- issued by `cpya` -/
  atomic : Bool
  tag : Option (BitVec 8)
  /-- accesses that must have performed before the first read or write (R278) -/
  waits : List Nat
  run : Option CopyRun := Option.none
  deriving DecidableEq, Repr

/-- A copy queue of a core (R162, R170). -/
structure CopyQ where
  /-- number of the next command -/
  next : Nat := 1
  cmds : List CopyCmd := []
  /-- numbers completed beyond the timeline counter -/
  done : List Nat := []
  tl : Nat := 0
  /-- number of the command served last (R384) -/
  last : Nat := 0
  deriving DecidableEq, Repr

/-! ### Requests and packets (R356 to R362) -/

/-- What a request does at its target (R359). -/
inductive ReqBody where
  | load (addr len : Nat)
  | store (data : Sp Byte)
  /-- type and operation of R166, operand and compare value -/
  | atomic (addr ty op : Nat) (opnd cmp : Nat)
  /-- flag n of a core; the access, the context and the scope of the release, and what it covers -/
  | flag (core n : Nat) (op : FlagOp) (id x scope : Nat) (covered : List Nat)
  /-- board, slot, operation, the context and its interlocked operation, scope -/
  | board (b slot : Nat) (op : BoardOp) (id x long scope : Nat)
  deriving DecidableEq, Repr

/-- Who made a request, and takes its reply. -/
inductive Issuer where
  /-- a part of an interlocked load -/
  | long (x op part : Nat)
  /-- an entry of a store buffer -/
  | sb (u id : Nat)
  /-- a flag operation's access, or a board operation -/
  | out (id x : Nat)
  /-- reads of the index list (0) and source (1), and writes (2), of a copy command -/
  | copy (c k num which idx : Nat)
  deriving DecidableEq, Repr

/-- A request at its source that has no reply yet. -/
structure Req where
  num : Nat
  dst : Nat
  seq : Nat := 0
  body : ReqBody
  issuer : Issuer
  cls : Nat := 0
  secure : Bool := false
  priv : Bool := false
  scope : Nat := 0
  /-- a store of whole seed records by a record-replace copy (R203) -/
  rec_ : Bool := false
  /-- sends so far, and the cycle of the last -/
  sends : Nat := 0
  sentAt : Nat := 0
  deriving DecidableEq, Repr

/-- The saved result of a request in a duplicate filter (R360). -/
inductive Saved where
  | none
  | ack
  | old (v : Nat)
  | board (refusal : Option Nat) (mask : BitVec 256) (word : Word)
  | nak (cause : Nat) (faddr : Word)
  /-- the request went on to the new home of a page that has migrated (R378) -/
  | gone
  deriving DecidableEq, Repr

/-- A chunk of a collective (R356, R368 to R374). -/
structure Chunk where
  group : Nat
  gen : Nat
  cnum : Nat
  /-- element count, kind, operation, element format and wire compression -/
  count : Nat
  kind : Nat
  op : Nat
  etype : Nat
  wc : Bool
  /-- member whose sub-chunk it belongs to, the member that sends it, and the ring phase: 0 X, 1 Y, 2 Z, 3 a value to
  be written -/
  idx : Nat
  from_ : Nat
  step : Nat
  /-- element offset in the destination -/
  eoff : Nat
  elems : List Nat
  /-- blocks of a compressed chunk that travel uncompressed (R374) -/
  plain : List Nat := []
  /-- cause and member of a poison -/
  poison : Option (Nat × Nat) := Option.none
  deriving DecidableEq, Repr

/-- What a packet carries (R357). -/
inductive PktBody where
  | req (b : ReqBody)
  | data (bytes : List Byte)
  | old (v : Nat)
  | ack
  /-- the acknowledgement of a reset notice -/
  | greet
  | nak (cause : Nat) (faddr : Word)
  /-- the NAK of a packet that is neither a request nor part of a collective: its source has nothing to end (R355) -/
  | nakLost (cause : Nat)
  /-- the NAK of a packet of a collective: group, generation and number, and whether it was the completion token -/
  | collNak (group gen cnum cause : Nat) (token : Bool)
  | boardReply (x long : Nat) (refusal : Option Nat) (mask : BitVec 256) (word : Word)
  /-- core, receive queue, half, its lanes and valid bits -/
  | half (core q h : Nat) (lanes : List Word) (valid : BitVec 64)
  | chunk (c : Chunk)
  /-- completion token of a collective: group, generation, number, pass, lowest faulting member and cause -/
  | token (group gen cnum pass : Nat) (worst : Option (Nat × Nat))
  | selfd (c : Chunk) (routes ops : List Nat)
  | mgmt (nonce : List Word)
  | credit (group gen bytes : Nat)
  | notice
  deriving DecidableEq, Repr

/-- A packet in flight (R353 to R356). -/
structure Pkt where
  num : Nat
  src : Nat
  dst : Nat
  /-- die whose router holds the packet -/
  here : Nat
  /-- port through which the packet came to this router; 6 at its source -/
  via : Nat := 6
  /-- dimension that it travels in, and whether it is on the odd channel of its pair (R354) -/
  dim : Nat := 0
  odd : Bool := false
  seq : Nat := 0
  rty : Bool := false
  cls : Nat := 0
  secure : Bool := false
  priv : Bool := false
  scope : Nat := 0
  /-- the request stores whole seed records for a record-replace copy (R203) -/
  rec_ : Bool := false
  /-- the old home that forwarded the request, in whose name it is answered (R378) -/
  old : Option Nat := Option.none
  body : PktBody
  deriving DecidableEq, Repr

/-- A reset notice to one target (R362). -/
structure Notice where
  acked : Bool := false
  sends : Nat := 0
  sentAt : Nat := 0
  deriving DecidableEq, Repr

/-! ### Flags and boards at their homes (R280, R285, R290) -/

/-- A flag operation that has reached a flag port (R280). -/
structure FlagArr where
  input : Nat
  cycle : Nat
  n : Nat
  op : FlagOp
  /-- number of the access, the context and the scope of the release, and what it covers -/
  id : Nat
  x : Nat
  scope : Nat
  covered : List Nat
  /-- source die and SEQ of a request from another die -/
  remote : Option (Nat × Nat) := Option.none
  deriving DecidableEq, Repr

/-- A board operation that has reached its home (R290). -/
structure BoardArr where
  input : Nat
  cycle : Nat
  b : Nat
  slot : Nat
  op : BoardOp
  id : Nat
  x : Nat
  long : Nat
  scope : Nat
  secure : Bool
  remote : Option (Nat × Nat) := Option.none
  deriving DecidableEq, Repr

/-- A notice board (R285). -/
structure Board where
  vals : Sp Word := []
  gens : Sp Nat := []
  mask : BitVec 256 := 0
  level : Nat := 0
  deriving DecidableEq, Repr

/-! ### Groups and collectives (R363 to R374) -/

/-- A collective in which a die takes part. -/
structure Coll where
  cnum : Nat
  /-- element count, kind, operation, wire compression and root -/
  count : Nat
  kind : Nat
  op : Nat
  wc : Bool := false
  root : Nat := 0
  /-- descriptors of source and destination, die-relative bases resolved -/
  a : BitVec 256
  c : BitVec 256
  /-- world and stream of the issuer -/
  world : Bool
  stream : BitVec 2 := 0
  /-- the issuing context and its flag, for `coll`; the word of the die's sequencer, for `tcoll` -/
  issuer : Option (Nat × Nat) := Option.none
  word : Nat := 0
  /-- accesses that must perform before the first read of the source (R278, R371) -/
  waits : List Nat := []
  /-- the source has been checked and read: its elements -/
  begun : Bool := false
  src : List Nat := []
  /-- pages of the destination as the start translated them -/
  pages : List Handle := []
  /-- partial sums held: 4 times their first element, and the phase, to the elements (R369) -/
  part : Sp (List Nat) := []
  /-- chunks that have arrived and are not used yet -/
  inbox : List Chunk := []
  /-- packets of chunks that wait for credit: member, and chunk -/
  outbox : List (Nat × Chunk) := []
  /-- own steps finished -/
  steps : Nat := 0
  /-- lowest faulting member known and its cause, and FADDR where it is this one -/
  poison : Option (Nat × Nat) := Option.none
  faddr : Word := 0
  /-- the completion token has been sent on its first pass -/
  launched : Bool := false
  evt : BitVec 7 := 0
  deriving DecidableEq, Repr

/-- A live group at a die. -/
structure Group where
  gen : Nat
  box : Bool
  /-- members as dies, in index order -/
  members : List Nat
  bx : Nat
  by_ : Nat
  bz : Nat
  idx : Nat
  /-- staging units of 64 KiB -/
  stg : Nat
  /-- collectives issued on the group -/
  next : Nat := 0
  colls : List Coll := []
  /-- credit held from each member that has granted some, in bytes -/
  credit : Sp Nat := []
  /-- error-feedback buffers: position to residual, and their element count (R374) -/
  ef : Sp Half := []
  efE : Nat := 0
  cause : Nat := 0
  /-- collectives that a member's die reset has ended before this die issues them, with that member (R361) -/
  doomed : List (Nat × Nat) := []
  deriving DecidableEq, Repr

/-! ### Tile words in the hierarchy (R233 to R262) -/

/-- A source of tile words at a unit (R254): a Pour stream, or the `tsend` words of a core at one level. -/
inductive WSrc where
  | stream (pan k : Nat)
  | sent (c level : Nat)
  deriving DecidableEq, Repr

/-- A STATUS word field by field, with its FADDR (R258). -/
structure Status where
  cause : Nat := 0
  nfault : Nat := 0
  top : Nat := 0
  bot : Nat := 0
  gidx : Nat := 0
  die : Nat := 0
  clu : Nat := 0
  core : Nat := 0
  lc : Nat := 0
  abt : Bool := false
  evt : BitVec 7 := 0
  faddr : Word := 0
  deriving DecidableEq, Repr

/-- A child of a word: its index, the child unit, and its granules along the split axis (R247, R249). -/
structure Child where
  idx : Nat
  unit : Nat
  lo : Nat
  len : Nat
  deriving DecidableEq, Repr

/-- A share of A that the die has copied into a cluster's staging area (R251): the physical ranges that hold it, in order,
and its first row, first column and columns within the whole operand. -/
structure Stage where
  place : List (Nat × Nat)
  row : Nat
  col : Nat
  cols : Nat
  deriving DecidableEq, Repr

/-- A word held by the Pour, a sequencer or a tile unit. -/
structure HWord where
  num : Nat
  w : TileWord
  /-- VA of the word, for a word of a stream -/
  va : Nat := 0
  src : WSrc
  stream : BitVec 2
  prio : BitVec 2
  world : Bool
  /-- level at which the word was accepted, and level of this unit: 4 Pour, 3 die, 2 cluster, 1 core -/
  top : Nat
  level : Nat
  /-- descriptors, cut to the share -/
  a : BitVec 256 := 0
  b : BitVec 256 := 0
  c : BitVec 256 := 0
  /-- the share of A and of B within the whole operand: first row and column, and the whole columns (R36, R248) -/
  oa : Nat × Nat × Nat := (0, 0, 0)
  ob : Nat × Nat × Nat := (0, 0, 0)
  /-- first granule of the share along the split axis, as the accepting unit numbers them -/
  lo : Nat := 0
  /-- which of how many shares a die takes of a word split at level 4 (R245) -/
  deal : Nat × Nat := (0, 1)
  /-- the word of the parent unit, and the child that this is -/
  parent : Option (Nat × Nat) := Option.none
  /-- the unit made its checks and the children are listed -/
  open_ : Bool := false
  /-- children not started, and those started and not completed -/
  todo : List Child := []
  live : List Child := []
  /-- next ticket and number of tickets of a pull split -/
  ticket : Nat := 0
  tickets : Nat := 0
  /-- staging bytes reserved, and whether the reservation has been made (R251) -/
  reserve : Nat := 0
  reserved : Bool := false
  /-- the physical ranges of the reservation, and the staged share of A that the word reads, if any -/
  area : List (Nat × Nat) := []
  stg : Option Stage := Option.none
  /-- aggregation of R259 -/
  first : Option (Nat × Status) := Option.none
  nf : Nat := 0
  evt : BitVec 7 := 0
  abt : Bool := false
  faulted : Bool := false
  /-- partials of children by index, and the word's own when its parent adds it (R250) -/
  parts : Sp (List Nat) := []
  /-- cycles for which a stagger holds the word from its arrival at the die, and the cycle of that arrival (R332) -/
  hold : Nat := 0
  came : Option Nat := Option.none
  /-- blocks of leaf work done (R253) -/
  pos : Nat := 0
  /-- the fault of a walk that the tile unit waited for (R316) -/
  walk : Option (Nat × Word) := Option.none
  /-- partial of a leaf, element by element, where the parent adds (R250) -/
  own : List Nat := []
  /-- a status that the unit itself has found -/
  fail : Option Status := Option.none
  /-- leaf work or a collective of the word is over at this unit -/
  ended : Bool := false
  /-- a word sent by `tsend`: context, physical address of the record, flag, and tag of a speculative one (R256) -/
  sentBy : Option (Nat × Nat × Nat × Option (BitVec 8)) := Option.none
  /-- the context that the word's units read for: the sender's, of a word sent by `tsend` (R268) -/
  who : Option Nat := Option.none
  deriving DecidableEq, Repr


/-- A core (R15). -/
structure Core where
  /-- selected context of the issue stage -/
  sel : Option Nat := none
  /-- frozen context that the next selection counts from (R116, step 4) -/
  selFrom : Option Nat := none
  /-- world of the core (R335) -/
  world : Bool := false
  /-- world set for the next start (R175) -/
  nextWorld : Bool := false
  /-- result queues, oldest entry first (R111) -/
  rq : Sp (List VEntry) := []
  /-- send FIFOs of q0 to q7, oldest entry first (R157) -/
  sendQ : Sp (List VEntry) := []
  /-- receive FIFOs -/
  recvQ : Sp (List VEntry) := []
  /-- bindings of q6 and q7 (R159) -/
  bind : Sp Binding := []
  /-- patterns: 64·bank + n to 128 bytes (R104), and the numbers of the valid ones -/
  pats : Sp (List Byte) := []
  patOk : List Nat := []
  /-- active bank of the pattern memory -/
  patBank : Nat := 0
  /-- instruction scratchpad (R123): bundle a of the resident area at a, of overlay bank b at 0x2000·(b + 1) + a -/
  ipad : Sp Nat := []
  /-- IBANK.BANK -/
  ibank : Nat := 0
  /-- `istore` writes in flight, in issue order -/
  istores : List IStoreRec := []
  /-- bundles as they stand without the `istore` writes that have landed and that no `ifence` has ordered, and those
  writes in order (R124) -/
  olds : Sp Nat := []
  landed : List IStoreRec := []
  /-- waiting starts in order of arrival: children of the tile unit, the pending-start queue and held starts (R114) -/
  starts : List Waiting := []
  /-- ends of `tcall` children not yet taken by the tile unit -/
  ends : List ChildEnd := []
  /-- accumulators t0 to t15 -/
  acc : Sp Acc := []
  /-- outstanding accumulator writes, in issue order (R177) -/
  accq : List AccOp := []
  nextAcc : Nat := 0
  /-- staging buffers bs0 and bs1 -/
  bs : Sp Staging := []
  /-- cycle until which a `grx` or `seedscan` keeps the Grinder busy (R202) -/
  grindUntil : Nat := 0
  /-- cycle until which each context's `grx` writes last, by context of the core (R202) -/
  grxUntil : Sp Nat := []
  /-- speculation tags (R209) -/
  tags : Sp Tag := []
  /-- predictor table: four positions (ID, CF) an entry (R214) -/
  pred : Sp (List (Nat × Nat)) := []
  /-- residency table (R223) -/
  rdt : Sp RdtEnt := []
  /-- owner stream (R318) -/
  owner : Option (BitVec 2) := none
  /-- copy queues cq0 to cq3 -/
  cq : Sp CopyQ := []
  /-- streams whose saves hold the core's state (R318, R326) -/
  saved : List Nat := []
  /-- flag operations at the flag port, in order of arrival (R280) -/
  fport : List FlagArr := []
  /-- writes that the updates of each flag cover and that have not performed (R284) -/
  fcov : Sp (List Nat) := []
  /-- the core is active, or asks for admission (R331), and the cycle of its latest bundle or array step -/
  active : Bool := false
  wants : Bool := false
  lastWork : Nat := 0
  /-- cycle of the latest bundle, and the cycle from which a throttled tile unit may run its next array step (R333) -/
  lastIssue : Nat := 0
  stepFree : Nat := 0
  /-- words held by the tile unit, in order of arrival (R253) -/
  tu : List HWord := []
  /-- words sent by `tsend` that wait for a place in their sequencer (R262) -/
  sends : List HWord := []
  /-- the core takes no start before its restore (R328) -/
  awaits : Bool := false
  deriving DecidableEq, Repr

/-- A cluster (R14). -/
structure Cluster where
  /-- WCBWAIT (R122), and the cycle and core of its latest write (R121) -/
  wcbwait : BitVec 12 := 256
  wcbBy : Option (Nat × Nat) := none
  /-- write-combining buffer, oldest entry first (R293) -/
  wcb : List WcbEnt := []
  /-- outbound store buffer, in issue order (R267) -/
  sb : List SbEnt := []
  /-- entries of stores of many blocks that have found no place yet (R267) -/
  late : List SbEnt := []
  /-- flag and board operations that have not left, in issue order -/
  outs : List OutRec := []
  /-- releases made by the cluster's cores (R274) -/
  rels : List RelRec := []
  /-- source core that each copy engine served last (R384) -/
  engLast : Sp Nat := []
  /-- words held by the cluster sequencer, in order of arrival (R262), and the source port it took from last -/
  seq : List HWord := []
  seqLast : Nat := 0
  deriving DecidableEq, Repr

/-- A waiter of a translation entry (R316). -/
inductive Waiter where
  | ctx (x : Nat)
  /-- a copy command, and the virtual address that it missed on -/
  | copy (c k num va : Nat)
  /-- the tile unit of core `c` for its word `num`, and the virtual address that it missed on -/
  | unit (c num va : Nat)
  /-- a context whose state the save of stream `k` holds (R327) -/
  | saved (k x : Nat)
  deriving DecidableEq, Repr

/-- An entry of the translation unit (R316). -/
structure TuEnt where
  world : Bool
  /-- VA[57:14] -/
  vpn : Nat
  waiters : List Waiter := []
  /-- TUROOT as the walk started with it (R383) -/
  root : Word := 0
  /-- the cause of a fault entry -/
  fault : Option Nat := Option.none
  deriving DecidableEq, Repr

/-- A translation held in a die's translation cache: the world of the walk and the page as a handle. -/
structure TlbEnt where
  world : Bool
  page : Handle
  deriving DecidableEq, Repr

/-- A die (R14). -/
structure Die where
  /-- cycle of the latest die reset, from which CLK counts (R122) -/
  clk0 : Nat := 0
  /-- the translation cache -/
  tlb : List TlbEnt := []
  /-- translation-unit entries, by number 0 to 1023 (R316) -/
  tu : Sp TuEnt := []
  /-- the trap store, first in first out (R312) -/
  store : List Frame := []
  /-- traps that wait at their source while the store is full -/
  waiting : List Frame := []
  /-- notice boards (R285), operations that have arrived, and the Carafe input served last (R290) -/
  boards : Sp Board := []
  bport : List BoardArr := []
  bLast : Nat := 8
  /-- requests without a reply, in order (R359); SEQ 0 and no send while a request waits at the source -/
  reqs : List Req := []
  /-- next SEQ by target -/
  seqTo : Sp Nat := []
  /-- reset notices by target (R362) -/
  notices : Sp Notice := []
  /-- next SEQ expected by source (R359) -/
  expect : Sp Nat := []
  /-- duplicate filters: the last requests executed, by source, newest first (R360) -/
  filter : Sp (List (Nat × Saved)) := []
  /-- sources whose filter has lost its records in a die reset (R361) -/
  lost : List Nat := []
  /-- SEQs of resends that REMOTE_RESET has ended and that lie ahead of the next one expected, by source (R361) -/
  nakked : Sp (List Nat) := []
  /-- ports whose link is down (R355): 0 N, 1 E, 2 S, 3 W, 4 U, 5 D -/
  down : List Nat := []
  /-- the flit that a port is sending and has failed on, by its number in its packet, and its failed attempts (R355) -/
  tries : Sp (Nat × Nat) := []
  /-- receive stores of the six ports, oldest entry first: core, receive queue and entry (R326, R358) -/
  rstore : Sp (List (Nat × Nat × VEntry)) := []
  /-- first halves that wait for their second, by port, core and queue -/
  rhalf : Sp (List Word × BitVec 64) := []
  /-- the boot ROM has brought up the in-panel links (R337) -/
  linksUp : Bool := false
  /-- DOMCFG as the router and the links of the die run with it: set with V, and kept through a die reset (R341, R361) -/
  cfg : Word := 0
  /-- between a die reset and the run of the boot ROM (R361) -/
  inReset : Bool := false
  /-- the migration engine (R378): lines of the page copied so far, and lines changed since -/
  migNext : Nat := 0
  migDirty : List Nat := []
  /-- live groups by ID, and the generation of each ID (R364) -/
  groups : Sp Group := []
  gens : Sp Nat := []
  /-- stale packets dropped, by ID (R365) -/
  stales : Sp Nat := []
  /-- words held by the die sequencer, in order of arrival (R262), and the source port it took from last -/
  seq : List HWord := []
  seqLast : Nat := 0
  /-- the bytes that the host read last through this die's port (R346) -/
  hostRead : List Byte := []
  /-- words of MSEXTj written since the latest extension (R339) -/
  msext : Sp Word := []
  /-- DPRESSET has been written since the die reset (R339) -/
  presSet : Bool := false
  /-- versions of the stage-1 and stage-2 images that the ROM loaded (R340, R342) -/
  ver1 : Nat := 0
  ver2 : Nat := 0
  /-- nonce of the attestation report being made (R342) -/
  nonce : List Byte := []
  /-- frame delivery of a world has stopped on an unwritable frame (R312) -/
  ringDead : List Bool := []
  deriving DecidableEq, Repr

/-- A stream of the Pour beside its registers (R302 to R309). -/
structure Stream where
  /-- the next word, once fetched -/
  fetched : Option TileWord := Option.none
  /-- the next word is a level-4 `twait` whose condition a read has met (R242) -/
  met : Bool := false
  /-- words dispatched and not completed, in stream order, with `tsig`, `tend` and barriers among them -/
  flight : List HWord := []
  /-- `tend` has been dispatched -/
  ended : Bool := false
  /-- stagger left pending by `tstag` (R332) -/
  stagger : Nat := 0
  /-- cycle of the latest completion or first dispatch, for the watchdog (R308) -/
  lastDone : Nat := 0
  /-- cycle of the GRACEFUL doorbell (R319) -/
  graceAt : Nat := 0
  /-- cycle at which the latest save began (R322) -/
  savedAt : Nat := 0
  /-- the save in progress is hard; it escalated a graceful one -/
  hard : Bool := false
  esc : Bool := false
  /-- the pre-emption in progress began with a GRACEFUL doorbell (R303) -/
  grace : Bool := false
  /-- an ABORT waits for dispatched words (R304) -/
  aborting : Bool := false
  /-- state that the stream returns to after its save (R322) -/
  back : Nat := 1
  /-- contexts and cores as they were saved: what of theirs is still in flight is found here (log 16) -/
  vctx : Sp Ctx := []
  vcore : Sp Core := []
  /-- handler starts of its copy commands that wait for the restore: core, and start with its arrival (R114, R169) -/
  late : List (Nat × Waiting) := []
  /-- replies that found the reply log full: kind, context, tag or operation, and FADDR (R327) -/
  drops : List (Nat × Nat × Nat × Word) := []
  /-- cores still to be restored (R328) -/
  restoring : List Nat := []
  /-- a save stopped on a fault, and the units are still held (R329) -/
  stuck : Bool := false
  deriving DecidableEq, Repr

/-- A power region (R330 to R334): the limits in effect, and the monitors. -/
structure Region where
  lim : Nat := 15
  hold : Nat := 20
  thi : Nat := 95
  tlo : Nat := 85
  /-- cycle at which the droop throttle ends -/
  dthr : Option Nat := Option.none
  tthr : Bool := false
  crit : Bool := false
  temp : Nat := 0
  /-- CUR of PRSTAT -/
  cur : Nat := 0
  /-- cycle of the latest step boundary -/
  boundary : Nat := 0
  /-- cores admitted at that boundary (R331) -/
  admitted : Nat := 0
  /-- causes reported in this step -/
  told : List Nat := []
  /-- cycle and die of the latest write of each register, by its offset (R330) -/
  by_ : Sp (Nat × Nat) := []
  /-- cycles under a throttle before the present one, and the cycle at which that one began -/
  slow : Nat := 0
  since : Nat := 0
  deriving DecidableEq, Repr

/-- A panel with its Pour (R16, R302). -/
structure Panel where
  /-- events of the host's vectors, in order; the board controller receives them (R347, R348) -/
  vectors : List Nat := []
  /-- vectors raised at the ports that take them: DID of the port, and vector (R347) -/
  raised : List (Nat × Nat) := []
  /-- machine checks reported to the host: die, and FADDR (R312, R315) -/
  checks : List (Nat × Word) := []
  /-- doorbells that the ports have brought to the Pour in the present cycle, and what followed each at its port: DID of the
  port, and access; they act when the cycle ends (R346) -/
  bells : List (Nat × HostReq) := []
  /-- the power regions (R17, R330) -/
  regions : Sp Region := []
  /-- the Pour of the conductor is enabled (R16, R337) -/
  pourOn : Bool := false
  /-- the streams (R302) -/
  strs : Sp Stream := []
  /-- stream at the Pour's pointer, and words dispatched in its turn (R305) -/
  turn : Nat := 0
  spent : Nat := 0
  /-- words that the turn may dispatch -/
  width : Nat := 0
  /-- the word that the board controller read last (R348) -/
  boardRead : Word := 0
  deriving DecidableEq, Repr

/-- One turn of the agenda: which agent of the part moves next (log 6). -/
inductive Turn where
  /-- an event, as an instruction of the table -/
  | event (i : Instr)
  /-- the issue stage of core `c`, after `dt` cycles -/
  | issue (c : Nat) (dt : Nat)
  /-- the Pour of panel `p`, after `dt` cycles -/
  | pour (p : Nat) (dt : Nat)
  deriving DecidableEq, Repr

/-- Why a step stops for good. -/
inductive Fault where
  /-- raised by `step`: a turn of the agenda names a core beyond the 2,048 dies of the largest domain (R13).
  Safe: no hardware corresponds to the turn. -/
  | noSuchUnit
  deriving DecidableEq, Repr

/-- Why a step has no meaning. -/
inductive Refusal where
  /-- raised by `exec`: the instruction is not modelled yet. Safe: nothing is claimed of it. -/
  | notModelled (mnemonic : String)
  deriving DecidableEq, Repr

/-- The state of the part. -/
structure State where
  /-- contexts, by X -/
  ctxs : Sp Ctx := []
  /-- cores, by C -/
  cores : Sp Core := []
  /-- clusters, by U -/
  clus : Sp Cluster := []
  /-- dies, by D -/
  dies : Sp Die := []
  /-- panels, by PAN -/
  pans : Sp Panel := []
  /-- memory of the whole domain, by 57-bit physical address (R22); an unlisted byte reads 0 (log 1) -/
  mem : List Host.Cell := []
  /-- plain control registers, by physical address; an unlisted register holds its reset value -/
  ctl : Sp Word := []
  /-- bytes that hold an uncorrectable soft error (log 17) -/
  bad : List Nat := []
  /-- core-clock cycles counted by the model (log 6) -/
  now : Nat := 0
  /-- the bundle being issued (log 11) -/
  iss : Iss := {}
  /-- turns still to be taken (log 6) -/
  agenda : List Turn := []
  /-- core that issues when the agenda is empty (log 6) -/
  focus : Nat := 0
  /-- number of the next off-cluster access -/
  nextId : Nat := 0
  /-- numbers of the off-cluster accesses that have not performed everywhere: loads without their value, stores and
  operations that their home has not acknowledged (R271) -/
  pend : List Nat := []
  /-- packets in flight, in order of sending (R356) -/
  pkts : List Pkt := []
  /-- number of the next packet or request -/
  nextPkt : Nat := 0
  /-- applications that a flag operation still needs at its targets, by access number -/
  left : Sp Nat := []
  /-- counts of the event sources since reset (R343): key of a source to count -/
  tally : Sp Nat := []
  /-- event counters: by control address, the base count and the tally at the last write or selection (R343) -/
  evBase : Sp (Nat × Nat) := []
  /-- event counters written in the present cycle, whose increments of the cycle are lost (R343): of a core, its number (else
  the die's), and which of its counters -/
  evNew : List (Bool × Nat × Nat) := []
  /-- draws of free values so far (log 12) -/
  free : Nat := 0
  deriving DecidableEq, Repr

/-- The machine right after reset: every context dormant, every register at its reset value, memory with nothing
listed. -/
def State.reset : State := {}

end Sys2Proof.Machine
end

