-- ==== Sys2Proof/Machine/Ops.lean ====
section
/-! DEFINITION. The named operations over units, memory and registers, exposed results, starts, and taking a trap
(R22, R78, R113 to R119, R310 to R314). -/

namespace Sys2Proof.Machine

/-! ## Units -/

/-- The context numbered `x`. -/
def State.ctx (s : State) (x : Nat) : Ctx := spGet {} s.ctxs x
/-- The core numbered `c`. -/
def State.core (s : State) (c : Nat) : Core := spGet {} s.cores c
/-- The cluster numbered `u`. -/
def State.clu (s : State) (u : Nat) : Cluster := spGet {} s.clus u
/-- The die numbered `d`. -/
def State.die (s : State) (d : Nat) : Die := spGet {} s.dies d
/-- The panel numbered `p`. -/
def State.pan (s : State) (p : Nat) : Panel := spGet {} s.pans p

/-- Context `x` changed by `f`. -/
def State.modCtx (s : State) (x : Nat) (f : Ctx → Ctx) : State := { s with ctxs := spMod {} x f s.ctxs }
/-- Core `c` changed by `f`. -/
def State.modCore (s : State) (c : Nat) (f : Core → Core) : State := { s with cores := spMod {} c f s.cores }
/-- Cluster `u` changed by `f`. -/
def State.modClu (s : State) (u : Nat) (f : Cluster → Cluster) : State := { s with clus := spMod {} u f s.clus }
/-- Die `d` changed by `f`. -/
def State.modDie (s : State) (d : Nat) (f : Die → Die) : State := { s with dies := spMod {} d f s.dies }
/-- Panel `p` changed by `f`. -/
def State.modPan (s : State) (p : Nat) (f : Panel → Panel) : State := { s with pans := spMod {} p f s.pans }

/-- The core of a context. -/
def coreOf (x : Nat) : Nat := x / 4
/-- The cluster of a context. -/
def cluOf (x : Nat) : Nat := x / 32
/-- The die of a context. -/
def dieOf (x : Nat) : Nat := x / 256
/-- CID of a core number. -/
def cidOf (c : Nat) : Nat := c % 64

/-- The issuing context. -/
def State.x (s : State) : Nat := s.iss.x
/-- The issuing context's state. -/
def State.me (s : State) : Ctx := s.ctx s.iss.x

/-- A bit as a number. -/
def b2n (b : Bool) : Nat := if b then 1 else 0

/-! ## Physical addresses (R22, R23) -/

/-- The physical address of an offset within a kind of die `d`. -/
def mkPa (d kind off : Nat) : Nat := d * 2 ^ 46 + kind * 2 ^ 44 + off
/-- The die of a physical address. -/
def paDie (pa : Nat) : Nat := pa / 2 ^ 46
/-- The kind of a physical address: 0 HBM, 1 cluster SRAM, 2 weight SRAM, 3 control space. -/
def paKind (pa : Nat) : Nat := pa / 2 ^ 44 % 4
/-- The offset of a physical address within its kind. -/
def paOff (pa : Nat) : Nat := pa % 2 ^ 44
/-- Byte `off` of cluster `u`'s SRAM. -/
def sramPa (u off : Nat) : Nat := mkPa (u / 8) 1 (u % 8 * 0x400000 + off)
/-- Byte `off` of core `c`'s weight SRAM (R180). -/
def wsramPa (c off : Nat) : Nat := mkPa (c / 64) 2 (c % 64 * 0x200000 + off)
/-- The control register at `off` of die `d`. -/
def ctlPa (d off : Nat) : Nat := mkPa d 3 off
/-- The control register at `off` of cluster `u`'s block (R23). -/
def cluCtlPa (u off : Nat) : Nat := ctlPa (u / 8) ((0x10 + u % 8) * 0x1000000 + off)

/-- The reset value of a plain control register, by its offset within its block (block, offset). -/
def regReset (off : Nat) : Word :=
  let blk := off / 0x1000000
  let o := off % 0x1000000
  if 0x10 ≤ blk ∧ blk ≤ 0x17 ∧ o = 0x40100 then BitVec.ofNat 64 (0x100 * 2 ^ 32 + 0x2FF * 2 ^ 12)
  else if blk = 0x04 ∧ o = 0x0000 then 15
  else if blk = 0x04 ∧ o = 0x0008 then 20
  else if blk = 0x04 ∧ o = 0x0010 then BitVec.ofNat 64 (95 * 2 ^ 8 + 85)
  else 0

/-- A plain control register of die `d`. -/
def State.reg (s : State) (d off : Nat) : Word := spGet (regReset off) s.ctl (ctlPa d off)
/-- A plain control register of die `d` set. -/
def State.setReg (s : State) (d off : Nat) (v : Word) : State := { s with ctl := spPut (ctlPa d off) v s.ctl }
/-- A plain register of cluster `u`'s control block. -/
def State.cluReg (s : State) (u off : Nat) : Word := s.reg (u / 8) ((0x10 + u % 8) * 0x1000000 + off)
/-- A plain register of cluster `u`'s control block set. -/
def State.setCluReg (s : State) (u off : Nat) (v : Word) : State :=
  s.setReg (u / 8) ((0x10 + u % 8) * 0x1000000 + off) v

/-- Bits `lo` and the `n - 1` above it of a register. -/
def wfld (w : Word) (lo n : Nat) : Nat := w.toNat / 2 ^ lo % 2 ^ n

/-- DOMCFG of die `d` (R341). -/
def State.domcfg (s : State) (d : Nat) : Word := s.reg d 0x5000200

/-- PX, PY and PZ as die `d` holds them (R13, R341). -/
def State.shape (s : State) (d : Nat) : Nat × Nat × Nat :=
  let w := s.domcfg d
  (wfld w 25 2 + 1, wfld w 27 1 + 1, wfld w 28 2 + 1)

/-- Whether a panel number names a panel of the domain of die `d` (R13, R24). -/
def State.panelExists (s : State) (d pan : Nat) : Bool :=
  let (px, py, pz) := s.shape d
  pan % 4 < px && pan / 4 % 2 < py && pan / 8 < pz

/-- Whether an offset is populated within its kind (R23). -/
def offPopulated (kind off : Nat) : Bool :=
  match kind with
  | 0 => off < 0x12A05F2000
  | 1 => off < 0x2000000
  | 2 => off < 0x8000000 && off % 0x200000 < 0x180000
  | _ => off < 2 ^ 32 && (off / 2 ^ 24 < 8 || (0x10 ≤ off / 2 ^ 24 && off / 2 ^ 24 ≤ 0x17))

/-- Whether a physical address is populated, in the domain of die `d` (R24). -/
def State.populated (s : State) (d pa : Nat) : Bool :=
  pa < 2 ^ 57 && offPopulated (paKind pa) (paOff pa) && s.panelExists d (paDie pa / 64)

/-! ## Memory -/

/-- What a byte that nothing has written reads as (log 1). -/
def unwritten : Byte := 0

/-- The byte at `a` of a memory. -/
def cellGet (m : List Host.Cell) (a : Nat) : Byte := spGet unwritten m a

/-- The memory with `v` at `a`; a byte equal to what an unlisted address reads as is not listed. -/
def cellSet (m : List Host.Cell) (a : Nat) (v : Byte) : List Host.Cell :=
  if v = unwritten then spDel a m else spPut a v m

/-- Memory's canonical form: addresses strictly rising, no entry equal to what an unlisted address reads as. -/
def memWf : List Host.Cell → Bool
  | [] => true
  | [(_, v)] => v != unwritten
  | (a, v) :: (b, w) :: t => v != unwritten && a < b && memWf ((b, w) :: t)

/-- The stored byte at a physical address. -/
def State.raw (s : State) (a : Nat) : Byte := cellGet s.mem a

/-! ### Compressed regions of cluster SRAM (R291 to R293) -/

/-- CZRi of cluster `u` as (offset of BASE, NBLK), where it is enabled. -/
def State.czr (s : State) (u i : Nat) : Option (Nat × Nat) :=
  let w := s.cluReg u (0x40300 + 8 * i)
  if w.getLsbD 63 && wfld w 32 15 != 0 then some (wfld w 7 15 * 128, wfld w 32 15) else none

/-- The enabled compressed region that holds offset `o` of cluster `u`'s SRAM. -/
def State.czrAt (s : State) (u o : Nat) : Option (Nat × Nat) :=
  (List.range 8).findSome? fun i =>
    match s.czr u i with
    | some (b, n) => if b ≤ o ∧ o < b + 136 * n then some (b, n) else none
    | none => none

/-- Two enabled compressed regions of cluster `u` share some of the `n` bytes at offset `o` (R291). -/
def State.czrClash (s : State) (u o n : Nat) : Bool :=
  (List.range 8).any fun i => (List.range i).any fun j =>
    match s.czr u i, s.czr u j with
    | some (b, m), some (c, k) =>
      let lo := max (max b c) o
      let hi := min (min (b + 136 * m) (c + 136 * k)) (o + n)
      decide (lo < hi)
    | _, _ => false

/-- Set bits of `m` below bit `e`. -/
def popBelow (m e : Nat) : Nat := ((List.range e).filter fun i => m.testBit i).length

/-- `n` stored bytes at a physical address as a number. -/
def State.rawVal (s : State) (a : Nat) : Nat → Nat
  | 0 => 0
  | n + 1 => (s.raw a).toNat + 256 * s.rawVal (a + 1) n

/-- Byte `j` of logical block `blk` as its slot expands to (R292). -/
def State.slotByte (s : State) (u base blk j : Nat) : Byte :=
  let slot := mkPa (u / 8) 1 (u % 8 * 0x400000 + base + 136 * blk)
  let m := s.rawVal slot 8
  let e := j / 2
  if m.testBit e then s.raw (slot + 8 + 2 * popBelow m e + j % 2) else 0

/-- A logical byte of a compressed region: the write-combining entry's byte over the slot's expansion (R293). -/
def State.logicalByte (s : State) (u base blk j : Nat) : Byte :=
  match ((s.clu u).wcb.find? fun w => w.base == base && w.blk == blk).bind fun w =>
      (w.data.find? fun p => p.1 == j).map (·.2) with
  | some b => b
  | none => s.slotByte u base blk j

/-- The place of the count of event source `src` for argument `arg`, by the world of the activity, in a core (below
2 ^ 20) or in a die (R343). -/
def tallyKey (core : Bool) (unit src arg : Nat) (secure : Bool) : Nat :=
  (((b2n core * 2 ^ 20 + unit) * 256 + src) * 256 + arg) * 2 + b2n secure

/-- `n` occurrences of source `src` in die `d`, of a world. -/
def State.countDie (s : State) (d src arg n : Nat) (secure : Bool) : State :=
  { s with tally := spMod 0 (tallyKey false d src arg secure) (· + n) s.tally }

/-- `n` bytes of HBM traffic for event sources 5 and 6 (R343). -/
def State.countHbm (s : State) (pa n : Nat) (write secure : Bool) : State :=
  if paKind pa = 0 then s.countDie (paDie pa) (if write then 6 else 5) 0 n secure else s

/-- `n` occurrences of source `src` in core `c`, and in its die. -/
def State.countCore (s : State) (c src n : Nat) (secure : Bool) : State :=
  { s with tally := spMod 0 (tallyKey true c src 0 secure) (· + n) s.tally }.countDie (c / 64) src 0 n secure

/-- A cluster counts as secure when one of its cores is. -/
def State.cluSecure (s : State) (u : Nat) : Bool := (List.range 8).any fun k => (s.core (8 * u + k)).world

/-- A slot written from the 128 bytes of its block (R293). -/
def State.writeSlot (s : State) (u base blk : Nat) (l : List Byte) : State :=
  let slot := mkPa (u / 8) 1 (u % 8 * 0x400000 + base + 136 * blk)
  let el := fun e => (l.getD (2 * e) 0, l.getD (2 * e + 1) 0)
  let on := (List.range 64).filter fun e => el e != ((0 : Byte), (0 : Byte))
  let m := on.foldl (fun a e => a + 2 ^ e) 0
  let body := on.flatMap fun e => [(el e).1, (el e).2]
  let bytes := (tab 8 fun i => BitVec.ofNat 8 (m / 256 ^ i)) ++ body ++ List.replicate (128 - body.length) 0
  { s with mem := (List.range 136).foldl (fun m i => cellSet m (slot + i) (bytes.getD i 0)) s.mem }

/-- A write-combining entry flushed: the slot expanded, the entry's bytes merged, and written back (R293). -/
def State.flushWcb (s : State) (u : Nat) (w : WcbEnt) : State :=
  let l := tab 128 fun j => s.logicalByte u w.base w.blk j
  let s := s.modClu u fun c => { c with wcb := c.wcb.filter fun v => !(v.base == w.base && v.blk == w.blk) }
  s.writeSlot u w.base w.blk l

/-- One byte written into a compressed region: it merges into its block's entry, or takes one, the oldest flushed
when none is free; a whole entry, or any entry when WCBWAIT is 0, is flushed (R293). -/
def State.wcbWrite (s : State) (u base blk j : Nat) (v : Byte) : State :=
  let have_ := (s.clu u).wcb.any fun w => w.base == base && w.blk == blk
  let s := if have_ then s else
    match (s.clu u).wcb with
    | w :: _ => if 8 ≤ (s.clu u).wcb.length then (s.flushWcb u w).countDie (u / 8) 17 (u % 8) 1 (s.cluSecure u) else s
    | [] => s
  let s := if have_ then s else
    s.modClu u fun c => { c with wcb := c.wcb ++ [{ base := base, blk := blk, cycle := s.now }] }
  let s := s.modClu u fun c =>
    { c with wcb := c.wcb.map fun w => if w.base == base && w.blk == blk then { w with data := spPut j v w.data } else w }
  match (s.clu u).wcb.find? fun w => w.base == base && w.blk == blk with
  | some w =>
    if w.data.length = 128 then s.flushWcb u w
    else if (s.clu u).wcbwait = 0 then (s.flushWcb u w).countDie (u / 8) 17 (u % 8) 1 (s.cluSecure u)
    else s
  | none => s

/-! ### A page that its old home forwards or copies (R377, R378) -/

/-- MIGCTL.STATE of die `d`. -/
def State.migState (s : State) (d : Nat) : Nat := wfld (s.reg d 0x2000100) 0 3

/-- The offset of an address within the page of its die's migration. -/
def State.migOff (s : State) (a : Nat) : Option Nat :=
  let w := s.reg (paDie a) 0x2000108
  let b := wfld w 14 43 * 2 ^ 14
  let n := if w.getLsbD 0 then 2 ^ 25 else 2 ^ 14
  if b ≤ a ∧ a < b + n then some (a - b) else none

/-- Where an access to an address acts: the new frame while the old home forwards (R378). -/
def State.homeOf (s : State) (a : Nat) : Nat :=
  if s.migState (paDie a) = 2 then
    match s.migOff a with
    | some o => wfld (s.reg (paDie a) 0x2000110) 14 43 * 2 ^ 14 + o
    | none => a
  else a

/-- Where an access of die `d`'s own units acts: the die's own accesses to a page that has migrated from it are forwarded to
the new home like any request (R378). -/
def State.homeFrom (s : State) (d a : Nat) : Nat := if paDie a = d then s.homeOf a else a

/-- A line of a page being copied that changes after it has been copied is dirty (R378). -/
def State.markDirty (s : State) (a : Nat) : State :=
  if s.migState (paDie a) = 1 then
    match s.migOff a with
    | some o => s.modDie (paDie a) fun d =>
        if o / 64 < d.migNext && !d.migDirty.contains (o / 64) then { d with migDirty := d.migDirty ++ [o / 64] } else d
    | none => s
  else s

/-- The byte that a read of a physical address returns: cluster SRAM through its compressed regions (R292). -/
def State.byte (s : State) (a₀ : Nat) : Byte :=
  let a := s.homeOf a₀
  if paKind a = 1 then
    let u := 8 * paDie a + paOff a / 0x400000
    let o := paOff a % 0x400000
    match s.czrAt u o with
    | some (b, n) =>
      if o - b < 128 * n then s.logicalByte u b ((o - b) / 128) ((o - b) % 128) else Config.czrTail a
    | none => s.raw a
  else s.raw a

/-- One byte written at a physical address, through the compressed regions of cluster SRAM (R293). -/
def State.putByte (s : State) (a₀ : Nat) (v : Byte) : State :=
  let a := s.homeOf a₀
  let s := { s.markDirty a with bad := s.bad.filter (· != a) }
  if paKind a = 1 then
    let u := 8 * paDie a + paOff a / 0x400000
    let o := paOff a % 0x400000
    match s.czrAt u o with
    | some (b, n) => if o - b < 128 * n then s.wcbWrite u b ((o - b) / 128) ((o - b) % 128) v else s
    | none => { s with mem := cellSet s.mem a v }
  else { s with mem := cellSet s.mem a v }

/-- The `n` bytes from `a` on. -/
def State.bytes (s : State) (a : Nat) : Nat → List Byte
  | 0 => []
  | n + 1 => s.byte a :: s.bytes (a + 1) n

/-- The bytes `l` written from `a` on. -/
def State.writeBytes (s : State) (a : Nat) : List Byte → State
  | [] => s
  | b :: t => (s.putByte a b).writeBytes (a + 1) t

/-- Little-endian value of bytes (R2). -/
def leVal : List Byte → Nat
  | [] => 0
  | b :: t => b.toNat + 256 * leVal t

/-- The `n` low bytes of a value, little-endian. -/
def leBytes : Nat → Nat → List Byte
  | 0, _ => []
  | n + 1, v => BitVec.ofNat 8 v :: leBytes n (v / 256)

/-- The value of `n` bytes at `a`. -/
def State.mval (s : State) (a n : Nat) : Nat := leVal (s.bytes a n)

/-- Whether any of `n` bytes at `a` holds an uncorrectable soft error. -/
def State.badAt (s : State) (a n : Nat) : Bool := s.bad.any fun b => a ≤ b && b < a + n

/-! ## Registers of a context -/

/-- Scalar `r`; s0 reads 0 (R60). -/
def Ctx.sreg (c : Ctx) (r : Nat) : Word := if r = 0 then 0 else spGet 0 c.s r
/-- Lane `l` of vector register `r`. -/
def Ctx.lane (c : Ctx) (r l : Nat) : Word := (spGet [] c.v r).getD l 0
/-- Predicate `r`; p0 reads all ones (R60). -/
def Ctx.preg (c : Ctx) (r : Nat) : BitVec 128 := if r = 0 then BitVec.allOnes 128 else spGet 0 c.p r
/-- Handle `r`. -/
def Ctx.hreg (c : Ctx) (r : Nat) : Handle := spGet {} c.h r
/-- Descriptor `r`. -/
def Ctx.tdreg (c : Ctx) (r : Nat) : BitVec 256 := spGet 0 c.td r
/-- Scale element `j` of register `r`. -/
def Ctx.xsel (c : Ctx) (r j : Nat) : Half := (spGet [] c.xs r).getD j 0
/-- Format profile `r`. -/
def Ctx.fmreg (c : Ctx) (r : Nat) : Half := spGet 0 c.fm r
/-- Board mask `r`. -/
def Ctx.vmreg (c : Ctx) (r : Nat) : BitVec 256 := spGet 0 c.vm r

/-- Scalar `r` of the issuing context, as the bundle finds it. -/
def State.sr (s : State) (r : BitVec 5) : Word := s.me.sreg r.toNat
/-- Lane `l` of vector register `r` of the issuing context. -/
def State.vr (s : State) (r : BitVec 5) (l : Nat) : Word := s.me.lane r.toNat l
/-- All 128 lanes of a vector register of the issuing context. -/
def State.vrs (s : State) (r : Nat) : Lanes := tab 128 fun l => s.me.lane r l
/-- Predicate `r` of the issuing context. -/
def State.pr (s : State) (r : Nat) : BitVec 128 := s.me.preg r

/-- A register written, as a landing result writes it; s0 and p0 discard (R60). -/
def Ctx.put (c : Ctx) : Dest → Ctx
  | .s n v => if n = 0 then c else { c with s := spPut n v c.s }
  | .v n w => { c with v := spPut n (tab 128 fun l =>
      let (m, v) := w.getD l (0, 0)
      (c.lane n l &&& ~~~m) ||| (v &&& m)) c.v }
  | .p n v => if n = 0 then c else { c with p := spPut n v c.p }
  | .h n v => { c with h := spPut n v c.h }
  | .td n m v => { c with td := spPut n ((c.tdreg n &&& ~~~m) ||| (v &&& m)) c.td }
  | .xs n lo v => { c with xs := spPut n (tab 64 fun j =>
      if lo ≤ j ∧ j < lo + v.length then v.getD (j - lo) 0 else c.xsel n j) c.xs }
  | .fm n v => { c with fm := spPut n v c.fm }
  | .vm n v => { c with vm := spPut n v c.vm }
  | .sreg n v =>
    match n with
    | 0x07 => { c with rm := BitVec.ofNat 2 v.toNat, pchk := v.getLsbD 2 }
    | 0x08 => { c with flags := c.flags &&& ~~~(BitVec.ofNat 7 v.toNat) }
    | 0x09 => if v.getLsbD 63 then { c with fel := none } else c
    | 0x0B => { c with tagV := v.getLsbD 8, tag := BitVec.ofNat 8 v.toNat }
    | 0x0E => { c with disc := c.disc &&& ~~~(BitVec.ofNat 16 v.toNat) }
    | _ => c
  | .rq _ _ => c
  | .none => c

/-! ## The first-event log (R47 to R49) -/

/-- The order of R49 as a list of numbers. -/
def LogEv.key (e : LogEv) : List Nat := [e.count, e.slot, e.kblock, e.row, e.lane, e.elem, e.kind]

/-- `a` comes before `b` in the order of the log. -/
def keyLt : List Nat → List Nat → Bool
  | a :: s, b :: t => a < b || (a == b && keyLt s t)
  | _, _ => false

/-- The earlier of two events (R49). -/
def evMin (a b : Option LogEv) : Option LogEv :=
  match a, b with
  | some x, some y => if keyLt y.key x.key then some y else some x
  | some x, none => some x
  | none, y => y

/-- Sticky flags and an event recorded in a context (R47, R49). -/
def Ctx.record (c : Ctx) (f : BitVec 7) (e : Option LogEv) : Ctx :=
  { c with flags := c.flags ||| f, fel := evMin c.fel e }

/-! ## Exposed results (R78, R119) -/

/-- The overlay bank active as the instruction of the issuing context issues: that of its bundle, or of its core for an
instruction outside a bundle (R140). -/
def State.bankNow (s : State) : Nat := if s.iss.gated then s.iss.bank else (s.core (coreOf s.x)).ibank

/-- The snapshot register of a result that the instruction in `slot` of the issuing bundle writes `lat` bundles
later. -/
def State.snap (s : State) (slot lat : Nat) (d : Dest) : Snap :=
  { due := s.me.count + lat, issued := s.me.count, slot := slot, baddr := s.me.pc,
    bank := s.bankNow, dest := d }

/-- A result added to a context's snapshot registers, after every earlier one. -/
def Ctx.push (c : Ctx) (n : Snap) : Ctx := { c with snaps := c.snaps ++ [n] }

/-- The issuing context with one more result in flight. -/
def State.later (s : State) (slot lat : Nat) (d : Dest) : State :=
  s.modCtx s.x fun c => c.push (s.snap slot lat d)

/-- The same, with flags and an event that are recorded when the result lands. -/
def State.laterEv (s : State) (slot lat : Nat) (d : Dest) (f : BitVec 7) (e : Option LogEv) : State :=
  s.modCtx s.x fun c => c.push { s.snap slot lat d with flags := f, ev := e }

/-- A new event of the issuing bundle. -/
def State.event (s : State) (slot kblock row lane elem kind : Nat) : LogEv :=
  { count := s.me.count, slot := slot, kblock := kblock, row := row, lane := lane, elem := elem, kind := kind,
    baddr := s.me.pc, bank := s.bankNow }

/-- Entries pushed onto a result queue. -/
def Core.rqPush (k : Core) (n : Nat) (e : List VEntry) : Core := { k with rq := spMod [] n (· ++ e) k.rq }

/-- One due result written, its flags and event recorded (R47, R78); one that is a trap writes nothing (R151). -/
def Ctx.landOne (c : Ctx) (n : Snap) : Ctx := if n.trap.isSome then c else (c.put n.dest).record n.flags n.ev

/-- Whether a result is due at the context's count. -/
def Snap.isDue (n : Snap) (count : Nat) : Bool := n.due ≤ count

/-- Entries that due results push onto result queues, onto a core. -/
def landQueues (k : Core) : List Snap → Core
  | [] => k
  | n :: t =>
    match n.dest with
    | .rq q e => landQueues (k.rqPush q e) t
    | _ => landQueues k t

/-- WCBWAIT of cluster `u` written by core `c`: of the writes of one cycle the highest core's stands (R121). -/
def State.setWcb (s : State) (u c : Nat) (v : Word) : State :=
  s.modClu u fun k =>
    if k.wcbBy.any fun p => p.1 == s.now && decide (c < p.2) then k
    else { k with wcbwait := BitVec.ofNat 12 v.toNat, wcbBy := some (s.now, c) }

/-- What due results of context `x` write beyond its own registers: WCBWAIT (R121). -/
def State.landShared (s : State) (x : Nat) : List Snap → State
  | [] => s
  | n :: t =>
    match n.dest with
    | .sreg k v => if k = 0x10 then (s.setWcb (cluOf x) (coreOf x) v).landShared x t else s.landShared x t
    | _ => s.landShared x t

/-! ## Identity and time -/

/-- CLK of die `d` (R122). -/
def State.clk (s : State) (d : Nat) : Nat := s.now - (s.die d).clk0

/-! ## Becoming dormant, and starts (R113 to R115, R120) -/

/-- A result that a stopping context still delivers: the entries of a drain (R197). -/
def Snap.isDrain (n : Snap) : Bool :=
  match n.dest with
  | .rq _ _ => true
  | _ => false

/-- The first ready context of core `c` in the order after `i` (R116, step 2). -/
def State.readyAfter (s : State) (c i : Nat) : Option Nat :=
  ([1, 2, 3, 0].map fun k => (i + k) % 4).find? fun j => (s.ctx (4 * c + j)).st = .ready && !(s.ctx (4 * c + j)).held

/-- The context whose bundle the issue stage of core `c` takes next: the selected one, or the first ready one (R116). -/
def State.stageOf (s : State) (c : Nat) : Option Nat :=
  match (s.core c).sel with
  | some j => some j
  | none => s.readyAfter c (((s.core c).selFrom).getD 3)

/-- The issue stage of core `c` selects context `j` of the core. -/
def State.select (s : State) (c j : Nat) : State :=
  (s.modCore c fun k => { k with sel := some j, selFrom := none }).modCtx (4 * c + j) fun e => { e with st := .selected }

/-- Context `x` has left the issue stage (R116): the first ready context after it is selected; where none is ready,
the next selection counts from `x` when `keep` holds (step 4) and is free otherwise (steps 5 and 6). -/
def State.leaveStage (s : State) (x : Nat) (keep : Bool) : State :=
  if (s.core (coreOf x)).sel = some (x % 4) then
    match s.readyAfter (coreOf x) (x % 4) with
    | some j => s.select (coreOf x) j
    | none => s.modCore (coreOf x) fun k => { k with sel := none, selFrom := if keep then some (x % 4) else none }
  else s

/-- A long load. -/
def LongOp.isLoad (o : LongOp) : Bool :=
  match o.kind with
  | .load _ => true
  | _ => false

/-- Context `x` becomes dormant: entries still due from drains are pushed at once, in order, and every register result
in flight is discarded without a flag (R120, R197). -/
def State.toDormant (s : State) (x : Nat) : State :=
  let c := s.ctx x
  let s := s.modCore (coreOf x) fun k => landQueues k (c.snaps.filter Snap.isDrain)
  let s := { s with pend := s.pend.filter fun i => !c.longs.any fun o => o.num == i && o.isLoad }
  (s.modCtx x fun c => { c with st := .dormant, snaps := [], longs := [], why := none, watch := none }).leaveStage x false

/-- The lowest-numbered dormant context of core `c` (R114). -/
def State.dormantOf (s : State) (c : Nat) : Option Nat :=
  if (s.core c).awaits then none
  else firstBelow 4 fun i => (s.ctx (4 * c + i)).st = .dormant

/-- A context as a start sets it (R115); vector state, profiles, flags and tokens are cleared. -/
def startCtx (old : Ctx) (r : StartReq) (world : Bool) : Ctx :=
  { st := .ready
    pc := r.entry
    s := r.regs.foldl (fun m (p : Nat × Word) => spPut p.1 p.2 m) []
    td := r.tds.foldl (fun m (p : Nat × BitVec 256) => spPut p.1 p.2 m) []
    world := world
    priv := r.priv
    tagV := r.tag.isSome
    tag := r.tag.getD 0
    child := r.child
    stream := r.stream
    prio := r.prio
    origin := some r.origin
    nextLong := old.nextLong }

/-- Context `x` started by `r` (R114, R115, R318): the core takes the world that `sys.world` set, but the trap handler of a
world runs in its own (R312, R335). -/
def State.start (s : State) (x : Nat) (r : StartReq) : State :=
  let k := s.core (coreOf x)
  let world := r.world.getD k.nextWorld
  let s := s.modCore (coreOf x) fun k =>
    { k with owner := some r.stream, world := if r.world.isSome then k.world else k.nextWorld }
  { s.modCtx x fun c => { startCtx c r world with life := s.nextId } with nextId := s.nextId + 1 }

/-- Of two arrivals of one cycle `w` goes first: a handler start before a `tcall` child, and handler starts by copy engine,
source core and number (R114). -/
def Waiting.before (w v : Waiting) : Bool := w.rank < v.rank || (w.rank == v.rank && keyLt w.order v.order)

/-- A start put among the waiting ones in order of arrival (R114). -/
def insertStart (w : Waiting) : List Waiting → List Waiting
  | [] => [w]
  | v :: t => if w.cycle = v.cycle ∧ w.before v then w :: v :: t else v :: insertStart w t

/-- A handler start or a `tcall` child arrives at core `c` (R114): the lowest dormant context takes it when none
waits before it; else it waits in order of arrival. -/
def State.arriveStart (s : State) (c : Nat) (rank : Nat) (r : StartReq) (order : List Nat := []) : State :=
  match (s.core c).starts, s.dormantOf c with
  | [], some i => s.start (4 * c + i) r
  | _, _ => s.modCore c fun k => { k with starts := insertStart { cycle := s.now, rank := rank, order := order, req := r } k.starts }

/-! ## Taking a trap (R260, R310 to R314) -/

/-- Room in a die's trap store of 64 frames (R312). -/
def Die.room (d : Die) : Bool := d.store.length < 64 && d.waiting.isEmpty

/-- A frame enters the trap store of die `d`, or waits at its source while the store is full (R312). -/
def State.deliver (s : State) (d : Nat) (f : Frame) : State :=
  s.modDie d fun e => if e.room then { e with store := e.store ++ [f] } else { e with waiting := e.waiting ++ [f] }

/-- A host vector is raised on the panel of die `d`, at every bonded port where it is unmasked (R347). -/
def State.raise (s : State) (d v : Nat) : State := s.modPan (d / 64) fun p =>
  { p with vectors := p.vectors ++ [v]
           raised := p.raised ++ ([0, 7, 56, 63].filter fun i => Config.vectorOn (64 * (d / 64) + i) v).map fun i => (i, v) }

/-- What a trap reports beside its cause and FADDR. -/
structure TrapInfo where
  slot : Nat := 0
  /-- taken after issue (R143) -/
  after : Bool := false
  /-- arrived with a reply (FL[3]) -/
  reply : Bool := false
  /-- found by a page walk: the translation entry -/
  walk : Option Nat := none
  orig : Nat := 0
  baddr : Nat := 0
  bank : Nat := 0
  deriving DecidableEq, Repr

/-- The causes that leave a `tcall` child frozen rather than ending it (R260). -/
def resumable (cause : Nat) (walk : Bool) : Bool :=
  (walk && (cause == 0x20 || cause == 0x25 || cause == 0x2E)) || cause == 0x09 || cause == 0x0A || cause == 0x58

/-- The SRC 0 frame of a trap of context `x`, whose state is `c` (R311). -/
def State.frameOf (s : State) (c : Ctx) (x cause : Nat) (faddr : Word) (t : TrapInfo) : Frame :=
  { cause := cause, orig := t.orig, src := 0,
    fl := 1 + 2 * b2n c.world + 4 * b2n t.after + 8 * b2n t.reply,
    baddr := t.baddr,
    loc := t.slot + 4 * t.bank + 8 * (x % 4),
    who := cidOf (coreOf x) + 64 * c.stream.toNat,
    faddr := faddr,
    aux := match t.walk with
      | some e => BitVec.ofNat 64 (e * 2 ^ 16)
      | none => 0
    clk := s.clk (dieOf x), world := c.world }

/-- The SRC 0 frame of a context's trap. -/
def State.ctxFrame (s : State) (x cause : Nat) (faddr : Word) (t : TrapInfo) : Frame := s.frameOf (s.ctx x) x cause faddr t

/-- Context `x` is frozen and leaves the issue stage (R113, R116). -/
def State.freeze (s : State) (x : Nat) (w : Freeze) (keep : Bool) : State :=
  (s.modCtx x fun c => { c with st := .frozen, why := if c.st = .frozen then c.why else some w }).leaveStage x keep

/-- HFAULT of a privileged context's trap (R314). -/
def hfaultWord (cause x baddr : Nat) : Word :=
  BitVec.ofNat 64 (0x5D * 2 ^ 56 + cause * 2 ^ 48 + cidOf (coreOf x) * 2 ^ 32 + x % 4 * 2 ^ 16 + baddr)

/-- Context `x` becomes dormant; a `tcall` child's end goes to its parent with `cause` (R120, R259, R260, R313). -/
def State.finish (s : State) (x cause : Nat) (faddr : Word) : State :=
  match (s.ctx x).origin with
  | some (.tcall w i _) =>
    let waits := ((s.ctx x).mine.filter fun a => a.2.2 && s.pend.contains a.1).map (·.1)
    (s.toDormant x).modCore (coreOf x) fun k =>
      { k with ends := k.ends ++ [{ word := w, child := i, cause := cause, faddr := faddr, ctx := x % 4,
                                    life := (s.ctx x).life, waits := waits }] }
  | _ => s.toDormant x

/-- Context `x` takes a trap (R260, R313, R314): a privileged context is frozen and HFAULT records it; a `tcall` child
ends unless its cause is resumable; any other context is frozen and a frame is delivered. -/
def State.takeTrap (s : State) (x cause : Nat) (faddr : Word) (t : TrapInfo) : State :=
  let c := s.ctx x
  if c.priv then
    ((s.freeze x (.trap cause faddr) (!t.after)).setReg (dieOf x) 0x180 (hfaultWord cause x t.baddr)).raise (dieOf x) 10
  else
    match c.origin with
    | some (.tcall _ _ spec) =>
      if !spec && resumable cause t.walk.isSome then
        (s.deliver (dieOf x) (s.ctxFrame x cause faddr t)).freeze x (.trap cause faddr) (!t.after)
      else
        s.finish x cause faddr
    | _ => (s.deliver (dieOf x) (s.ctxFrame x cause faddr t)).freeze x (.trap cause faddr) (!t.after)

/-- The report of a trap of the issuing bundle in `slot`. -/
def State.info (s : State) (slot : Nat) : TrapInfo :=
  { slot := slot, baddr := s.me.pc, bank := s.bankNow }

/-- The issuing context traps at issue: the bundle is not issued, and the trap is taken (R53, R61). -/
def State.trapAtIssue (s : State) (slot cause : Nat) (faddr : Word) (orig : Nat := 0) : State :=
  let s' := s.takeTrap s.x cause faddr { s.info slot with orig := orig }
  { s' with iss := { s'.iss with out := .trap cause faddr orig, slot := slot } }

/-! ## Results that are due (R53, R119, R151) -/

/-- The trap of a result that was to land at this count: the oldest due one of context `x` (R151). -/
def State.landTrap (s : State) (x : Nat) : List Snap → State
  | [] => s
  | n :: t => match n.trap with
    | some (c, f) => s.takeTrap x c f { slot := n.slot, reply := true, baddr := n.baddr, bank := n.bank }
    | none => s.landTrap x t

/-- Every due result of context `x` written, the later-issued and the higher slot last (R53, R119). -/
def State.land (s : State) (x : Nat) : State :=
  let c := s.ctx x
  let due := c.snaps.filter (·.isDue c.count)
  let s := s.modCtx x fun c =>
    { due.foldl Ctx.landOne c with snaps := c.snaps.filter fun n => !n.isDue c.count }
  ((s.modCore (coreOf x) fun k => landQueues k due).landShared x due).landTrap x due

/-- The results of context `x` that its last bundle brings to their count land before it retires; one that was to trap
is dropped (R119, R120, log 22). -/
def State.landLast (s : State) (x : Nat) : State :=
  let c := s.ctx x
  let due := c.snaps.filter fun n => n.isDue (c.count + 1) && n.trap.isNone
  ((s.modCtx x fun c =>
    { due.foldl Ctx.landOne c with snaps := c.snaps.filter fun n => !n.isDue (c.count + 1) }).modCore (coreOf x)
      fun k => landQueues k due).landShared x due

/-- The context's issue count after one more bundle, with what then lands (R119). -/
def State.countUp (s : State) (x : Nat) : State := (s.modCtx x fun c => { c with count := c.count + 1 }).land x

/-- The causes by name (R315). -/
abbrev cIllegalOpcode : Nat := 0x01
abbrev cReservedField : Nat := 0x02
abbrev cIllegalHeader : Nat := 0x03
abbrev cPrivInstr : Nat := 0x04
abbrev cBadRegister : Nat := 0x05
abbrev cIbankRange : Nat := 0x06
abbrev cIbankWrite : Nat := 0x07
abbrev cEarlyRead : Nat := 0x08
abbrev cBreakpoint : Nat := 0x09
abbrev cSoftwareTrap : Nat := 0x0A
abbrev cTileWordIllegal : Nat := 0x0B
abbrev cTileLevel : Nat := 0x0C
abbrev cLoopNest : Nat := 0x0D
abbrev cFormatProfile : Nat := 0x0E
abbrev cWatchdog : Nat := 0x0F
abbrev cRqOverflow : Nat := 0x10
abbrev cRqUnderflow : Nat := 0x11
abbrev cAccTagConflict : Nat := 0x12
abbrev cQueueUnbound : Nat := 0x14
abbrev cXcopyConflict : Nat := 0x15
abbrev cPatternInvalid : Nat := 0x16
abbrev cGrinderRecord : Nat := 0x17
abbrev cWeightWrite : Nat := 0x18
abbrev cTranslationFault : Nat := 0x20
abbrev cPermission : Nat := 0x21
abbrev cHandleInvalid : Nat := 0x22
abbrev cHandleBounds : Nat := 0x23
abbrev cAlignment : Nat := 0x24
abbrev cWorldViolation : Nat := 0x25
abbrev cSramRange : Nat := 0x26
abbrev cEccUncorrectable : Nat := 0x27
abbrev cCompressedFormat : Nat := 0x28
abbrev cChecksumMismatch : Nat := 0x29
abbrev cRemoteReset : Nat := 0x2A
abbrev cRemoteTimeout : Nat := 0x2B
abbrev cMigrationAbort : Nat := 0x2C
abbrev cCopyDescriptor : Nat := 0x2D
abbrev cStripeConfig : Nat := 0x2E
abbrev cFenceToken : Nat := 0x2F
abbrev cSpecFaultConfirmed : Nat := 0x30
abbrev cSpecTagExhausted : Nat := 0x31
abbrev cSpecTagState : Nat := 0x32
abbrev cPredictorIndex : Nat := 0x33
abbrev cResidencyIndex : Nat := 0x34
abbrev cChildFault : Nat := 0x35
abbrev cSplitInvalid : Nat := 0x36
abbrev cStagingOverflow : Nat := 0x37
abbrev cKernelEntry : Nat := 0x38
abbrev cContextExhausted : Nat := 0x39
abbrev cLinkDown : Nat := 0x40
abbrev cRouteInvalid : Nat := 0x41
abbrev cGroupInvalid : Nat := 0x42
abbrev cGroupResources : Nat := 0x43
abbrev cCollShape : Nat := 0x44
abbrev cDuplicateWindow : Nat := 0x45
abbrev cNbInvalid : Nat := 0x46
abbrev cFlagTarget : Nat := 0x47
abbrev cPreempt : Nat := 0x50
abbrev cDroopAlarm : Nat := 0x51
abbrev cThermal : Nat := 0x52
abbrev cPowerStepLimit : Nat := 0x53
abbrev cSecureBootFail : Nat := 0x54
abbrev cHostSignal : Nat := 0x55
abbrev cSaveAreaFault : Nat := 0x56
abbrev cFaultLogOverflow : Nat := 0x57
abbrev cEcall : Nat := 0x58
abbrev cMachineCheck : Nat := 0x59
abbrev cStreamFetch : Nat := 0x5A
abbrev cPreemptEscalated : Nat := 0x5B
abbrev cRestoreMismatch : Nat := 0x5C
abbrev cDoorbellInvalid : Nat := 0x5E

end Sys2Proof.Machine
end

