-- ==== Sys2Proof/Machine/Operands.lean ====
section
/-! DEFINITION. The register fields and selectors of slot instructions: what each reads and writes at issue, which
values of a field name no register (R60), which selector values name nothing (R61, R83), and which instructions have
an immediate (R54, R55). -/

namespace Sys2Proof.Machine

/-- Elements per lane of a type code (R32, R57). -/
def elemsOf (t : Nat) : Nat := if t = 5 ∨ t = 6 then 4 else if t = 7 then 8 else 1

/-- The number of parts of a conversion from type `t` to type `u` (R91). -/
def vcvtParts (t u : Nat) : Nat := max (elemsOf t) (elemsOf u) / min (elemsOf t) (elemsOf u)

/-- The registers that a slot instruction reads at issue, the field at the highest bits first (R78, R79). -/
def reads : Instr → List Reg
  | .add _ a b => [.s a.toNat, .s b.toNat]
  | .sub _ a b => [.s a.toNat, .s b.toNat]
  | .and _ a b => [.s a.toNat, .s b.toNat]
  | .or _ a b => [.s a.toNat, .s b.toNat]
  | .xor _ a b => [.s a.toNat, .s b.toNat]
  | .andn _ a b => [.s a.toNat, .s b.toNat]
  | .shl _ a b => [.s a.toNat, .s b.toNat]
  | .shr _ a b => [.s a.toNat, .s b.toNat]
  | .sar _ a b => [.s a.toNat, .s b.toNat]
  | .rol _ a b => [.s a.toNat, .s b.toNat]
  | .ror _ a b => [.s a.toNat, .s b.toNat]
  | .min _ a b => [.s a.toNat, .s b.toNat]
  | .max _ a b => [.s a.toNat, .s b.toNat]
  | .minu _ a b => [.s a.toNat, .s b.toNat]
  | .maxu _ a b => [.s a.toNat, .s b.toNat]
  | .slt _ a b => [.s a.toNat, .s b.toNat]
  | .sltu _ a b => [.s a.toNat, .s b.toNat]
  | .seq _ a b => [.s a.toNat, .s b.toNat]
  | .sne _ a b => [.s a.toNat, .s b.toNat]
  | .addi _ a _ => [.s a.toNat]
  | .andi _ a _ => [.s a.toNat]
  | .ori _ a _ => [.s a.toNat]
  | .xori _ a _ => [.s a.toNat]
  | .slti _ a _ => [.s a.toNat]
  | .sltiu _ a _ => [.s a.toNat]
  | .shli _ a _ => [.s a.toNat]
  | .shri _ a _ => [.s a.toNat]
  | .sari _ a _ => [.s a.toNat]
  | .roli _ a _ => [.s a.toNat]
  | .movk d _ _ => [.s d.toNat]
  | .mul _ a b => [.s a.toNat, .s b.toNat]
  | .mulh _ a b => [.s a.toNat, .s b.toNat]
  | .mulhu _ a b => [.s a.toNat, .s b.toNat]
  | .mulhsu _ a b => [.s a.toNat, .s b.toNat]
  | .div _ a b => [.s a.toNat, .s b.toNat]
  | .divu _ a b => [.s a.toNat, .s b.toNat]
  | .rem _ a b => [.s a.toNat, .s b.toNat]
  | .remu _ a b => [.s a.toNat, .s b.toNat]
  | .clz _ a => [.s a.toNat]
  | .ctz _ a => [.s a.toNat]
  | .popc _ a => [.s a.toNat]
  | .brev _ a => [.s a.toNat]
  | .bytrev _ a => [.s a.toNat]
  | .bfx _ a b => [.s a.toNat, .s b.toNat]
  | .bfxz _ a b => [.s a.toNat, .s b.toNat]
  | .bfxi _ a _ _ => [.s a.toNat]
  | .bfi d a b => [.s d.toNat, .s a.toNat, .s b.toNat]
  | .bfii d a _ _ => [.s d.toNat, .s a.toNat]
  | .sel _ a b c => [.s a.toNat, .s b.toNat, .s c.toNat]
  | .beq a b _ => [.s a.toNat, .s b.toNat]
  | .bne a b _ => [.s a.toNat, .s b.toNat]
  | .blt a b _ => [.s a.toNat, .s b.toNat]
  | .bge a b _ => [.s a.toNat, .s b.toNat]
  | .bltu a b _ => [.s a.toNat, .s b.toNat]
  | .bgeu a b _ => [.s a.toNat, .s b.toNat]
  | .jr _ a => [.s a.toNat]
  | .loop a _ => [.s a.toNat]
  | .mts a _ => [.s a.toNat]
  | .trap a => [.s a.toNat]
  | .vadd _ a b p _ => [.v a.toNat, .v b.toNat, .p p.toNat]
  | .vsub _ a b p _ => [.v a.toNat, .v b.toNat, .p p.toNat]
  | .vmul _ a b p _ => [.v a.toNat, .v b.toNat, .p p.toNat]
  | .vfma d a b p _ => [.v d.toNat, .v a.toNat, .v b.toNat, .p p.toNat]
  | .vfms d a b p _ => [.v d.toNat, .v a.toNat, .v b.toNat, .p p.toNat]
  | .vfnma d a b p _ => [.v d.toNat, .v a.toNat, .v b.toNat, .p p.toNat]
  | .vmin _ a b p _ => [.v a.toNat, .v b.toNat, .p p.toNat]
  | .vmax _ a b p _ => [.v a.toNat, .v b.toNat, .p p.toNat]
  | .vdiv _ a b p _ => [.v a.toNat, .v b.toNat, .p p.toNat]
  | .vsqrt _ a p _ => [.v a.toNat, .p p.toNat]
  | .vrcp _ a p _ => [.v a.toNat, .p p.toNat]
  | .vrsq _ a p _ => [.v a.toNat, .p p.toNat]
  | .vexp2 _ a p _ => [.v a.toNat, .p p.toNat]
  | .vlog2 _ a p _ => [.v a.toNat, .p p.toNat]
  | .vtanh _ a p _ => [.v a.toNat, .p p.toNat]
  | .vcvt _ a _ p _ _ _ => [.v a.toNat, .p p.toNat]
  | .vcmpEq _ a b p _ => [.v a.toNat, .v b.toNat, .p p.toNat]
  | .vcmpNe _ a b p _ => [.v a.toNat, .v b.toNat, .p p.toNat]
  | .vcmpLt _ a b p _ => [.v a.toNat, .v b.toNat, .p p.toNat]
  | .vcmpLe _ a b p _ => [.v a.toNat, .v b.toNat, .p p.toNat]
  | .vcmpGt _ a b p _ => [.v a.toNat, .v b.toNat, .p p.toNat]
  | .vcmpGe _ a b p _ => [.v a.toNat, .v b.toNat, .p p.toNat]
  | .vcmpUnord _ a b p _ => [.v a.toNat, .v b.toNat, .p p.toNat]
  | .vcmpOrd _ a b p _ => [.v a.toNat, .v b.toNat, .p p.toNat]
  | .vsel _ a b p => [.v a.toNat, .v b.toNat, .p p.toNat]
  | .vand _ a b p => [.v a.toNat, .v b.toNat, .p p.toNat]
  | .vor _ a b p => [.v a.toNat, .v b.toNat, .p p.toNat]
  | .vxor _ a b p => [.v a.toNat, .v b.toNat, .p p.toNat]
  | .vandn _ a b p => [.v a.toNat, .v b.toNat, .p p.toNat]
  | .vnot _ a p => [.v a.toNat, .p p.toNat]
  | .vshl _ a b p _ => [.v a.toNat, .v b.toNat, .p p.toNat]
  | .vshr _ a b p _ => [.v a.toNat, .v b.toNat, .p p.toNat]
  | .vsar _ a b p _ => [.v a.toNat, .v b.toNat, .p p.toNat]
  | .vshli _ a _ _ => [.v a.toNat]
  | .vshri _ a _ _ => [.v a.toNat]
  | .vsari _ a _ _ => [.v a.toNat]
  | .vadds _ a b p _ => [.v a.toNat, .v b.toNat, .p p.toNat]
  | .vsubs _ a b p _ => [.v a.toNat, .v b.toNat, .p p.toNat]
  | .vabs _ a p _ => [.v a.toNat, .p p.toNat]
  | .vneg _ a p _ => [.v a.toNat, .p p.toNat]
  | .vclz _ a p _ => [.v a.toNat, .p p.toNat]
  | .vpopc _ a p _ => [.v a.toNat, .p p.toNat]
  | .vmov _ a p => [.v a.toNat, .p p.toNat]
  | .vbcast _ sf p _ => [.s sf.toNat, .p p.toNat]
  | .vext _ a b _ => [.v a.toNat, .s b.toNat]
  | .vins _ sf b p _ => [.s sf.toNat, .s b.toNat, .p p.toNat]
  | .vredAdd _ a p _ _ => [.v a.toNat, .p p.toNat]
  | .vredMin _ a p _ _ => [.v a.toNat, .p p.toNat]
  | .vredMax _ a p _ _ => [.v a.toNat, .p p.toNat]
  | .vshuf _ a b p => [.v a.toNat, .v b.toNat, .p p.toNat]
  | .vpat _ a _ p _ _ => [.v a.toNat, .p p.toNat]
  | .xcopy _ a b p _ => [.v a.toNat, .s b.toNat, .p p.toNat]
  | .vtopk _ a p _ _ _ => [.v a.toNat, .p p.toNat]
  | .viota _ p _ => [.p p.toNat]
  | .viotaCnt _ p _ => [.p p.toNat]
  | .pand _ a b => [.p a.toNat, .p b.toNat]
  | .por _ a b => [.p a.toNat, .p b.toNat]
  | .pxor _ a b => [.p a.toNat, .p b.toNat]
  | .pnot _ a => [.p a.toNat]
  | .pmov _ a => [.p a.toNat]
  | .pcnt _ a p => [.p a.toNat, .p p.toNat]
  | .pfirst _ a p => [.p a.toNat, .p p.toNat]
  | .rqpop _ _ p _ _ => [.p p.toNat]
  | .tmmaWs _ a b f _ _ => [.td a.toNat, .td b.toNat, .fm f.toNat]
  | .tmmaGr _ a b f _ _ => [.td a.toNat, .td b.toNat, .fm f.toNat]
  | .tmmaCs _ a _ f _ _ => [.td a.toNat, .fm f.toNat]
  | .tldc _ d _ => [.td d.toNat]
  | .tstc _ d => [.td d.toNat]
  | .tdrainF _ _ a _ b => (if b == 1 then [.v a.toNat] else [])
  | .tdrainBf _ _ a _ b => (if b == 1 then [.v a.toNat] else [])
  | .tsclA _ d _ _ _ => [.td d.toNat]
  | .tsclB _ d _ _ => [.td d.toNat]
  | .tldb _ d => [.td d.toNat]
  | .setfmt _ a => [.s a.toNat]
  | .tdld _ d _ => [.h d.toNat]
  | .tdsetBase _ a => [.s a.toNat]
  | .tdsetShape _ a => [.s a.toNat]
  | .tdsetLayout _ a => [.s a.toNat]
  | .tdsetSbase _ a => [.s a.toNat]
  | .tdsetSub _ d a => [.td d.toNat, .s a.toNat]
  | .tdsetMov _ d => [.td d.toNat]
  | .tsend t a _ => [.h t.toNat, .s a.toNat]
  | .xcfm a => [.s a.toNat]
  | .xsq a => [.s a.toNat]
  | .xtagq _ a _ => [.s a.toNat]
  | .xpred t _ a b _ => [.p t.toNat, .v a.toNat, .s b.toNat]
  | .xtrain t a b => [.p t.toNat, .v a.toNat, .v b.toNat]
  | .xres _ _ a b _ g => [.s a.toNat, .v b.toNat, .p g.toNat]
  | .xmiss t _ a b => [.p t.toNat, .v a.toNat, .v b.toNat]
  | .xlook _ a => [.s a.toNat]
  | .xins a b => [.s a.toNat, .s b.toNat]
  | .xinv a => [.s a.toNat]
  | .xrdt _ a => [.s a.toNat]
  | .xpin a b => [.s a.toNat, .s b.toNat]
  | .seedscan t _ a b => [.td t.toNat, .s a.toNat, .s b.toNat]
  | .grx t d => [.td t.toNat, .td d.toNat]
  | .ld _ h _ _ _ => [.h h.toNat]
  | .st d h _ _ _ => [.s d.toNat, .h h.toNat]
  | .ldx _ h _ _ b => [.h h.toNat, .s b.toNat]
  | .stx d h _ _ b => [.s d.toNat, .h h.toNat, .s b.toNat]
  | .lda _ h _ _ _ _ => [.h h.toNat]
  | .stl d h _ _ _ _ => [.s d.toNat, .h h.toNat]
  | .vld _ h _ _ _ => [.h h.toNat]
  | .vst d h _ _ _ => [.v d.toNat, .h h.toNat]
  | .vlds _ h _ _ b => [.h h.toNat, .s b.toNat]
  | .vsts d h _ _ b => [.v d.toNat, .h h.toNat, .s b.toNat]
  | .vgath _ h _ _ b => [.h h.toNat, .v b.toNat]
  | .vscat d h _ _ b => [.v d.toNat, .h h.toNat, .v b.toNat]
  | .trans _ a => [.s a.toNat]
  | .hchk _ a => [.h a.toNat]
  | .hmov _ a => [.h a.toNat]
  | .hinfo _ a => [.h a.toNat]
  | .xdfw a => [.s a.toNat]
  | .qpush _ a => [.s a.toNat]
  | .vqpush _ a k f => [.v a.toNat] ++ (if f == 1 then [.p k.toNat] else [])
  | .qcfg _ a => [.s a.toNat]
  | .strq _ h b _ _ => [.h h.toNat, .s b.toNat]
  | .cpy _ a b _ => [.h a.toNat, .s b.toNat]
  | .cpya _ a b _ => [.h a.toNat, .s b.toNat]
  | .tlwait a _ => [.s a.toNat]
  | .fladdArr a _ => [.s a.toNat]
  | .fladdDrop a _ => [.s a.toNat]
  | .fladdAdd a b _ => [.s a.toNat, .s b.toNat]
  | .flset d a b _ _ => [.s d.toNat, .s a.toNat, .s b.toNat]
  | .flwaitEq _ a b _ => [.s a.toNat, .s b.toNat]
  | .flwaitGe _ a b _ => [.s a.toNat, .s b.toNat]
  | .flwaitBar _ a _ => [.s a.toNat]
  | .nbpv _ a b _ _ => [.s a.toNat, .s b.toNat]
  | .nbrd _ a _ => [.s a.toNat]
  | .nbrdSt _ a _ => [.s a.toNat]
  | .nbrdMask _ a _ => [.s a.toNat]
  | .nbrdVm _ k _ => [.vm k.toNat]
  | .nbclr a => [.s a.toNat]
  | .istore a b => [.s a.toNat, .s b.toNat]
  | .collAr d a b _ _ => [.s d.toNat, .td a.toNat, .td b.toNat]
  | .collRs d a b _ _ => [.s d.toNat, .td a.toNat, .td b.toNat]
  | .collAg d a b => [.s d.toNat, .td a.toNat, .td b.toNat]
  | .collBc d a b => [.s d.toNat, .td a.toNat, .td b.toNat]
  | .collA2a d a b => [.s d.toNat, .td a.toNat, .td b.toNat]
  | .grpMk _ a b => [.h a.toNat, .s b.toNat]
  | .grpFree a => [.s a.toNat]
  | .grpQ _ a => [.s a.toNat]
  | .discard a b _ => [.h a.toNat, .s b.toNat]
  | .evrd _ a => [.s a.toNat]
  | .sysSave a b => [.s a.toNat, .s b.toNat]
  | .sysRest a b => [.s a.toNat, .s b.toNat]
  | .sysWorld a => [.s a.toNat]
  | .sysShoot a => [.s a.toNat]
  | _ => []

/-- The registers that a slot instruction writes (R78, R151). -/
def writes : Instr → List Reg
  | .add d _ _ => [.s d.toNat]
  | .sub d _ _ => [.s d.toNat]
  | .and d _ _ => [.s d.toNat]
  | .or d _ _ => [.s d.toNat]
  | .xor d _ _ => [.s d.toNat]
  | .andn d _ _ => [.s d.toNat]
  | .shl d _ _ => [.s d.toNat]
  | .shr d _ _ => [.s d.toNat]
  | .sar d _ _ => [.s d.toNat]
  | .rol d _ _ => [.s d.toNat]
  | .ror d _ _ => [.s d.toNat]
  | .min d _ _ => [.s d.toNat]
  | .max d _ _ => [.s d.toNat]
  | .minu d _ _ => [.s d.toNat]
  | .maxu d _ _ => [.s d.toNat]
  | .slt d _ _ => [.s d.toNat]
  | .sltu d _ _ => [.s d.toNat]
  | .seq d _ _ => [.s d.toNat]
  | .sne d _ _ => [.s d.toNat]
  | .addi d _ _ => [.s d.toNat]
  | .andi d _ _ => [.s d.toNat]
  | .ori d _ _ => [.s d.toNat]
  | .xori d _ _ => [.s d.toNat]
  | .slti d _ _ => [.s d.toNat]
  | .sltiu d _ _ => [.s d.toNat]
  | .shli d _ _ => [.s d.toNat]
  | .shri d _ _ => [.s d.toNat]
  | .sari d _ _ => [.s d.toNat]
  | .roli d _ _ => [.s d.toNat]
  | .movi d _ => [.s d.toNat]
  | .movk d _ _ => [.s d.toNat]
  | .mul d _ _ => [.s d.toNat]
  | .mulh d _ _ => [.s d.toNat]
  | .mulhu d _ _ => [.s d.toNat]
  | .mulhsu d _ _ => [.s d.toNat]
  | .div d _ _ => [.s d.toNat]
  | .divu d _ _ => [.s d.toNat]
  | .rem d _ _ => [.s d.toNat]
  | .remu d _ _ => [.s d.toNat]
  | .clz d _ => [.s d.toNat]
  | .ctz d _ => [.s d.toNat]
  | .popc d _ => [.s d.toNat]
  | .brev d _ => [.s d.toNat]
  | .bytrev d _ => [.s d.toNat]
  | .bfx d _ _ => [.s d.toNat]
  | .bfxz d _ _ => [.s d.toNat]
  | .bfxi d _ _ _ => [.s d.toNat]
  | .bfi d _ _ => [.s d.toNat]
  | .bfii d _ _ _ => [.s d.toNat]
  | .sel d _ _ _ => [.s d.toNat]
  | .jal _ => [.s 31]
  | .jr d _ => [.s d.toNat]
  | .jbank d _ => [.s d.toNat]
  | .mfs d _ => [.s d.toNat]
  | .vadd d _ _ _ _ => [.v d.toNat]
  | .vsub d _ _ _ _ => [.v d.toNat]
  | .vmul d _ _ _ _ => [.v d.toNat]
  | .vfma d _ _ _ _ => [.v d.toNat]
  | .vfms d _ _ _ _ => [.v d.toNat]
  | .vfnma d _ _ _ _ => [.v d.toNat]
  | .vmin d _ _ _ _ => [.v d.toNat]
  | .vmax d _ _ _ _ => [.v d.toNat]
  | .vdiv d _ _ _ _ => [.v d.toNat]
  | .vsqrt d _ _ _ => [.v d.toNat]
  | .vrcp d _ _ _ => [.v d.toNat]
  | .vrsq d _ _ _ => [.v d.toNat]
  | .vexp2 d _ _ _ => [.v d.toNat]
  | .vlog2 d _ _ _ => [.v d.toNat]
  | .vtanh d _ _ _ => [.v d.toNat]
  | .vcvt d _ _ _ _ _ _ => [.v d.toNat]
  | .vcmpEq q _ _ _ _ => [.p q.toNat]
  | .vcmpNe q _ _ _ _ => [.p q.toNat]
  | .vcmpLt q _ _ _ _ => [.p q.toNat]
  | .vcmpLe q _ _ _ _ => [.p q.toNat]
  | .vcmpGt q _ _ _ _ => [.p q.toNat]
  | .vcmpGe q _ _ _ _ => [.p q.toNat]
  | .vcmpUnord q _ _ _ _ => [.p q.toNat]
  | .vcmpOrd q _ _ _ _ => [.p q.toNat]
  | .vsel d _ _ _ => [.v d.toNat]
  | .vand d _ _ _ => [.v d.toNat]
  | .vor d _ _ _ => [.v d.toNat]
  | .vxor d _ _ _ => [.v d.toNat]
  | .vandn d _ _ _ => [.v d.toNat]
  | .vnot d _ _ => [.v d.toNat]
  | .vshl d _ _ _ _ => [.v d.toNat]
  | .vshr d _ _ _ _ => [.v d.toNat]
  | .vsar d _ _ _ _ => [.v d.toNat]
  | .vshli d _ _ _ => [.v d.toNat]
  | .vshri d _ _ _ => [.v d.toNat]
  | .vsari d _ _ _ => [.v d.toNat]
  | .vadds d _ _ _ _ => [.v d.toNat]
  | .vsubs d _ _ _ _ => [.v d.toNat]
  | .vabs d _ _ _ => [.v d.toNat]
  | .vneg d _ _ _ => [.v d.toNat]
  | .vclz d _ _ _ => [.v d.toNat]
  | .vpopc d _ _ _ => [.v d.toNat]
  | .vmov d _ _ => [.v d.toNat]
  | .vbcast d _ _ _ => [.v d.toNat]
  | .vext d _ _ _ => [.s d.toNat]
  | .vins d _ _ _ _ => [.v d.toNat]
  | .vimm d _ _ => [.v d.toNat]
  | .vredAdd d _ _ _ _ => [.v d.toNat]
  | .vredMin d _ _ _ _ => [.v d.toNat]
  | .vredMax d _ _ _ _ => [.v d.toNat]
  | .vshuf d _ _ _ => [.v d.toNat]
  | .vpat d _ _ _ _ _ => [.v d.toNat]
  | .xcopy d _ _ _ _ => [.v d.toNat]
  | .vtopk d _ _ _ _ _ => [.v d.toNat]
  | .viota d _ _ => [.v d.toNat]
  | .viotaCnt d _ _ => [.v d.toNat]
  | .pand d _ _ => [.p d.toNat]
  | .por d _ _ => [.p d.toNat]
  | .pxor d _ _ => [.p d.toNat]
  | .pnot d _ => [.p d.toNat]
  | .pmov d _ => [.p d.toNat]
  | .pcnt d _ _ => [.s d.toNat]
  | .pfirst d _ _ => [.s d.toNat]
  | .rqpop d _ _ f k => [.v d.toNat] ++ (if f == 1 then [.p k.toNat] else [])
  | .tsclA t _ _ _ _ => [.xs t.toNat]
  | .tsclB t _ _ _ => [.xs t.toNat]
  | .setfmt t _ => [.fm t.toNat]
  | .tdld t _ _ => [.td t.toNat]
  | .tdsetBase t _ => [.td t.toNat]
  | .tdsetShape t _ => [.td t.toNat]
  | .tdsetLayout t _ => [.td t.toNat]
  | .tdsetSbase t _ => [.td t.toNat]
  | .tdsetSub t _ _ => [.td t.toNat]
  | .tdsetMov t _ => [.td t.toNat]
  | .xspec d => [.s d.toNat]
  | .xtagq d _ _ => [.s d.toNat]
  | .xpred _ d _ _ _ => [.v d.toNat]
  | .xres _ _ _ _ f _ => [.p f.toNat]
  | .xmiss _ d _ _ => [.v d.toNat]
  | .xlook d _ => [.s d.toNat]
  | .xrdt d _ => [.s d.toNat]
  | .seedscan _ d _ _ => [.s d.toNat]
  | .ld d _ _ _ _ => [.s d.toNat]
  | .ldx d _ _ _ _ => [.s d.toNat]
  | .lda d _ _ _ _ _ => [.s d.toNat]
  | .vld d _ _ _ _ => [.v d.toNat]
  | .vlds d _ _ _ _ => [.v d.toNat]
  | .vgath d _ _ _ _ => [.v d.toNat]
  | .trans d _ => [.h d.toNat]
  | .hchk d _ => [.s d.toNat]
  | .hrel a => [.h a.toNat]
  | .hmov d _ => [.h d.toNat]
  | .hinfo d _ => [.s d.toNat]
  | .xdfi d _ => [.s d.toNat]
  | .qpop d _ => [.s d.toNat]
  | .vqpop d _ k f => [.v d.toNat] ++ (if f == 1 then [.p k.toNat] else [])
  | .qstat d _ => [.s d.toNat]
  | .cpy d _ _ _ => [.s d.toNat]
  | .cpya d _ _ _ => [.s d.toNat]
  | .tlrd d _ => [.s d.toNat]
  | .flwaitEq d _ _ _ => [.s d.toNat]
  | .flwaitGe d _ _ _ => [.s d.toNat]
  | .flwaitBar d _ _ => [.s d.toNat]
  | .nbpv d _ _ _ k => [.s d.toNat, .vm k.toNat]
  | .nbrd d _ _ => [.s d.toNat]
  | .nbrdSt d _ _ => [.s d.toNat]
  | .nbrdMask k _ _ => [.vm k.toNat]
  | .nbrdVm d _ _ => [.s d.toNat]
  | .grpMk d _ _ => [.s d.toNat]
  | .grpQ d _ => [.s d.toNat]
  | .evrd d _ => [.s d.toNat]
  | _ => []

/-- A register field names no register (R60, R83). -/
def registerBad : Instr → Bool
  | .pand d a b => 8 ≤ a.toNat || 8 ≤ b.toNat || 8 ≤ d.toNat
  | .por d a b => 8 ≤ a.toNat || 8 ≤ b.toNat || 8 ≤ d.toNat
  | .pxor d a b => 8 ≤ a.toNat || 8 ≤ b.toNat || 8 ≤ d.toNat
  | .pnot d a => 8 ≤ a.toNat || 8 ≤ d.toNat
  | .pmov d a => 8 ≤ a.toNat || 8 ≤ d.toNat
  | .pcnt _ a _ => 8 ≤ a.toNat
  | .pfirst _ a _ => 8 ≤ a.toNat
  | .rqpop _ a _ _ _ => 4 ≤ a.toNat
  | .tmmaCs _ _ b _ _ _ => 2 ≤ b.toNat
  | .tldc _ d _ => 16 ≤ d.toNat
  | .tstc _ d => 16 ≤ d.toNat
  | .tdrainF _ d _ _ _ => 4 ≤ d.toNat
  | .tdrainBf _ d _ _ _ => 4 ≤ d.toNat
  | .tdrainRaw _ d => 4 ≤ d.toNat
  | .tsclA t d _ _ _ => 16 ≤ d.toNat || 8 ≤ t.toNat
  | .tsclB t d _ _ => 16 ≤ d.toNat || 8 ≤ t.toNat
  | .tldb t d => 16 ≤ d.toNat || 2 ≤ t.toNat
  | .setfmt t _ => 4 ≤ t.toNat
  | .tdld _ d _ => 16 ≤ d.toNat
  | .tdsetSub _ d _ => 16 ≤ d.toNat
  | .tdsetMov _ d => 16 ≤ d.toNat
  | .xpred t _ _ _ _ => 8 ≤ t.toNat
  | .xtrain t _ _ => 8 ≤ t.toNat
  | .xres _ d _ _ _ _ => 16 ≤ d.toNat
  | .xmiss t _ _ _ => 8 ≤ t.toNat
  | .grx _ d => 16 ≤ d.toNat
  | .tmov _ d => 16 ≤ d.toNat
  | .tacc _ d _ => 16 ≤ d.toNat
  | .trans d _ => 16 ≤ d.toNat
  | .hchk _ a => 16 ≤ a.toNat
  | .hrel a => 16 ≤ a.toNat
  | .hmov d a => 16 ≤ a.toNat || 16 ≤ d.toNat
  | .hinfo _ a => 16 ≤ a.toNat
  | .qpush n _ => 8 ≤ n.toNat
  | .qpop _ n => 8 ≤ n.toNat
  | .vqpush n _ k _ => 8 ≤ k.toNat || 8 ≤ n.toNat
  | .vqpop _ n k _ => 8 ≤ k.toNat || 8 ≤ n.toNat
  | .qstat _ n => 8 ≤ n.toNat
  | .qcfg n _ => 8 ≤ n.toNat
  | .strq n h _ _ _ => 16 ≤ h.toNat || 4 ≤ n.toNat
  | .qrq m n => 4 ≤ n.toNat || 8 ≤ m.toNat
  | .cpy _ a _ _ => 16 ≤ a.toNat
  | .cpya _ a _ _ => 16 ≤ a.toNat
  | .tlwait _ n => 4 ≤ n.toNat
  | .tlrd _ n => 4 ≤ n.toNat
  | .nbrdMask k _ _ => 8 ≤ k.toNat
  | .nbrdVm _ k _ => 8 ≤ k.toNat
  | .collAr _ a b _ _ => 16 ≤ a.toNat || 16 ≤ b.toNat
  | .collRs _ a b _ _ => 16 ≤ a.toNat || 16 ≤ b.toNat
  | .collAg _ a b => 16 ≤ a.toNat || 16 ≤ b.toNat
  | .collBc _ a b => 16 ≤ a.toNat || 16 ≤ b.toNat
  | .collA2a _ a b => 16 ≤ a.toNat || 16 ≤ b.toNat
  | .grpMk _ a _ => 16 ≤ a.toNat
  | .discard a _ _ => 16 ≤ a.toNat
  | _ => false

/-- A selector of the instruction names nothing, or a field that its form leaves unused is not 0 (R61, R83). -/
def selectorBad : Instr → Bool
  | .vsqrt _ _ _ t => ! [3, 4, 5, 6].contains t.toNat
  | .vrcp _ _ _ t => ! [3, 4, 5, 6].contains t.toNat
  | .vrsq _ _ _ t => ! [3, 4, 5, 6].contains t.toNat
  | .vexp2 _ _ _ t => ! [3, 4, 5, 6].contains t.toNat
  | .vlog2 _ _ _ t => ! [3, 4, 5, 6].contains t.toNat
  | .vtanh _ _ _ t => ! [3, 4, 5, 6].contains t.toNat
  | .vcvt _ _ k _ t u _ => vcvtParts t.toNat u.toNat ≤ k.toNat
  | .vshl _ _ _ _ t => ! [0, 1, 2, 7].contains t.toNat
  | .vshr _ _ _ _ t => ! [0, 1, 2, 7].contains t.toNat
  | .vsar _ _ _ _ t => ! [0, 1, 2, 7].contains t.toNat
  | .vshli _ _ _ t => ! [0, 1, 2, 7].contains t.toNat
  | .vshri _ _ _ t => ! [0, 1, 2, 7].contains t.toNat
  | .vsari _ _ _ t => ! [0, 1, 2, 7].contains t.toNat
  | .vadds _ _ _ _ t => ! [0, 1, 2, 7].contains t.toNat
  | .vsubs _ _ _ _ t => ! [0, 1, 2, 7].contains t.toNat
  | .vclz _ _ _ t => ! [0, 1, 2, 7].contains t.toNat
  | .vpopc _ _ _ t => ! [0, 1, 2, 7].contains t.toNat
  | .vtopk _ _ _ t _ _ => ! [4, 5].contains t.toNat
  | .viota _ _ t => ! [0, 1, 2].contains t.toNat
  | .viotaCnt _ _ t => ! [0, 1, 2].contains t.toNat
  | .rqpop _ _ _ f k => f == 0 && k != 0
  | .tdrainF _ _ a _ b => b == 0 && a != 0
  | .tdrainBf _ _ a _ b => b == 0 && a != 0
  | .ld _ _ _ z _ => z.toNat == 7
  | .st _ _ _ z _ => 4 ≤ z.toNat
  | .ldx _ _ _ z _ => z.toNat == 7
  | .stx _ _ _ z _ => 4 ≤ z.toNat
  | .lda _ _ _ z sf _ => z.toNat == 7 || 6 ≤ sf.toNat
  | .stl _ _ _ z sf _ => 4 ≤ z.toNat || 6 ≤ sf.toNat
  | .vld _ _ _ z _ => z.toNat == 7
  | .vst _ _ _ z _ => 4 ≤ z.toNat
  | .vlds _ _ _ z _ => z.toNat == 7
  | .vsts _ _ _ z _ => 4 ≤ z.toNat
  | .vgath _ _ _ z _ => z.toNat == 7
  | .vscat _ _ _ z _ => 4 ≤ z.toNat
  | .fence sf _ => 6 ≤ sf.toNat
  | .vqpush _ _ k f => f == 0 && k != 0
  | .vqpop _ _ k f => f == 0 && k != 0
  | .qcfg n _ => n.toNat < 6
  | .mfs _ n => 0x14 ≤ n.toNat
  | .mts _ n => 0x14 ≤ n.toNat
  | .loop _ o => decide (o.toInt ≤ 0)
  | .loopi _ o => decide (o.toInt ≤ 0)
  | .strq _ _ _ _ z => z.toNat == 3
  | .fladdArr _ sf => 6 ≤ sf.toNat
  | .fladdDrop _ sf => 6 ≤ sf.toNat
  | .fladdAdd _ _ sf => 6 ≤ sf.toNat
  | .flset _ _ _ sf _ => 6 ≤ sf.toNat
  | .flwaitEq _ _ _ sf => 6 ≤ sf.toNat
  | .flwaitGe _ _ _ sf => 6 ≤ sf.toNat
  | .flwaitBar _ _ sf => 6 ≤ sf.toNat
  | .nbpv _ _ _ sf _ => 6 ≤ sf.toNat
  | .nbrd _ _ sf => 6 ≤ sf.toNat
  | .nbrdSt _ _ sf => 6 ≤ sf.toNat
  | .nbrdMask _ _ sf => 6 ≤ sf.toNat
  | .collAr _ _ _ w o => o == 3 || (w == 1 && o != 0)
  | .collRs _ _ _ w o => o == 3 || (w == 1 && o != 0)
  | _ => false

/-- The instruction's format has an immediate field that a header byte extends (R54, R55, R84). -/
def hasImm : Instr → Bool
  | .vshli _ _ _ _ => true
  | .vshri _ _ _ _ => true
  | .vsari _ _ _ _ => true
  | .vimm _ _ _ => true
  | .tsclA _ _ _ _ _ => true
  | .tsclB _ _ _ _ => true
  | .tdld _ _ _ => true
  | .ld _ _ _ _ _ => true
  | .st _ _ _ _ _ => true
  | .vld _ _ _ _ _ => true
  | .vst _ _ _ _ _ => true
  | .lda _ _ _ _ _ _ => true
  | .stl _ _ _ _ _ _ => true
  | .fence _ _ => true
  | .xdfi _ _ => true
  | _ => false

/-- Immediate shifts, whose extended immediate has only zeros above its amount (R95). -/
def isShiftImm : Instr → Bool
  | .vshli _ _ _ _ => true
  | .vshri _ _ _ _ => true
  | .vsari _ _ _ _ => true
  | _ => false

/-- The privileged instructions (R175). -/
def isPriv : Instr → Bool
  | .sysSave _ _ => true
  | .sysRest _ _ => true
  | .sysWorld _ => true
  | .sysShoot _ => true
  | _ => false

/-- The static checks of R61 on one slot's instruction, in their order: privilege, reserved fields and selectors (with
`ext`, the header byte of the slot, under R54 and R84), register fields. The cause of the first that fails. -/
def staticCheck (priv : Bool) (ext : Nat) (i : Instr) : Option Nat :=
  if isPriv i && !priv then some cPrivInstr
  else if selectorBad i || (ext != 0 && (!hasImm i || isShiftImm i)) then some cReservedField
  else if registerBad i then some cBadRegister
  else none

/-- The file code and number of a register, as EARLY_READ reports it (R311). -/
def Reg.code : Reg → Word
  | .s n => BitVec.ofNat 64 n
  | .v n => BitVec.ofNat 64 (0x100 + n)
  | .p n => BitVec.ofNat 64 (0x200 + n)
  | .h n => BitVec.ofNat 64 (0x300 + n)
  | .td n => BitVec.ofNat 64 (0x400 + n)
  | .xs n => BitVec.ofNat 64 (0x500 + n)
  | .fm n => BitVec.ofNat 64 (0x600 + n)
  | .vm n => BitVec.ofNat 64 (0x700 + n)

end Sys2Proof.Machine
end

