-- ==== Sys2Proof/Machine/CtlMap.lean ====
section
/-! DEFINITION. The control registers by address: which bits a write sets, who may write them, and what a read shows (R4,
R23, R182, R252, R264, R284, R285, R291, R303, R307, R310, R313, R314, R317, R318, R330, R335, R336, R339, R341 to R345,
R376, R377, R382, R383). -/

namespace Sys2Proof.Machine

/-- A control register of a die; `o` is an offset within a group of registers. -/
inductive CReg where
  | dpres
  /-- register at `o` of stream `k` (R303) -/
  | stream (k o : Nat)
  /-- trap ring of world `w` (R310) -/
  | ring (w o : Nat)
  | hfault
  | nbcfg (n : Nat)
  | turetry
  | turoot (w : Nat)
  /-- word `o` of stripe set `i` (R376) -/
  | stripe (i o : Nat)
  | mig (o : Nat)
  | region (o : Nat)
  | bootctl
  | bootstat
  | dpresset
  | fpworld
  | domcfg
  | attctl
  | attnonce (i : Nat)
  | attbuf (i : Nat)
  | devkey (i : Nat)
  | devcert (i : Nat)
  /-- word `i` of MS0 to MS7 -/
  | ms (i : Nat)
  /-- word `i` of MSEXT4 to MSEXT7 -/
  | msext (i : Nat)
  | wrlock
  /-- WRBASEi, or WRLIMi -/
  | wregion (i : Nat) (lim : Bool)
  | evsel (core : Bool) (unit i : Nat)
  | evcnt (core : Bool) (unit i : Nat)
  | hwin
  | hpost
  | hperr
  | wseed (c : Nat)
  | stgcfg (u : Nat)
  | csalloc (u k : Nat)
  | czr (u i : Nat)
  /-- register `o` of the completion action of flag `n` of core `c` (R284) -/
  | action (c n o : Nat)
  | cxcmd (c : Nat)
  | owner (c : Nat)
  | ceworld (u : Nat)
  /-- no register: reads 0, ignores writes (R23) -/
  | none
  deriving DecidableEq, Repr

/-- Index of `o` in `n` registers of `w` bytes from `base` on, for an offset on one of them. -/
def slotAt (base w n o : Nat) : Option Nat :=
  if base ≤ o ∧ o < base + w * n ∧ (o - base) % w = 0 then some ((o - base) / w) else Option.none

/-- The registers of block 0x00 of die `d` (R303, R307, R310, R314). -/
def cregSeq (o : Nat) : CReg :=
  if o = 0x8 then .dpres
  else if o = 0x180 then .hfault
  else if 0x100 ≤ o ∧ o < 0x180 then (if o % 0x40 < 0x20 then .ring ((o - 0x100) / 0x40) (o % 0x40) else .none)
  else if 0x1000 ≤ o ∧ o < 0x1400 then
    let k := (o - 0x1000) / 0x100
    let r := o % 0x100
    if r < 0x38 || (0x40 ≤ r && r < 0x90) then .stream k r else .none
  else .none

/-- The registers of block 0x02 (R317, R376, R377, R383). -/
def cregTu (o : Nat) : CReg :=
  if o = 0 then .turetry
  else if o = 0x10 then .turoot 0
  else if o = 0x18 then .turoot 1
  else if 0x100 ≤ o ∧ o < 0x120 then .mig (o - 0x100)
  else if 0x2000 ≤ o ∧ o < 0x3000 ∧ o % 64 < 40 then .stripe ((o - 0x2000) / 64) (o % 64 / 8)
  else .none

/-- The registers of block 0x05 (R335, R336, R339, R341, R342). -/
def cregBoot (o : Nat) : CReg :=
  if o = 0x0 then .bootctl
  else if o = 0x8 then .bootstat
  else if o = 0x10 then .dpresset
  else if o = 0x100 then .fpworld
  else if o = 0x200 then .domcfg
  else if o = 0x300 then .attctl
  else if o = 0xFF8 then .wrlock
  else if 0x308 ≤ o ∧ o < 0x328 then .attnonce ((o - 0x308) / 8)
  else if 0x340 ≤ o ∧ o < 0x508 then .attbuf ((o - 0x340) / 8)
  else if 0x600 ≤ o ∧ o < 0x640 then .devkey ((o - 0x600) / 8)
  else if 0x640 ≤ o ∧ o < 0x800 then .devcert ((o - 0x640) / 8)
  else if 0x800 ≤ o ∧ o < 0x900 then .ms ((o - 0x800) / 8)
  else if 0x900 ≤ o ∧ o < 0x980 then .msext ((o - 0x900) / 8)
  else if 0x1000 ≤ o ∧ o < 0x1400 then .wregion ((o - 0x1000) / 16) (o % 16 == 8)
  else .none

/-- The registers of the block of cluster `u` (R182, R252, R264, R284, R291, R313, R318, R335, R343). -/
def cregClu (u o : Nat) : CReg :=
  if o = 0x40100 then .stgcfg u
  else if o = 0x48080 then .ceworld u
  else if 0x41000 ≤ o ∧ o < 0x45000 then .action (8 * u + (o - 0x41000) / 2048) ((o - 0x41000) / 32 % 64) (o % 32)
  else match slotAt 0x40000 8 8 o with
    | some k => .wseed (8 * u + k)
    | Option.none => match slotAt 0x40200 8 4 o with
      | some k => .csalloc u k
      | Option.none => match slotAt 0x40300 8 8 o with
        | some i => .czr u i
        | Option.none => match slotAt 0x48000 8 8 o with
          | some k => .cxcmd (8 * u + k)
          | Option.none => match slotAt 0x48040 8 8 o with
            | some k => .owner (8 * u + k)
            | Option.none =>
              if 0x48100 ≤ o ∧ o < 0x48300 then
                let c := 8 * u + (o - 0x48100) / 64
                let i := o % 64 / 16
                if o % 16 = 0 then .evsel true c i else .evcnt true c i
              else .none

/-- The register at offset `off` of die `d`'s control space (R23). -/
def creg (d off : Nat) : CReg :=
  let b := off / 0x1000000
  let o := off % 0x1000000
  if o % 8 ≠ 0 then .none
  else match b with
  | 0x00 => cregSeq o
  | 0x01 => if o < 0x200 then .nbcfg (o / 8) else .none
  | 0x02 => cregTu o
  | 0x04 => if o ≤ 0x20 then .region o else .none
  | 0x05 => cregBoot o
  | 0x06 => if o < 0x100 then (if o % 16 = 0 then .evsel false d (o / 16) else .evcnt false d (o / 16)) else .none
  | 0x07 => if o = 0 then .hwin else if o = 8 then .hpost else if o = 0x10 then .hperr else .none
  | b => if 0x10 ≤ b ∧ b < 0x18 then cregClu (8 * d + (b - 0x10)) o else .none

/-- Bits `lo` to `hi`. -/
def bits (hi lo : Nat) : Nat := 2 ^ (hi + 1) - 2 ^ lo

/-- The RW bits of a register that holds what is written to it. -/
def CReg.mask : CReg → Nat
  | .stream _ o =>
    match o with
    | 0x00 => bits 2 0
    | 0x08 => bits 57 5
    | 0x10 => bits 57 29
    | 0x20 => bits 63 0
    | 0x28 => bits 63 0
    | 0x30 => bits 31 0
    | o => if 0x48 ≤ o ∧ o < 0x80 then bits 63 0 else 0
  | .ring _ o => if o = 0 then bits 63 63 + bits 53 48 + bits 15 0 else if o = 0x8 then bits 57 12 + bits 3 0
      else if o = 0x18 then bits 31 0 else 0
  | .nbcfg _ => bits 63 62 + bits 8 0
  | .turoot _ => bits 63 63 + bits 56 14
  | .stripe _ o => if o = 0 then bits 63 63 + bits 4 0 else bits 63 0
  | .mig o => if o = 0x8 then bits 56 14 + 1 else if o = 0x10 then bits 56 14 else if o = 0x18 then bits 57 14 + 1 else 0
  | .region o => if o = 0 then bits 7 0 else if o = 8 then bits 15 0 else if o = 0x10 then bits 15 0
      else if o = 0x20 then bits 1 0 else 0
  | .bootctl => bits 63 63
  | .fpworld => bits 6 0
  | .domcfg => bits 63 63 + bits 29 25 + bits 22 18 + bits 5 0
  | .attnonce _ => bits 63 0
  | .wregion _ lim => if lim then bits 43 14 else bits 63 63 + bits 61 60 + bits 43 14
  | .evsel _ _ _ => bits 63 63 + bits 15 0
  | .hwin => bits 56 36
  | .wseed _ => bits 47 0
  | .stgcfg _ => bits 41 32 + bits 21 12
  | .csalloc _ _ => bits 41 32 + bits 21 12
  | .czr _ _ => bits 63 63 + bits 46 32 + bits 21 7
  | .action _ _ o => if o = 0 then bits 63 57 + bits 22 0 else bits 63 0
  | .ceworld _ => bits 3 0
  | _ => 0

/-! ## Streams and regions of a panel -/

/-- The conductor die of panel `p` (R16, R341); a die reset of DID 0 does not change it. -/
def State.conductor (s : State) (p : Nat) : Nat := 64 * p + wfld (s.die (64 * p)).cfg 0 6

/-- A register of stream `k` of panel `p` (R303). -/
def State.str (s : State) (p k o : Nat) : Word := s.reg (s.conductor p) (0x1000 + 0x100 * k + o)
/-- A register of stream `k` of panel `p` set. -/
def State.setStr (s : State) (p k o : Nat) (v : Word) : State := s.setReg (s.conductor p) (0x1000 + 0x100 * k + o) v
/-- STRSTAT.STATE (R302): 0 IDLE, 1 RUN, 2 DRAINING, 3 SAVING, 4 SAVED, 5 TRAPPED, 6 FINISHED, 7 RESTORING. -/
def State.strState (s : State) (p k : Nat) : Nat := wfld (s.str p k 0x18) 0 3
/-- STRCTL.WORLD of a stream. -/
def State.strWorld (s : State) (p k : Nat) : Bool := (s.str p k 0).getLsbD 2

/-- Bits `lo` and the `n - 1` above it of a word replaced. -/
def putFld (w : Word) (lo n v : Nat) : Word :=
  BitVec.ofNat 64 (w.toNat - wfld w lo n * 2 ^ lo + v % 2 ^ n * 2 ^ lo)

/-- The power region of a die (R17). -/
def regionOf (d : Nat) : Nat := 4 * (d % 64 / 16) + d % 8 / 2
/-- The region's lowest die: its home (R334). -/
def regionHome (p r : Nat) : Nat := 64 * p + 16 * (r / 4) + 2 * (r % 4)
/-- The dies of a region, ascending. -/
def regionDies (p r : Nat) : List Nat :=
  let h := regionHome p r
  [h, h + 1, h + 8, h + 9]

/-- Stream `k` of panel `p` beside its registers. -/
def State.strm (s : State) (p k : Nat) : Stream := spGet {} (s.pan p).strs k
/-- The same changed by `f`. -/
def State.modStrm (s : State) (p k : Nat) (f : Stream → Stream) : State :=
  s.modPan p fun q => { q with strs := spMod {} k f q.strs }

/-- The stream is being saved, is saved or being restored, or its units are still held after a save stopped on a fault:
its work stands still (R320, R328, R329). -/
def State.strStill (s : State) (p k : Nat) : Bool :=
  let st := s.strState p k
  st == 3 || st == 4 || st == 7 || (s.strm p k).stuck

/-- Virtual address of die `did`'s block of the save area of a stream (R321). -/
def State.saveBlock (s : State) (p k did : Nat) : Nat := wfld (s.str p k 0x10) 29 29 * 2 ^ 29 + did * 2 ^ 29

/-- A die that the panel's boot has found present (R307). -/
def State.present_ (s : State) (d : Nat) : Bool := (s.reg d 0x8).getLsbD (d % 64)

/-- The dies of panel `p` that are present. -/
def State.panelDies (s : State) (p : Nat) : List Nat := ((List.range 64).map (64 * p + ·)).filter s.present_

/-! ## Who may write (R182, R252, R264, R284, R285, R303, R310, R313, R330, R335, R336, R339, R343, R376, R377, R383) -/

/-- A register that only secure writers reach: a non-secure context that writes it traps WORLD_VIOLATION. -/
def State.cregSecure (s : State) (d : Nat) : CReg → Bool
  | .stream k _ => d == s.conductor (d / 64) && s.strWorld (d / 64) k
  | .nbcfg n => (s.reg d (0x1000000 + 8 * n)).getLsbD 62
  | .turoot w => w == 1
  | .fpworld => true
  | .ceworld _ => true
  | .wregion _ _ => true
  | .wrlock => true
  | .msext _ => true
  | .wseed c => (s.core c).world
  | .stgcfg u => s.cluSecure u
  | .csalloc u _ => s.cluSecure u
  | .action c _ _ => s.cluSecure (c / 8)
  | .cxcmd c => (s.core c).world
  | _ => false

/-- The write of a context that traps WORLD_VIOLATION. -/
def State.ctlDenied (s : State) (d off : Nat) (secure : Bool) : Bool := !secure && s.cregSecure d (creg d off)

/-- A privileged context. -/
def privileged : Maker → Bool
  | .context p => p
  | _ => false
/-- A privileged context or the host. -/
def trusted : Maker → Bool
  | .context p => p
  | .host _ => true
  | _ => false

/-- Whether a maker may write a register, its world check aside. -/
def CReg.open_ (w : Access) : CReg → Bool
  | .stream _ _ => trusted w.who
  | .ring k _ => trusted w.who && (k == 0 || w.secure)
  | .nbcfg _ => privileged w.who
  | .turetry => trusted w.who
  | .turoot k => if k = 0 then trusted w.who || w.who.isFirmware
      else w.secure && (trusted w.who || w.who.isFirmware)
  | .stripe _ _ => trusted w.who
  | .mig _ => trusted w.who
  | .region _ => trusted w.who
  | .bootctl => w.who == .host false || w.who == .board || w.who.isFirmware
  | .dpresset => w.who.isFirmware
  | .fpworld => w.secure && (privileged w.who || w.who.isFirmware)
  | .ceworld _ => w.secure && (privileged w.who || w.who.isFirmware)
  | .wregion _ _ => w.secure && (privileged w.who || w.who.isFirmware)
  | .wrlock => w.secure && (privileged w.who || w.who.isFirmware)
  | .msext _ => w.secure && (trusted w.who || w.who.isFirmware)
  | .csalloc _ _ => privileged w.who
  | .action _ _ _ => privileged w.who
  | .cxcmd _ => trusted w.who
  | _ => true

/-- The state lets a plain register be written now. -/
def State.cregReady (s : State) (d : Nat) : CReg → Word → Bool
  | .stream k o, _ =>
    let st := s.strState (d / 64) k
    d == s.conductor (d / 64) &&
    (if o = 0x10 then st == 0 || st == 5 || st == 6
     else if o = 0x08 || (0x20 ≤ o && o < 0x30) || (0x40 ≤ o && o < 0x80) then !(st == 1 || st == 2 || st == 3 || st == 7)
     else true)
  | .mig o, _ => o == 0 || s.migState d == 0 || s.migState d == 3
  | .fpworld, _ => !(s.reg d 0x5000FF8).getLsbD 0
  | .ceworld u, _ => !(s.reg (u / 8) 0x5000FF8).getLsbD 0
  | .wregion _ _, _ => !(s.reg d 0x5000FF8).getLsbD 0
  | .domcfg, v => !(s.reg d 0x5000200).getLsbD 63 && wfld v 21 2 ≤ wfld v 28 2 && wfld v 20 1 ≤ wfld v 27 1 &&
      wfld v 18 2 ≤ wfld v 25 2
  | .wseed c, _ => (List.range 4).all fun i => (s.ctx (4 * c + i)).st == .dormant
  | .csalloc u k, _ => (List.range 32).all fun i =>
      (s.ctx (32 * u + i)).st == .dormant || (s.ctx (32 * u + i)).stream.toNat != k
  | .czr u _, _ => (List.range 32).all fun i => (s.ctx (32 * u + i)).st == .dormant
  | _, _ => true

/-- The value that a write leaves, where the register limits what it takes (R303, R330). With THI = 0 there is no THI - 1, and TLO
is stored as 0: the choice is the model's (log 95). -/
def State.cregTake (s : State) (d : Nat) (r : CReg) (v : Word) : Word :=
  let v := v &&& BitVec.ofNat 64 r.mask
  match r with
  | .region 0 => if v = 0 then 1 else if 150 < v.toNat then 150 else v
  | .region 8 => if v = 0 then 1 else v
  | .region 0x10 => if wfld v 8 8 ≤ wfld v 0 8 then putFld v 0 8 (wfld v 8 8 - 1) else v
  | .stream k 0 =>
    if s.strState (d / 64) k = 0 then v else putFld v 2 1 (wfld (s.str (d / 64) k 0) 2 1)
  | _ => v

/-! ## Reads -/

/-- The power region of die `d` (R17). -/
def State.regionAt (s : State) (d : Nat) : Region := spGet {} (s.pan (d / 64)).regions (regionOf d)

/-- A throttle of the region is active (R333). -/
def Region.slowed (g : Region) : Bool := g.dthr.isSome || g.tthr || g.crit

/-- Cycles that die `d` has spent under a throttle (R343). -/
def State.throttled (s : State) (d : Nat) : Nat :=
  let g := s.regionAt d
  g.slow + (if g.slowed then s.now - g.since else 0)

/-- PRSTAT of a region (R330, R331, R333). -/
def State.prstat (s : State) (p r : Nat) : Word :=
  let g := spGet {} (s.pan p).regions r
  BitVec.ofNat 64 (b2n g.dthr.isSome * 2 ^ 34 + b2n g.tthr * 2 ^ 33 + b2n g.crit * 2 ^ 32 + g.temp % 256 * 2 ^ 24 + g.cur)

/-- Eight bytes of a table of bytes, as a word. -/
def wordOf (f : Nat → Byte) (i : Nat) : Word := BitVec.ofNat 64 (leVal (tab 8 fun j => f (8 * i + j)))

end Sys2Proof.Machine
end

