-- ==== Sys2Proof/Machine/Torus.lean ====
section
/-! DEFINITION. The torus: positions, neighbours, links and routes (R10 to R13, R352 to R355). -/

namespace Sys2Proof.Machine

/-- x, y and the panel's position of die `d` (R10, R13). -/
def dieX (d : Nat) : Nat := d % 8
def dieY (d : Nat) : Nat := d % 64 / 8
def panX (p : Nat) : Nat := p % 4
def panY (p : Nat) : Nat := p / 4 % 2
def panZ (p : Nat) : Nat := p / 8

/-! ## The torus (R11 to R13, R352, R353) -/

/-- Domain position of a die. -/
def domX (d : Nat) : Nat := 8 * panX (d / 64) + dieX d
def domY (d : Nat) : Nat := 8 * panY (d / 64) + dieY d
def domZ (d : Nat) : Nat := panZ (d / 64)

/-- The domain die number of packet headers (R352). -/
def domD (d : Nat) : Nat := domX d + 32 * domY d + 512 * domZ d

/-- The die at a domain position. -/
def dieAt (x y z : Nat) : Nat := 64 * (8 * z + 4 * (y / 8) + x / 8) + 8 * (y % 8) + x % 8

/-- The die of a domain die number. -/
def dieOfD (n : Nat) : Nat := dieAt (n % 32) (n / 32 % 16) (n / 512)

/-- The ring sizes of the torus as the router of die `d` holds them. -/
def State.rings (s : State) (d : Nat) : Nat × Nat × Nat :=
  let w := (s.die d).cfg
  (8 * (wfld w 25 2 + 1), 8 * (wfld w 27 1 + 1), wfld w 28 2 + 1)

/-- The neighbour of die `d` on a port: 0 N, 1 E, 2 S, 3 W, 4 U, 5 D; a link off the panel leads where the shape that the
die holds says (R11, R12, R13). -/
def State.neighbour (s : State) (d port : Nat) : Nat :=
  let (nx, ny, nz) := s.rings d
  let x := domX d
  let y := domY d
  let z := domZ d
  match port with
  | 0 => dieAt x (if dieY d < 7 then y + 1 else (y + 1) % ny) z
  | 1 => dieAt (if dieX d < 7 then x + 1 else (x + 1) % nx) y z
  | 2 => dieAt x (if 0 < dieY d then y - 1 else (y + ny - 1) % ny) z
  | 3 => dieAt (if 0 < dieX d then x - 1 else (x + nx - 1) % nx) y z
  | 4 => dieAt x y ((z + 1) % nz)
  | _ => dieAt x y ((z + nz - 1) % nz)

/-- The port that faces back (R358). -/
def facing (port : Nat) : Nat := match port with
  | 0 => 2
  | 1 => 3
  | 2 => 0
  | 3 => 1
  | 4 => 5
  | _ => 4

/-- The link of a port runs off the panel (R11, R12). -/
def offPanel (d port : Nat) : Bool :=
  4 ≤ port || (port == 0 && dieY d == 7) || (port == 1 && dieX d == 7) || (port == 2 && dieY d == 0) ||
    (port == 3 && dieX d == 0)

/-- The shape fields of DOMCFG. -/
def shapeBits (w : Word) : Nat := wfld w 25 5

/-- Both ends of a link hold a DOMCFG that is set, and these differ: within a panel in any bit, between panels in their
shape (R341). -/
def State.cfgDiffers (s : State) (d e : Nat) : Bool :=
  let a := s.domcfg d
  let b := s.domcfg e
  a.getLsbD 63 && b.getLsbD 63 && (if d / 64 = e / 64 then a != b else shapeBits a != shapeBits b)

/-- The link of a port is up (R13, R337, R341, R355). -/
def State.linkUp (s : State) (d port : Nat) : Bool :=
  let e := s.neighbour d port
  let (_, _, nz) := s.rings d
  !(s.die d).down.contains port && !(s.die e).down.contains (facing port) && (s.die d).linksUp && (s.die e).linksUp &&
    !(4 ≤ port && nz == 1) && !s.cfgDiffers d e &&
    !(offPanel d port && !((s.die d).cfg.getLsbD 63 && (s.die e).cfg.getLsbD 63))

/-- The link of a port goes down at both of its ends, each of which holds it down until its own die reset: first halves
that came over it wait for nothing any more (R355, R358). -/
def State.linkFails (s : State) (d port : Nat) : State :=
  let cut := fun (q : Nat) (k : Die) =>
    { k with down := if k.down.contains q then k.down else k.down ++ [q], tries := spDel q k.tries,
             rhalf := k.rhalf.filter fun h => h.1 / 512 != q }
  (s.modDie d (cut port)).modDie (s.neighbour d port) (cut (facing port))

/-- DOMCFG is set: the router takes it, and every link whose other end holds another goes down (R341, R355). -/
def State.takeCfg (s : State) (d : Nat) (v : Word) : State :=
  let s := s.modDie d fun e => { e with cfg := v }
  ((List.range 6).filter fun q => s.cfgDiffers d (s.neighbour d q)).foldl (fun (s : State) q => s.linkFails d q) s

/-- The port toward a target by dimension order, the shorter way and the positive way of two (R353); before DOMCFG is set
the way stays inside the panel (R337). -/
def State.routePort (s : State) (d t : Nat) : Option Nat :=
  let (nx, ny, nz) := s.rings d
  let dx := (domX t + nx - domX d) % nx
  let dy := (domY t + ny - domY d) % ny
  let dz := (domZ t + nz - domZ d) % nz
  if (s.die d).cfg.getLsbD 63 then
    if dx ≠ 0 then some (if 2 * dx ≤ nx then 1 else 3)
    else if dy ≠ 0 then some (if 2 * dy ≤ ny then 0 else 2)
    else if dz ≠ 0 then some (if 2 * dz ≤ nz then 4 else 5)
    else none
  else if domX t ≠ domX d then some (if domX d < domX t then 1 else 3)
  else if domY t ≠ domY d then some (if domY d < domY t then 0 else 2)
  else if domZ t ≠ domZ d then some 4
  else none

/-- Dimension of a port: 0 X, 1 Y, 2 Z. -/
def portDim (port : Nat) : Nat := if port = 1 ∨ port = 3 then 0 else if port = 0 ∨ port = 2 then 1 else 2

/-- The hop through a port crosses the wrap link of its dimension (R354). -/
def State.wraps (s : State) (d port : Nat) : Bool :=
  let (nx, ny, nz) := s.rings d
  match port with
  | 0 => domY d + 1 == ny
  | 1 => domX d + 1 == nx
  | 2 => domY d == 0
  | 3 => domX d == 0
  | 4 => domZ d + 1 == nz
  | _ => domZ d == 0

/-- The first link of the way from die `h` to die `t` that is down, within `n` hops. -/
def State.wayDown (s : State) (t : Nat) : Nat → Nat → Bool
  | 0, _ => false
  | n + 1, h =>
    if h = t then false
    else match s.routePort h t with
      | none => false
      | some p => !s.linkUp h p || s.wayDown t n (s.neighbour h p)

/-- The port through which what dies send to die `t` arrives there, from die `h` on, within `n` hops; 6 where it starts there. -/
def State.arrival (s : State) (t : Nat) : Nat → Nat → Nat
  | 0, _ => 6
  | n + 1, h => match s.routePort h t with
    | none => 6
    | some p => let e := s.neighbour h p
                if e = t then facing p else s.arrival t n e

/-- The world in which an access of a unit of die `d` and world `w` is taken where it lands: through a non-secure port it is
non-secure (R335). -/
def State.worldAt (s : State) (d : Nat) (w : Bool) (pa : Nat) : Bool :=
  w && (paDie pa == d || (s.reg (paDie pa) 0x5000100).getLsbD (s.arrival (paDie pa) 64 d))

/-- Why die `d` cannot reach the memory at a physical address: a link on the way is down, or the target is in a die reset
(R25, R355, R361). The model asks it of the accesses that it makes as one with the step of their unit (log 81). -/
def State.unreached (s : State) (d pa : Nat) : Option Nat :=
  let t := paDie pa
  if t = d then none
  else if s.wayDown t 64 d then some cLinkDown
  else if (s.die t).inReset then some cRemoteReset
  else none

end Sys2Proof.Machine
end

