-- ==== Sys2Proof/Machine/Access.lean ====
section
/-! DEFINITION. Addresses of accesses through handles and of T-slot operands, and the checks on them (R146, R150, R151,
R179, R265, R336). -/

namespace Sys2Proof.Machine

/-- Bytes of a handle's page: 16 KiB, 32 MiB or 64 GiB (R144). -/
def Handle.bytes (h : Handle) : Nat := match h.size with
  | 0 => 2 ^ 14
  | 1 => 2 ^ 25
  | _ => 2 ^ 36

/-- The physical address at an offset of a handle's page; a striped page by 4 KiB granules (R145, R376). -/
def Handle.pa (h : Handle) (off : Nat) : Nat :=
  if h.stripe then
    let n := h.members.length
    let g := off / 4096
    h.members.getD (g % n) 0 * 2 ^ 46 + h.frame + g / n * 4096 + off % 4096
  else h.frame + off

/-- The word of `hinfo` (R147). -/
def Handle.info (h : Handle) : Word :=
  if h.valid then
    BitVec.ofNat 64 (2 ^ 63 + b2n h.world * 2 ^ 62 + b2n h.rd * 2 ^ 61 + b2n h.wr * 2 ^ 60 + b2n h.stripe * 2 ^ 59 +
      b2n h.mig * 2 ^ 58 + h.size * 2 ^ 56 + h.kind * 2 ^ 54 + h.gen.toNat * 2 ^ 40 + h.panel * 2 ^ 35 + h.die * 2 ^ 29)
  else 0

/-- Sign extension of an `n`-bit value to a 64-bit word. -/
def sextNat (n v : Nat) : Word := (BitVec.ofNat n v).signExtend 64

/-- Bytes of a size code (R59). -/
def szBytes (z : Nat) : Nat := match z with
  | 0 => 1
  | 1 => 2
  | 2 => 4
  | 3 => 8
  | 4 => 1
  | 5 => 2
  | 6 => 4
  | _ => 8

/-- Loaded bytes extended to 64 bits by the size code (R152). -/
def szExtend (z v : Nat) : Word := match z with
  | 0 => sextNat 8 v
  | 1 => sextNat 16 v
  | 2 => sextNat 32 v
  | _ => BitVec.ofNat 64 v

/-- Whether two address ranges share a byte; an empty one shares none. -/
def overlaps (a n b m : Nat) : Bool := decide (max a b < min (a + n) (b + m))

/-! ## Cluster-SRAM windows (R122, R252, R264, R265) -/

/-- The flag area of a cluster: offset and bytes (R122). -/
def flagBase : Nat := 0x3FF000
def flagBytes : Nat := 4096

/-- The staging area of cluster `u`: offset and bytes (R252). -/
def State.staging (s : State) (u : Nat) : Nat × Nat :=
  let w := s.cluReg u 0x40100
  (wfld w 12 10 * 4096, wfld w 32 10 * 4096)

/-- The allocation of a stream in cluster `u`: offset and bytes (R264). -/
def State.window (s : State) (u stream : Nat) : Nat × Nat :=
  let w := s.cluReg u (0x40200 + 8 * stream)
  (wfld w 12 10 * 4096, wfld w 32 10 * 4096)

/-- A window that overlaps the staging or the flag area, or runs past 4 MiB, fails every check (R265). -/
def State.windowBad (s : State) (u stream : Nat) : Bool :=
  let (b, n) := s.window u stream
  let (sb, sn) := s.staging u
  overlaps b n sb sn || overlaps b n flagBase flagBytes || 0x400000 < b + n

/-- `n` bytes at offset `o` of cluster `u`'s SRAM lie in the stream's allocation; an access to a compressed region is
checked over the region's whole extent, and no access may reach two regions at once (R265, R291). -/
def State.inWindow (s : State) (u stream o n : Nat) : Bool :=
  let (b, m) := s.window u stream
  !s.windowBad u stream && b ≤ o && o + n ≤ b + m &&
    (List.range 8).all fun i =>
      match s.czr u i with
      | some (rb, rn) =>
        !overlaps o n rb (136 * rn) ||
          (b ≤ rb && rb + 136 * rn ≤ b + m && !s.czrClash u o n)
      | none => true

/-- The physical bytes lie in the SRAM of cluster `u`. -/
def inClu (u pa n : Nat) : Bool :=
  paDie pa == u / 8 && paKind pa == 1 && paOff pa / 0x400000 == u % 8 && paOff pa % 0x400000 + n ≤ 0x400000

/-- The physical bytes reach the staging area, the flag area or an overlap of two compressed regions in some cluster's SRAM
(R265, R291). -/
def State.inReserved (s : State) (pa n : Nat) : Bool :=
  paKind pa == 1 &&
  (let u := 8 * paDie pa + paOff pa / 0x400000
   let o := paOff pa % 0x400000
   let (sb, sn) := s.staging u
   overlaps o n sb sn || overlaps o n flagBase flagBytes || s.czrClash u o n)

/-! ## Secure bytes and seeded regions (R182, R336) -/

/-- World region `i` of die `d` covers any of the bytes; one whose LAST lies below its BASE is empty (R336). -/
def State.regionHit (s : State) (d kind o n i : Nat) : Bool :=
  let b := s.reg d (0x5001000 + 16 * i)
  let l := s.reg d (0x5001008 + 16 * i)
  b.getLsbD 63 && wfld b 60 2 == kind && decide (wfld b 14 30 ≤ wfld l 14 30) &&
    decide (wfld b 14 30 * 0x4000 < o + n) && decide (o < (wfld l 14 30 + 1) * 0x4000)

/-- Some of the bytes are secure: an enabled world region of their die covers them (R336). -/
def State.secureAt (s : State) (pa n : Nat) : Bool :=
  (List.range 64).any fun i => s.regionHit (paDie pa) (paKind pa) (paOff pa) n i

/-- WSEED of core `c` (R182). -/
def State.wseed (s : State) (c : Nat) : Word := s.cluReg (c / 8) (0x40000 + 8 * (c % 8))

/-- Some of `n` bytes at offset `o` of core `c`'s weight SRAM lie in a seeded region (R182). -/
def State.seededAny (s : State) (c o n : Nat) : Bool :=
  (List.range 48).any fun i => (s.wseed c).getLsbD i && overlaps o n (0x8000 * i) 0x8000

/-- Every one of `n` bytes at offset `o` of core `c`'s weight SRAM lies in a seeded region. -/
def State.seededAll (s : State) (c o n : Nat) : Bool :=
  (List.range 48).all fun i => !overlaps o n (0x8000 * i) 0x8000 || (s.wseed c).getLsbD i

/-- Some of the physical bytes lie in a seeded region of weight SRAM. -/
def State.seededPa (s : State) (pa n : Nat) : Bool :=
  paKind pa == 2 && s.seededAny (64 * paDie pa + paOff pa / 0x200000) (paOff pa % 0x200000) n

/-! ## Accesses through handles (R150, R151) -/

/-- One piece of an access: the offset in the page, as a possibly negative number, and the bytes. -/
structure Piece where
  off : Int
  len : Nat
  /-- lane that the piece belongs to -/
  lane : Nat := 0
  deriving DecidableEq, Repr

/-- Whether a piece lies in its page. -/
def Piece.inPage (h : Handle) (p : Piece) : Bool := 0 ≤ p.off && p.off + p.len ≤ h.bytes

/-- The part of a piece that lies in its page. -/
def Piece.clip (h : Handle) (p : Piece) : Piece :=
  let lo := max 0 p.off
  { p with off := lo, len := (min (p.off + p.len) h.bytes - lo).toNat }

/-- The pieces of an access cut where a striped page changes its member: physical address and bytes. -/
def Handle.spans (h : Handle) (off len : Nat) : List (Nat × Nat) :=
  if h.stripe && off / 4096 != (off + len - 1) / 4096 then
    let a := 4096 - off % 4096
    [(h.pa off, a), (h.pa (off + a), len - a)]
  else [(h.pa off, len)]

/-- The handle's page is cluster SRAM of the die of cluster `u` (R151). -/
def Handle.sramOf (h : Handle) (u : Nat) : Bool :=
  h.kind == 1 && (if h.stripe then h.members.all (· == u / 8) else paDie h.frame == u / 8)

/-- The page is cluster SRAM of the own die, and every piece stays in the SRAM of cluster `u` (R151). -/
def ownSram (u : Nat) (h : Handle) (l : List Piece) : Bool :=
  h.sramOf u && l.all fun p => p.inPage h && (h.spans p.off.toNat p.len).all fun q => inClu u q.1 q.2

/-- The handle is a cluster-SRAM handle for a block: its page is, and the block's bytes within the page are the own cluster's
(R151). -/
def sramHandle (u : Nat) (h : Handle) (p : Piece) : Bool :=
  let q := p.clip h
  h.sramOf u && (q.len == 0 || ownSram u h [q])

/-- The VA of the lowest byte of an access of `n` bytes at an offset that is not in the SRAM of cluster `u` (R315). -/
def outsideVa (u : Nat) (h : Handle) (off n : Nat) : Word :=
  BitVec.ofNat 64 (h.va + off + (if h.sramOf u then (firstBelow n fun i => !inClu u (h.pa (off + i)) 1).getD 0 else 0))

/-- A byte of the access lies outside the context's allocation of its own cluster SRAM, or in a reserved area of
another one (R265). -/
def State.byteOut (s : State) (x pa : Nat) : Bool :=
  if inClu (cluOf x) pa 1 then !s.inWindow (cluOf x) (s.ctx x).stream.toNat (paOff pa % 0x400000) 1
  else s.inReserved pa 1

/-- A run of bytes of the access fails R265. -/
def State.runOut (s : State) (x pa n : Nat) : Bool :=
  if inClu (cluOf x) pa n then !s.inWindow (cluOf x) (s.ctx x).stream.toNat (paOff pa % 0x400000) n
  else (List.range n).any fun i => s.byteOut x (pa + i)

/-- The smallest of a list, or `d`. -/
def leastOf (d : Int) : List Int → Int
  | [] => d
  | [a] => a
  | a :: t => min a (leastOf d t)

/-- The checks of R150 on an access through handle `h`: cause and FADDR of the first that fails. `size` is the access
size, which every offset is a multiple of; a control-space access is one aligned word a piece (R382). -/
def State.accessCheck (s : State) (x : Nat) (h : Handle) (l : List Piece) (size : Nat) (write : Bool) :
    Option (Nat × Word) :=
  let c := s.ctx x
  let d := dieOf x
  let va := fun (o : Int) => BitVec.ofInt 64 ((h.va : Int) + o)
  let first := fun (p : Piece → Bool) => l.find? p
  let secure := fun (p₀ : Piece) =>
    let p := p₀.clip h
    p.len != 0 && (h.spans p.off.toNat p.len).any fun q => paDie q.1 == d &&
      (s.secureAt q.1 q.2 || (write && h.kind == 3 && s.ctlDenied d (paOff q.1) c.world))
  let outside := fun (p : Piece) => (h.spans p.off.toNat p.len).any fun q => s.runOut x q.1 q.2
  let lowest := leastOf 0 ((l.filter outside).map fun p =>
    p.off + ((firstBelow p.len fun i => s.byteOut x (h.pa (p.off.toNat + i))).getD 0 : Nat))
  if !h.valid then some (cHandleInvalid, 0)
  else if !c.world && h.world then some (cWorldViolation, va ((l.head?.map (·.off)).getD 0))
  else match (if c.world then none else first secure) with
    | some p => some (cWorldViolation, va p.off)
    | none =>
      if (write && !h.wr) || (!write && !h.rd) then some (cPermission, va ((l.head?.map (·.off)).getD 0))
      else match first fun p => p.off % size != 0 || (h.kind == 3 && (p.len != 8 || p.off % 8 != 0)) with
        | some p => some (cAlignment, BitVec.ofInt 64 p.off)
        | none =>
          match first fun p => !p.inPage h with
          | some p => some (cHandleBounds, BitVec.ofInt 64 p.off)
          | none =>
            if l.any outside then some (cSramRange, va lowest)
            else match (if write then first fun p => (h.spans p.off.toNat p.len).any fun q => s.seededPa q.1 q.2
                else none) with
              | some p => some (cWeightWrite, va p.off)
              | none => none

/-! ## Translation of T-slot operands (R146, R179) -/

/-- The page of `va` in die `d`'s translation cache for walks of world `w`. -/
def State.tlbFind (s : State) (d : Nat) (w : Bool) (va : Nat) : Option Handle :=
  ((s.die d).tlb.find? fun t => t.world == w && t.page.va ≤ va && va < t.page.va + t.page.bytes).map (·.page)

/-- The 16 KiB units that a range of virtual addresses touches. -/
def vpages (va len : Nat) : List Nat :=
  if len = 0 then [] else (List.range ((va + len - 1) / 0x4000 - va / 0x4000 + 1)).map fun i => va / 0x4000 + i

/-- The first address of the ranges whose page the translation cache of context `x`'s die does not hold (R315). -/
def State.missOf (s : State) (x : Nat) (l : List (Nat × Nat)) : Option Nat :=
  l.findSome? fun r => (vpages r.1 r.2).findSome? fun p =>
    if (s.tlbFind (dieOf x) (s.ctx x).world (p * 0x4000)).isNone then some (max r.1 (p * 0x4000)) else none

/-- Where operands of the T slot must lie (R179). -/
inductive Place where
  /-- the launch's allocation of the own cluster SRAM -/
  | sram
  /-- the own weight SRAM -/
  | weights
  deriving DecidableEq, Repr

/-- The pages of the translation cache that context `x` reaches memory through. -/
def State.ctxPages (s : State) (x : Nat) : List Handle :=
  ((s.die (dieOf x)).tlb.filter fun t => t.world == (s.ctx x).world).map (·.page)

/-- The physical address of a virtual address in one of the pages. -/
def pagesPa (l : List Handle) (va : Nat) : Nat :=
  match l.find? fun h => h.va ≤ va && va < h.va + h.bytes with
  | some h => h.pa (va - h.va)
  | none => 0

/-- The physical address of a virtual address that the translation cache holds. -/
def State.vaPa (s : State) (x va : Nat) : Nat := pagesPa (s.ctxPages x) va

/-- The pieces of a range of virtual addresses within 4 KiB granules: VA and bytes. -/
def vcuts (va len : Nat) : List (Nat × Nat) :=
  if len = 0 then []
  else (List.range ((va + len - 1) / 4096 - va / 4096 + 1)).map fun i =>
    let lo := max va ((va / 4096 + i) * 4096)
    let hi := min (va + len) ((va / 4096 + i + 1) * 4096)
    (lo, hi - lo)

/-- A byte of an operand lies outside the place that R179 asks for. -/
def State.byteMisplaced (s : State) (x : Nat) (p : Place) (pa : Nat) : Bool :=
  match p with
  | .sram => !(inClu (cluOf x) pa 1 && s.inWindow (cluOf x) (s.ctx x).stream.toNat (paOff pa % 0x400000) 1)
  | .weights =>
    !(paDie pa == dieOf x && paKind pa == 2 && paOff pa / 0x200000 == coreOf x % 64 && paOff pa % 0x200000 < 0x180000)

/-- The checks of R179 on one operand, given as ranges of virtual addresses that the translation cache holds; `mis` when
its base is misaligned. Cause and FADDR of the first that fails. -/
def State.operandCheck (s : State) (x : Nat) (l : List (Nat × Nat)) (base : Nat) (mis write : Bool) (p : Place) :
    Option (Nat × Word) :=
  let c := s.ctx x
  let cuts := l.flatMap fun r => vcuts r.1 r.2
  let page := fun (va : Nat) => (s.tlbFind (dieOf x) c.world va).getD {}
  let secure := fun (q : Nat × Nat) => !c.world && ((page q.1).world || s.secureAt (s.vaPa x q.1) q.2)
  let denied := fun (q : Nat × Nat) => if write then !(page q.1).wr else !(page q.1).rd
  let out := cuts.filterMap fun q =>
    (firstBelow q.2 fun i => s.byteMisplaced x p (s.vaPa x q.1 + i)).map fun i => ((q.1 + i : Nat) : Int)
  match cuts.find? secure with
  | some q => some (cWorldViolation, BitVec.ofNat 64 q.1)
  | none =>
    match cuts.find? denied with
    | some q => some (cPermission, BitVec.ofNat 64 q.1)
    | none =>
      if mis && !cuts.isEmpty then some (cAlignment, BitVec.ofNat 64 base)
      else if out.isEmpty then none
      else some (cSramRange, BitVec.ofInt 64 (leastOf 0 out))

/-- `n` bytes read at a virtual address of the pages. -/
def State.pageBytes (s : State) (l : List Handle) (va : Nat) : Nat → List Byte
  | 0 => []
  | n + 1 => s.byte (pagesPa l va) :: s.pageBytes l (va + 1) n

/-- `n` bytes read at a virtual address that the translation cache holds. -/
def State.vaBytes (s : State) (x va n : Nat) : List Byte := s.pageBytes (s.ctxPages x) va n

/-- Bytes written at a virtual address that the translation cache holds. -/
def State.vaWrite (s : State) (x va : Nat) : List Byte → State
  | [] => s
  | b :: t => (s.putByte (s.vaPa x va) b).vaWrite x (va + 1) t

end Sys2Proof.Machine
end

