-- ==== Sys2Proof/Machine/Fp.lean ====
section
/-! DEFINITION. Floating-point arithmetic (R28 to R33): exact values, one rounding, and the flags of R31. A value is
`(-1)^neg · m · 2^e` with natural `m`; elements are bit patterns as numbers. -/

namespace Sys2Proof.Machine

/-- A floating-point format: exponent and fraction bits (R28). -/
structure FFmt where
  eb : Nat
  fb : Nat
  deriving DecidableEq, Repr

def fp16 : FFmt := { eb := 5, fb := 10 }
def bf16 : FFmt := { eb := 8, fb := 7 }
def fp32 : FFmt := { eb := 8, fb := 23 }
def fp64 : FFmt := { eb := 11, fb := 52 }

/-- The exponent bias. -/
def FFmt.bias (f : FFmt) : Nat := 2 ^ (f.eb - 1) - 1
/-- Width in bits. -/
def FFmt.width (f : FFmt) : Nat := 1 + f.eb + f.fb
/-- The pattern of +∞. -/
def FFmt.infBits (f : FFmt) : Nat := (2 ^ f.eb - 1) * 2 ^ f.fb
/-- The canonical NaN (R28). -/
def FFmt.nanBits (f : FFmt) : Nat := f.infBits + 2 ^ (f.fb - 1)
/-- The sign bit's weight. -/
def FFmt.signBit (f : FFmt) : Nat := 2 ^ (f.eb + f.fb)

/-- A floating-point value. -/
inductive FVal where
  | nan
  | inf (neg : Bool)
  | fin (neg : Bool) (m : Nat) (e : Int)
  deriving DecidableEq, Repr

/-- The flags of one operation, in the layout of FLAGS[6:0] (R46). -/
abbrev Fl := BitVec 7
def flNone : Fl := 0
def flNV : Fl := 1
def flDZ : Fl := 2
def flOF : Fl := 4
def flUF : Fl := 8
def flNX : Fl := 16
def flIDZ : Fl := 32
def flSAT : Fl := 64

/-- The value of a pattern (R28). -/
def FFmt.val (f : FFmt) (w : Nat) : FVal :=
  let neg := w.testBit (f.eb + f.fb)
  let e := w / 2 ^ f.fb % 2 ^ f.eb
  let m := w % 2 ^ f.fb
  if e = 2 ^ f.eb - 1 then (if m = 0 then .inf neg else .nan)
  else if e = 0 then .fin neg m (1 - (f.bias : Int) - f.fb)
  else .fin neg (2 ^ f.fb + m) ((e : Int) - f.bias - f.fb)

/-- A signalling NaN (R28). -/
def FFmt.snan (f : FFmt) (w : Nat) : Bool :=
  w / 2 ^ f.fb % 2 ^ f.eb == 2 ^ f.eb - 1 && w % 2 ^ f.fb != 0 && !w.testBit (f.fb - 1)

/-- NV for a signalling NaN among the operands (R29). -/
def FFmt.snanFl (f : FFmt) (w : Nat) : Fl := if f.snan w then flNV else 0

/-- A sign as the pattern's top bit. -/
def FFmt.sign (f : FFmt) (neg : Bool) : Nat := if neg then f.signBit else 0

/-- `m / 2^d` rounded in mode `rm` (R30), for a value of sign `neg`; whether it was inexact. -/
def roundShift (rm : Nat) (neg : Bool) (m d : Nat) : Nat × Bool :=
  let n := m / 2 ^ d
  let r := m % 2 ^ d
  let up := match rm with
    | 0 => decide (2 * r > 2 ^ d) || (decide (2 * r = 2 ^ d) && n % 2 == 1)
    | 1 => false
    | 2 => !neg && r != 0
    | _ => neg && r != 0
  (if up then n + 1 else n, r != 0)

/-- The value delivered on overflow (R31). -/
def FFmt.overflow (f : FFmt) (rm : Nat) (neg : Bool) : Nat :=
  let toInf := match rm with
    | 0 => true
    | 1 => false
    | 2 => !neg
    | _ => neg
  f.sign neg + (if toInf then f.infBits else f.infBits - 1)

/-- `(-1)^neg · m · 2^e` rounded to the format in mode `rm`, with OF, UF and NX (R31); tininess is detected after
rounding. -/
def FFmt.round (f : FFmt) (rm : Nat) (neg : Bool) (m : Nat) (e : Int) : Nat × Fl :=
  if m = 0 then (f.sign neg, 0)
  else
    let top : Int := (Nat.log2 m : Int) + e
    let emin : Int := 1 - (f.bias : Int)
    let q : Int := max (top - f.fb) (emin - f.fb)
    let (n, inexact) :=
      if q ≤ e then (m * 2 ^ (e - q).toNat, false) else roundShift rm neg m (q - e).toNat
    let big := n == 2 ^ (f.fb + 1)
    let n := if big then n / 2 else n
    let q := if big then q + 1 else q
    let nx := if inexact then flNX else 0
    if n < 2 ^ f.fb then
      (f.sign neg + n, if inexact then flNX ||| flUF else 0)
    else
      let be := q + f.fb + f.bias
      if be ≥ 2 ^ f.eb - 1 then (f.overflow rm neg, flOF ||| flNX)
      else
        -- a value below the least normal that rounding lifts to it is tiny when it would not reach it with p bits
        let tiny := inexact && decide (top < emin) &&
          (decide (top < emin - 1) ||
            (let q' := top - f.fb
             let n' := if q' ≤ e then m * 2 ^ (e - q').toNat else (roundShift rm neg m (q' - e).toNat).1
             decide (n' < 2 ^ (f.fb + 1))))
        (f.sign neg + be.toNat * 2 ^ f.fb + (n - 2 ^ f.fb), nx ||| (if tiny then flUF else 0))

/-- A value rounded to the format. -/
def FFmt.ofVal (f : FFmt) (rm : Nat) : FVal → Nat × Fl
  | .nan => (f.nanBits, 0)
  | .inf neg => (f.sign neg + f.infBits, 0)
  | .fin neg m e => f.round rm neg m e

/-- The negation of a value. -/
def FVal.negate : FVal → FVal
  | .nan => .nan
  | .inf n => .inf (!n)
  | .fin n m e => .fin (!n) m e

/-- A signed mantissa. -/
def sgnInt (neg : Bool) (m : Nat) : Int := if neg then -(m : Int) else m

/-- The exact sum of two finite values; an exact zero is −0 only where both terms are −0 or the mode is RDN and the terms
are not zeros of one sign (R86). -/
def finAdd (rm : Nat) (n1 : Bool) (m1 : Nat) (e1 : Int) (n2 : Bool) (m2 : Nat) (e2 : Int) : FVal :=
  let e := min e1 e2
  let a := sgnInt n1 (m1 * 2 ^ (e1 - e).toNat) + sgnInt n2 (m2 * 2 ^ (e2 - e).toNat)
  if a = 0 then
    if m1 = 0 ∧ m2 = 0 ∧ n1 = n2 then .fin n1 0 0 else .fin (rm == 3) 0 0
  else .fin (a < 0) a.natAbs e

/-- The exact sum, with NV for ∞ − ∞ (R31). -/
def FVal.add (rm : Nat) : FVal → FVal → FVal × Fl
  | .nan, _ => (.nan, 0)
  | _, .nan => (.nan, 0)
  | .inf a, .inf b => if a = b then (.inf a, 0) else (.nan, flNV)
  | .inf a, _ => (.inf a, 0)
  | _, .inf b => (.inf b, 0)
  | .fin a m e, .fin b n g => (finAdd rm a m e b n g, 0)

/-- The exact product, with NV for 0 × ∞ (R31). -/
def FVal.mul : FVal → FVal → FVal × Fl
  | .nan, _ => (.nan, 0)
  | _, .nan => (.nan, 0)
  | .inf a, .inf b => (.inf (a != b), 0)
  | .inf a, .fin b n _ => if n = 0 then (.nan, flNV) else (.inf (a != b), 0)
  | .fin a m _, .inf b => if m = 0 then (.nan, flNV) else (.inf (a != b), 0)
  | .fin a m e, .fin b n g => (.fin (a != b) (m * n) (e + g), 0)

/-- A two-operand result: the exact value, rounded once, and every flag. -/
def FFmt.finish (f : FFmt) (rm : Nat) (ops : Fl) (r : FVal × Fl) : Nat × Fl :=
  let (w, fl) := f.ofVal rm r.1
  (w, fl ||| r.2 ||| ops)

/-- Sum of two elements (R86). -/
def FFmt.add (f : FFmt) (rm x y : Nat) : Nat × Fl :=
  f.finish rm (f.snanFl x ||| f.snanFl y) ((f.val x).add rm (f.val y))
/-- Difference of two elements. -/
def FFmt.sub (f : FFmt) (rm x y : Nat) : Nat × Fl :=
  f.finish rm (f.snanFl x ||| f.snanFl y) ((f.val x).add rm (f.val y).negate)
/-- Product of two elements. -/
def FFmt.mul (f : FFmt) (rm x y : Nat) : Nat × Fl :=
  f.finish rm (f.snanFl x ||| f.snanFl y) ((f.val x).mul (f.val y))

/-- `± x · y ± z`, rounded once; 0 × ∞ is invalid whatever the addend holds (R31, R86). -/
def FFmt.fma (f : FFmt) (rm x y z : Nat) (negP negZ : Bool) : Nat × Fl :=
  let (p, fp) := (f.val x).mul (f.val y)
  let p := if negP then p.negate else p
  let z' := if negZ then (f.val z).negate else f.val z
  let (r, fr) := p.add rm z'
  f.finish rm (f.snanFl x ||| f.snanFl y ||| f.snanFl z) (r, fp ||| fr)

/-- Quotient of finite nonzero values with a sticky bit, `p` quotient bits at least. -/
def quotVal (p : Nat) (neg : Bool) (m1 : Nat) (e1 : Int) (m2 : Nat) (e2 : Int) : FVal :=
  let k := p + 3 + Nat.log2 m2
  let n := m1 * 2 ^ k
  .fin neg (2 * (n / m2) + (if n % m2 = 0 then 0 else 1)) (e1 - e2 - k - 1)

/-- Quotient of two elements (R88). -/
def FFmt.div (f : FFmt) (rm x y : Nat) : Nat × Fl :=
  let r : FVal × Fl := match f.val x, f.val y with
    | .nan, _ => (.nan, 0)
    | _, .nan => (.nan, 0)
    | .inf _, .inf _ => (.nan, flNV)
    | .inf a, .fin b _ _ => (.inf (a != b), 0)
    | .fin a _ _, .inf b => (.fin (a != b) 0 0, 0)
    | .fin a m e, .fin b n g =>
      if n = 0 then (if m = 0 then (.nan, flNV) else (.inf (a != b), flDZ))
      else if m = 0 then (.fin (a != b) 0 0, 0)
      else (quotVal (f.fb + 1) (a != b) m e n g, 0)
  f.finish rm (f.snanFl x ||| f.snanFl y) r

/-- Integer square root, bit by bit from bit `i - 1` down. -/
def isqrtFrom (n : Nat) : Nat → Nat → Nat
  | 0, r => r
  | i + 1, r => isqrtFrom n i (if (r + 2 ^ i) * (r + 2 ^ i) ≤ n then r + 2 ^ i else r)

/-- Integer square root. -/
def isqrt (n : Nat) : Nat := isqrtFrom n (Nat.log2 n / 2 + 1) 0

/-- Square root of `m · 2^e` with a sticky bit, `p` bits at least. -/
def sqrtVal (p m : Nat) (e : Int) : FVal :=
  let k := 2 * (p + 2) + (if (e - 2 * (p + 2)) % 2 = 0 then 0 else 1)
  let n := m * 2 ^ k
  let r := isqrt n
  .fin false (2 * r + (if r * r = n then 0 else 1)) ((e - k) / 2 - 1)

/-- Square root of an element (R88). -/
def FFmt.sqrt (f : FFmt) (rm x : Nat) : Nat × Fl :=
  let r : FVal × Fl := match f.val x with
    | .nan => (.nan, 0)
    | .inf neg => if neg then (.nan, flNV) else (.inf false, 0)
    | .fin neg m e =>
      if m = 0 then (.fin neg 0 0, 0) else if neg then (.nan, flNV) else (sqrtVal (f.fb + 1) m e, 0)
  f.finish rm (f.snanFl x) r

/-- The order of two values that are no NaN; zeros are equal. -/
def FVal.cmp : FVal → FVal → Ordering
  | .inf a, .inf b => if a = b then .eq else if a then .lt else .gt
  | .inf a, _ => if a then .lt else .gt
  | _, .inf b => if b then .gt else .lt
  | .fin a m e, .fin b n g =>
    let c := min e g
    compare (sgnInt a (m * 2 ^ (e - c).toNat)) (sgnInt b (n * 2 ^ (g - c).toNat))
  | _, _ => .eq

/-- A pattern is a NaN. -/
def FFmt.isNan (f : FFmt) (w : Nat) : Bool :=
  match f.val w with
  | .nan => true
  | _ => false

/-- The order of two patterns that are no NaN, with −0 less than +0 (R87). -/
def FFmt.totalLt (f : FFmt) (x y : Nat) : Bool :=
  match (f.val x).cmp (f.val y) with
  | .lt => true
  | .gt => false
  | .eq => x.testBit (f.eb + f.fb) && !y.testBit (f.eb + f.fb)

/-- minimumNumber (`big` false) or maximumNumber (`big` true) of IEEE 754-2019 (R87). -/
def FFmt.minmax (f : FFmt) (big : Bool) (x y : Nat) : Nat × Fl :=
  let fl := f.snanFl x ||| f.snanFl y
  if f.isNan x then (if f.isNan y then f.nanBits else y, fl)
  else if f.isNan y then (x, fl)
  else (if f.totalLt x y = big then y else x, fl)

/-- The value of a finite number as an integer, rounded in mode `rm`; whether that changed it. -/
def roundInt (rm : Nat) (neg : Bool) (m : Nat) (e : Int) : Int × Bool :=
  if 0 ≤ e then (sgnInt neg (m * 2 ^ e.toNat), false)
  else
    let (n, ix) := roundShift rm neg m (-e).toNat
    (sgnInt neg n, ix)

/-- An FP format converted to another (R33); to itself, rounded to an integral value (R91). -/
def cvtFF (f g : FFmt) (rm x : Nat) : Nat × Fl :=
  match f.val x with
  | .nan => (g.nanBits, f.snanFl x)
  | .inf neg => (g.sign neg + g.infBits, 0)
  | .fin neg m e =>
    if f = g then
      if m = 0 then (x, 0)
      else
        let (n, ix) := roundInt rm neg m e
        (if n = 0 then g.sign neg else (g.round 0 neg n.natAbs 0).1, if ix then flNX else 0)
    else g.round rm neg m e

/-- An integer converted to FP (R33). -/
def cvtIF (g : FFmt) (rm : Nat) (n : Int) : Nat × Fl := g.round rm (n < 0) n.natAbs 0

/-- An FP pattern converted to an integer in `[lo, hi]` (R33). -/
def cvtFI (f : FFmt) (rm x : Nat) (lo hi : Int) : Int × Fl :=
  match f.val x with
  | .nan => (0, flNV)
  | .inf neg => (if neg then lo else hi, flNV)
  | .fin neg m e =>
    let (n, ix) := roundInt rm neg m e
    if n < lo then (lo, flNV) else if hi < n then (hi, flNV) else (n, if ix then flNX else 0)

/-- The lowest event kind among flags, for the log; NX is none (R48). -/
def kindOf (f : Fl) : Nat :=
  if f.getLsbD 0 then 1 else if f.getLsbD 1 then 2 else if f.getLsbD 2 then 3 else if f.getLsbD 3 then 4
  else if f.getLsbD 5 then 5 else if f.getLsbD 6 then 6 else 0

/-! ## FP32 steps of the matrix array, drains and engines (R6, R30) -/

/-- rne32 of a sum of two FP32 patterns. -/
def addF32 (x y : Nat) : Nat × Fl := fp32.add 0 x y
/-- rne32 of a product of two FP32 patterns. -/
def mulF32 (x y : Nat) : Nat × Fl := fp32.mul 0 x y
/-- A BF16 pattern widened to FP32, exactly; a NaN becomes canonical (R33). -/
def widenBf (x : Nat) : Nat × Fl := cvtFF bf16 fp32 0 x
/-- rne_bf16 of an FP32 pattern. -/
def toBf (x : Nat) : Nat × Fl := cvtFF fp32 bf16 0 x

/-! ## Special functions (R89, R90) -/

/-- Fraction bits of the fixed-point evaluation. -/
def sfuP : Nat := 400
/-- ⌊2^400 · ln 2⌋. -/
def ln2Fix : Nat := 1789879222497203190815761498240779176894896805856420935579692301363062920687047601279850318367644315849030039181347319086

/-- `2^400 · exp(t / 2^400)` by its series, from term `k` on, rounded down. -/
def expSeries (t : Nat) : Nat → Nat → Nat → Nat
  | 0, _, acc => acc
  | fuel + 1, term, acc =>
    let k := 101 - (fuel + 1)
    let term := term * t / (k * 2 ^ sfuP)
    expSeries t fuel term (acc + term)

/-- `2^400 · exp(t / 2^400)` for `t < 2^400`. -/
def expFix (t : Nat) : Nat := expSeries t 100 (2 ^ sfuP) (2 ^ sfuP)

/-- `2^400 · artanh(z / 2^400)` by its series, rounded down: `z^(2k+1) / (2k + 1)`. -/
def atanhSeries (z2 : Nat) : Nat → Nat → Nat → Nat → Nat
  | 0, _, _, acc => acc
  | fuel + 1, k, pow, acc => atanhSeries z2 fuel (k + 2) (pow * z2 / 2 ^ sfuP) (acc + pow / k)

/-- `2^400 · log2(m / 2^l)` for `2^l ≤ m < 2^(l+1)`, rounded down. -/
def log2Fix (m l : Nat) : Nat :=
  let d := m - 2 ^ l
  let z := d * 2 ^ sfuP / (m + 2 ^ l)
  let at_ := atanhSeries (z * z / 2 ^ sfuP) 140 1 z 0
  2 * at_ * 2 ^ sfuP / ln2Fix

/-- An inexact result of a special function: the pattern next below the exact magnitude `m · 2^e`, or the one above it,
as the free choice says; flags per R89. `m` carries more bits than the format, the lowest set. -/
def sfuPick (f : FFmt) (rm : Nat) (up : Bool) (neg : Bool) (m : Nat) (e : Int) : Nat × Fl :=
  let lo := (f.round 1 false m e).1
  let top : Int := (Nat.log2 m : Int) + e
  if top > f.bias then (f.overflow rm neg, flOF ||| flNX)
  else
    let mag := if up then lo + 1 else lo
    if mag ≥ f.infBits then (f.overflow rm neg, flOF ||| flNX)
    else (f.sign neg + mag, if mag < 2 ^ f.fb then flNX ||| flUF else flNX)

/-- An exact result where it is representable, else one of its neighbours. -/
def sfuRound (f : FFmt) (rm : Nat) (up neg : Bool) (m : Nat) (e : Int) : Nat × Fl :=
  let (w, fl) := f.round 1 neg m e
  if fl = 0 then (w, 0) else sfuPick f rm up neg m e

/-- 2^x of a finite nonzero value. -/
def sfuExp2 (f : FFmt) (rm : Nat) (up neg : Bool) (m : Nat) (e : Int) : Nat × Fl :=
  let a := sgnInt neg m
  if 0 ≤ e ∧ (Nat.log2 m : Int) + e > 16 then
    if neg then sfuPick f rm up false 1 (-100000) else (f.overflow rm false, flOF ||| flNX)
  else
    let k := if 0 ≤ e then 0 else (-e).toNat
    let a := if 0 ≤ e then a * 2 ^ e.toNat else a
    let n := a / 2 ^ k
    let r := a % 2 ^ k
    if r = 0 then sfuRound f rm up false 1 n
    else if n > 20000 then (f.overflow rm false, flOF ||| flNX)
    else if n < -20000 then sfuPick f rm up false 1 (-100000)
    else
      let t := r.toNat * 2 ^ sfuP / 2 ^ k
      sfuPick f rm up false (2 * expFix (t * ln2Fix / 2 ^ sfuP) + 1) (n - sfuP - 1)

/-- log2 of a finite positive value. -/
def sfuLog2 (f : FFmt) (rm : Nat) (up : Bool) (m : Nat) (e : Int) : Nat × Fl :=
  let l := Nat.log2 m
  let n : Int := l + e
  if m = 2 ^ l then
    if n = 0 then (0, 0) else sfuRound f rm up (n < 0) n.natAbs 0
  else
    let v : Int := n * 2 ^ sfuP + log2Fix m l
    -- the exact value lies above `v` and below `v + 1`
    let mag := if v < 0 then (-v).toNat - 1 else v.toNat
    sfuPick f rm up (v < 0) (2 * mag + 1) (-(sfuP : Int) - 1)

/-- tanh of a finite nonzero value. -/
def sfuTanh (f : FFmt) (rm : Nat) (up neg : Bool) (m : Nat) (e : Int) : Nat × Fl :=
  let top : Int := (Nat.log2 m : Int) + e
  if top > 12 then sfuPick f rm up neg (2 ^ (sfuP + 1) - 1) (-(sfuP : Int) - 1)
  else if 2 * top + 2 < -((f.fb : Int) + 3) then
    -- x − x³/3 < tanh x < x: the lower neighbour is the pattern before x
    let w := (f.round 1 false m e).1 - 1
    let mag := if up then w + 1 else w
    (f.sign neg + mag, if mag < 2 ^ f.fb then flNX ||| flUF else flNX)
  else
    -- with u = exp(2x) − 1 of the fraction and integer parts: tanh x = (E − 1) / (E + 1)
    let x2 := if 0 ≤ e + 1 + sfuP then m * 2 ^ (e + 1 + sfuP).toNat else m / 2 ^ (-(e + 1 + sfuP)).toNat
    let n := x2 / ln2Fix
    let r := x2 % ln2Fix
    let ex := expFix r * 2 ^ n
    let one := 2 ^ sfuP
    sfuPick f rm up neg (2 * ((ex - one) * one / (ex + one)) + 1) (-(sfuP : Int) - 1)

/-- A special function of an element: 0 `vrcp`, 1 `vrsq`, 2 `vexp2`, 3 `vlog2`, 4 `vtanh` (R89, R90). -/
def FFmt.sfu (f : FFmt) (ty fn rm x : Nat) : Nat × Fl :=
  let up := Config.sfuUp fn ty x
  match f.val x with
  | .nan => (f.nanBits, f.snanFl x)
  | .inf neg =>
    match fn with
    | 0 => (f.sign neg, 0)
    | 1 => if neg then (f.nanBits, flNV) else (0, 0)
    | 2 => (if neg then 0 else f.infBits, 0)
    | 3 => if neg then (f.nanBits, flNV) else (f.infBits, 0)
    | _ => (f.sign neg + (f.round 0 false 1 0).1, 0)
  | .fin neg m e =>
    if m = 0 then
      match fn with
      | 0 => (f.sign neg + f.infBits, flDZ)
      | 1 => (f.sign neg + f.infBits, flDZ)
      | 2 => ((f.round 0 false 1 0).1, 0)
      | 3 => (f.sign true + f.infBits, flDZ)
      | _ => (f.sign neg, 0)
    else
      match fn with
      | 0 =>
        match quotVal (f.fb + 8) neg 1 0 m e with
        | .fin n a g => sfuRound f rm up n a g
        | _ => (f.nanBits, 0)
      | 1 =>
        if neg then (f.nanBits, flNV)
        else
          -- 1/√x: the square root of a quotient taken with a sticky bit far below the result's precision
          match quotVal (4 * f.fb + 16) false 1 0 m e with
          | .fin _ a g =>
            match sqrtVal (f.fb + 8) a g with
            | .fin _ b h => sfuRound f rm up false b h
            | _ => (f.nanBits, 0)
          | _ => (f.nanBits, 0)
      | 2 => sfuExp2 f rm up neg m e
      | 3 => if neg then (f.nanBits, flNV) else sfuLog2 f rm up m e
      | _ => sfuTanh f rm up neg m e

end Sys2Proof.Machine
end

