-- ==== Sys2Proof/Machine/MatOps.lean ====
section
/-! DEFINITION. Tile descriptors, format profiles, seed records and the sums of the matrix array (R34 to R45, R68 to R70,
R181, R183, R198 to R200). -/

namespace Sys2Proof.Machine

/-! ## Descriptors (R68 to R70) -/

/-- A descriptor's fields, with the base that R70 gives a die-relative one. -/
structure Desc where
  base : Nat
  rows : Nat
  cols : Nat
  stride : Nat
  fmt : Nat
  /-- FLAGS.WSL -/
  wsl : Bool
  /-- FLAGS.STOR -/
  stor : Nat
  /-- FLAGS.CM -/
  cm : Bool
  sbase : Nat
  deriving DecidableEq, Repr

/-- The fields of a descriptor's 256 bits, as die `did` uses them. -/
def descOf (did : Nat) (w : BitVec 256) : Desc :=
  let n := w.toNat
  let b := n % 2 ^ 58
  { base := if n.testBit 168 then (b + did * 2 ^ nfld n 176 8) % 2 ^ 58 else b
    rows := nfld n 64 32
    cols := nfld n 96 32
    stride := nfld n 128 32
    fmt := nfld n 160 8
    wsl := n.testBit 172
    stor := nfld n 170 2
    cm := n.testBit 169
    sbase := nfld n 192 64 }

/-- Descriptor register `r` of context `x`, as its die uses it. -/
def State.desc (s : State) (x r : Nat) : Desc := descOf (dieOf x % 64) ((s.ctx x).tdreg r)

/-- A format code of the manual (R26, R28, R34, R37, R68). -/
def fmtKnown (f : Nat) : Bool :=
  (1 ≤ f && f ≤ 8) || f == 0x10 || f == 0x11 || f == 0x12 || f == 0x13 || f == 0x20

/-- Element width in bits of a format code. -/
def fmtBits (f : Nat) : Nat := match f with
  | 0x01 => 8
  | 0x02 => 16
  | 0x03 => 32
  | 0x04 => 64
  | 0x05 => 16
  | 0x06 => 16
  | 0x07 => 32
  | 0x08 => 64
  | 0x10 => 4
  | 0x11 => 6
  | 0x12 => 8
  | 0x13 => 4
  | _ => 16

/-- The alignment of a base: the element size, 1 byte for packed formats (R179). -/
def fmtAlign (f : Nat) : Nat := if f = 0x20 then 64 else max 1 (fmtBits f / 8)

/-- A format of the MX family, which carries block scales (R34). -/
def isMx (f : Nat) : Bool := f == 0x10 || f == 0x11 || f == 0x12

/-- An empty tile (R68). -/
def Desc.empty (d : Desc) : Bool := d.rows == 0 || d.cols == 0

/-- Bit position of element (r, c) of a plain tile, from address 0 (R34, R70). -/
def Desc.bitPos (d : Desc) (r c : Nat) : Nat :=
  if d.cm then 8 * (d.base + c * d.stride) + r * fmtBits d.fmt else 8 * (d.base + r * d.stride) + c * fmtBits d.fmt

/-- The ranges of virtual addresses that a plain tile touches. -/
def Desc.ranges (d : Desc) : List (Nat × Nat) :=
  if d.empty then []
  else
    let w := fmtBits d.fmt
    let (n, m) := if d.cm then (d.cols, d.rows) else (d.rows, d.cols)
    (List.range n).map fun i => (d.base + i * d.stride, (m * w + 7) / 8)

/-- `w` bits at bit position `p` of the pages. -/
def State.pageBits (s : State) (l : List Handle) (p w : Nat) : Nat :=
  leVal (s.pageBytes l (p / 8) ((p % 8 + w + 7) / 8)) / 2 ^ (p % 8) % 2 ^ w

/-- Element (r, c) of a plain tile in the pages. -/
def State.pageElem (s : State) (l : List Handle) (d : Desc) (r c : Nat) : Nat := s.pageBits l (d.bitPos r c) (fmtBits d.fmt)

/-- Element (r, c) of a plain tile of context `x`. -/
def State.tileElem (s : State) (x : Nat) (d : Desc) (r c : Nat) : Nat := s.pageElem (s.ctxPages x) d r c

/-- Element (k, n) of a tile in column layout; its bits may lie in two bytes of the column's stream. -/
def State.wslElem (s : State) (l : List Handle) (base w k n : Nat) : Nat :=
  (List.range w).foldl (fun acc i =>
    let q := 8 * (base % 32) + k * w + i
    let a := base / 2048 * 2048 + 2048 * (q / 256) + 32 * n + q / 8 % 32
    acc + (s.byte (pagesPa l a)).toNat / 2 ^ (q % 8) % 2 * 2 ^ i) 0

/-- The ranges that a tile of `k` rows and `n` columns in column layout touches. -/
def wslRanges (base w k n : Nat) : List (Nat × Nat) :=
  if k = 0 ∨ n = 0 then []
  else
    let q0 := 8 * (base % 32)
    let q1 := q0 + k * w - 1
    (List.range (q1 / 256 - q0 / 256 + 1)).map fun j => (base / 2048 * 2048 + 2048 * (q0 / 256 + j), 32 * n)

/-! ## Format profiles (R38, R39) -/

def profA (p : Half) : Nat := nfld p.toNat 0 8
def profB (p : Half) : Nat := nfld p.toNat 8 8
def profASgn (p : Half) : Bool := p.getLsbD 16
def profBSgn (p : Half) : Bool := p.getLsbD 17
def profAPol (p : Half) : Nat := nfld p.toNat 18 2
def profBPol (p : Half) : Nat := nfld p.toNat 20 2
def profAcc (p : Half) : Nat := nfld p.toNat 22 2

/-- An integer format of the matrix array. -/
def isIntFmt (f : Nat) : Bool := f == 0x01 || isMx f

/-- A valid profile (R39). -/
def profValid (p : Half) : Bool :=
  nfld p.toNat 24 8 == 0 && profAcc p != 3 && profAPol p != 3 && profBPol p != 3 &&
  ((profA p == 0x05 && (profB p == 0x05 || profB p == 0x20) && profAcc p == 0) ||
   (profA p == 0x06 && profB p == 0x06 && profAcc p == 0) ||
   (isIntFmt (profA p) && isIntFmt (profB p)))

/-- Significand bits that slice ganging counts (R41). -/
def sliceBits (f : Nat) : Nat := match f with
  | 0x05 => 8
  | 0x20 => 8
  | 0x06 => 11
  | _ => fmtBits f

/-- The gang of a profile: products per cycle and PE (R41). -/
def gang (p : Half) : Nat :=
  let n := ((sliceBits (profA p) + 1) / 2) * ((sliceBits (profB p) + 1) / 2)
  if n ≤ 16 then 16 / n else 1

/-- The integer value of an element code (R35): i8 decodes as FULL. -/
def decInt (f : Nat) (sgn : Bool) (pol : Nat) (c : Nat) : Int :=
  let w := fmtBits f
  if !sgn || c < 2 ^ (w - 1) then c
  else if c = 2 ^ (w - 1) ∧ f ≠ 0x01 then
    match pol with
    | 0 => -((2 : Int) ^ (w - 1) - 1)
    | 1 => -((2 : Int) ^ (w - 1))
    | _ => 0
  else (c : Int) - 2 ^ w

/-! ## Seed records (R198 to R200) -/

/-- A seed record's 64 bytes as a number. -/
abbrev SeedRec := Nat

def seedJ (r : SeedRec) : Nat := nfld r 0 8
def seedKB (r : SeedRec) : Nat := nfld r 16 16
def seedOf (r : SeedRec) (j : Nat) : Nat := nfld r (32 + 48 * j) 32
def seedCoef (r : SeedRec) (j : Nat) : Nat := nfld r (64 + 48 * j) 16

/-- A malformed record (R198). -/
def seedBad (r : SeedRec) : Bool := seedJ r == 0 || 8 < seedJ r || seedKB r == 0

/-- One step of the generator (R199). -/
def lfsr (st : Nat) : Nat := (st / 2) ^^^ (if st % 2 = 1 then 0x80200003 else 0)

/-- The generator state `k` steps on. -/
def lfsrN : Nat → Nat → Nat
  | 0, st => st
  | k + 1, st => lfsrN k (lfsr st)

/-- The starting state of column `n` for a seed. -/
def seedStart (seed n : Nat) : Nat :=
  let v := seed ^^^ (0x9E3779B9 * (n + 1) % 2 ^ 32)
  if v = 0 then 1 else v

/-- Whether r[j][k][n] is −1 (R199). -/
def seedNeg (seed k n : Nat) : Bool := lfsrN k (seedStart seed n) % 2 == 0

/-- The BF16 weight of generator step `k`, column `n` (R200). -/
def seedWeight (r : SeedRec) (k n : Nat) : Nat :=
  let t := (List.range (seedJ r)).foldl (fun acc j =>
    let c := bf16.val (seedCoef r j)
    (fp32.ofVal 0 ((fp32.val acc).add 0 (if seedNeg (seedOf r j) k n then c.negate else c)).1).1) 0
  (toBf t).1

/-! ## Block steps (R42 to R45) -/

/-- A BF16 or FP16 factor, a subnormal replaced by a zero of its sign (R42). -/
def factorVal (f : FFmt) (w : Nat) : FVal :=
  match f.val w with
  | .fin neg m e => if m < 2 ^ f.fb then .fin neg 0 0 else .fin neg m e
  | v => v

/-- The exact sum of the products of a block, with NV for invalid products and for infinities that meet (R42, R45). -/
def blockSum (f : FFmt) (l : List (Nat × Nat)) : FVal × Fl :=
  let prods := l.map fun p =>
    let (v, fl) := (factorVal f p.1).mul (factorVal f p.2)
    (v, fl ||| f.snanFl p.1 ||| f.snanFl p.2)
  let fl := prods.foldl (fun a p => a ||| p.2) 0
  let has := fun (neg : Bool) => prods.any fun p => p.1 == .inf neg
  if has false && has true then (.nan, fl ||| flNV)
  else match prods with
  | [] => (.fin false 0 0, fl)
  | p :: t => t.foldl (fun a q => let (v, g) := a.1.add 0 q.1; (v, a.2 ||| g)) (p.1, fl)

/-- One step of the FP families: rne32(C + blk) (R42). -/
def stepFp (f : FFmt) (c : Nat) (l : List (Nat × Nat)) : Nat × Fl :=
  let (b, fl) := blockSum f l
  fp32.finish 0 (fl ||| fp32.snanFl c) ((fp32.val c).add 0 b)

/-- One step of the integer family into FP32 (R43, R45). -/
def stepMx (c sA sB : Nat) (blk : Int) : Nat × Fl :=
  let (t, f1) := mulF32 sA sB
  let bad := match fp32.val t with
    | .fin _ _ _ => false
    | _ => true
  let (p, f2) := (fp32.val t).mul (.fin (blk < 0) blk.natAbs 0)
  let (p, f3) := fp32.ofVal 0 p
  let (r, f4) := addF32 c p
  (r, f1 ||| f2 ||| f3 ||| f4 ||| (if bad && blk = 0 then flNV else 0))

/-- An integer clamped to 32 signed bits, with SAT when clamped (R27). -/
def sat32 (v : Int) : Int × Fl :=
  if v < -(2 ^ 31) then (-(2 ^ 31), flSAT) else if 2 ^ 31 - 1 < v then (2 ^ 31 - 1, flSAT) else (v, 0)

/-- An integer modulo 2^n as a pattern. -/
def wrapN (n : Nat) (v : Int) : Nat := (v % (2 ^ n : Nat)).toNat

/-- A pattern of `n` bits as a signed integer. -/
def sgnN (n v : Nat) : Int := if v < 2 ^ (n - 1) then v else (v : Int) - 2 ^ n

/-- One step of the integer family into INT32 (R44). -/
def stepInt (sat : Bool) (c : Nat) (blk : Int) : Nat × Fl :=
  let v := sgnN 32 c + blk
  if sat then let (r, fl) := sat32 v; (wrapN 32 r, fl) else (wrapN 32 v, 0)

/-- A value with the flags raised on the way and the earliest event, by K block. -/
structure Stepped where
  val : Nat
  fl : Fl := 0
  /-- K block and kind of the earliest event -/
  ev : Option (Nat × Nat) := none

/-- One block's outcome added to an element's record. -/
def Stepped.then (a : Stepped) (b : Nat) (r : Nat × Fl) : Stepped :=
  { val := r.1, fl := a.fl ||| r.2,
    ev := match a.ev with
      | some e => some e
      | none => if kindOf r.2 = 0 then none else some (b, kindOf r.2) }

/-- One block of at most 32 products added to an element of value `c`, with the scales of the block (R42 to R44). -/
def mmaBlock (p : Half) (sA sB : Nat) (ab : List (Nat × Nat)) (c : Nat) : Nat × Fl :=
  let fa := profA p
  if fa = 0x05 then stepFp bf16 c ab
  else if fa = 0x06 then stepFp fp16 c ab
  else
    let blk := ab.foldl (fun s q => s + decInt fa (profASgn p) (profAPol p) q.1 *
      decInt (profB p) (profBSgn p) (profBPol p) q.2) (0 : Int)
    if profAcc p = 0 then stepMx c sA sB blk else stepInt (profAcc p == 2) c blk

/-- Element (m, n) of a multiply, from its value `c` before (R190). `bel k n` reads B. -/
def mmaElem (q : Mma) (bel : Nat → Nat → Nat) (m n c : Nat) : Stepped :=
  (List.range ((q.k + 31) / 32)).foldl (fun acc b =>
    let ks := (List.range (min 32 (q.k - 32 * b))).map fun i => 32 * b + i
    let ab := ks.map fun k => (q.a.getD (q.k * m + k) 0, bel k n)
    let sA := if q.sa then ((spGet [] q.xs (b / 2)).getD (32 * (b % 2) + m) 0).toNat else 0x3F800000
    let sB := if q.sb then ((spGet [] q.xs (4 + b)).getD n 0).toNat else 0x3F800000
    acc.then b (mmaBlock q.prof sA sB ab acc.val)) { val := c }

/-- B element (k, n) of a multiply as the array reads it now (R181, R190, R200). -/
def State.mmaB (s : State) (q : Mma) (k n : Nat) : Nat :=
  match q.b with
  | .ws base => s.wslElem q.pages base (fmtBits (profB q.prof)) k n
  | .gr base stride => seedWeight (leVal (s.pageBytes q.pages (base + 64 * (n / 64)) 64)) (stride + k) (n % 64)
  | .cs l => l.getD (q.n * k + n) 0

/-- Every element of an accumulator after a multiply. -/
def State.mmaAll (s : State) (q : Mma) (old : List Half) : List Stepped :=
  tab 2048 fun i =>
    let c := if q.z then 0 else (old.getD i 0).toNat
    if i / 64 < q.m && i % 64 < q.n then mmaElem q (s.mmaB q) (i / 64) (i % 64) c else { val := c }

/-- An element's event as one of the log (R48, R49). -/
def evOfElem (count slot baddr bank row lane elem : Nat) (e : Nat × Nat) : LogEv :=
  { count := count, slot := slot, kblock := e.1, row := row, lane := lane, elem := elem, kind := e.2, baddr := baddr,
    bank := bank }

/-- Flags and earliest event of an accumulator's elements; `key` fills in the instruction's part. -/
def accFlags (l : List Stepped) (key : Nat → Nat × Nat → LogEv) : Fl × Option LogEv :=
  (List.range l.length).foldl (fun acc i =>
    match l[i]? with
    | some t => (acc.1 ||| t.fl, evMin acc.2 (t.ev.map (key i)))
    | none => acc) (0, none)

/-! ## Accumulators and the array (R176 to R178) -/

/-- Accumulator `t` of core `c`. -/
def State.acc (s : State) (c t : Nat) : Acc := spGet {} (s.core c).acc t

/-- A write to accumulator `t` is outstanding (R177). -/
def Core.accBusy (k : Core) (t : Nat) : Bool := k.accq.any (·.dst == t)

/-- A multiply among the outstanding writes. -/
def AccOp.isMma (o : AccOp) : Bool :=
  match o.res with
  | .mma _ => true
  | .data _ _ _ => false

/-- A write other than a multiply is outstanding on accumulator `t`. -/
def Core.accBusyOther (k : Core) (t : Nat) : Bool := k.accq.any fun o => o.dst == t && !o.isMma

/-- The array queue: one multiply running and four waiting (R177). -/
def Core.arrayFull (k : Core) : Bool := 5 ≤ (k.accq.filter AccOp.isMma).length

/-- The multiply that occupies the array uses the Grinder (R202). -/
def Core.grRunning (k : Core) : Bool :=
  match k.accq.find? AccOp.isMma with
  | some o => match o.res with
    | .mma q => match q.b with
      | .gr _ _ => true
      | _ => false
    | .data _ _ _ => false
  | none => false

/-- The Grinder of core `c` is busy (R202). -/
def State.grinderBusy (s : State) (c : Nat) : Bool := s.now < (s.core c).grindUntil || (s.core c).grRunning

/-- An outstanding write of the issuing bundle's T slot to accumulator `t`; TV, TAG and KIND change at issue. -/
def State.accWrite (s : State) (t : Nat) (kind : Nat) (tag : Option (BitVec 8)) (r : AccRes) : State :=
  let me := s.me
  s.modCore (coreOf s.x) fun k =>
    { k with
      acc := spMod {} t (fun a => { a with kind := kind, tv := tag.isSome, tag := tag.getD a.tag }) k.acc
      accq := k.accq ++ [{ id := k.nextAcc, x := s.x, life := me.life, dst := t, count := me.count, baddr := me.pc,
                           bank := s.bankNow, res := r }]
      nextAcc := k.nextAcc + 1 }

/-- The tag checks of R178 on a write to accumulator `t`: `sp` speculative, `whole` a whole overwrite. -/
def State.tagCheck (s : State) (t : Nat) (sp whole : Bool) : Option Nat :=
  let a := s.acc (coreOf s.x) t
  let c := s.me
  if sp then
    if !c.tagV then some cSpecTagState
    else if !a.tv then (if whole then none else some cAccTagConflict)
    else if a.tag = c.tag then none
    else some cAccTagConflict
  else if a.tv then some cAccTagConflict else none

/-- The tag that a write leaves on its accumulator. -/
def State.newTag (s : State) (sp : Bool) : Option (BitVec 8) := if sp then some s.me.tag else none

end Sys2Proof.Machine
end

