-- ==== Sys2Proof/Machine/Block.lean ====
section
/-! DEFINITION. The conditions that block a bundle (R117) and the translation misses that freeze a context (R146, R179),
instruction by instruction. -/

namespace Sys2Proof.Machine

/-! ## Pending registers (R79, R117, R125) -/

/-- The register that an exposed result writes. -/
def Dest.reg : Dest → Option Reg
  | .s n _ => some (.s n)
  | .v n _ => some (.v n)
  | .p n _ => some (.p n)
  | .h n _ => some (.h n)
  | .td n _ _ => some (.td n)
  | .xs n _ _ => some (.xs n)
  | .fm n _ => some (.fm n)
  | .vm n _ => some (.vm n)
  | .sreg _ _ => Option.none
  | .rq _ _ => Option.none
  | .none => Option.none

/-- The registers that an interlocked operation writes. -/
def LongDest.regs : LongDest → List Reg
  | .s n _ => [.s n]
  | .v n _ => [.v n]
  | .sw n => [.s n]
  | .vm k => [.vm k]
  | .vms k n => [.vm k, .s n]
  | .none => []

/-- Register 0 of the scalars and predicates, which no write changes (R60). -/
def Reg.fixed : Reg → Bool
  | .s 0 => true
  | .p 0 => true
  | _ => false

/-- An exposed write to the register is in flight (R79). -/
def Ctx.exposed (c : Ctx) (r : Reg) : Bool := !r.fixed && c.snaps.any fun n => n.dest.reg == some r

/-- An interlocked write to the register is in flight (R117, R151). -/
def Ctx.interlocked (c : Ctx) (r : Reg) : Bool := c.longs.any fun o => o.dest.regs.contains r

/-- The scale registers that a multiply reads (R183); into INT32 it reads none (R44). -/
def State.mmaScales (s : State) (x ta : Nat) (bScaled : Bool) (prof : Half) : List Reg :=
  let a := s.desc x ta
  let nb := if profAcc prof = 0 then (a.cols + 31) / 32 else 0
  (if isMx (profA prof) && a.sbase != 0 then (List.range ((nb + 1) / 2)).map Reg.xs else []) ++
  (if isMx (profB prof) && bScaled then (List.range nb).map fun b => Reg.xs (4 + b) else [])

/-- Every register that an instruction reads at issue, fields first (R79). -/
def State.readsOf (s : State) (x : Nat) (i : Instr) : List Reg :=
  reads i ++ match i with
    | .tmmaWs _ a b f _ _ => s.mmaScales x a.toNat ((s.desc x b.toNat).sbase != 0) ((s.ctx x).fmreg f.toNat)
    | .tmmaCs _ a b f _ _ =>
      s.mmaScales x a.toNat (spGet {} (s.core (coreOf x)).bs b.toNat).scaled ((s.ctx x).fmreg f.toNat)
    | _ => []

/-- The first register of the instruction with an exposed write in flight (R79). -/
def State.earlyReg (s : State) (x : Nat) (i : Instr) : Option Reg :=
  (s.readsOf x i).find? fun r => (s.ctx x).exposed r

/-- The instruction reads or writes a register that waits for an interlocked result (R117, R151). -/
def State.waitsReg (s : State) (x : Nat) (i : Instr) : Bool :=
  (s.readsOf x i ++ writes i).any fun r => (s.ctx x).interlocked r

/-! ## Special registers that wait for results (R50) -/

/-- `mfs` of FLAGS, FEL0 or FEL1. -/
def readsFlags : Instr → Bool
  | .mfs _ i => i.toNat == 0x08 || i.toNat == 0x09 || i.toNat == 0x0A
  | _ => false

/-- Padding bundles are still due before the bundle's `mfs` (R50). -/
def State.padDue (s : State) (x : Nat) (i : Instr) : Bool :=
  readsFlags i && (s.ctx x).snaps.any fun n => (s.ctx x).count < n.due

/-- An arithmetic result that is recorded on completion is outstanding (R50). -/
def State.flagWait (s : State) (x : Nat) : Bool :=
  (s.core (coreOf x)).accq.any fun o => o.x == x && o.life == (s.ctx x).life

/-! ## The tile slot -/

/-- The ranges that an operand tile touches, whatever its checks will say. -/
def State.tileRanges (s : State) (x r : Nat) : List (Nat × Nat) := (s.desc x r).ranges

/-- The ranges of the seed records of a seeded tile (R200). -/
def seedRanges (d : Desc) : List (Nat × Nat) :=
  if d.empty then [] else [(d.base, 64 * ((d.cols + 63) / 64))]

/-- The words of the scale array that `tscl` reads (R184): index in the register and address. -/
def tsclWords (d : Desc) (role half grp kb : Nat) : List (Nat × Nat) :=
  (List.range (if role = 0 then 32 else 64)).filterMap fun i =>
    let row := if role = 0 then 32 * grp + i else 32 * kb
    let col := if role = 0 then 32 * kb else 64 * grp + i
    if d.sbase = 0 ∨ d.rows ≤ row ∨ d.cols ≤ col then none
    else
      let k := if role = 0 then row * (d.cols / 32) + col / 32 else row / 32 * d.cols + col
      some (32 * half + i, (d.sbase + 4 * k) % 2 ^ 58)

/-- The value of a `tscl` kb field with its header byte (R55, R184). -/
def State.kbOf (s : State) (k : BitVec 10) : Nat :=
  match s.iss.hdr with
  | some (_, e, _) => e * 1024 + k.toNat
  | none => k.toNat

/-- The virtual ranges that an instruction's T-slot operands touch (R179). -/
def State.tOperands (s : State) (x : Nat) (i : Instr) : List (Nat × Nat) :=
  match i with
  | .tmmaWs _ a b f _ _ =>
    let da := s.desc x a.toNat
    let db := s.desc x b.toNat
    let p := (s.ctx x).fmreg f.toNat
    if da.rows ≤ 32 ∧ db.cols ≤ 64 ∧ da.cols ≤ 128 ∧ !da.empty ∧ !db.empty ∧ db.wsl then
      da.ranges ++ wslRanges db.base (fmtBits (profB p)) db.rows db.cols else []
  | .tmmaGr _ a b _ _ _ =>
    let da := s.desc x a.toNat
    let db := s.desc x b.toNat
    if da.rows ≤ 32 ∧ db.cols ≤ 64 ∧ da.cols ≤ 128 ∧ !da.empty ∧ !db.empty then da.ranges ++ seedRanges db else []
  | .tmmaCs _ a b _ _ _ =>
    let da := s.desc x a.toNat
    if da.rows ≤ 32 ∧ da.cols ≤ 128 ∧ (spGet {} (s.core (coreOf x)).bs b.toNat).cols ≠ 0 then da.ranges else []
  | .tldc _ d _ =>
    let e := s.desc x d.toNat
    if e.rows ≤ 32 ∧ e.cols ≤ 64 then e.ranges else []
  | .tstc _ d =>
    let e := s.desc x d.toNat
    if e.rows ≤ 32 ∧ e.cols ≤ 64 then e.ranges else []
  | .tldb _ d =>
    let e := s.desc x d.toNat
    if e.rows ≤ 128 ∧ e.rows * e.cols * fmtBits e.fmt ≤ 32768 then e.ranges else []
  | .tsclA _ d k g h => (tsclWords (s.desc x d.toNat) 0 h.toNat g.toNat (s.kbOf k)).map fun p => (p.2, 4)
  | .tsclB _ d k g => (tsclWords (s.desc x d.toNat) 1 0 g.toNat (s.kbOf k)).map fun p => (p.2, 4)
  | .seedscan t _ _ _ =>
    let e := s.desc x t.toNat
    if e.rows = 32 ∧ e.cols = 64 then e.ranges else []
  | .grx t d =>
    let src := s.desc x d.toNat
    let dst := s.desc x t.toNat
    if src.empty then [] else seedRanges src ++ ({ dst with rows := src.rows, cols := src.cols } : Desc).ranges
  | _ => []

/-- The instruction makes cluster-SRAM accesses from the T slot (R179, R202). -/
def touchesSramT : Instr → Bool
  | .tmmaWs .. => true
  | .tmmaGr .. => true
  | .tmmaCs .. => true
  | .tldc .. => true
  | .tstc .. => true
  | .tldb .. => true
  | .tsclA .. => true
  | .tsclB .. => true
  | .tdld .. => true
  | .tsend .. => true
  | .seedscan .. => true
  | .grx .. => true
  | _ => false

/-- `xcfm` and `xsq` wait for the tag's commands, words and accumulators (R212); a FREE tag does not wait. -/
def State.tagWait (s : State) (x : Nat) (a : Word) : Bool :=
  let k := s.core (coreOf x)
  let t := a.toNat % 256
  let g : Tag := spGet {} k.tags t
  g.live && (g.infl != 0 ||
    (List.range 16).any fun i => (s.acc (coreOf x) i).tv && (s.acc (coreOf x) i).tag.toNat == t && k.accBusy i)

/-- Blocking conditions of the T slot on accumulators, the array, staging buffers and the Grinder (R177, R188, R202,
R220). -/
def State.blocksT (s : State) (x : Nat) (i : Instr) : Bool :=
  let k := s.core (coreOf x)
  (touchesSramT i && s.now < spGet 0 k.grxUntil (x % 4)) ||
  match i with
  | .tmmaWs t _ _ _ _ _ => k.accBusyOther t.toNat || k.arrayFull
  | .tmmaGr t _ _ _ _ _ => k.accBusyOther t.toNat || k.arrayFull || s.grinderBusy (coreOf x)
  | .tmmaCs t _ b _ _ _ => k.accBusyOther t.toNat || k.arrayFull || (spGet {} k.bs b.toNat).busy
  | .tzero t _ _ => k.accBusy t.toNat
  | .tldc t _ _ => k.accBusy t.toNat
  | .tstc t _ => k.accBusy t.toNat
  | .tdrainF t _ _ _ _ => k.accBusy t.toNat
  | .tdrainBf t _ _ _ _ => k.accBusy t.toNat
  | .tdrainRaw t _ => k.accBusy t.toNat
  | .tmov t d => k.accBusy t.toNat || k.accBusy d.toNat
  | .tacc t d _ => k.accBusy t.toNat || k.accBusy d.toNat
  | .xres t d _ _ _ _ => k.accBusy t.toNat || k.accBusy d.toNat
  | .grx .. => s.grinderBusy (coreOf x)
  | .seedscan .. => s.grinderBusy (coreOf x)
  | .xcfm a => State.tagWait s x ((s.ctx x).sreg a.toNat)
  | .xsq a => State.tagWait s x ((s.ctx x).sreg a.toNat)
  | _ => false

end Sys2Proof.Machine
end

