-- ==== Sys2Proof/Machine/MemOps.lean ====
section
/-! DEFINITION. Memory accesses of the M slot: addresses, own cluster SRAM, long loads, the outbound store buffer, and
the order of off-cluster accesses (R150 to R156, R266 to R276). -/

namespace Sys2Proof.Machine

/-! ## Addresses (R55, R152 to R154) -/

/-- The header byte of slot `k` in the bundle being issued (R54). -/
def State.ext (s : State) (k : Nat) : Nat :=
  match s.iss.hdr with
  | some (a, b, c) => if k = 1 then a else if k = 2 then b else if k = 3 then c else 0
  | none => 0

/-- An immediate of `w` bits widened by the header byte of slot `k` (R55). -/
def State.wide (s : State) (k w : Nat) (i : Nat) : Nat := s.ext k * 2 ^ w + i

/-- The pieces of a memory instruction: one for a scalar, one a lane for a vector (R152, R154). -/
def State.pieces (s : State) (x : Nat) (i : Instr) : List Piece :=
  let c := s.ctx x
  let one := fun (o : Nat) (z : BitVec 3) => [{ off := o, len := szBytes z.toNat : Piece }]
  let lanes := fun (f : Nat → Option Int) (z : BitVec 3) =>
    (List.range 128).filterMap fun l => (f l).map fun o => (⟨o, szBytes z.toNat, l⟩ : Piece)
  let strided := fun (b : BitVec 5) (z : BitVec 3) =>
    let w := c.sreg b.toNat
    lanes (fun (l : Nat) => some (Int.ofNat (wfld w 0 32) + Int.ofNat l * sgnN 32 (wfld w 32 32))) z
  let indexed := fun (b : BitVec 5) (z : BitVec 3) =>
    lanes (fun l => let v := c.lane b.toNat l
                    if v.getLsbD 63 then none else some (v.toNat : Int)) z
  let lin := fun (o : BitVec 10) (z : BitVec 3) =>
    lanes (fun l => some ((s.wide 3 10 o.toNat * szBytes z.toNat + l * szBytes z.toNat : Nat) : Int)) z
  match i with
  | .ld _ _ _ z o => one (s.wide 3 10 o.toNat * szBytes z.toNat) z
  | .st _ _ _ z o => one (s.wide 3 10 o.toNat * szBytes z.toNat) z
  | .ldx _ _ _ z b => one (c.sreg b.toNat).toNat z
  | .stx _ _ _ z b => one (c.sreg b.toNat).toNat z
  | .lda _ _ _ z _ o => one (s.wide 3 7 o.toNat * szBytes z.toNat) z
  | .stl _ _ _ z _ o => one (s.wide 3 7 o.toNat * szBytes z.toNat) z
  | .vld _ _ _ z o => lin o z
  | .vst _ _ _ z o => lin o z
  | .vlds _ _ _ z b => strided b z
  | .vsts _ _ _ z b => strided b z
  | .vgath _ _ _ z b => indexed b z
  | .vscat _ _ _ z b => indexed b z
  | .strq n _ b _ z =>
    let w := if z = 0 then 8 else if z = 1 then 4 else 2
    match spGet [] (s.core (coreOf x)).rq n.toNat with
    | [] => [{ off := (c.sreg b.toNat).toNat, len := w }]
    | _ :: _ =>
      (List.range 128).map fun l => (⟨Int.ofNat ((c.sreg b.toNat).toNat + w * l), w, l⟩ : Piece)
  | _ => []

/-- The handle that a memory instruction names. -/
def handleOf : Instr → Option Nat
  | .ld _ h _ _ _ => some h.toNat
  | .st _ h _ _ _ => some h.toNat
  | .ldx _ h _ _ _ => some h.toNat
  | .stx _ h _ _ _ => some h.toNat
  | .lda _ h _ _ _ _ => some h.toNat
  | .stl _ h _ _ _ _ => some h.toNat
  | .vld _ h _ _ _ => some h.toNat
  | .vst _ h _ _ _ => some h.toNat
  | .vlds _ h _ _ _ => some h.toNat
  | .vsts _ h _ _ _ => some h.toNat
  | .vgath _ h _ _ _ => some h.toNat
  | .vscat _ h _ _ _ => some h.toNat
  | .strq _ h _ _ _ => some h.toNat
  | _ => none

/-- The ordering class of a memory instruction; `strq` travels in class 0 (R160). -/
def classOf : Instr → Nat
  | .ld _ _ c _ _ => c.toNat
  | .st _ _ c _ _ => c.toNat
  | .ldx _ _ c _ _ => c.toNat
  | .stx _ _ c _ _ => c.toNat
  | .lda _ _ c _ _ _ => c.toNat
  | .stl _ _ c _ _ _ => c.toNat
  | .vld _ _ c _ _ => c.toNat
  | .vst _ _ c _ _ => c.toNat
  | .vlds _ _ c _ _ => c.toNat
  | .vsts _ _ c _ _ => c.toNat
  | .vgath _ _ c _ _ => c.toNat
  | .vscat _ _ c _ _ => c.toNat
  | _ => 0

/-- A store instruction. -/
def isStore : Instr → Bool
  | .st .. => true
  | .stx .. => true
  | .stl .. => true
  | .vst .. => true
  | .vsts .. => true
  | .vscat .. => true
  | .strq .. => true
  | _ => false

/-- The access of a memory instruction stays in the own cluster's SRAM (R151). -/
def State.isOwn (s : State) (x : Nat) (i : Instr) : Bool :=
  match handleOf i with
  | some h => let hd := (s.ctx x).hreg h
              hd.valid && ownSram (cluOf x) hd (s.pieces x i)
  | none => false

/-! ## Order of off-cluster accesses (R271 to R276) -/

/-- A scope beyond the cluster: stores perform there on acknowledgement (R271). -/
def wideScope (sc : Nat) : Bool := 3 ≤ sc

/-- Two entries hold a common byte. -/
def SbEnt.meets (e g : SbEnt) : Bool := e.data.any fun p => spHas p.1 g.data

/-- The entries that have entered: one that earlier loads or a fence of a narrow scope hold back keeps its place, but has
not performed and is forwarded to no read, and neither is a later one of its context in its class or over its bytes (R271
to R273, log 85). `held` are the entries held back so far. -/
def enteredOf (pend : List Nat) (held : List SbEnt) : List SbEnt → List SbEnt
  | [] => []
  | e :: t =>
    if e.enterWaits.any pend.contains || held.any (fun g => g.x == e.x && (g.cls == e.cls || g.meets e)) then
      enteredOf pend (held ++ [e]) t
    else e :: enteredOf pend held t

/-- Cluster `u` with the entries of its buffer that have entered: what its readers are forwarded from (R268). -/
def State.buf (s : State) (u : Nat) : Cluster := { s.clu u with sb := enteredOf s.pend [] (s.clu u).sb }

/-- An access has not performed at scope `sc` around cluster `u`: a store does at a narrow scope once it has entered the
cluster's buffer, a load, a flag or a board update at every scope only when its value is fixed or its home applies it
(R271). -/
def State.openNow (s : State) (u sc id : Nat) : Bool :=
  s.pend.contains id && (wideScope sc || !(s.buf u).sb.any (·.id == id))

/-- The accesses of context `x` that have not performed at scope `sc`, of the classes that `m` names. -/
def State.openAt (s : State) (x sc : Nat) (m : Nat → Bool) : List Nat :=
  ((s.ctx x).mine.filter fun (e : Nat × Nat × Bool) => m e.2.1 && s.openNow (cluOf x) sc e.1).map (·.1)

/-- The writes of others that context `x` has observed and that have not performed at scope `sc` (R273, R274). -/
def State.seenOpen (s : State) (x sc : Nat) : List Nat := (s.ctx x).seen.filter (s.openNow (cluOf x) sc)

/-- The writes that a release of scope `sc` covers and that have not performed there: everything the context issued and
what it has observed (R274). -/
def State.covers (s : State) (x sc : Nat) : List Nat := s.openAt x sc (fun _ => true) ++ s.seenOpen x sc

/-- What a fence of context `x` with scope `sc` and the classes of `m` has later accesses wait for: the accesses of the
masked classes, and every write that the context has observed, its own of any class among them (R273). -/
def State.fenceBefore (s : State) (x sc : Nat) (m : Nat → Bool) : List Nat :=
  ((s.ctx x).mine.filter fun (e : Nat × Nat × Bool) => (m e.2.1 || e.2.2) && s.openNow (cluOf x) sc e.1).map (·.1) ++
    s.seenOpen x sc

/-- The writes, performed everywhere or not, that an acquirer of a release by `x` counts as having observed (R276). -/
def State.observes (s : State) (x : Nat) : List Nat :=
  (((s.ctx x).mine.filter fun (e : Nat × Nat × Bool) => e.2.2).map (·.1) ++ (s.ctx x).seen).filter s.pend.contains

/-- What fences hold back an access of class `k` for (R273). -/
def State.fenceWaits (s : State) (x k : Nat) : List Nat :=
  (s.ctx x).fences.flatMap fun f => if f.mask.testBit k then f.before.filter s.pend.contains else []

/-- The stores of context `x` of class `k` that have not been acknowledged: a load of the class that reads at the home
performs after them (R272). -/
def State.storeWaits (s : State) (x k : Nat) : List Nat :=
  ((s.ctx x).mine.filter fun (e : Nat × Nat × Bool) => e.2.2 && e.2.1 == k && s.pend.contains e.1).map (·.1)

/-- The loads of context `x` that an access of class `k` to the given bytes follows (R272). -/
def State.loadWaits (s : State) (x k : Nat) (spans : List (Nat × Nat)) : List Nat :=
  (((s.ctx x).mine.filter fun (e : Nat × Nat × Bool) => !e.2.2 && e.2.1 == k).map (·.1) ++
   ((s.ctx x).longs.filter fun o => o.parts.any fun p => spans.any fun q => overlaps p.addr p.len q.1 q.2).map (·.num)
  ).filter s.pend.contains

/-- What a store of class `k` to the given bytes waits for before it enters the buffer, where it performs at the narrow
scopes: earlier loads, and fences of such a scope (R271 to R273). -/
def State.enterWaits (s : State) (x k : Nat) (spans : List (Nat × Nat)) : List Nat :=
  s.loadWaits x k spans ++ (s.ctx x).fences.flatMap fun f =>
    if f.mask.testBit k && !wideScope f.scope then f.before.filter s.pend.contains else []

/-- The stores of context `x` that have not entered and that a load of class `k` from the given bytes follows (R272). -/
def State.heldWaits (s : State) (x k : Nat) (spans : List (Nat × Nat)) : List Nat :=
  let c := s.clu (cluOf x)
  let inb := s.buf (cluOf x)
  ((c.sb ++ c.late).filter fun e => e.x == x && !inb.sb.any (·.id == e.id) &&
    (e.cls == k || spans.any fun q => e.data.any fun b => overlaps b.1 1 q.1 q.2)).map (·.id)

/-- A new off-cluster access number for context `x`. -/
def State.newAccess (s : State) (x cls : Nat) (write : Bool) : State × Nat :=
  let id := s.nextId
  ({ s with nextId := id + 1, pend := s.pend ++ [id] }.modCtx x fun c =>
    { c with mine := (c.mine.filter fun (e : Nat × Nat × Bool) => s.pend.contains e.1) ++ [(id, cls, write)],
             seen := c.seen.filter s.pend.contains }, id)

/-- An access has performed everywhere. -/
def State.performed (s : State) (id : Nat) : State := { s with pend := s.pend.filter (· != id) }

/-- Whether `o` lies within scope `sc` of context `x` (R270). -/
def inScope (sc x o : Nat) : Bool :=
  match sc with
  | 0 => o == x
  | 1 => coreOf o == coreOf x
  | 2 => cluOf o == cluOf x
  | 3 => dieOf o == dieOf x
  | 4 => dieOf o / 64 == dieOf x / 64
  | _ => true

/-- A release made by context `x` recorded in its cluster, for acquirers (R274, R276). -/
def State.release (s : State) (x sc : Nat) (p : RelPlace) (cov : List Nat) : State :=
  if cov.isEmpty then s
  else s.modClu (cluOf x) fun c =>
    { c with rels := (c.rels.filter fun r => r.covered.any s.pend.contains) ++
        [{ x := x, scope := sc, place := p, covered := cov }] }

/-- Two places meet. -/
def RelPlace.meets : RelPlace → RelPlace → Bool
  | .mem a n, .mem b m => overlaps a n b m
  | .flag c n, .flag d m => c == d && n == m
  | .board c n, .board d m => c == d && n == m
  | _, _ => false

/-- What the releases that wrote the place cover, for an acquire of scope `sc` by context `x`, and has not performed
everywhere (R276). Beyond the releaser's cluster a release has let go only what has performed, so its own cluster's records
say all. -/
def State.released (s : State) (x sc : Nat) (p : RelPlace) : List Nat :=
  (s.clu (cluOf x)).rels.flatMap fun r =>
    if r.place.meets p && inScope r.scope r.x x && inScope sc x r.x then r.covered.filter s.pend.contains else []

/-- Context `x` acquires at scope `sc` from the releases that wrote the place (R276). -/
def State.acquire (s : State) (x sc : Nat) (p : RelPlace) : State :=
  let got := s.released x sc p
  s.modCtx x fun c => { c with seen := c.seen ++ got.filter (fun i => !c.seen.contains i) }

/-! ## The outbound store buffer (R267, R268) -/

/-- The class queue of class `k` has no free place (R267). -/
def Cluster.full (c : Cluster) (k : Nat) : Bool :=
  64 ≤ c.sb.length || 32 ≤ (c.sb.filter (·.cls == k)).length

/-- An entry takes its place in the buffer, which stays in issue order (R267, R268). -/
def putEntry (e : SbEnt) : List SbEnt → List SbEnt
  | [] => [e]
  | g :: t => if e.id < g.id then e :: g :: t else g :: putEntry e t

/-- Late entries move into the buffer, each as soon as its class has a free place; the entries of one context stay in
order. `kept` are those that stay late. -/
def Cluster.enter (c : Cluster) (kept : List SbEnt) : List SbEnt → Cluster
  | [] => { c with late := kept }
  | e :: t =>
    if c.full e.cls || kept.any (·.x == e.x) then c.enter (kept ++ [e]) t
    else ({ c with sb := putEntry e c.sb } : Cluster).enter kept t

/-- Late entries of cluster `u` enter as places free (R267). -/
def State.refill (s : State) (u : Nat) : State := s.modClu u fun c => c.enter [] c.late

/-- The youngest entry of the buffer that holds the byte at `a` (R268). -/
def Cluster.youngest (c : Cluster) (a : Nat) : Option SbEnt := c.sb.reverse.find? fun e => spHas a e.data

/-- The block whose bytes one entry holds: 64 aligned bytes, or one word of control space (R267, R382). -/
def blockBytes (a : Nat) : Nat := if paKind a = 3 then 8 else 64

/-- The bytes of a store, in lane order, grouped by their block in ascending order. -/
def blocksOf (l : List (Nat × Byte)) : List (Sp Byte) :=
  let m := l.foldl (fun (m : Sp (Sp Byte)) p => spMod [] (p.1 / blockBytes p.1 * blockBytes p.1) (spPut p.1 p.2) m) []
  m.map (·.2)

/-- The entries of one store of context `x` enter the buffer, in ascending block order (R267); `held` is what they wait for
before they enter. -/
def State.enterStore (s : State) (x cls : Nat) (waits held : List Nat) : List (Sp Byte) → State
  | [] => s
  | b :: t =>
    let (s, id) := s.newAccess x cls true
    let e : SbEnt := { id := id, x := x, cls := cls, data := b, waits := waits, enterWaits := held,
                       secure := (s.ctx x).world, priv := (s.ctx x).priv, baddr := (s.ctx x).pc, bank := s.bankNow }
    (s.modClu (cluOf x) fun c =>
      if c.full cls || c.late.any (·.x == x) then { c with late := c.late ++ [e] } else { c with sb := c.sb ++ [e] }
    ).enterStore x cls waits held t

/-- How one word of a read meets the buffer (R268): its bytes all matched, some, or none. -/
def Cluster.matchWord (c : Cluster) (l : List Nat) : Nat :=
  let n := (l.filter fun a => (c.youngest a).isSome).length
  if n = 0 then 0 else if n = l.length then 2 else 1

/-- A part of a read with what the buffer gives it at this moment: forwarded bytes, or entries to wait for. The word's
bytes that the whole read covers are in `word`. -/
def Cluster.forward (c : Cluster) (word : List Nat) (p : LongPart) : LongPart :=
  let as := (List.range p.len).map (p.addr + ·)
  match c.matchWord word with
  | 2 => { p with got := some (as.map fun a => match c.youngest a with
      | some e => spGet 0 e.data a
      | none => 0) }
  | 1 => { p with waits := (word.filterMap fun a => (c.youngest a).map (·.id)).eraseDups }
  | _ => p

/-- The entries that a read takes bytes from. -/
def Cluster.forwardIds (c : Cluster) (p : LongPart) : List Nat :=
  if p.got.isSome then ((List.range p.len).filterMap fun i => (c.youngest (p.addr + i)).map (·.id)).eraseDups else []

/-- A forwarded part of a load that earlier accesses hold back: its entries and bytes are fixed, its value is not. -/
def Cluster.defer (c : Cluster) (p : LongPart) : LongPart :=
  { p with got := none, src := c.forwardIds p, fwd := p.got.getD [] }

/-- The parts of a long load with what the buffer forwards at issue. -/
def State.forwardParts (s : State) (u : Nat) (l : List LongPart) : List LongPart :=
  let c := s.buf u
  l.map fun p =>
    let w := p.addr / 8
    let word := (l.filter fun q => q.addr / 8 == w).flatMap fun q => (List.range q.len).map (q.addr + ·)
    c.forward word.eraseDups p

/-- Context `x` has entries of a store that have not entered the buffer (R267). -/
def State.lateOf (s : State) (x : Nat) : Bool := (s.clu (cluOf x)).late.any (·.x == x)

/-- Context `x` waits for the data of an `lda` (R275). -/
def State.acquiring (s : State) (x : Nat) : Bool :=
  (s.ctx x).longs.any fun o => match o.kind with
    | .load (some _) => true
    | _ => false

/-! ## Effects of loads and stores -/

/-- The bytes of a piece read in the own cluster's SRAM. -/
def State.pieceBytes (s : State) (h : Handle) (p : Piece) : List Byte :=
  (List.range p.len).map fun i => s.byte (h.pa (p.off.toNat + i))

/-- A byte of the access holds an uncorrectable soft error. -/
def State.pieceBad (s : State) (h : Handle) (p : Piece) : Bool :=
  (h.spans p.off.toNat p.len).any fun q => s.badAt q.1 q.2

/-- The physical bytes of a store, in lane order; a later lane's byte stands (R154). -/
def storeBytes (h : Handle) (l : List Piece) (val : Nat → Word) : List (Nat × Byte) :=
  l.flatMap fun p => (List.range p.len).map fun i =>
    (h.pa (p.off.toNat + i), BitVec.ofNat 8 ((val p.lane).toNat / 256 ^ i))

/-- Bytes written where they lie, in order. -/
def State.writeCells (s : State) : List (Nat × Byte) → State
  | [] => s
  | (a, b) :: t => (s.putByte a b).writeCells t

/-- The destination of a vector load as an exposed result: every lane written (R154). -/
def vecDest (n z : Nat) (lane : Nat → Nat) : Dest :=
  .v n (tab 128 fun l => (BitVec.allOnes 64, szExtend z (lane l)))

/-- The parts of a long load through a handle. -/
def Handle.parts (hd : Handle) (ps : List Piece) : List LongPart :=
  ps.flatMap fun p =>
    let l := hd.spans p.off.toNat p.len
    l.zipIdx.map fun q =>
      let va := (hd.va : Int) + p.off + (if q.2 = 0 then 0 else ((l.head?.map (·.2)).getD 0 : Nat))
      { addr := q.1.1, len := q.1.2, lane := p.lane, va := BitVec.ofInt 64 va }

/-- Context `x` has observed the writes of the given numbers (R268). -/
def State.observe (s : State) (x : Nat) (l : List Nat) : State :=
  s.modCtx x fun c => { c with seen := c.seen ++ l.filter (fun i => !c.seen.contains i) }

/-- A long load `o` of context `x` starts: `own` where it reads the own cluster's SRAM, at once and whatever its class
(R151, R266); else what the store buffer holds is taken from there, and the rest waits for what it must (R268, R272 to
R276). A load that earlier accesses hold back takes its forwarded bytes when they have performed (log 85). -/
def State.loadStart (s : State) (x : Nat) (own : Bool) (hd : Handle) (ps : List Piece) (acq : Option Nat) (o : LongOp) : State :=
  let parts := hd.parts ps
  let parts := if own then parts.map fun p => { p with got := some (s.bytes p.addr p.len) }
    else s.forwardParts (cluOf x) parts
  let fixed := parts.all fun p => p.got.isSome
  let spans := parts.map fun p => (p.addr, p.len)
  let order := if own then [] else
    s.loadWaits x o.cls spans ++ s.fenceWaits x o.cls ++ s.heldWaits x o.cls spans ++
      match acq with
      | some sc => (parts.filter fun p => p.got.isSome).flatMap fun p =>
          (s.released x sc (.mem p.addr p.len)).filter (s.openNow (cluOf x) 2)
      | none => []
  let waits := order ++ if own || fixed then [] else s.storeWaits x o.cls
  let obs := if own || !order.isEmpty then [] else parts.flatMap (s.buf (cluOf x)).forwardIds
  let parts := if order.isEmpty then parts else parts.map (s.buf (cluOf x)).defer
  let bad := if own then ps.find? fun p => s.pieceBad hd p else none
  let s := match acq with
    | some sc => if own then parts.foldl (fun (s : State) (p : LongPart) => s.acquire x sc (.mem p.addr p.len)) s else s
    | none => s
  let (s, id) := s.newAccess x o.cls false
  (s.modCtx x fun c =>
    { c with
      longs := c.longs ++ [{ o with id := c.nextLong, kind := .load acq, parts := parts, num := id, waits := waits, own := own, page := hd,
                                    off := ((ps.head?.map Piece.off).getD 0).toNat,
                                    bad := bad.map fun p => BitVec.ofInt 64 ((hd.va : Int) + p.off) }]
      nextLong := c.nextLong + 1 }).observe x obs

/-- The effect of a load of the issuing context (R151 to R154): `dest` is a scalar or a vector register. An `lda` of own
cluster SRAM is a long load whose bytes are read at issue, whatever its class (R151, R266). -/
def State.doLoad (s : State) (i : Instr) (h : Nat) (z : Nat) (vec : Bool) (d : Nat) (acq : Option Nat) : State :=
  let x := s.x
  let hd := s.me.hreg h
  let ps := s.pieces x i
  if s.isOwn x i && acq.isNone then
    let val := fun l => match ps.find? (·.lane == l) with
      | some p => leVal (s.pieceBytes hd p)
      | none => 0
    let bad := ps.find? fun p => s.pieceBad hd p
    let dest := if vec then vecDest d z val else .s d (szExtend z (val 0))
    s.modCtx x fun c => c.push { s.snap 3 12 dest with
      trap := bad.map fun p => (cEccUncorrectable, BitVec.ofInt 64 ((hd.va : Int) + p.off)) }
  else
    s.loadStart x (s.isOwn x i) hd ps acq
      { id := 0, issued := s.me.count, slot := 3, baddr := s.me.pc, bank := s.bankNow, cls := classOf i, kind := .load acq,
        dest := if vec then .v d z else .s d z, handle := h, secure := s.me.world }

/-- The effect of a store of the issuing context (R151 to R154, R160, R267); `rel` is the scope of a release, and lanes
outside `on` store nothing. -/
def State.doStore (s : State) (i : Instr) (h : Nat) (val : Nat → Word) (rel : Option Nat) (on : Nat → Bool := fun _ => true) :
    State :=
  let x := s.x
  let hd := s.me.hreg h
  let ps := (s.pieces x i).filter fun p => on p.lane
  let cells := storeBytes hd ps val
  let noted := fun (s : State) => match rel with
    | some sc => match ps.head? with
      | some p => s.release x sc (.mem (hd.pa p.off.toNat) p.len) (s.observes x)
      | none => s
    | none => s
  if s.isOwn x i then noted (s.writeCells cells)
  else
    let cls := classOf i
    let spans := ps.flatMap fun p => hd.spans p.off.toNat p.len
    let waits := s.loadWaits x cls spans ++ s.fenceWaits x cls ++
      match rel with
      | some sc => s.covers x sc
      | none => []
    (noted s).enterStore x cls waits (s.enterWaits x cls spans) (blocksOf cells)

/-! ## Blocking conditions of the memory slot -/

/-- The instruction reaches memory outside the own cluster's SRAM. -/
def State.offCluster (s : State) (x : Nat) (i : Instr) : Bool := (handleOf i).isSome && !s.isOwn x i

/-- Instructions that access memory, or send a copy, flag or board operation, from the M or T slot (R275). -/
def memoryLike : Instr → Bool
  | .cpy .. => true
  | .cpya .. => true
  | .fladdArr .. => true
  | .fladdDrop .. => true
  | .fladdAdd .. => true
  | .flset .. => true
  | .nbpv .. => true
  | .nbrd .. => true
  | .nbrdSt .. => true
  | .nbrdMask .. => true
  | .nbclr .. => true
  | .grpMk .. => true
  | .flwaitEq .. => true
  | .flwaitGe .. => true
  | .flwaitBar .. => true
  | .sysSave .. => true
  | .sysRest .. => true
  | i => (handleOf i).isSome || touchesSramT i

/-- Instructions of slot 3 that read a descriptor in the own cluster's SRAM at issue (R162, R364). -/
def readsDescM : Instr → Bool
  | .cpy .. => true
  | .cpya .. => true
  | .grpMk .. => true
  | _ => false

/-- Fences, releases, the operations of R267 that wait for a store's last entry, and the save and restore of a context, which
access memory outside the cluster. -/
def lateSensitive : Instr → Bool
  | .fence .. => true
  | .xdfi .. => true
  | .stl .. => true
  | .cpy .. => true
  | .cpya .. => true
  | .fladdArr .. => true
  | .fladdDrop .. => true
  | .fladdAdd .. => true
  | .flset .. => true
  | .nbpv .. => true
  | .nbrd .. => true
  | .nbrdSt .. => true
  | .nbrdMask .. => true
  | .nbclr .. => true
  | .collAr .. => true
  | .collRs .. => true
  | .collAg .. => true
  | .collBc .. => true
  | .collA2a .. => true
  | .sysSave .. => true
  | .sysRest .. => true
  | _ => false

/-- A T-slot instruction of context `x` that reads the core's weight SRAM, which lies outside the cluster's SRAM (R179). -/
def State.readsWeights (s : State) (x : Nat) (i : Instr) : Bool :=
  match i with
  | .tmmaWs .. => !(s.tOperands x i).isEmpty
  | .tmmaGr .. => !(s.tOperands x i).isEmpty
  | .grx .. => !(s.tOperands x i).isEmpty
  | _ => false

/-- Blocking conditions of accesses to memory (R151, R202, R267, R274, R275). -/
def State.blocksAccess (s : State) (x : Nat) (i : Instr) : Bool :=
  (memoryLike i && s.acquiring x) ||
  ((lateSensitive i || s.offCluster x i || s.readsWeights x i) && s.lateOf x) ||
  ((readsDescM i || ((handleOf i).isSome && s.isOwn x i)) && s.now < spGet 0 (s.core (coreOf x)).grxUntil (x % 4)) ||
  (isStore i && s.offCluster x i && ((s.ctx x).hreg ((handleOf i).getD 0)).valid &&
    (s.clu (cluOf x)).full (classOf i)) ||
  match i with
  | .stl _ _ _ _ sf _ => s.isOwn x i && !(s.covers x sf.toNat).isEmpty
  | _ => false

end Sys2Proof.Machine
end

