-- ==== Sys2Proof/Machine/Tu.lean ====
section
/-! DEFINITION. The translation unit of a die: joining walks, page walks, and fault entries (R144, R145, R316, R317). -/

namespace Sys2Proof.Machine

/-! ## Page walks (R24, R144, R145, R376, R383) -/

/-- Every offset of a range is populated within its kind (R23, R24). -/
def rangePopulated (kind off n : Nat) : Bool :=
  match kind with
  | 0 => off + n ≤ 0x12A05F2000
  | 1 => off + n ≤ 0x2000000
  | 2 => off + n ≤ 0x8000000 && off % 0x200000 + n ≤ 0x180000
  | _ => off + n ≤ 2 ^ 32 && (List.range ((off % 2 ^ 24 + n + 2 ^ 24 - 1) / 2 ^ 24)).all fun i =>
      offPopulated 3 ((off / 2 ^ 24 + i) * 2 ^ 24)

/-- Every byte of a range of physical addresses is populated, in the domain of die `d` (R24). -/
def State.allPopulated (s : State) (d pa n : Nat) : Bool :=
  pa < 2 ^ 57 && rangePopulated (paKind pa) (paOff pa) n && s.panelExists d (paDie pa / 64)

/-- A word of stripe set `i` of die `d` (R376). -/
def State.stripeWord (s : State) (d i o : Nat) : Word := s.reg d (0x2002000 + 64 * i + 8 * o)

/-- The members of stripe set `i` as die `d` holds them; none for a malformed set (R376). -/
def State.stripeSet (s : State) (d i : Nat) : Option (List Nat) :=
  let c := s.stripeWord d i 0
  let n := wfld c 0 5
  let f := fun k => wfld (s.stripeWord d i (1 + k / 4)) (16 * (k % 4)) 16
  let m := tab n fun k => f k % 2048
  if c.getLsbD 63 && n != 0 && decide (n ≤ 16) && wfld c 5 58 == 0 &&
      (List.range 16).all (fun k => decide (f k < 2048)) &&
      m.all (fun e => s.panelExists d (e / 64) && (s.reg e 0x8).getLsbD (e % 64)) && m.eraseDups.length == n
  then some m else none

/-- What a walk ends in: a page, or the cause of its fault. -/
inductive Walked where
  | page (h : Handle)
  | fault (cause : Nat)
  deriving DecidableEq, Repr

/-- The page of a leaf `e` of a level, for a walk of die `d` and world `w` (R145). -/
def State.leafPage (s : State) (d : Nat) (w : Bool) (va level : Nat) (e : Word) : Walked :=
  let f := wfld e 14 43 * 2 ^ 14
  let h : Handle := { valid := true, world := e.getLsbD 61, rd := e.getLsbD 60, wr := e.getLsbD 59,
                      stripe := e.getLsbD 58, mig := e.getLsbD 57, size := level, kind := paKind f,
                      gen := BitVec.ofNat 14 (wfld e 0 14), panel := paDie f / 64, die := paDie f % 64,
                      frame := if e.getLsbD 58 then f % 2 ^ 46 else f }
  let h := { h with va := va / h.bytes * h.bytes }
  if 3 ≤ level ∨ f % h.bytes ≠ 0 then .fault cTranslationFault
  else if !h.stripe && !s.allPopulated d f h.bytes then .fault cTranslationFault
  else if h.world && !w then .fault cWorldViolation
  else if h.stripe then
    match s.stripeSet d h.die with
    | none => .fault cStripeConfig
    | some m =>
      let share := (h.bytes / 4096 + m.length - 1) / m.length * 4096
      if m.all fun e => s.allPopulated d (e * 2 ^ 46 + h.frame) share then .page { h with members := m }
      else .fault cTranslationFault
  else .page h

/-- A walk from the table at `t` of level `n - 1` down (R144, R145). An entry in secure bytes is no non-secure walk's to read
(R336); that the walk ends in WORLD_VIOLATION is the model's reading (log 36). -/
def State.walkFrom (s : State) (d : Nat) (w : Bool) (va : Nat) : Nat → Nat → Walked
  | 0, _ => .fault cTranslationFault
  | n + 1, t =>
    let a := t + 8 * (va / 2 ^ (14 + 11 * n) % 2048)
    if !s.allPopulated d t 0x4000 then .fault cTranslationFault
    else if let some c := s.unreached d t then .fault c
    else if !s.worldAt d w a && s.secureAt a 8 then .fault cWorldViolation
    else
      let e : Word := BitVec.ofNat 64 (s.mval a 8)
      if !e.getLsbD 63 then .fault cTranslationFault
      else if e.getLsbD 62 then s.leafPage d w va n e
      else s.walkFrom d w va n (wfld e 14 43 * 2 ^ 14)

/-- The addresses of the table entries that such a walk reads. -/
def State.walkReads (s : State) (d va : Nat) : Nat → Nat → List Nat
  | 0, _ => []
  | n + 1, t =>
    if !s.allPopulated d t 0x4000 || (s.unreached d t).isSome then []
    else
      let a := t + 8 * (va / 2 ^ (14 + 11 * n) % 2048)
      let e : Word := BitVec.ofNat 64 (s.mval a 8)
      a :: if e.getLsbD 63 && !e.getLsbD 62 then s.walkReads d va n (wfld e 14 43 * 2 ^ 14) else []

/-- The table entries that a walk from the root `r` reads count as HBM bytes read (R343). -/
def State.countWalk (s : State) (d : Nat) (w : Bool) (r : Word) (va : Nat) : State :=
  if r.getLsbD 63 then
    (s.walkReads d (va % 2 ^ 58) 4 (wfld r 14 43 * 2 ^ 14)).foldl (fun (s : State) a => s.countHbm a 8 false w) s
  else s

/-- TUROOT of die `d` for world `w` (R383). -/
def State.turoot (s : State) (d : Nat) (w : Bool) : Word := s.reg d (0x2000010 + 8 * b2n w)

/-- A walk of die `d` in world `w` from the root `r` (R383). -/
def State.walkRoot (s : State) (d : Nat) (w : Bool) (r : Word) (va : Nat) : Walked :=
  if r.getLsbD 63 then s.walkFrom d w (va % 2 ^ 58) 4 (wfld r 14 43 * 2 ^ 14) else .fault cTranslationFault

/-- A walk of die `d` in world `w` that starts now (R383). -/
def State.pageWalk (s : State) (d : Nat) (w : Bool) (va : Nat) : Walked := s.walkRoot d w (s.turoot d w) va

/-- The page of a virtual address for a unit that waits for its walk at once: cached, or walked (R146). -/
def State.xlate (s : State) (d : Nat) (w : Bool) (va : Nat) : Walked :=
  match s.tlbFind d w (va % 2 ^ 58) with
  | some h => .page h
  | none => s.pageWalk d w va

/-- The physical address of a virtual address, or the cause of the fault of its walk. -/
def State.xlatePa (s : State) (d : Nat) (w : Bool) (va : Nat) : Nat ⊕ Nat :=
  match s.xlate d w va with
  | .page h => .inl (h.pa (va % 2 ^ 58 - h.va))
  | .fault c => .inr c

/-! ## Checks of a unit that has no context (R203, R265, R335, R336) -/

/-- The check of one piece within a 4 KiB granule at its page, for a unit of die `d`: cause and FADDR. `rec_` when whole seed
records are written. -/
def State.pieceFail (s : State) (d : Nat) (w : Bool) (h : Handle) (write rec_ : Bool) (va n : Nat) : Option (Nat × Word) :=
  let pa := h.pa (va % 2 ^ 58 - h.va)
  let at_ := BitVec.ofNat 64 va
  if (!w && h.world) || (!s.worldAt d w pa && s.secureAt pa n) then some (cWorldViolation, at_)
  else if (if write then !h.wr else !h.rd) then some (cPermission, at_)
  else if paKind pa = 3 then some (cAlignment, at_)
  else if s.inReserved pa n then
    some (cSramRange, BitVec.ofNat 64 (va + (firstBelow n fun i => s.inReserved (pa + i) 1).getD 0))
  else if write && s.seededPa pa n &&
      !(rec_ && s.seededAll (64 * paDie pa + paOff pa / 0x200000) (paOff pa % 0x200000) n) then some (cWeightWrite, at_)
  else if !write && s.badAt pa n then some (cEccUncorrectable, at_)
  else none

/-- The first fault of ranges of virtual addresses that a unit of die `d` reaches in world `w`. -/
def State.unitFail (s : State) (d : Nat) (w : Bool) (l : List (Nat × Nat)) (write : Bool) (rec_ : Bool := false) :
    Option (Nat × Word) :=
  (l.flatMap fun r => vcuts r.1 r.2).findSome? fun q =>
    match s.xlate d w q.1 with
    | .fault c => some (c, BitVec.ofNat 64 q.1)
    | .page h => (s.pieceFail d w h write rec_ q.1 q.2).orElse fun _ =>
      let pa := h.pa (q.1 % 2 ^ 58 - h.va)
      (s.unreached d pa).map fun c => (c, BitVec.ofNat 64 pa)

/-- What a unit of die `d` moves through ranges of virtual addresses counts as HBM bytes, and so do the table entries of the
pages that the translation cache does not hold (R343). -/
def State.countTouch (s : State) (d : Nat) (w : Bool) (l : List (Nat × Nat)) (write : Bool) : State :=
  let s := (l.flatMap fun r => vpages r.1 r.2).foldl (fun (s : State) p =>
    if (s.tlbFind d w (p * 0x4000 % 2 ^ 58)).isSome then s else s.countWalk d w (s.turoot d w) (p * 0x4000)) s
  (l.flatMap fun r => vcuts r.1 r.2).foldl (fun (s : State) q => match s.xlate d w q.1 with
    | .page h => s.countHbm (h.pa (q.1 % 2 ^ 58 - h.va)) q.2 write w
    | .fault _ => s) s

/-- Bytes written at a virtual address as die `d` translates it in world `w`; the state, and whether and where an access
faulted. -/
def State.xwrite (s : State) (d : Nat) (w : Bool) (va : Nat) : List Byte → State × Option Nat
  | [] => (s, none)
  | b :: t =>
    match s.xlate d w va with
    | .fault _ => (s, some va)
    | .page h =>
      let pa := h.pa (va % 2 ^ 58 - h.va)
      if (s.pieceFail d w h true false va 1).isNone && (s.unreached d pa).isNone then (s.putByte pa b).xwrite d w (va + 1) t
      else (s, some va)

/-- Bytes at a virtual address as die `d` reads them in world `w`; the cause and address of a fault. -/
def State.xfetch (s : State) (d : Nat) (w : Bool) (va : Nat) : Nat → List Byte ⊕ (Nat × Nat)
  | 0 => .inl []
  | n + 1 =>
    match s.xlate d w va with
    | .fault c => .inr (c, va)
    | .page h =>
      let pa := h.pa (va % 2 ^ 58 - h.va)
      match (s.pieceFail d w h false false va 1).orElse fun _ => (s.unreached d pa).map fun c => (c, BitVec.ofNat 64 pa) with
      | some (c, f) => .inr (c, f.toNat)
      | none => match s.xfetch d w (va + 1) n with
        | .inl l => .inl (s.byte pa :: l)
        | .inr f => .inr f

/-! ## The translation unit's entries (R316) -/

/-- The lowest free entry of a die's translation unit (R316). -/
def Die.freeTu (d : Die) : Option Nat := firstBelow 1024 fun i => !spHas i d.tu

/-- The entry of the translation unit for a key. -/
def Die.tuFind (d : Die) (w : Bool) (vpn : Nat) : Option Nat :=
  (d.tu.find? fun e => e.2.world == w && e.2.vpn == vpn).map (·.1)

/-- A waiter joins the walk of a key: its entry's number and state, or none while every entry is taken (R316). -/
def State.joinWalk (s : State) (d : Nat) (w : Bool) (vpn : Nat) (q : Waiter) : State × Option Nat :=
  match (s.die d).tuFind w vpn with
  | some e => (s.modDie d fun k => { k with tu := spMod { world := w, vpn := vpn } e (fun t =>
      { t with waiters := if t.waiters.contains q then t.waiters else t.waiters ++ [q] }) k.tu }, some e)
  | none =>
    match (s.die d).freeTu with
    | some e =>
      ((s.countDie d 8 0 1 w).modDie d fun k =>
        { k with tu := spPut e { world := w, vpn := vpn, waiters := [q], root := s.turoot d w } k.tu }, some e)
    | none => (s, none)

/-- The context runs as a child of a speculative word. -/
def Ctx.specChild (c : Ctx) : Bool :=
  match c.origin with
  | some (.tcall _ _ spec) => spec
  | _ => false

/-- The entry of a walk that has faulted already, with its cause (R316). -/
def Die.tuFault (d : Die) (w : Bool) (vpn : Nat) : Option (Nat × Nat) :=
  (d.tu.find? fun e => e.2.world == w && e.2.vpn == vpn).bind fun e => e.2.fault.map fun c => (e.1, c)

/-- The issuing context misses on `va`: it is frozen on the walk's entry with its bundle unissued (R146, R179, R316). One
that may not wait for a handler, a privileged context or a child of a speculative word, traps at once where the walk has
faulted already (R211, R314). -/
def State.missIssue (s : State) (slot va : Nat) : State :=
  let x := s.x
  let w := s.me.world
  match (if s.me.priv || s.me.specChild then (s.die (dieOf x)).tuFault w (va / 0x4000) else none) with
  | some (e, cause) =>
    let t := s.takeTrap x cause (BitVec.ofNat 64 va) { s.info slot with walk := some e }
    { t with iss := { t.iss with out := .trap cause (BitVec.ofNat 64 va), slot := slot } }
  | none =>
    let bank := s.bankNow
    let (s, e) := s.joinWalk (dieOf x) w (va / 0x4000) (.ctx x)
    let s := s.freeze x (match e with
      | some e => .miss e va slot bank
      | none => .missWait) true
    { s with iss := { s.iss with out := .miss va, slot := slot } }

end Sys2Proof.Machine
end

