-- ==== Sys2Proof/Machine/Reply.lean ====
section
/-! DEFINITION. Replies that arrive for contexts and cores whose state is saved (R327). -/

namespace Sys2Proof.Machine

/-- An entry of the reply log (R327). -/
structure LogEntry where
  /-- 1 board reply, 2 deferred fault, 3 translation fault of a frozen waiter, 4 refusal of a board operation -/
  kind : Nat
  cause : Nat := 0
  cid : Nat
  ctx : Nat := 0
  reg : Nat := 0
  regv : Nat := 0
  word : Word := 0
  vm : BitVec 256 := 0
  seq : Nat := 0
  deriving DecidableEq, Repr

/-- The 64 bytes of an entry. -/
def LogEntry.bytes (e : LogEntry) : List Byte :=
  leBytes 1 e.kind ++ leBytes 1 e.cause ++ leBytes 1 e.cid ++ leBytes 1 e.ctx ++ leBytes 2 e.reg ++ leBytes 2 e.regv ++
    leBytes 8 e.word.toNat ++ leBytes 32 e.vm.toNat ++ leBytes 8 e.seq ++ leBytes 8 0

/-- The entry that 64 bytes hold. -/
def LogEntry.of (l : List Byte) : LogEntry :=
  let f := fun o n => leVal ((l.drop o).take n)
  { kind := f 0 1, cause := f 1 1, cid := f 2 1, ctx := f 3 1 % 4, reg := f 4 2, regv := f 6 2,
    word := BitVec.ofNat 64 (f 8 8), vm := BitVec.ofNat 256 (f 16 32), seq := f 48 8 }

/-- `n` bytes of die `d`'s block of a stream's save area, none where the read faults (R329). -/
def State.saveRead (s : State) (p k d off n : Nat) : Option (List Byte) :=
  match s.xfetch d (s.strWorld p k) (s.saveBlock p k (d % 64) + off) n with
  | .inl l => some l
  | .inr _ => none

/-- A number of `n` bytes of it. -/
def State.saveNum (s : State) (p k d off n : Nat) : Option Nat := (s.saveRead p k d off n).map leVal

/-- Bytes written in die `d`'s block of a stream's save area; whether a walk faulted, and where. -/
def State.saveBytes (s : State) (p k d off : Nat) (l : List Byte) : State × Option Nat :=
  let va := s.saveBlock p k (d % 64) + off
  (s.countTouch d (s.strWorld p k) [(va, l.length)] true).xwrite d (s.strWorld p k) va l

/-- A reply enters the log of die `d` for stream `k`, or is dropped when it is full (R327); `ref` is the tag or the
operation that a dropped one names. -/
def State.logReply (s : State) (d k : Nat) (e : LogEntry) (ref : Nat) : State :=
  let p := d / 64
  let drop := fun (s : State) =>
    (s.modStrm p k fun t => { t with drops := t.drops ++ [(e.kind, 4 * (64 * d + e.cid) + e.ctx, ref, e.word)] }).setStr p k
      0x18 (putFld (s.str p k 0x18) 10 1 1)
  match s.saveNum p k d 12 4 with
  | none => drop s
  | some n =>
    if n < 512 then ((s.saveBytes p k d (0x1000 + 64 * n) e.bytes).1.saveBytes p k d 12 (leBytes 4 (n + 1))).1
    else (drop s).saveBytes p k d 16 (leBytes 4 (((s.saveNum p k d 16 4).getD 0) + 1)) |>.1

/-- The stream whose save holds context `x` with its operation `long`, and that operation. -/
def State.vaulted (s : State) (x long : Nat) : Option (Nat × LongOp) :=
  (List.range 4).findSome? fun k =>
    ((spGet {} (s.strm (dieOf x / 64) k).vctx x).longs.find? (·.id == long)).map fun o => (k, o)

/-- The reply of an operation of a saved context enters the log, and the operation keeps the number of its entry. -/
def State.vaultLog (s : State) (k x long : Nat) (e : LogEntry) : State :=
  let n := (s.saveNum (dieOf x / 64) k (dieOf x) 12 4).getD 512
  let s := s.modStrm (dieOf x / 64) k fun t => { t with vctx := spMod {} x (fun c =>
    { c with longs := c.longs.map fun o => if o.id = long then { o with logged := some n } else o }) t.vctx }
  s.logReply (dieOf x) k e long

/-- REG and the vm number of a destination, as the log holds them (R311, R327). -/
def LongDest.logRegs : LongDest → Nat × Nat
  | .sw n => (n, 0)
  | .vms k n => (n, k)
  | .vm k => (0x701, k)
  | _ => (0x700, 0)

/-- `n` deferred faults added to a tag's record in cycle `now` (R209): of the faults of one cycle the first in `order` gives
the cause and the address. -/
def Tag.addFault (t : Tag) (cause : Nat) (faddr : Word) (n now : Nat) (order : List Nat) : Tag :=
  let first := !t.df || (t.when_ == now && keyLt order t.order)
  { t with
    df := true
    cause := if first then cause else t.cause
    faddr := if first then faddr else t.faddr
    when_ := if first then now else t.when_
    order := if first then order else t.order
    count := min 255 (t.count + n) }

/-- A save of stream `k` holds the state of core `c`. -/
def State.holds (s : State) (c k : Nat) : Bool := (s.core c).saved.contains k

/-- A deferred fault enters the reply log in place of a tag's record (R327). Of the faults of one cycle the log holds first the
one that comes first in `order`, since the replay takes them in entry order (R209, R328); the saved copy of the tag keeps
the cycle and the order of the first. -/
def State.logFault (s : State) (c k tag cause : Nat) (faddr : Word) (order : List Nat) : State :=
  let (p, d) := (c / 4096, c / 64)
  let e : LogEntry := { kind := 2, cause := cause, cid := c % 64, reg := tag, word := faddr }
  let g := spGet ({} : Tag) (spGet ({} : Core) (s.strm p k).vcore c).tags tag
  let at_ := fun (j : Nat) => LogEntry.of ((s.saveRead p k d (0x1000 + 64 * j) 64).getD [])
  let before := if g.df && g.when_ == s.now && keyLt order g.order then
      firstBelow (min 512 ((s.saveNum p k d 12 4).getD 0)) fun j =>
        (at_ j).kind == 2 && (at_ j).cid == c % 64 && (at_ j).reg == tag
    else none
  let s : State := match before with
    | some j => (s.saveBytes p k d (0x1000 + 64 * j) e.bytes).1.logReply d k (at_ j) tag
    | none => s.logReply d k e tag
  let note := fun (q : Core) => { q with tags := spMod {} tag (fun g => g.addFault cause faddr 1 s.now order) q.tags }
  s.modStrm p k fun t => { t with vcore := spMod {} c note t.vcore }

/-- `n` faults of a tagged command or word of stream `k` on core `c` are deferred: they enter the tag's record, or the reply
log, an entry each, while a save holds the core's state; a tag that a die reset has freed only has them counted (R210, R211,
R228, R229, R327). `order` places a copy command by its queue
and number, and a tile word after every command (R209). -/
def State.deferFault (s : State) (c k tag cause : Nat) (faddr : Word) (n : Nat) (order : List Nat) : State :=
  if s.holds c k then (List.range n).foldl (fun (s : State) _ => s.logFault c k tag cause faddr order) s
  else if (spGet {} (s.core c).tags tag).live then s.modCore c fun q =>
    { q with tags := spMod {} tag (fun g => g.addFault cause faddr n s.now order) q.tags }
  else s.countCore c 9 n (s.core c).world

/-- INFL of a tag changed, in the core or in the saved copy of it (R209, R229). -/
def State.modInfl (s : State) (c k tag : Nat) (f : Nat → Nat) : State :=
  let g := fun (q : Core) => { q with tags := spMod {} tag (fun t => { t with infl := f t.infl }) q.tags }
  if s.holds c k then s.modStrm (c / 4096) k fun t => { t with vcore := spMod {} c g t.vcore } else s.modCore c g

end Sys2Proof.Machine
end

