-- ==== Sys2Proof/Machine/BlockM.lean ====
section
/-! DEFINITION. Blocking conditions of queues, copy commands, waits and the remaining instructions of the M and V slots
(R105, R117, R156, R157, R162, R170, R172, R283). -/

namespace Sys2Proof.Machine

/-- The send FIFO of queue `n` holds eight entries (R157). -/
def Core.sendFull (k : Core) (n : Nat) : Bool := 8 ≤ (spGet [] k.sendQ n).length
/-- The receive FIFO of queue `n` is empty. -/
def Core.recvEmpty (k : Core) (n : Nat) : Bool := (spGet [] k.recvQ n).isEmpty
/-- Queue `n` can send: q0 to q5 always, q6 and q7 when bound (R158). -/
def Core.canSend (k : Core) (n : Nat) : Bool := n < 6 || spHas n k.bind

/-! ## Flags (R280, R283) -/

/-- The physical address of flag `n` of core `c` (R122, R280). -/
def flagPa (c n : Nat) : Nat := sramPa (c / 8) (flagBase + 512 * (c % 8) + 8 * n)

/-- Flag word `n` of core `c`. -/
def State.flagWord (s : State) (c n : Nat) : Word := BitVec.ofNat 64 (s.rawVal (flagPa c n) 8)

/-- COUNT and EXPECTED of a flag word, and whether it is complete (R280). -/
def flCount (w : Word) : Nat := wfld w 0 32
def flExpected (w : Word) : Nat := wfld w 32 32
def flComplete (w : Word) : Bool := flExpected w ≤ flCount w

/-- The condition of a `flwait` on a flag word (R283). -/
def flCond (cond : Nat) (w v : Word) : Bool :=
  match cond with
  | 0 => w == v
  | 1 => wfld v 0 32 ≤ flCount w
  | _ => flComplete w

/-- What a `flwait` waits for; none for any other instruction, or where s[a] names no flag. -/
def State.watchOf (s : State) (x : Nat) (i : Instr) : Option Watch :=
  let c := s.ctx x
  let mk := fun (cond : Nat) (a : BitVec 5) (v : Word) =>
    if (c.sreg a.toNat).toNat < 64 then some ({ n := (c.sreg a.toNat).toNat, cond := cond, val := v } : Watch) else none
  match i with
  | .flwaitEq _ a b _ => mk 0 a (c.sreg b.toNat)
  | .flwaitGe _ a b _ => mk 1 a (c.sreg b.toNat)
  | .flwaitBar _ a _ => mk 2 a 0
  | _ => none

/-- The word that satisfies the wait of context `x`: one that the port has found, or the present one. -/
def State.watchHit (s : State) (x : Nat) (w : Watch) : Option Word :=
  let found := match (s.ctx x).watch with
    | some v => if v.n == w.n && v.cond == w.cond && v.val == w.val then v.hit else none
    | none => none
  match found with
  | some h => some h
  | none => if flCond w.cond (s.flagWord (coreOf x) w.n) w.val then some (s.flagWord (coreOf x) w.n) else none

/-- A `flwait` whose condition no application has met blocks; one that names no flag traps instead. -/
def State.flagBlocks (s : State) (x : Nat) (i : Instr) : Bool :=
  match s.watchOf x i with
  | some w => (s.watchHit x w).isNone
  | none => false

/-- Board operations of a context that have no reply (R287). -/
def Ctx.boardOps (c : Ctx) : Nat := (c.longs.filter fun o => match o.kind with
  | .board .. => true
  | _ => false).length

/-- A copy into the idle pattern bank of core `c` is incomplete (R105). -/
def State.patternCopy (s : State) (c : Nat) : Bool :=
  (List.range 8).any fun j => (List.range 4).any fun k =>
    (spGet {} (s.core (c / 8 * 8 + j)).cq k).cmds.any fun m =>
      nfld (m.desc.getD 33 0).toNat 6 2 == 1 && nfld (m.desc.getD 8 0).toNat 0 6 == c % 64

/-! ## Shootdowns (R149, R175) -/

/-- A physical byte lies in the page of a handle. -/
def Handle.holds (h : Handle) (a : Nat) : Bool :=
  if h.stripe then h.members.contains (paDie a) && h.frame ≤ a % 2 ^ 46 &&
    a % 2 ^ 46 < h.frame + (h.bytes / 4096 + h.members.length - 1) / h.members.length * 4096
  else h.frame ≤ a && a < h.frame + h.bytes

/-- The page of a handle or translation covers a virtual address. -/
def Handle.covers (h : Handle) (va : Nat) : Bool := h.valid && h.va ≤ va && va < h.va + h.bytes

/-- A context's handles without the page of `va`, those of results in flight among them. -/
def Ctx.unmap (c : Ctx) (va : Nat) : Ctx :=
  let f := fun (h : Handle) => if h.covers va then { h with valid := false } else h
  { c with
    h := c.h.map fun p => (p.1, f p.2)
    snaps := c.snaps.map fun n => match n.dest with
      | .h r v => { n with dest := .h r (f v) }
      | _ => n }

/-- The pages of world `w` that map `va` in some translation cache or handle of the domain. -/
def State.mapsOf (s : State) (w : Bool) (va : Nat) : List Handle :=
  ((s.dies.flatMap fun d => (d.2.tlb.filter (·.world == w)).map (·.page)) ++
   (s.ctxs.flatMap fun x => if x.2.world == w then x.2.h.map (·.2) else [])).filter (·.covers va)

/-- Pages that map `va` and that a shootdown of world `w` which is not complete has removed. -/
def State.goneMaps (s : State) (w : Bool) (va : Nat) : List Handle :=
  (s.ctxs.flatMap fun x => match x.2.shoot with
    | some h => if x.2.world == w && !h.done then h.pages else []
    | none => []).filter (·.covers va)

/-- The accesses in flight that reach some of the pages. -/
def State.inFlight (s : State) (l : List Handle) : List Nat :=
  let hit := fun (a : Nat) => l.any (·.holds a)
  (s.clus.flatMap fun u => ((u.2.sb ++ u.2.late).filter fun e => e.data.any fun p => hit p.1).map (·.id)) ++
  (s.ctxs.flatMap fun x => (x.2.longs.filter fun o => o.parts.any fun p => hit p.addr).map (·.num))

/-- A shootdown of world `w` begins: the page leaves every translation cache, and every handle to it is cleared; context
`x` waits for the accesses that were in flight (R149). -/
def State.shootDown (s : State) (x va : Nat) : State :=
  let w := (s.ctx x).world
  let pages := s.mapsOf w va ++ s.goneMaps w va
  let waits := s.inFlight pages
  let s := { s with
    dies := s.dies.map fun (d : Nat × Die) => (d.1, { d.2 with tlb := d.2.tlb.filter fun t => !(t.world == w && t.page.covers va) })
    ctxs := s.ctxs.map fun (c : Nat × Ctx) => (c.1, if c.2.world == w then c.2.unmap va else c.2) }
  s.modCtx x fun c => { c with shoot := some { va := va, waits := waits, pages := pages } }

/-- The address of a `sys.shoot`. -/
def State.shootVa (s : State) (x : Nat) : Instr → Option Nat
  | .sysShoot a => some (((s.ctx x).sreg a.toNat).toNat % 2 ^ 58)
  | _ => none

/-- A `sys.shoot` blocks until its shootdown is complete (R175). -/
def State.shootBlocks (s : State) (x : Nat) (i : Instr) : Bool :=
  match s.shootVa x i with
  | some va => !(match (s.ctx x).shoot with
    | some h => h.va == va && h.done
    | none => false)
  | none => false

/-! ## Collectives (R365, R367) -/

/-- The group of a packet of a collective: id and generation. -/
def PktBody.groupIn : PktBody → Option (Nat × Nat)
  | .chunk c => some (c.group, c.gen)
  | .selfd c _ _ => some (c.group, c.gen)
  | .token g n _ _ _ => some (g, n)
  | _ => none

/-- `grp.free` waits while the group has a collective outstanding or a chunk on its way at this die. -/
def State.groupBusy (s : State) (d : Nat) (w : Word) : Bool :=
  let id := wfld w 0 8
  match (s.die d).groups.find? (·.1 == id) with
  | some (_, g) => g.gen == wfld w 8 4 && (!g.colls.isEmpty ||
      s.pkts.any fun p => p.body.groupIn == some (id, g.gen) && (p.src == d || p.dst == d))
  | none => false

/-- A fifth outstanding collective of a group waits. -/
def State.collWaits (s : State) (x : Nat) (r : BitVec 5) : Bool :=
  let w := (s.ctx x).sreg r.toNat
  match (s.die (dieOf x)).groups.find? (·.1 == wfld w 0 8) with
  | some (_, g) => g.gen == wfld w 8 4 && 4 ≤ g.colls.length
  | none => false

/-! ## Sent tile words (R256) -/

/-- Words that core `c` has sent and that have not completed. -/
def State.sentWords (s : State) (c : Nat) : Nat :=
  let mine := fun (h : HWord) => match h.src with
    | .sent e _ => e == c && h.sentBy.isSome
    | _ => false
  (s.core c).sends.length + ((s.clu (c / 8)).seq.filter mine).length + ((s.die (c / 64)).seq.filter mine).length

/-- Blocking conditions of the instructions that name a queue, a copy queue, a token, a flag or an engine. -/
def State.blocksM (s : State) (x : Nat) (i : Instr) : Bool :=
  let k := s.core (coreOf x)
  match i with
  | .qpush n _ => k.canSend n.toNat && k.sendFull n.toNat
  | .vqpush n _ _ _ => k.canSend n.toNat && k.sendFull n.toNat
  | .qrq m _ => k.canSend m.toNat && k.sendFull m.toNat
  | .qpop _ n => k.recvEmpty n.toNat
  | .vqpop _ n _ _ => k.recvEmpty n.toNat
  | .qcfg n _ => !(spGet [] k.sendQ n.toNat).isEmpty
  | .ifence => k.istores.any (·.x == x)
  | .xdfw a =>
    let w := (s.ctx x).sreg a.toNat
    match (s.ctx x).tokens.find? fun t => t.1 == w.toNat with
    | some t => t.2.waits.any s.pend.contains
    | none => false
  | .vpat _ _ _ _ w _ => w == 1 && s.patternCopy (coreOf x)
  | .cpy _ _ _ n => 16 ≤ (spGet {} k.cq n.toNat).cmds.length
  | .cpya _ _ _ n => 16 ≤ (spGet {} k.cq n.toNat).cmds.length
  | .tlwait a n => decide ((spGet {} k.cq n.toNat).tl < ((s.ctx x).sreg a.toNat).toNat)
  | .flwaitEq .. => s.flagBlocks x i
  | .flwaitGe .. => s.flagBlocks x i
  | .flwaitBar .. => s.flagBlocks x i
  | .nbpv .. => 8 ≤ (s.ctx x).boardOps
  | .nbrd .. => 8 ≤ (s.ctx x).boardOps
  | .nbrdSt .. => 8 ≤ (s.ctx x).boardOps
  | .nbrdMask .. => 8 ≤ (s.ctx x).boardOps
  | .nbclr _ => 8 ≤ (s.ctx x).boardOps
  | .sysShoot _ => s.shootBlocks x i
  | .tsend .. => 16 ≤ s.sentWords (coreOf x)
  | .grpFree a => wfld ((s.ctx x).sreg a.toNat) 12 52 == 0 && s.groupBusy (dieOf x) ((s.ctx x).sreg a.toNat)
  | .collAr d _ _ _ _ => s.collWaits x d
  | .collRs d _ _ _ _ => s.collWaits x d
  | .collAg d _ _ => s.collWaits x d
  | .collBc d _ _ => s.collWaits x d
  | .collA2a d _ _ => s.collWaits x d
  | _ => false

end Sys2Proof.Machine
end

