-- ==== Sys2Proof/Machine/Issue.lean ====
section
/-! DEFINITION. Presenting instructions for issue: the checks of R61, R79, R117 and R146 in the order of R385, and what a
slot's instruction comes to. -/

namespace Sys2Proof.Machine

/-- One slot of a bundle: its number and what its word decodes to. -/
structure SlotI where
  slot : Nat
  word : Decoded

/-- The place in the scratchpad of bundle address `a` while overlay bank `b` is active (R123). -/
def ipadKey (b a : Nat) : Nat := if a < 0x200 then a else 0x2000 * (b + 1) + a

/-- An `istore` to bundle `a` of bank `b` is in flight. -/
def Core.storing (k : Core) (b a : Nat) : Bool := k.istores.any fun r => r.bank == b && r.baddr == a

/-- A bundle with slot `k` replaced. -/
def putSlot (bundle k w : Nat) : Nat :=
  bundle - bundle / 2 ^ (32 * k) % 2 ^ 32 * 2 ^ (32 * k) + w * 2 ^ (32 * k)

/-- The place of the bundle that an `istore` writes. -/
def IStoreRec.key (r : IStoreRec) : Nat := ipadKey r.bank r.baddr

/-- The old bundles that unordered writes still leave: those of the given records. -/
def keptOlds (landed : List IStoreRec) (olds : Sp Nat) : Sp Nat := olds.filter fun p => landed.any fun r => r.key == p.1

/-- An `ifence` of context `x` (R124, R208): the writes of that context that have landed enter the old bundles too, and an old
bundle without any other unordered write is kept no longer. -/
def Core.fenced (k : Core) (x : Nat) : Core :=
  let landed := k.landed.filter (·.x != x)
  let olds := (k.landed.filter (·.x == x)).foldl (fun (m : Sp Nat) r =>
    if spHas r.key m then spMod 0 r.key (fun b => putSlot b r.slot r.word) m else m) k.olds
  { k with landed := landed, olds := keptOlds landed olds }

/-- The two overlay banks swapped (R140): where no `istore` is in flight, what has landed stands. -/
def Core.swapped (k : Core) : Core :=
  let landed := k.landed.filter fun r => k.storing r.bank r.baddr
  { k with ibank := 1 - k.ibank, landed := landed, olds := keptOlds landed k.olds }

/-- The bundle that core `c` fetches at address `a` (R123): while an `istore` to it is in flight, wholly the old one, without
the writes that no `ifence` of their context has ordered (R124). -/
def State.bundleAt (s : State) (c a : Nat) : Nat :=
  let k := s.core c
  let now := spGet 0 k.ipad (ipadKey k.ibank a)
  if k.storing k.ibank a then spGet now k.olds (ipadKey k.ibank a) else now

/-- The slots of a bundle, decoded (R51, R52). -/
def slotsOf (b : Nat) : List SlotI :=
  (List.range 4).map fun k => { slot := k, word := decodeSlot k (slotWord b k) }

/-- The header bytes that a bundle's slot 0 holds (R54). -/
def headerOf : List SlotI → Option (Nat × Nat × Nat)
  | { slot := 0, word := .ok (.xhdr e f g) } :: _ => some (e.toNat, f.toNat, g.toNat)
  | _ => none

/-- The cause of the first slot that fails the static checks of R61: its slot and cause. -/
def State.staticFail (s : State) : List SlotI → Option (Nat × Nat)
  | [] => none
  | i :: t =>
    let c := match i.word with
      | .bad .illegalOpcode => some cIllegalOpcode
      | .bad .illegalHeader => some cIllegalHeader
      | .bad .reservedField => some cReservedField
      | .bad .privReserved => some (if s.me.priv then cReservedField else cPrivInstr)
      | .ok i' => staticCheck s.me.priv (s.ext i.slot) i'
    match c with
    | some c => some (i.slot, c)
    | none => s.staticFail t

/-- The instructions of a bundle that decode. -/
def instrs (l : List SlotI) : List (Nat × Instr) :=
  l.filterMap fun i => match i.word with
    | .ok j => some (i.slot, j)
    | .bad _ => none

/-- EARLY_READ: the first slot's first register with an exposed write in flight (R79). -/
def State.earlyFail (s : State) (l : List (Nat × Instr)) : Option (Nat × Word) :=
  if s.me.pchk then l.findSome? fun p => (s.earlyReg s.x p.2).map fun r => (p.1, r.code) else none

/-- A blocking condition of an instruction (R117). -/
def State.blocks (s : State) (x : Nat) (i : Instr) : Bool :=
  s.waitsReg x i || (readsFlags i && s.flagWait x) || s.blocksT x i || s.blocksAccess x i || s.blocksM x i

/-- The first page of an instruction's operands that the translation cache does not hold (R146, R179). -/
def State.missFor (s : State) (x : Nat) (i : Instr) : Option Nat :=
  match i with
  | .trans _ a =>
    let va := ((s.ctx x).sreg a.toNat).toNat % 2 ^ 58
    if (s.tlbFind (dieOf x) (s.ctx x).world va).isNone then some va else none
  | i => s.missOf x (s.tOperands x i)

/-- The conditions of R385 before the state-dependent checks, over the slots of a bundle. -/
def State.present (s : State) (l : List SlotI) : Nat × Out :=
  match s.staticFail l with
  | some (k, c) => (k, .trap c 0)
  | none =>
    let is := instrs l
    match s.earlyFail is with
    | some (k, r) => (k, .trap cEarlyRead r)
    | none =>
      if is.any fun p => s.blocks s.x p.2 then (0, .block)
      else match is.findSome? fun p => (s.missFor s.x p.2).map fun v => (p.1, v) with
        | some (k, v) => (k, .miss v)
        | none => (0, .run)

/-- The same for one instruction outside a bundle; nothing is left to check once the whole bundle has been. -/
def State.gate (s : State) (slot : Nat) (i : Instr) : Out :=
  if s.iss.gated then .run else (s.present [{ slot := slot, word := .ok i }]).2

/-- What blocked waits leave pending: the watch of a `flwait` at the flag port (R283), and the shootdown of a
`sys.shoot`. -/
def State.armWatch (s : State) (l : List Instr) : State :=
  let s := match l.findSome? fun i => if s.waitsReg s.x i then none else (s.watchOf s.x i).map fun w => w with
    | some w => s.modCtx s.x fun c => match c.watch with
      | some v => if v.n == w.n && v.cond == w.cond && v.val == w.val then c else { c with watch := some w }
      | none => { c with watch := some w }
    | none => s
  match l.findSome? fun i => if s.waitsReg s.x i then none else s.shootVa s.x i with
  | some va => if (s.me.shoot.map (·.va)) == some va then s else s.shootDown s.x va
  | none => s

/-- The issuing context's bundle blocks (R116): another ready context takes the stage, else it stays. -/
def State.blockIssue (s : State) : State :=
  let x := s.x
  let s := { s with iss := { s.iss with out := .block } }
  let t := s.modCtx x fun c => { c with st := .blocked }
  match s.readyAfter (coreOf x) (x % 4) with
  | some _ => t.leaveStage x false
  | none => t

/-- What an instruction's own checks and effect come to: a trap has its cause, FADDR and original cause (R311). -/
inductive Res where
  | ok (s : State)
  | trap (cause : Nat) (faddr : Word) (orig : Nat := 0)

/-- A step that goes on where a check found nothing. -/
def failOn (c : Option (Nat × Word)) (k : Res) : Res :=
  match c with
  | some (cause, f) => .trap cause f
  | none => k
/-- A step that traps with `cause` where the condition holds. -/
def trapIf (b : Bool) (cause : Nat) (k : Res) : Res := if b then .trap cause 0 else k
/-- A step that goes on where a tag check found nothing (R178). -/
def failTag (c : Option Nat) (k : Res) : Res :=
  match c with
  | some cause => .trap cause 0
  | none => k

/-- A slot's instruction: the checks of the bundle, then its own checks and effect. -/
def slotOp (slot : Nat) (i : Instr) (s : State) (body : State → Res) : Host.Outcome State Fault Refusal :=
  match s.gate slot i with
  | .run => match body s with
    | .ok t => .next t
    | .trap c f o => .next (s.trapAtIssue slot c f o)
  | .trap c f o => .next (s.trapAtIssue slot c f o)
  | .block => .next (s.armWatch [i]).blockIssue
  | .miss va => .next (s.missIssue slot va)

end Sys2Proof.Machine
end

