-- ==== Sys2Proof/Machine/Flags.lean ====
section
/-! DEFINITION. Sticky flags and the first-event log of vector results (R46 to R49, R85). -/

namespace Sys2Proof.Machine

/-- What one element came to: its bits and the flags it raised. -/
abbrev Elem := Nat × Fl

/-- One lane's elements with their place in the lane. -/
structure LaneRes where
  lane : Nat
  /-- destination element, and the outcome, for each element computed -/
  elems : List (Nat × Elem)

/-- The flags of all lanes together. -/
def laneFlags (l : List LaneRes) : Fl := l.foldl (fun a r => r.elems.foldl (fun b e => b ||| e.2.2) a) 0

/-- The earliest event of a vector instruction: the lowest lane, then the lowest element (R49, R85). -/
def laneEvent (s : State) (slot : Nat) (l : List LaneRes) : Option LogEv :=
  l.findSome? fun r => r.elems.findSome? fun e =>
    if kindOf e.2.2 = 0 then none else some (s.event slot 0 0 r.lane e.1 (kindOf e.2.2))

/-- FEL0 as `mfs` reads it (R48). -/
def fel0Word : Option LogEv → Word
  | none => 0
  | some e => BitVec.ofNat 64 (2 ^ 63 + e.bank * 2 ^ 18 + e.slot * 2 ^ 16 + e.baddr)

/-- FEL1 as `mfs` reads it (R48). -/
def fel1Word : Option LogEv → Word
  | none => 0
  | some e => BitVec.ofNat 64 (e.row * 2 ^ 19 + e.lane * 2 ^ 12 + e.elem * 2 ^ 9 + e.kind)

end Sys2Proof.Machine
end

