-- ==== Sys2Proof/Machine/VecOps.lean ====
section
/-! DEFINITION. Elements of vector lanes, and the shapes of vector instructions: lane-wise, comparisons, conversions,
reductions, ranking (R32, R78, R81, R85 to R111). A type code is 0 i64, 1 n64, 2 i32, 3 fp64, 4 fp32, 5 bf16, 6 fp16,
7 i8. -/

namespace Sys2Proof.Machine

/-! ## Elements (R32) -/

/-- Width of an element of a type. -/
def elemW (t : Nat) : Nat := match t with
  | 2 => 32
  | 4 => 32
  | 5 => 16
  | 6 => 16
  | 7 => 8
  | _ => 64

/-- An FP type. -/
def isFp (t : Nat) : Bool := 3 ≤ t && t ≤ 6

/-- The format of an FP type. -/
def ffmtOf (t : Nat) : FFmt := match t with
  | 3 => fp64
  | 4 => fp32
  | 5 => bf16
  | _ => fp16

/-- Element `e` of a lane. -/
def elemOf (t : Nat) (w : Word) (e : Nat) : Nat := nfld w.toNat (elemW t * e) (elemW t)

/-- The lane bits that a write of element `e` replaces, and their values; an i32 result is sign-extended and an fp32
result zero-extended over the lane (R32). -/
def elemPut (t e v : Nat) : Word × Word :=
  match t with
  | 2 => (BitVec.allOnes 64, sextNat 32 v)
  | 4 => (BitVec.allOnes 64, BitVec.ofNat 64 (v % 2 ^ 32))
  | 5 => (BitVec.ofNat 64 (0xFFFF * 2 ^ (16 * e)), BitVec.ofNat 64 (v % 2 ^ 16 * 2 ^ (16 * e)))
  | 6 => (BitVec.ofNat 64 (0xFFFF * 2 ^ (16 * e)), BitVec.ofNat 64 (v % 2 ^ 16 * 2 ^ (16 * e)))
  | 7 => (BitVec.ofNat 64 (0xFF * 2 ^ (8 * e)), BitVec.ofNat 64 (v % 2 ^ 8 * 2 ^ (8 * e)))
  | _ => (BitVec.allOnes 64, BitVec.ofNat 64 v)

/-- All the writes of one lane together. -/
def elemsPut (t : Nat) (l : List (Nat × Elem)) : Word × Word :=
  l.foldl (fun a p => let (m, v) := elemPut t p.1 p.2.1; (a.1 ||| m, a.2 ||| v)) (0, 0)

/-- The lanes of a result, as a register write takes them. -/
def lanesPut (t : Nat) (l : List LaneRes) : List (Word × Word) :=
  tab 128 fun i => match l.find? (·.lane == i) with
    | some r => elemsPut t r.elems
    | none => (0, 0)

/-- An element as a number: unsigned for n64, signed for the other integer types. -/
def intOf (t v : Nat) : Int := if t = 1 then v else sgnN (elemW t) v
/-- The range of an integer type. -/
def intLo (t : Nat) : Int := if t = 1 then 0 else -((2 : Int) ^ (elemW t - 1))
def intHi (t : Nat) : Int := if t = 1 then 2 ^ 64 - 1 else 2 ^ (elemW t - 1) - 1
/-- An integer put back into an element, modulo its width. -/
def ofInt' (t : Nat) (v : Int) : Nat := wrapN (elemW t) v
/-- An integer clamped to the range of a type, with SAT when clamped (R27). -/
def clampTo (t : Nat) (v : Int) : Elem :=
  if v < intLo t then (ofInt' t (intLo t), flSAT) else if intHi t < v then (ofInt' t (intHi t), flSAT) else (ofInt' t v, 0)

/-! ## Operations on elements (R86 to R97) -/

/-- A sum, difference or product. -/
def elArith (k t rm x y : Nat) : Elem :=
  if isFp t then
    let f := ffmtOf t
    match k with
    | 0 => f.add rm x y
    | 1 => f.sub rm x y
    | _ => f.mul rm x y
  else
    let a := intOf t x
    let b := intOf t y
    (ofInt' t (match k with
      | 0 => a + b
      | 1 => a - b
      | _ => a * b), 0)

/-- ±(x · y) ± z, rounded once or modulo the width. -/
def elFused (negP negZ : Bool) (t rm x y z : Nat) : Elem :=
  if isFp t then (ffmtOf t).fma rm x y z negP negZ
  else
    let p := intOf t x * intOf t y
    (ofInt' t ((if negP then -p else p) + (if negZ then -(intOf t z) else intOf t z)), 0)

/-- The smaller or the larger (R87). -/
def elMinMax (big : Bool) (t x y : Nat) : Elem :=
  if isFp t then (ffmtOf t).minmax big x y
  else (if decide (intOf t x < intOf t y) = big then y else x, 0)

/-- A quotient (R27, R88). -/
def elDiv (t rm x y : Nat) : Elem :=
  if isFp t then (ffmtOf t).div rm x y
  else if y = 0 then (2 ^ elemW t - 1, flIDZ)
  else (ofInt' t ((intOf t x).tdiv (intOf t y)), 0)

/-- A shift by `c` (R95): 0 left, 1 logical right, 2 arithmetic right. -/
def elShift (k t x c : Nat) : Elem :=
  let w := elemW t
  (match k with
  | 0 => if c < w then x * 2 ^ c % 2 ^ w else 0
  | 1 => if c < w then x / 2 ^ c else 0
  | _ => wrapN w (sgnN w x / 2 ^ (min c w)), 0)

/-- A saturating sum or difference (R96). -/
def elSat (sub : Bool) (t x y : Nat) : Elem := clampTo t (if sub then intOf t x - intOf t y else intOf t x + intOf t y)

/-- An absolute value or negation (R97). -/
def elSign (neg : Bool) (t x : Nat) : Elem :=
  if isFp t then
    let f := ffmtOf t
    if f.isNan x then (f.nanBits, f.snanFl x)
    else if neg then (x ^^^ f.signBit, 0) else (x % f.signBit, 0)
  else
    let v := intOf t x
    (ofInt' t (if neg then -v else if v < 0 then -v else v), 0)

/-- Leading zero bits (R97). -/
def elClz (t x : Nat) : Elem :=
  (((List.range (elemW t)).find? fun i => x.testBit (elemW t - 1 - i)).getD (elemW t), 0)
/-- Set bits (R97). -/
def elPopc (t x : Nat) : Elem := (popBelow x (elemW t), 0)

/-- A conversion from type `t` to type `u` in mode `rm` (R33, R91). -/
def elCvt (t u rm x : Nat) : Elem :=
  if isFp t then
    if isFp u then cvtFF (ffmtOf t) (ffmtOf u) rm x
    else let (v, fl) := cvtFI (ffmtOf t) rm x (intLo u) (intHi u); (ofInt' u v, fl)
  else if isFp u then cvtIF (ffmtOf u) rm (intOf t x)
  else if t = u then (x, 0)
  else clampTo u (intOf t x)

/-- A condition of `vcmp` (R92): 0 eq, 1 ne, 2 lt, 3 le, 4 gt, 5 ge, 6 unord, 7 ord; with its flags. -/
def elCmp (c t x y : Nat) : Bool × Fl :=
  if isFp t then
    let f := ffmtOf t
    if f.isNan x || f.isNan y then
      (c == 1 || c == 6, if 2 ≤ c && c ≤ 5 then flNV else f.snanFl x ||| f.snanFl y)
    else
      let o := (f.val x).cmp (f.val y)
      (match c with
        | 0 => o == .eq
        | 1 => o != .eq
        | 2 => o == .lt
        | 3 => o != .gt
        | 4 => o == .gt
        | 5 => o != .lt
        | 6 => false
        | _ => true, 0)
  else
    let a := intOf t x
    let b := intOf t y
    (match c with
      | 0 => a == b
      | 1 => a != b
      | 2 => a < b
      | 3 => a ≤ b
      | 4 => a > b
      | 5 => a ≥ b
      | 6 => false
      | _ => true, 0)

/-! ## Shapes of instructions -/

/-- MODE.RM of the issuing context. -/
def State.rm (s : State) : Nat := s.me.rm.toNat

/-- Element `e` of lane `l` of a vector register of the issuing context. -/
def State.el (s : State) (t : Nat) (r : BitVec 5) (l e : Nat) : Nat := elemOf t (s.vr r l) e

/-- The results of the lanes that are on in predicate `p` (R81). -/
def State.onLanes (s : State) (p : BitVec 3) (f : Nat → List (Nat × Elem)) : List LaneRes :=
  let on := s.pr p.toNat
  (List.range 128).filterMap fun l => if on.getLsbD l then some { lane := l, elems := f l } else none

/-- A vector result of the V slot, with the flags and the event of its elements. -/
def State.vecOut (s : State) (lat d t : Nat) (rs : List LaneRes) : State :=
  s.laterEv 1 lat (.v d (lanesPut t rs)) (laneFlags rs) (laneEvent s 1 rs)

/-- A lane-wise instruction of type `t`: `f` gives each element of an on lane. -/
def lanewise (lat : Nat) (d : BitVec 5) (p t : BitVec 3) (f : State → Nat → Nat → Elem) (s : State) : Res :=
  .ok (s.vecOut lat d.toNat t.toNat (s.onLanes p fun l => (List.range (elemsOf t.toNat)).map fun e => (e, f s l e)))

/-- Latency of the two families of R77: 2 on integer types, 4 on FP types. -/
def arithLat (t : BitVec 3) : Nat := if isFp t.toNat then 4 else 2

/-- A two-source lane-wise instruction. -/
def lane2 (lat : Nat) (d a b : BitVec 5) (p t : BitVec 3) (f : Nat → Nat → Nat → Elem) (s : State) : Res :=
  lanewise lat d p t (fun s l e => f t.toNat (s.el t.toNat a l e) (s.el t.toNat b l e)) s
/-- A one-source lane-wise instruction. -/
def lane1 (lat : Nat) (d a : BitVec 5) (p t : BitVec 3) (f : Nat → Nat → Elem) (s : State) : Res :=
  lanewise lat d p t (fun s l e => f t.toNat (s.el t.toNat a l e)) s
/-- A special function (R89). -/
def special1 (fn : Nat) (d a : BitVec 5) (p t : BitVec 3) (s : State) : Res :=
  lane1 8 d a p t (fun t x => (ffmtOf t).sfu t fn s.rm x) s

/-- A result of whole 64-bit lanes without flags. -/
def wholeLanes (lat : Nat) (d : BitVec 5) (f : State → Nat → Option Word) (s : State) : Res :=
  .ok (s.later 1 lat (.v d.toNat (tab 128 fun l => match f s l with
    | some v => (BitVec.allOnes 64, v)
    | none => (0, 0))))
/-- A result of the whole lanes that are on in `p`. -/
def onWhole (lat : Nat) (d : BitVec 5) (p : BitVec 3) (f : State → Nat → Word) (s : State) : Res :=
  wholeLanes lat d (fun s l => if (s.pr p.toNat).getLsbD l then some (f s l) else none) s

/-- A conversion of part `k` (R91). -/
def convert (d a k : BitVec 5) (p t u : BitVec 3) (r : BitVec 2) (s : State) : Res :=
  let ns := elemsOf t.toNat
  let nd := elemsOf u.toNat
  let k := k.toNat
  .ok (s.vecOut 3 d.toNat u.toNat (s.onLanes p fun l =>
    (List.range (min ns nd)).map fun e =>
      let src := if nd < ns then k * nd + e else e
      let dst := if ns < nd then k * ns + e else e
      (dst, elCvt t.toNat u.toNat r.toNat (s.el t.toNat a l src))))

/-- The bits of a predicate from a function of the lane. -/
def predOf (f : Nat → Bool) : BitVec 128 := BitVec.ofNat 128 ((List.range 128).foldl (fun m l => if f l then m + 2 ^ l else m) 0)

/-- A comparison (R92). An event that it raises carries the number of the compared source element as ELEM, the result being a
predicate: the model's choice (log 84). -/
def compareV (c : Nat) (q : BitVec 3) (a b : BitVec 5) (p t : BitVec 3) (s : State) : Res :=
  let on := s.pr p.toNat
  let el := fun l e => elCmp c t.toNat (s.el t.toNat a l e) (s.el t.toNat b l e)
  let rs := s.onLanes p fun l => (List.range (elemsOf t.toNat)).map fun e => (e, (0, (el l e).2))
  let v := predOf fun l => on.getLsbD l && (List.range (elemsOf t.toNat)).all fun e => (el l e).1
  .ok (s.laterEv 1 2 (.p q.toNat v) (laneFlags rs) (laneEvent s 1 rs))

/-- The lane and element that `vext` and `vins` name (R100). -/
def elemIndex (t : Nat) (w : Word) : Nat × Nat := (wfld w 0 7, wfld w 7 3 % elemsOf t)

/-- The element value that `vimm` writes (R101). -/
def immElem (t : Nat) (wideImm : Bool) (v : Nat) : Nat :=
  let n := if wideImm then 16 else 8
  match t with
  | 1 => v
  | 3 => (cvtFF bf16 fp64 0 v).1
  | 4 => v * 65536
  | 5 => v
  | 6 => v
  | t => ofInt' t (sgnN n v)

/-! ## Reductions (R102) -/

/-- A node of the tree: the lowest input lane under it and its value. -/
abbrev Node := Option (Nat × Nat)

/-- One level of the tree: pairs combined, with the flags raised and their lanes. -/
def redLevel (comb : Nat → Nat → Elem) : List Node → List Node × List (Nat × Fl)
  | some (l, a) :: some (_, b) :: t =>
    let (r, fl) := comb a b
    let (n, ev) := redLevel comb t
    (some (l, r) :: n, (l, fl) :: ev)
  | some a :: none :: t => let (n, ev) := redLevel comb t; (some a :: n, ev)
  | none :: b :: t => let (n, ev) := redLevel comb t; (b :: n, ev)
  | [a] => ([a], [])
  | [] => ([], [])

/-- `n` levels of the tree. -/
def redTree (comb : Nat → Nat → Elem) : Nat → List Node → List Node × List (Nat × Fl)
  | 0, l => (l, [])
  | n + 1, l =>
    let (l1, e1) := redLevel comb l
    let (l2, e2) := redTree comb n l1
    (l2, e1 ++ e2)

/-- The identity of a reduction: 0 add, 1 min, 2 max. -/
def redIdentity (op t : Nat) : Nat :=
  match op with
  | 0 => 0
  | 1 => if isFp t then (ffmtOf t).infBits else ofInt' t (intHi t)
  | _ => if isFp t then (ffmtOf t).signBit + (ffmtOf t).infBits else ofInt' t (intLo t)

/-- The combining step of a reduction. -/
def redComb (op t rm x y : Nat) : Elem :=
  match op with
  | 0 => elArith 0 t rm x y
  | 1 => elMinMax false t x y
  | _ => elMinMax true t x y

/-- The outcome of a tree: a NaN leaves canonical and a signalling one sets NV, where it met no other input too (R29). -/
def redOut (t v : Nat) : Elem :=
  if isFp t && (ffmtOf t).isNan v then ((ffmtOf t).nanBits, (ffmtOf t).snanFl v) else (v, 0)

/-- A reduction over lane clusters, or over the core (R102). -/
def reduceV (op : Nat) (d a : BitVec 5) (p t : BitVec 3) (whole : Bool) (s : State) : Res :=
  let t := t.toNat
  let size := if whole then 128 else 16
  let on := s.pr p.toNat
  let group := fun (g e : Nat) =>
    let (l, ev) := redTree (redComb op t s.rm) (if whole then 7 else 4)
      (tab size fun j => if on.getLsbD (size * g + j) then some (size * g + j, s.el t a (size * g + j) e) else none)
    match l with
    | some (i, v) :: _ => ((redOut t v).1, ((i, (redOut t v).2) :: ev).map fun q => ((q.1, e, q.2) : Nat × Nat × Fl))
    | _ => (redIdentity op t, [])
  let all := tab (128 / size) fun g => tab (elemsOf t) fun e => group g e
  let evs := all.flatMap fun g => g.flatMap fun r => r.2
  let val := fun l e => ((all.getD (l / size) []).getD e (0, [])).1
  let rs : List LaneRes := tab 128 fun l => ⟨l, (List.range (elemsOf t)).map fun e => (e, (val l e, 0))⟩
  let fl := evs.foldl (fun b q => b ||| q.2.2) 0
  let ev := evs.foldl (fun b q =>
    if kindOf q.2.2 = 0 then b else evMin b (some (s.event 1 0 0 q.1 q.2.1 (kindOf q.2.2)))) none
  .ok (s.laterEv 1 (if whole then 10 else 6) (.v d.toNat (lanesPut t rs)) fl ev)

/-! ## Ranking (R107) -/

/-- `x` ranks above `y` by value alone: descending, NaNs below every number. -/
def ranksAbove (f : FFmt) (x y : Nat) : Bool :=
  if f.isNan x then false else if f.isNan y then true else (f.val x).cmp (f.val y) == .gt

/-- The best candidate of a list in index order: the first of the highest value. -/
def bestOf (f : FFmt) : List (Nat × Nat) → Option (Nat × Nat)
  | [] => none
  | c :: t => match bestOf f t with
    | some b => if ranksAbove f b.2 c.2 then some b else some c
    | none => some c

/-- The `k` best candidates, best first. -/
def topOf (f : FFmt) : Nat → List (Nat × Nat) → List (Nat × Nat)
  | 0, _ => []
  | k + 1, l => match bestOf f l with
    | some b => b :: topOf f k (l.filter fun c => c.1 != b.1)
    | none => []

/-- The FP32 value that `vtopk` writes. -/
def topVal (t v : Nat) : Nat :=
  if t = 5 then (widenBf v).1 else if fp32.isNan v then fp32.nanBits else v

/-- `vtopk` over lane clusters, or over the core (R107). -/
def topk (d a : BitVec 5) (p t : BitVec 3) (whole : Bool) (k : Nat) (s : State) : Res :=
  let t := t.toNat
  let size := if whole then 128 else 16
  let on := s.pr p.toNat
  let n := elemsOf t
  let ranked := tab (128 / size) fun g => topOf (ffmtOf t) k ((List.range (size * n)).filterMap fun i =>
    if on.getLsbD (size * g + i / n) then some (i, s.el t a (size * g + i / n) (i % n)) else none)
  let out := fun l => match (ranked.getD (l / size) [])[l % size]? with
    | some (i, v) => BitVec.ofNat 64 (topVal t v * 2 ^ 32 + i)
    | none => (0xFF800000FFFFFFFF : Word)
  let rs := s.onLanes p fun l => (List.range n).map fun e => (e, (0, (ffmtOf t).snanFl (s.el t a l e)))
  .ok (s.laterEv 1 6 (.v d.toNat (tab 128 fun l => (BitVec.allOnes 64, out l))) (laneFlags rs) (laneEvent s 1 rs))

/-! ## Permutations and patterns (R103 to R106) -/

/-- A lane chosen by an index: 0 where bit 7 is set (R103). -/
def State.pick (s : State) (a : BitVec 5) (i : Nat) : Word := if i.testBit 7 then 0 else s.vr a (i % 128)

/-- `vpat` (R105). -/
def patternV (d a : BitVec 5) (n : Nat) (p : BitVec 3) (swap : Bool) (s : State) : Res :=
  let k := s.core (coreOf s.x)
  let bank := if swap then 1 - k.patBank else k.patBank
  if !k.patOk.contains (64 * bank + n) then .trap cPatternInvalid 0
  else
    let pat := spGet [] k.pats (64 * bank + n)
    onWhole 3 d p (fun s l => s.pick a (pat.getD l 0).toNat) (s.modCore (coreOf s.x) fun k => { k with patBank := bank })

/-- `xcopy` (R106). -/
def crossCopy (d a b : BitVec 5) (p : BitVec 3) (c : Nat) (s : State) : Res :=
  let mask := s.sr b
  if mask.getLsbD c then .trap cXcopyConflict 0
  else wholeLanes 3 d (fun s l =>
    if mask.getLsbD (l / 16) && (s.pr p.toNat).getLsbD l then some (s.vr a (16 * c + l % 16)) else none) s

/-- `rqpop` (R111): the entry leaves at issue. -/
def popResult (d : BitVec 5) (n : Nat) (p : BitVec 3) (q : Option Nat) (s : State) : Res :=
  match spGet [] (s.core (coreOf s.x)).rq n with
  | [] => .trap cRqUnderflow 0
  | e :: t =>
    let s := s.modCore (coreOf s.x) fun k => { k with rq := spPut n t k.rq }
    match onWhole 2 d p (fun _ l => e.data.getD l 0) s with
    | .ok s => .ok (match q with
        | some q => s.later 1 2 (.p q e.valid)
        | none => s)
    | r => r

end Sys2Proof.Machine
end

