-- ==== Sys2Proof/Machine/CopyData.lean ====
section
/-! DEFINITION. What a copy command does to bytes: checksums, stream decoders, conversions and atomic operations (R37,
R164 to R167). -/

namespace Sys2Proof.Machine

/-! ## CRC-32C (R167) -/

/-- One bit of the reflected CRC-32C register. -/
def crcBit (c : Nat) : Nat := (c / 2) ^^^ (if c % 2 = 1 then 0x82F63B78 else 0)

/-- One byte. -/
def crcByte (c : Nat) (b : Byte) : Nat :=
  crcBit (crcBit (crcBit (crcBit (crcBit (crcBit (crcBit (crcBit (c ^^^ b.toNat))))))))

/-- CRC-32C of bytes in memory order. -/
def crc32c (l : List Byte) : Nat := l.foldl crcByte 0xFFFFFFFF ^^^ 0xFFFFFFFF

/-! ## Stream decoders (R164, R165) -/

/-- What a decoder makes of the bytes that have arrived. -/
inductive Decoding where
  /-- more of the stream is needed -/
  | more
  /-- COMPRESSED_FORMAT -/
  | bad
  /-- the decoded bytes, and how many bytes of the stream the decoder used -/
  | done (out : List Byte) (used : Nat)
  deriving DecidableEq, Repr

/-- A field of a stream's bytes. -/
def leAt (l : List Byte) (o n : Nat) : Nat := leVal ((l.drop o).take n)

/-- A canonical code: its length, its code, its symbol. -/
abbrev HuffCode := Nat × Nat × Nat

/-- The codes of lengths `len` on, from the counts: codes of one length rise by 1, and double with the length. -/
def huffCodes : List Nat → Nat → Nat → List Nat → List HuffCode
  | [], _, _, _ => []
  | n :: t, len, code, syms =>
    ((syms.take n).zipIdx.map fun p => (len, code + p.2, p.1)) ++ huffCodes t (len + 1) (2 * (code + n)) (syms.drop n)

/-- Bit `p` of the code stream that starts at byte `cs`, least significant bit of each byte first. -/
def streamBit (l : List Byte) (cs p : Nat) : Option Nat :=
  if cs + p / 8 < l.length then some (b2n ((l.getD (cs + p / 8) 0).getLsbD (p % 8))) else none

/-- One symbol read from bit `p` on, most significant bit of the code first; `n` bits may still be read. -/
def huffSym (l : List Byte) (cs : Nat) (codes : List HuffCode) : Nat → Nat → Nat → Nat → Decoding ⊕ (Nat × Nat)
  | 0, _, _, _ => .inl .bad
  | n + 1, len, v, p =>
    match streamBit l cs p with
    | none => .inl .more
    | some b =>
      match codes.find? fun c => c.1 == len + 1 && c.2.1 == 2 * v + b with
      | some c => .inr (c.2.2, p + 1)
      | none => huffSym l cs codes n (len + 1) (2 * v + b) (p + 1)

/-- `n` symbols from bit `p` on: the symbols and the bit after them. -/
def huffSyms (l : List Byte) (cs : Nat) (codes : List HuffCode) : Nat → Nat → Decoding ⊕ (List Nat × Nat)
  | 0, p => .inr ([], p)
  | n + 1, p =>
    match huffSym l cs codes 12 0 0 p with
    | .inl d => .inl d
    | .inr (v, p) =>
      match huffSyms l cs codes n p with
      | .inl d => .inl d
      | .inr (t, p) => .inr (v :: t, p)

/-- Blocks of a stream, each from its offset: symbols, and the last byte used. -/
def huffBlocks (l : List Byte) (cs perBlock : Nat) (codes : List HuffCode) (total : Nat) :
    List Nat → Decoding ⊕ (List Nat × Nat)
  | [] => .inr ([], 0)
  | o :: t =>
    match huffSyms l cs codes (min perBlock total) (8 * o) with
    | .inl d => .inl d
    | .inr (v, p) =>
      if (match t with
          | o' :: _ => decide (8 * o' < p)
          | [] => false) then .inl .bad
      else match huffBlocks l cs perBlock codes (total - min perBlock total) t with
        | .inl d => .inl d
        | .inr (w, u) => .inr (v ++ w, max ((p + 7) / 8) u)

/-- Symbols packed into bytes, the low nibble first. -/
def packSyms (sw : Nat) (l : List Nat) : List Byte :=
  if sw = 8 then l.map (BitVec.ofNat 8)
  else tab (l.length / 2) fun i => BitVec.ofNat 8 (l.getD (2 * i) 0 + 16 * l.getD (2 * i + 1) 0)

/-- A canonical Huffman stream that must decode to `want` bytes (R165). -/
def huffman (l : List Byte) (want : Nat) : Decoding :=
  if l.length < 40 then .more
  else
    let sw := leAt l 4 1
    let nblk := leAt l 6 2
    let cnt := tab 12 fun i => leAt l (8 + 2 * i) 2
    let osize := leAt l 32 4
    let nsym := cnt.foldl (· + ·) 0
    let kraft := cnt.zipIdx.foldl (fun a p => a + p.1 * 2 ^ (11 - p.2)) 0
    if leAt l 0 4 ≠ 0x4E485A31 || !(sw == 4 || sw == 8) || osize != want ||
        !(decide (nblk * 4096 < osize + 4096) && decide (osize ≤ nblk * 4096)) || decide (4096 < kraft) ||
        decide (2 ^ sw < nsym) then .bad
    else
      let p := (40 + nsym + 3) / 4 * 4
      let cs := p + 4 * nblk
      if l.length < cs then .more
      else
        let syms := tab nsym fun i => leAt l (40 + i) 1
        if sw == 4 && syms.any fun v => decide (15 < v) then .bad
        else
          match huffBlocks l cs (32768 / sw) (huffCodes cnt 1 0 syms) (8 * osize / sw)
              (tab nblk fun i => leAt l (p + 4 * i) 4) with
          | .inl d => d
          | .inr (v, u) => .done (packSyms sw v) (cs + u)

/-- A ZVC stream from byte `p` on, decoded to `n` groups of 64 values (R164): the values' bytes, and the bytes used. -/
def zvcGroups (l : List Byte) : Nat → Nat → Option (List Byte × Nat)
  | 0, p => some ([], p)
  | n + 1, p =>
    let m := leAt l p 8
    let k := popBelow m 64
    if l.length < p + 8 + 2 * k then none
    else
      let g := (List.range 64).flatMap fun e =>
        if m.testBit e then
          [l.getD (p + 8 + 2 * popBelow m e) 0, l.getD (p + 9 + 2 * popBelow m e) 0]
        else [0, 0]
      match zvcGroups l n (p + 8 + 2 * k) with
      | some (t, u) => some (g ++ t, u)
      | none => none

/-- A ZVC stream that decodes to `want` bytes. In a last group that `want` cuts short, mask bits beyond it still take their
values from the stream: the model's choice (log 80). -/
def zvc (l : List Byte) (want : Nat) : Decoding :=
  match zvcGroups l ((want + 127) / 128) 0 with
  | some (o, u) => .done (o.take want) u
  | none => .more

/-! ## Conversions (R37, R164) -/

/-- Rows of `n` bytes. -/
def rowsOf (n : Nat) (l : List Byte) : List (List Byte) := tab (l.length / n) fun i => (l.drop (n * i)).take n

/-- The MXINT6 code of an E2M1 code (R37). -/
def e2m1 (c : Nat) : Nat :=
  let m := [0, 1, 2, 3, 4, 6, 8, 12].getD (c % 8) 0
  if c < 8 then m else (64 - m) % 64

/-- MXINT6 bytes of MXFP4 element bytes: two bytes, four elements, become three (R34, R37). -/
def mxElems (l : List Byte) : List Byte :=
  (List.range (l.length / 2)).flatMap fun i =>
    let v := leAt l (2 * i) 2
    leBytes 3 (e2m1 (v % 16) + 64 * e2m1 (v / 16 % 16) + 4096 * e2m1 (v / 256 % 16) + 262144 * e2m1 (v / 4096))

/-- The FP32 scale of an E8M0 code (R37). -/
def e8m0 (e : Nat) : Nat :=
  if e = 0xFF then 0x7FC00000 else if e = 0 then 0x00200000 else if e = 1 then 0x00400000 else (e - 1) * 2 ^ 23

/-- Elements of `w` bytes. -/
def elemsAt (w : Nat) (l : List Byte) : List Nat := tab (l.length / w) fun i => leAt l (w * i) w

/-- CVT 2 and 3 of one row: the bytes, and the events. -/
def cvtRow (cvt : Nat) (l : List Byte) : List Byte × Fl :=
  if cvt = 2 then
    let r := (elemsAt 2 l).map widenBf
    (r.flatMap fun p => leBytes 4 p.1, r.foldl (fun a p => a ||| p.2) 0)
  else if cvt = 3 then
    let r := (elemsAt 4 l).map toBf
    (r.flatMap fun p => leBytes 2 p.1, r.foldl (fun a p => a ||| p.2) 0)
  else (l, 0)

/-- Rows transposed in elements of `w` bytes. -/
def transposeRows (w : Nat) (rows : List (List Byte)) : List (List Byte) :=
  match rows with
  | [] => []
  | r :: _ => tab (r.length / w) fun j => rows.flatMap fun q => (q.drop (w * j)).take w

/-! ## Atomic operations (R166) -/

/-- Bytes of an element of an AOP type. -/
def aopBytes (ty : Nat) : Nat := if ty = 0 ∨ ty = 2 ∨ ty = 4 then 4 else 8

/-- The operation and type are in the table of R166. -/
def aopOk (ty op : Nat) : Bool := ty < 6 && op < 8 && !(3 ≤ op && op ≤ 5 && 4 ≤ ty)

/-- The new value of an element and its events; `cmp` is the compare value of a compare-and-swap. -/
def aopApply (ty op old v cmp : Nat) : Nat × Fl :=
  let w := 8 * aopBytes ty
  let fp := if ty = 4 then fp32 else fp64
  let isF := decide (4 ≤ ty)
  let less := fun (a b : Nat) => if ty < 2 then decide (sgnN w a < sgnN w b) else decide (a < b)
  match op with
  | 0 => if isF then fp.add 0 old v else ((old + v) % 2 ^ w, 0)
  | 1 => if isF then fp.minmax false old v else (if less v old then v else old, 0)
  | 2 => if isF then fp.minmax true old v else (if less old v then v else old, 0)
  | 3 => (old &&& v, 0)
  | 4 => (old ||| v, 0)
  | 5 => (old ^^^ v, 0)
  | 6 => (v, 0)
  | _ => (if old = cmp then v else old, 0)

end Sys2Proof.Machine
end

