-- ==== Sys2Proof/Machine/Control.lean ====
section
/-! DEFINITION. Control transfers, hardware loops, overlay swaps and the stop group of the C slot (R120, R135 to R140,
R142, R143). -/

namespace Sys2Proof.Machine

/-- Entries that a transfer from `own` to `target` leaves are popped, innermost first (R139). -/
def popLoops (own target : Nat) : List LoopEnt → List LoopEnt
  | [] => []
  | e :: t =>
    if e.first ≤ own ∧ own ≤ e.last ∧ ¬(e.first ≤ target ∧ target ≤ e.last) then popLoops own target t else e :: t

/-- The loop-back at the last bundle of the innermost entry, with its fall-through (R138): the loop stack after it and
the next address. An entry that pops makes the loop-back that it carries. -/
def loopBack : List LoopEnt → Nat → List LoopEnt × Nat
  | [], fall => ([], fall)
  | e :: t, fall =>
    if 1 < e.count then ({ e with count := e.count - 1 } :: t, e.first)
    else if e.carry then loopBack t fall
    else (t, fall)

/-- The next address in sequence after the bundle at `own`, with the loop stack after it (R138). -/
def inSequence (l : List LoopEnt) (own : Nat) : List LoopEnt × Nat :=
  match l with
  | [] => (l, own + 1)
  | e :: _ => if e.last = own then loopBack l (own + 1) else (l, own + 1)

/-- A bundle address as FADDR reports it (R135). -/
def addrWord (a : Int) : Word := BitVec.ofInt 64 a

/-- The bundle's next address decided by its instruction. -/
def State.goto (s : State) (a : Nat) : State := { s with iss := { s.iss with target := some a } }

/-- A taken transfer to `target`; `pops` where it leaves loops (R135, R139). -/
def transfer (pops : Bool) (target : Int) (s : State) : Res :=
  if target < 0 ∨ 0x11FF < target then .trap cIbankRange (addrWord target)
  else
    let t := target.toNat
    .ok ((s.modCtx s.x fun c => if pops then { c with loops := popLoops c.pc t c.loops } else c).goto t)

/-- The address of the issuing bundle. -/
def State.own (s : State) : Nat := s.me.pc

/-- A conditional branch (R136). -/
def branch (taken : Word → Word → Bool) (a b : BitVec 5) (o : BitVec 13) (s : State) : Res :=
  if taken (s.sr a) (s.sr b) then transfer true ((s.own : Int) + o.toInt) s else .ok s

/-- A transfer that also writes a link, one bundle later (R137). -/
def linked (r : Res) (d : Nat) (own : Nat) : Res :=
  match r with
  | .ok s => .ok (s.later 0 1 (.s d (BitVec.ofNat 64 (own + 1))))
  | .trap c f o => .trap c f o

/-- A loop opened with count `n` (R138). -/
def openLoop (n : Nat) (o : BitVec 13) (s : State) : Res :=
  let own := s.own
  let last := (own : Int) + o.toInt
  let l := s.me.loops
  let atLast := match l with
    | [] => false
    | e :: _ => e.last == own
  if o.toInt ≤ 0 then .trap cReservedField 0
  else if 0x11FF < last then .trap cIbankRange (addrWord last)
  else if n = 0 then
    let (l', next) := if atLast then loopBack l (last.toNat + 1) else (l, last.toNat + 1)
    .ok ((s.modCtx s.x fun c => { c with loops := l' }).goto next)
  else if 4 ≤ l.length then .trap cLoopNest 0
  else
    let e : LoopEnt := { first := own + 1, last := last.toNat, count := n, carry := atLast }
    .ok ((s.modCtx s.x fun c => { c with loops := e :: c.loops }).goto (own + 1))

/-- A trap taken after issue (R143): the other slots have executed, and the context resumes in sequence. -/
def trapAfter (cause : Nat) (faddr : Word) (s : State) : Res :=
  .ok (s.takeTrap s.x cause faddr { s.info 0 with after := true })

/-- The two overlay banks of core `c` swapped (R140). -/
def State.swapBanks (s : State) (c : Nat) : State := s.modCore c Core.swapped

/-! ## Instructions -/

/-- BEQ (R136): Branches when equal. -/
def execBeq (a : BitVec 5) (b : BitVec 5) (o : BitVec 13) (s : State) : Host.Outcome State Fault Refusal :=
  slotOp 0 (.beq a b o) s (branch (fun x y => x == y) a b o)

/-- BNE (R136): Branches when not equal. -/
def execBne (a : BitVec 5) (b : BitVec 5) (o : BitVec 13) (s : State) : Host.Outcome State Fault Refusal :=
  slotOp 0 (.bne a b o) s (branch (fun x y => x != y) a b o)

/-- BLT (R136): Branches when less, signed. -/
def execBlt (a : BitVec 5) (b : BitVec 5) (o : BitVec 13) (s : State) : Host.Outcome State Fault Refusal :=
  slotOp 0 (.blt a b o) s (branch (fun x y => x.slt y) a b o)

/-- BGE (R136): Branches when greater or equal, signed. -/
def execBge (a : BitVec 5) (b : BitVec 5) (o : BitVec 13) (s : State) : Host.Outcome State Fault Refusal :=
  slotOp 0 (.bge a b o) s (branch (fun x y => !x.slt y) a b o)

/-- BLTU (R136): Branches when less, unsigned. -/
def execBltu (a : BitVec 5) (b : BitVec 5) (o : BitVec 13) (s : State) : Host.Outcome State Fault Refusal :=
  slotOp 0 (.bltu a b o) s (branch (fun x y => x.ult y) a b o)

/-- BGEU (R136): Branches when greater or equal, unsigned. -/
def execBgeu (a : BitVec 5) (b : BitVec 5) (o : BitVec 13) (s : State) : Host.Outcome State Fault Refusal :=
  slotOp 0 (.bgeu a b o) s (branch (fun x y => !x.ult y) a b o)

/-- J (R137): Jumps by a 26-bit bundle offset. -/
def execJ (o : BitVec 26) (s : State) : Host.Outcome State Fault Refusal :=
  slotOp 0 (.j o) s (transfer true ((s.own : Int) + o.toInt))

/-- JAL (R137): Jumps and writes the link to s31. -/
def execJal (o : BitVec 26) (s : State) : Host.Outcome State Fault Refusal :=
  slotOp 0 (.jal o) s fun s => linked (transfer false ((s.own : Int) + o.toInt) s) 31 s.own

/-- JR (R137): Jumps to the bundle address in s[a], optionally linking in s[d]. -/
def execJr (d : BitVec 5) (a : BitVec 5) (s : State) : Host.Outcome State Fault Refusal :=
  slotOp 0 (.jr d a) s fun s => linked (transfer true (s.sr a).toNat s) d.toNat s.own

/-- LOOP (R138): Opens a hardware loop with its count in a register. -/
def execLoop (a : BitVec 5) (o : BitVec 13) (s : State) : Host.Outcome State Fault Refusal :=
  slotOp 0 (.loop a o) s fun s => openLoop (wfld (s.sr a) 0 32) o s

/-- LOOPI (R138): Opens a hardware loop with an immediate count. -/
def execLoopi (n : BitVec 13) (o : BitVec 13) (s : State) : Host.Outcome State Fault Refusal :=
  slotOp 0 (.loopi n o) s (openLoop n.toNat o)

/-- JBANK (R140): Swaps the overlay banks core-wide and continues at the target. -/
def execJbank (d : BitVec 5) (i : BitVec 21) (s : State) : Host.Outcome State Fault Refusal :=
  slotOp 0 (.jbank d i) s fun s =>
    let t := i.toInt
    if t < 0x200 ∨ 0x11FF < t then .trap cIbankRange (addrWord t)
    else linked (.ok (((s.swapBanks (coreOf s.x)).modCtx s.x fun c => { c with loops := [] }).goto t.toNat)) d.toNat s.own

/-- STOP (R120): Retires the context, which becomes dormant. -/
def execStop (s : State) : Host.Outcome State Fault Refusal :=
  slotOp 0 (.stop) s fun s => .ok ((s.landLast s.x).finish s.x 0 0)

/-- YIELD (R142): Gives the issue stage to another ready context. -/
def execYield (s : State) : Host.Outcome State Fault Refusal :=
  slotOp 0 (.yield) s fun s => match s.readyAfter (coreOf s.x) (s.x % 4) with
    | some _ => .ok ((s.modCtx s.x fun c => { c with st := .ready }).leaveStage s.x false)
    | none => .ok s

/-- BRK (R142): Raises BREAKPOINT after issue. -/
def execBrk (s : State) : Host.Outcome State Fault Refusal :=
  slotOp 0 (.brk) s (trapAfter cBreakpoint 0)

/-- TRAP (R142): Raises SOFTWARE_TRAP with s[a] in FADDR. -/
def execTrap (a : BitVec 5) (s : State) : Host.Outcome State Fault Refusal :=
  slotOp 0 (.trap a) s fun s => trapAfter cSoftwareTrap (s.sr a) s

/-- ECALL (R143): Raises ECALL with the immediate in FADDR. -/
def execEcall (i : BitVec 16) (s : State) : Host.Outcome State Fault Refusal :=
  slotOp 0 (.ecall i) s (trapAfter cEcall (i.zeroExtend 64))

/-- NOP (R52): All-zero slot word in any slot; does nothing. -/
def execNop (s : State) : Host.Outcome State Fault Refusal :=
  slotOp 0 (.nop) s (fun s => .ok s)

/-- XHDR (R54): Extension header in slot 0: widens the immediates of slots 1-3 of the same bundle; the bundle has no C operation. -/
def execXhdr (e : BitVec 8) (f : BitVec 8) (g : BitVec 8) (s : State) : Host.Outcome State Fault Refusal :=
  slotOp 0 (.xhdr e f g) s (fun s => .ok s)

end Sys2Proof.Machine
end

