-- ==== Sys2Proof/Machine/Special.lean ====
section
/-! DEFINITION. Special registers (R121, R122, R141) and `mts START` (R114). -/

namespace Sys2Proof.Machine

/-- PAN of die `d`: the position that DOMCFG fixes once V is set, and the panel's own number before (R122, R341, log 4). -/
def State.panOf (s : State) (d : Nat) : Nat :=
  let w := s.domcfg d
  if w.getLsbD 63 then 8 * wfld w 21 2 + 4 * wfld w 20 1 + wfld w 18 2 else d / 64

/-- DXY of die `d` in the panel at PAN `p` (R122). -/
def dxyWord (p d : Nat) : Word :=
  BitVec.ofNat 64 (panZ p * 2 ^ 32 + (8 * panY p + dieY d) * 2 ^ 24 + (8 * panX p + dieX d) * 2 ^ 16 + dieY d * 8 + dieX d)

/-- MODE of a context. -/
def Ctx.modeWord (c : Ctx) : Word :=
  BitVec.ofNat 64 (b2n c.priv * 16 + b2n c.world * 8 + b2n c.pchk * 4 + c.rm.toNat)

/-- The value of special register `n` in context `x`; none for a number not in the table. -/
def State.special (s : State) (x n : Nat) : Option Word :=
  let c := s.ctx x
  let d := dieOf x
  let w := fun (v : Nat) => some (BitVec.ofNat 64 v)
  match n with
  | 0x00 => w (x % 4)
  | 0x01 => w (cidOf (coreOf x))
  | 0x02 => w (cidOf (coreOf x) / 8)
  | 0x03 => w (d % 64)
  | 0x04 => some (dxyWord (s.panOf d) d)
  | 0x05 => w (s.panOf d)
  | 0x06 => w (s.clk d)
  | 0x07 => some c.modeWord
  | 0x08 => w c.flags.toNat
  | 0x09 => some (fel0Word c.fel)
  | 0x0A => some (fel1Word c.fel)
  | 0x0B => w (b2n c.tagV * 256 + c.tag.toNat)
  | 0x0C => w c.child.toNat
  | 0x0D => w (c.prio.toNat * 4 + c.stream.toNat)
  | 0x0E => w c.disc.toNat
  | 0x0F => w flagBase
  | 0x10 => w (s.clu (cluOf x)).wcbwait.toNat
  | 0x11 => w (s.core (coreOf x)).ibank
  | 0x12 => w c.loops.length
  | 0x13 => w 0
  | _ => none

/-- `mts START` (R114): it never waits; CONTEXT_EXHAUSTED is judged before KERNEL_ENTRY. -/
def State.mtsStart (s : State) (v : Word) : Res :=
  let c := coreOf s.x
  let entry := wfld v 0 16
  if !(s.core c).starts.isEmpty then .trap cContextExhausted 0
  else match s.dormantOf c with
    | none => .trap cContextExhausted 0
    | some i =>
      if 0x11FF < entry then .trap cKernelEntry 0
      else .ok (s.start (4 * c + i)
        { entry := entry
          regs := [(1, BitVec.ofNat 64 (wfld v 32 32)), (2, BitVec.ofNat 64 (s.x % 4))]
          stream := s.me.stream
          prio := s.me.prio
          origin := .start })

/-- The tag is allocated to core `c` (R209). -/
def State.tagLive (s : State) (c t : Nat) : Bool := (spGet {} (s.core c).tags t).live

/-- `v` written into special register `n` of the issuing context, field by field, when the bundle has issued (R121, R141).
The model's choice (log 34): an `mts` of CSTAG beside an `xcfm` or `xsq` that frees its tag is checked before the tag is
freed, and lands after it, so CSTAG then names a FREE tag. -/
def State.mtsTo (s : State) (n : Nat) (v : Word) : Res :=
  match n with
  | 0x0B =>
    if v.getLsbD 8 && !s.tagLive (coreOf s.x) (wfld v 0 8) then .trap cSpecTagState 0
    else .ok (s.later 0 1 (.sreg n v))
  | 0x13 => s.mtsStart v
  | _ => if n < 0x14 then .ok (s.later 0 1 (.sreg n v)) else .trap cReservedField 0

/-! ## Instructions -/

/-- MFS (R141): Reads a special register into s[d]. -/
def execMfs (d : BitVec 5) (i : BitVec 16) (s : State) : Host.Outcome State Fault Refusal :=
  slotOp 0 (.mfs d i) s fun s => match s.special s.x i.toNat with
    | some v => .ok (s.later 0 1 (.s d.toNat v))
    | none => .trap cReservedField 0

/-- MTS (R141): Writes s[a] into a special register, including START and FEL0. -/
def execMts (a : BitVec 5) (i : BitVec 16) (s : State) : Host.Outcome State Fault Refusal :=
  slotOp 0 (.mts a i) s fun s => s.mtsTo i.toNat (s.sr a)

end Sys2Proof.Machine
end

