-- ==== Sys2Proof/Machine/Fabric.lean ====
section
/-! DEFINITION. Packets, and the numbering of requests at their source (R354 to R362). -/

namespace Sys2Proof.Machine

/-! ## Packets (R354 to R357) -/

/-- The virtual-channel pair of a packet (R354, R357): 0 requests, 1 replies, 2 queue entries, 3 collectives. -/
def PktBody.pair : PktBody → Nat
  | .req _ => 0
  | .mgmt _ => 0
  | .notice => 0
  | .data _ => 1
  | .old _ => 1
  | .ack => 1
  | .greet => 1
  | .nak _ _ => 1
  | .nakLost _ => 1
  | .collNak .. => 1
  | .boardReply .. => 1
  | .half .. => 2
  | .chunk _ => 3
  | .token .. => 3
  | .selfd .. => 3
  | .credit .. => 3

/-- A packet sent from the router of die `here`. -/
def State.send (s : State) (p : Pkt) : State :=
  { s with nextPkt := s.nextPkt + 1, pkts := s.pkts ++ [{ p with num := s.nextPkt }] }

/-- The packet numbered `n` that die `d` holds. -/
def State.pktAt (s : State) (d n : Nat) : Option Pkt := s.pkts.find? fun p => p.num == n && p.here == d

/-- The packet leaves the network. -/
def State.dropPkt (s : State) (n : Nat) : State := { s with pkts := s.pkts.filter fun p => p.num != n }

/-- The reply to a request packet, sent from die `d`, in the name of the request's target. -/
def State.reply (s : State) (d : Nat) (p : Pkt) (b : PktBody) : State :=
  s.send { num := 0, src := p.old.getD p.dst, dst := p.src, here := d, seq := p.seq, cls := p.cls, secure := p.secure, body := b }

/-! ## Flag operations at their port (R280) -/

/-- A flag operation that reaches the flag port: each input delivers one operation a cycle, so behind others of its input it
arrives in the cycle after the last of them. -/
def Core.flagArrives (k : Core) (a : FlagArr) : Core :=
  { k with fport := k.fport ++ [{ a with cycle := ((k.fport.filter (·.input == a.input)).map (·.cycle + 1)).foldl max a.cycle }] }

/-! ## Requests at their source (R359, R360, R362) -/

/-- The packet of a request. -/
def Req.pkt (r : Req) (d : Nat) (rty : Bool) : Pkt :=
  { num := 0, src := d, dst := r.dst, here := d, seq := r.seq, rty := rty, cls := r.cls, secure := r.secure,
    priv := r.priv, scope := r.scope, rec_ := r.rec_, body := .req r.body }

/-- The reset notice to `t` has been acknowledged. -/
def Die.greeted (e : Die) (t : Nat) : Bool := (spGet {} e.notices t).acked

/-- A reset notice sent to target `t`. -/
def State.sendNotice (s : State) (d t : Nat) : State :=
  (s.modDie d fun e => { e with notices := spMod {} t (fun n =>
    { n with sends := n.sends + 1, sentAt := s.now }) e.notices }).send
    { num := 0, src := d, dst := t, here := d, body := .notice }

/-- The first send of a request that waits at die `d`, where nothing holds it (R359, R362). -/
def State.trySend (s : State) (d : Nat) (r : Req) : State :=
  let e := s.die d
  if !e.greeted r.dst then
    if (spGet {} e.notices r.dst).sends = 0 then s.sendNotice d r.dst else s
  else if 256 ≤ (e.reqs.filter fun q => q.dst == r.dst && q.sends != 0).length then s
  else
    let q := { r with seq := spGet 0 e.seqTo r.dst, sends := 1, sentAt := s.now }
    let s := s.modDie d fun e => { e with
      seqTo := spPut r.dst ((q.seq + 1) % 2 ^ 16) e.seqTo
      reqs := e.reqs.map fun o => if o.num == r.num then q else o }
    s.send (q.pkt d false)

/-- Every request that waits at die `d` for target `t` is sent as far as it may be, in order. -/
def State.pumpReqs (s : State) (d t : Nat) : State :=
  ((s.die d).reqs.filter fun r => r.dst == t && r.sends == 0).foldl (fun s r => s.trySend d r) s

/-- A new request of die `d`. -/
def State.request (s : State) (d : Nat) (r : Req) : State :=
  let r := { r with num := s.nextPkt }
  let s := { s with nextPkt := s.nextPkt + 1 }.modDie d fun e => { e with reqs := e.reqs ++ [r] }
  s.pumpReqs d r.dst

/-- The request of die `d` that a reply answers. -/
def State.reqOf (s : State) (d : Nat) (p : Pkt) : Option Req :=
  (s.die d).reqs.find? fun r => r.dst == p.src && r.seq == p.seq && r.sends != 0

/-- A request ends at its source, and the next may go (R359). -/
def State.endReq (s : State) (d : Nat) (r : Req) : State :=
  (s.modDie d fun e => { e with reqs := e.reqs.filter fun q => q.num != r.num }).pumpReqs d r.dst

/-- The packet carries a route list: R353 does not place it. -/
def PktBody.routed : PktBody → Bool
  | .selfd _ (_ :: _) (_ :: _) => true
  | _ => false

/-- An older packet of the same source, destination and channel pair is still at this router (R353). -/
def State.overtakes (s : State) (p : Pkt) : Bool :=
  s.pkts.any fun q => decide (q.num < p.num) && q.here == p.here && q.src == p.src && q.dst == p.dst &&
    q.body.pair == p.body.pair && !q.body.routed

end Sys2Proof.Machine
end

