-- ==== Sys2Proof/Machine/Sync.lean ====
section
/-! DEFINITION. Flag words and their ports, completion actions, and notice boards (R280 to R290). -/

namespace Sys2Proof.Machine

/-! ## Flag and board operations on their way (R281, R286, R359) -/

/-- Two operations of one context address a flag word or a board in common. -/
def OutOp.sameTarget : OutOp → OutOp → Bool
  | .flag c n _, .flag d m _ => n == m && c.any d.contains
  | .board d n _ _ _, .board e m _ _ _ => d == e && n == m
  | _, _ => false

/-- The condition of an operation's release holds, and no earlier one of its context to the same place waits (R280,
R281). -/
def State.mayLeave (s : State) (earlier : List OutRec) (o : OutRec) : Bool :=
  o.waits.all (fun i => !s.pend.contains i) && earlier.all fun p => !(p.x == o.x && p.op.sameTarget o.op)

/-- A flag operation on its way to one target core. -/
def State.flagOut (s : State) (u : Nat) (o : OutRec) (n : Nat) (op : FlagOp) (tc : Nat) : State :=
  if tc / 64 = u / 8 then
    let a : FlagArr := { input := if tc / 8 = u then coreOf o.x % 8 else 8, cycle := s.now, n := n, op := op, id := o.id,
                         x := o.x, scope := o.scope, covered := o.covered }
    s.modCore tc (·.flagArrives a)
  else
    s.request (u / 8) { num := 0, dst := tc / 64, body := .flag tc n op o.id o.x o.scope o.covered,
                        issuer := .out o.id o.x, secure := o.secure, scope := o.scope }

/-- An operation leaves its cluster. -/
def State.leaveClu (s : State) (u : Nat) (o : OutRec) : State :=
  match o.op with
  | .flag cores n op => cores.foldl (fun s tc => s.flagOut u o n op tc) s
  | .board d n slot op long =>
    if d = u / 8 then
      let a : BoardArr := { input := u % 8, cycle := s.now, b := n, slot := slot, op := op, id := o.id, x := o.x,
                            long := long, scope := o.scope, secure := o.secure }
      s.modDie d fun e => { e with bport := e.bport ++ [a] }
    else
      s.request (u / 8) { num := 0, dst := d, body := .board n slot op o.id o.x long o.scope, issuer := .out o.id o.x,
                          secure := o.secure, scope := o.scope }

/-- The operations `l` of cluster `u` that may leave do so, after the `stay` that may not. -/
def State.pumpList (s : State) (u : Nat) (stay : List OutRec) : List OutRec → State
  | [] => s.modClu u fun c => { c with outs := stay }
  | o :: t => if s.mayLeave stay o then (s.leaveClu u o).pumpList u stay t else s.pumpList u (stay ++ [o]) t

/-- Every operation that may leave its cluster does so. -/
def State.pumpOuts (s : State) : State :=
  (s.clus.map (·.1)).foldl (fun (s : State) u => if (s.clu u).outs.isEmpty then s else s.pumpList u [] (s.clu u).outs) s

/-- An access has performed everywhere, and what waited for it may leave. -/
def State.settle (s : State) (id : Nat) : State := (s.performed id).pumpOuts

/-- One application of a flag operation is done: after the last, the operation has performed and its context no longer
waits for a refusal. -/
def State.applied (s : State) (id x : Nat) : State :=
  let n := spGet 1 s.left id
  if 1 < n then { s with left := spPut id (n - 1) s.left }
  else
    let f := fun (c : Ctx) => { c with longs := c.longs.filter fun o => !(o.num == id && o.kind == LongKind.flag) }
    let s := { s with left := spDel id s.left }.modCtx x f
    let s := (List.range 4).foldl (fun (s : State) k =>
      if spHas x (s.strm (dieOf x / 64) k).vctx then
        s.modStrm (dieOf x / 64) k fun t => { t with vctx := spMod {} x f t.vctx }
      else s) s
    s.settle id

/-! ## Issue of flag operations (R281, R282) -/

/-- An interlocked operation of the issuing context that writes nothing until its reply. -/
def State.opRec (s : State) (id off : Nat) (k : LongKind) (d : LongDest) : LongOp :=
  { id := s.me.nextLong, issued := s.me.count, slot := 3, baddr := s.me.pc, bank := s.bankNow,
    kind := k, dest := d, off := off, num := id, secure := s.me.world }

/-- A flag update of the issuing context sent to flag `n` of `cores`, a release of scope `sc` (R281, R282). -/
def State.flagIssue (s : State) (cores : List Nat) (n : Nat) (op : FlagOp) (sc : Nat) (operand : Word) : State :=
  let x := s.x
  if cores.isEmpty then s
  else
    let waits := s.covers x sc
    let cov := s.observes x
    let (s, id) := s.newAccess x 16 true
    let l := s.opRec id operand.toNat .flag .none
    let s := s.modCtx x fun c => { c with longs := c.longs ++ [l], nextLong := c.nextLong + 1 }
    let s := { s with left := spPut id cores.length s.left }
    let s := (cores.filter fun tc => tc / 8 == cluOf x).foldl (fun (s : State) tc => s.release x sc (.flag tc n) cov) s
    let o : OutRec := { id := id, x := x, op := .flag cores n op, scope := sc, waits := waits, covered := cov,
                        secure := s.me.world }
    (s.modClu (cluOf x) fun c => { c with outs := c.outs ++ [o] }).pumpOuts

/-- The target of a `fladd` (R281): core and flag; none where it names no flag of the domain. -/
def State.flagTarget (s : State) (w : Word) : Option (Nat × Nat) :=
  if wfld w 23 41 = 0 && s.panelExists (dieOf s.x) (wfld w 18 5) then
    some (64 * (64 * wfld w 18 5 + wfld w 12 6) + wfld w 6 6, wfld w 0 6)
  else none

/-- `fladd` (R281). -/
def flagAdd (a : Word) (op : FlagOp) (sc : Nat) (s : State) : Res :=
  match s.flagTarget a with
  | some (c, n) => .ok (s.flagIssue [c] n op sc a)
  | none => .trap cFlagTarget a

/-- DPRES of a die (R307). -/
def State.dpres (s : State) (d : Nat) : Word := s.reg d 0x8

/-- The cores that a die mask and a core mask name, on the panel of die `d` (R282). -/
def multicast (d : Nat) (dies cores : Word) : List Nat :=
  ((List.range 64).filter fun i => dies.getLsbD i).flatMap fun i =>
    ((List.range 64).filter fun j => cores.getLsbD j).map fun j => 64 * (64 * (d / 64) + i) + j

/-- `flset` (R282). -/
def flagSet (cores dies v : Word) (n sc : Nat) (s : State) : Res :=
  if dies &&& ~~~(s.dpres (dieOf s.x)) != 0 then .trap cFlagTarget dies
  else .ok (s.flagIssue (multicast (dieOf s.x) dies cores) n (.set v) sc dies)

/-- `flwait` once its condition has been met (R283). -/
def flagWaited (d : Nat) (i : Instr) (a : Word) (sc : Nat) (s : State) : Res :=
  match s.watchOf s.x i with
  | none => .trap cFlagTarget a
  | some w =>
    let word := (s.watchHit s.x w).getD (s.flagWord (coreOf s.x) w.n)
    let s := s.modCtx s.x fun c => { c with watch := none }
    .ok ((s.acquire s.x sc (.flag (coreOf s.x) w.n)).later 3 1 (.s d word))

/-! ## The flag port (R280, R284) -/

/-- A flag word after an update (R280 to R282, R284). -/
def flUpdate (w : Word) : FlagOp → Word
  | .add v => BitVec.ofNat 64 (flExpected w * 2 ^ 32 + (flCount w + v) % 2 ^ 32)
  | .drop => BitVec.ofNat 64 ((flExpected w - 1) * 2 ^ 32 + flCount w)
  | .set v => v

/-- Register `j` of the completion action of flag `n` of core `c`: 0 CTL, 1 DMASK, 2 CMASK, 3 VAL (R284). -/
def State.action (s : State) (c n j : Nat) : Word := s.cluReg (c / 8) (0x41000 + 32 * (64 * (c % 8) + n) + 8 * j)

/-- The action of a flag is enabled (R284). -/
def actionOn (ctl : Word) : Bool := ctl.getLsbD 63 && wfld ctl 61 2 != 3 && decide (wfld ctl 58 3 < 6)

/-- The updates that a firing action sends (R284): target cores, flag and update. -/
def State.actionOut (s : State) (c n : Nat) : List Nat × Nat × FlagOp :=
  let ctl := s.action c n 0
  let t := wfld ctl 0 23
  let many := multicast (c / 64) (s.action c n 1 &&& s.dpres (c / 64)) (s.action c n 2)
  match wfld ctl 61 2 with
  | 0 =>
    let pan := t / 2 ^ 18
    (if s.panelExists (c / 64) pan then [64 * (64 * pan + nfld t 12 6) + nfld t 6 6] else [], t % 64, .add 1)
  | 1 => (many, t % 64, .set (s.action c n 3))
  | _ => (many, t % 64, .add (wfld (s.action c n 3) 0 32))

/-- A completion action fires from the flag's own core, as a release that covers what the updates covered (R284). -/
def State.fireAction (s : State) (c n : Nat) : State :=
  let sc := wfld (s.action c n 0) 58 3
  let (cores, m, op) := s.actionOut c n
  if cores.isEmpty then s
  else
    let cov := (spGet [] (s.core c).fcov n).filter s.pend.contains
    let id := s.nextId
    let s := { s with nextId := id + 1, pend := s.pend ++ [id], left := spPut id cores.length s.left }
    let s := (cores.filter fun tc => tc / 8 == c / 8).foldl (fun (s : State) tc => s.release (4 * c) sc (.flag tc m) cov) s
    let o : OutRec := { id := id, x := 4 * c, op := .flag cores m op, scope := sc,
                        waits := cov.filter (s.openNow (c / 8) sc), covered := cov, secure := (s.core c).world }
    (s.modClu (c / 8) fun k => { k with outs := k.outs ++ [o] }).pumpOuts

/-- Waits of the core's contexts that an application satisfies; a flag whose action resets it satisfies no wait for
completion (R283, R284). -/
def State.wakeWaits (s : State) (c n : Nat) (w : Word) : State :=
  let rst := actionOn (s.action c n 0) && (s.action c n 0).getLsbD 57
  (List.range 4).foldl (fun (s : State) i => s.modCtx (4 * c + i) fun x =>
    match x.watch with
    | some v => if v.n == n && v.hit.isNone && flCond v.cond w v.val && !(v.cond == 2 && rst)
        then { x with watch := some { v with hit := some w } } else x
    | none => x) s

/-- One update applied by the flag port of core `c` (R280, R284). -/
def State.applyFlag (s : State) (c : Nat) (a : FlagArr) : State :=
  let old := s.flagWord c a.n
  let new := flUpdate old a.op
  let set := fun (s : State) (w : Word) => s.writeBytes (flagPa c a.n) (leBytes 8 w.toNat)
  let s := set s new
  let s := s.modCore c fun k =>
    { k with fcov := spMod [] a.n (fun l => (l ++ a.covered).filter s.pend.contains) k.fcov }
  let s := s.wakeWaits c a.n new
  let ctl := s.action c a.n 0
  let s := if !flComplete old && flComplete new && actionOn ctl then
    let s := s.fireAction c a.n
    if ctl.getLsbD 57 then set s (BitVec.ofNat 64 (flExpected new * 2 ^ 32)) else s
    else s
  s.applied a.id a.x

/-- The operation that the flag port takes next: the earliest cycle of arrival, then the lowest input (R280). -/
def nextFlag : List FlagArr → Option FlagArr
  | [] => none
  | a :: t => match nextFlag t with
    | none => some a
    | some b => if b.cycle < a.cycle ∨ (b.cycle = a.cycle ∧ b.input < a.input) then some b else some a

/-- The list without its first entry equal to `a`. -/
def dropOnce {α : Type} [DecidableEq α] (a : α) : List α → List α
  | [] => []
  | b :: t => if b = a then t else b :: dropOnce a t

/-- A request of die `src` numbered `q` has executed at die `d` with a result: it is recorded, and answered (R359,
R360). -/
def State.answer (s : State) (d : Nat) (r : Option (Nat × Nat)) (v : Saved) (b : PktBody) : State :=
  match r with
  | none => s
  | some (src, q) =>
    let s := s.modDie d fun e => { e with filter := spMod [] src (fun l => ((q, v) :: l).take 256) e.filter }
    s.send { num := 0, src := d, dst := src, here := d, seq := q, body := b }

/-- FLAG_APPLY: an operation is applied once every one that arrives in its cycle is there (R280). -/
def State.flagPort (s : State) (c : Nat) : State :=
  match nextFlag (s.core c).fport with
  | none => s
  | some a =>
    if s.now ≤ a.cycle then s
    else ((s.modCore c fun k => { k with fport := dropOnce a k.fport }).applyFlag c a).answer (c / 64) a.remote .ack .ack

/-! ## Notice boards (R285 to R290) -/

/-- NBCFGn of die `d`. -/
def State.nbcfg (s : State) (d n : Nat) : Word := s.reg d (0x1000000 + 8 * n)

/-- Slots of a board; 0 for a disabled one (R285). -/
def boardSize (w : Word) : Nat :=
  let n := wfld w 0 9
  if w.getLsbD 63 && decide (n ≤ 256) then n else 0

/-- The refusal of a board operation at the home (R286). -/
def State.boardRefuse (s : State) (d : Nat) (a : BoardArr) : Option Nat :=
  let w := s.nbcfg d a.b
  if boardSize w = 0 then some cNbInvalid
  else if boardSize w ≤ a.slot && a.op != .clear then some cNbInvalid
  else if w.getLsbD 62 && !a.secure then some cWorldViolation
  else none

/-- The number of posted slots. -/
def Board.posted (b : Board) : Nat := popBelow b.mask.toNat 256

/-- A board after an operation, with what the reply shows (R287 to R289): the mask and the s[d] word. -/
def Board.apply (b : Board) (size slot : Nat) : BoardOp → Board × BitVec 256 × Word
  | .post v =>
    let first := !b.mask.getLsbD slot
    let g := spGet 0 b.gens slot
    let b' : Board :=
      { vals := spPut slot v b.vals
        gens := spPut slot (if first then 1 else if g = 0xFFFF then 1 else g + 1) b.gens
        mask := b.mask ||| BitVec.ofNat 256 (2 ^ slot)
        level := if first then (b.level + 1) % 2 ^ 32 else b.level }
    (b', b'.mask, BitVec.ofNat 64 (b2n (b'.posted == size) * 2 ^ 63 + b2n first * 2 ^ 62 + b'.posted * 2 ^ 32 + b'.level))
  | .rd => (b, b.mask, spGet 0 b.vals slot)
  | .st => (b, b.mask, BitVec.ofNat 64 (b2n (b.mask.getLsbD slot) * 2 ^ 63 + b.posted * 2 ^ 48 +
      spGet 0 b.gens slot * 2 ^ 32 + b.level))
  | .mask => (b, b.mask, 0)
  | .clear => ({ level := b.level }, 0, 0)

/-- The operation that the home takes next (R290): the earliest cycle, then round-robin from the input after `last`. -/
def nextBoard (last : Nat) : List BoardArr → Option BoardArr
  | [] => none
  | a :: t => match nextBoard last t with
    | none => some a
    | some b =>
      let r := fun (i : Nat) => (i + 8 - last) % 9
      if b.cycle < a.cycle ∨ (b.cycle = a.cycle ∧ r b.input < r a.input) then some b else some a

/-- The reply to a board operation, recorded for a request of another die, and sent to the issuing context's die. -/
def State.boardAnswer (s : State) (d : Nat) (a : BoardArr) (ref : Option Nat) (m : BitVec 256) (w : Word) : State :=
  let b : PktBody := .boardReply a.x a.long ref m w
  match a.remote with
  | some r => s.answer d (some r) (.board ref m w) b
  | none => s.send { num := 0, src := d, dst := d, here := d, body := b }

/-- BOARD_OP_APPLY: an operation is applied once every one that arrives in its cycle is there (R290). -/
def State.boardPort (s : State) (d : Nat) : State :=
  match nextBoard (s.die d).bLast (s.die d).bport with
  | none => s
  | some a =>
    if s.now ≤ a.cycle then s
    else
    let s := s.modDie d fun e => { e with bport := dropOnce a e.bport, bLast := a.input }
    match s.boardRefuse d a with
    | some c => (s.boardAnswer d a (some c) 0 0).settle a.id
    | none =>
      let (b, m, w) := (spGet {} (s.die d).boards a.b).apply (boardSize (s.nbcfg d a.b)) a.slot a.op
      ((s.modDie d fun e => { e with boards := spPut a.b b e.boards }).boardAnswer d a none m w).settle a.id

/-- The fields of a board operand (R286): home die, board and slot; none where a reserved bit is set or the panel is not
in the domain. -/
def State.boardTarget (s : State) (w : Word) : Option (Nat × Nat × Nat) :=
  if wfld w 37 27 = 0 && wfld w 28 4 = 0 && wfld w 8 8 = 0 && s.panelExists (dieOf s.x) (wfld w 32 5) then
    some (64 * wfld w 32 5 + wfld w 22 6, wfld w 16 6, wfld w 0 8)
  else none

/-- A board operation issued (R286 to R289); `sc` is the scope of its acquire, and a post releases at it too. -/
def boardIssue (a : Word) (op : BoardOp) (sc : Option Nat) (dest : LongDest) (s : State) : Res :=
  match s.boardTarget a with
  | none => .trap cNbInvalid a
  | some (d, n, slot) =>
    let x := s.x
    let post := match op with
      | .post _ => true
      | _ => false
    let scope := sc.getD 0
    let waits := if post then s.covers x scope else []
    let cov := if post then s.observes x else []
    let (s, id) := s.newAccess x 16 (post || op == .clear)
    let l := s.opRec id a.toNat (.board d n sc) dest
    let s := s.modCtx x fun c => { c with longs := c.longs ++ [l], nextLong := c.nextLong + 1 }
    let s := if post then s.release x scope (.board d n) cov else s
    let o : OutRec := { id := id, x := x, op := .board d n slot op l.id, scope := scope, waits := waits, covered := cov,
                        secure := s.me.world }
    .ok (s.modClu (cluOf x) fun c => { c with outs := c.outs ++ [o] }).pumpOuts

/-- A refused flag or board operation reaches its context: a trap taken after issue that arrived with a reply (R286). -/
def State.refusal (s : State) (x : Nat) (l : LongOp) (cause : Nat) (faddr : Word) : State :=
  (s.modCtx x fun c => { c with longs := c.longs.filter (·.id != l.id) }).takeTrap x cause faddr
    { slot := l.slot, after := true, reply := true, baddr := l.baddr, bank := l.bank }

/-- What a board reply writes (R287, R288). -/
def LongDest.boardPut (c : Ctx) (m : BitVec 256) (w : Word) : LongDest → Ctx
  | .sw n => c.put (.s n w)
  | .vms k n => (c.put (.vm k m)).put (.s n w)
  | .vm k => c.put (.vm k m)
  | _ => c

/-- A board reply lands in its context, which acquires at the operation's scope (R276, R287). -/
def State.boardLand (s : State) (x long : Nat) (ref : Option Nat) (m : BitVec 256) (w : Word) : State :=
  match (s.ctx x).longs.find? (·.id == long) with
  | none =>
    match s.vaulted x long with
    | none => s
    | some (k, l) =>
      let (r, v) := l.dest.logRegs
      s.vaultLog k x long
        (match ref with
        | some c => { kind := 4, cause := c, cid := cidOf (coreOf x), ctx := x % 4, word := BitVec.ofNat 64 l.off }
        | none => { kind := 1, cid := cidOf (coreOf x), ctx := x % 4, reg := r, regv := v, word := w, vm := m })
  | some l =>
    match ref with
    | some c => s.refusal x l c (BitVec.ofNat 64 l.off)
    | none =>
      let s := s.modCtx x fun c => l.dest.boardPut { c with longs := c.longs.filter (·.id != l.id) } m w
      match l.kind with
      | .board d b (some sc) => s.acquire x sc (.board d b)
      | _ => s

/-- BOARD_REPLY: the reply packet `n` at die `d`. -/
def State.boardReplyAt (s : State) (d n : Nat) : State :=
  match s.pktAt d n with
  | some p =>
    match p.body with
    | .boardReply x long ref m w =>
      if p.dst = d ∧ !s.overtakes p then
        let s := s.dropPkt n
        let s := match s.reqOf d p with
          | some r => if p.src = d then s else s.endReq d r
          | none => s
        s.boardLand x long ref m w
      else s
    | _ => s
  | none => s

/-! ## Instructions and events -/

/-- FLADD_ARR (R281): Arrives at a flag word: COUNT plus 1, as a release. -/
def execFladdArr (a : BitVec 5) (sf : BitVec 3) (s : State) : Host.Outcome State Fault Refusal :=
  slotOp 3 (.fladdArr a sf) s fun s => flagAdd (s.sr a) (.add 1) sf.toNat s

/-- FLADD_DROP (R281): Arrive-and-drop: EXPECTED minus 1. -/
def execFladdDrop (a : BitVec 5) (sf : BitVec 3) (s : State) : Host.Outcome State Fault Refusal :=
  slotOp 3 (.fladdDrop a sf) s fun s => flagAdd (s.sr a) .drop sf.toNat s

/-- FLADD_ADD (R281): Adds an operand to a flag's COUNT. -/
def execFladdAdd (a : BitVec 5) (b : BitVec 5) (sf : BitVec 3) (s : State) : Host.Outcome State Fault Refusal :=
  slotOp 3 (.fladdAdd a b sf) s fun s => flagAdd (s.sr a) (.add (wfld (s.sr b) 0 32)) sf.toNat s

/-- FLSET (R282): Multicast-writes a value into a flag of masked cores and dies. -/
def execFlset (d : BitVec 5) (a : BitVec 5) (b : BitVec 5) (sf : BitVec 3) (n : BitVec 6) (s : State) : Host.Outcome State Fault Refusal :=
  slotOp 3 (.flset d a b sf n) s fun s => flagSet (s.sr d) (s.sr a) (s.sr b) n.toNat sf.toNat s

/-- FLWAIT_EQ (R283): Waits until a flag word equals a value. -/
def execFlwaitEq (d : BitVec 5) (a : BitVec 5) (b : BitVec 5) (sf : BitVec 3) (s : State) : Host.Outcome State Fault Refusal :=
  slotOp 3 (.flwaitEq d a b sf) s fun s => flagWaited d.toNat (.flwaitEq d a b sf) (s.sr a) sf.toNat s

/-- FLWAIT_GE (R283): Waits until a flag's COUNT reaches a value. -/
def execFlwaitGe (d : BitVec 5) (a : BitVec 5) (b : BitVec 5) (sf : BitVec 3) (s : State) : Host.Outcome State Fault Refusal :=
  slotOp 3 (.flwaitGe d a b sf) s fun s => flagWaited d.toNat (.flwaitGe d a b sf) (s.sr a) sf.toNat s

/-- FLWAIT_BAR (R283): Waits until a flag word is complete. -/
def execFlwaitBar (d : BitVec 5) (a : BitVec 5) (sf : BitVec 3) (s : State) : Host.Outcome State Fault Refusal :=
  slotOp 3 (.flwaitBar d a sf) s fun s => flagWaited d.toNat (.flwaitBar d a sf) (s.sr a) sf.toNat s

/-- NBPV (R287): Posts a value to a notice-board slot and returns the view. -/
def execNbpv (d : BitVec 5) (a : BitVec 5) (b : BitVec 5) (sf : BitVec 3) (k : BitVec 3) (s : State) : Host.Outcome State Fault Refusal :=
  slotOp 3 (.nbpv d a b sf k) s fun s => boardIssue (s.sr a) (.post (s.sr b)) (some sf.toNat) (.vms k.toNat d.toNat) s

/-- NBRD (R288): Reads a board slot's value. -/
def execNbrd (d : BitVec 5) (a : BitVec 5) (sf : BitVec 3) (s : State) : Host.Outcome State Fault Refusal :=
  slotOp 3 (.nbrd d a sf) s fun s => boardIssue (s.sr a) .rd (some sf.toNat) (.sw d.toNat) s

/-- NBRD_ST (R288): Reads a board slot's status word. -/
def execNbrdSt (d : BitVec 5) (a : BitVec 5) (sf : BitVec 3) (s : State) : Host.Outcome State Fault Refusal :=
  slotOp 3 (.nbrdSt d a sf) s fun s => boardIssue (s.sr a) .st (some sf.toNat) (.sw d.toNat) s

/-- NBRD_MASK (R288): Reads a board's posted mask into a vm register. -/
def execNbrdMask (k : BitVec 5) (a : BitVec 5) (sf : BitVec 3) (s : State) : Host.Outcome State Fault Refusal :=
  slotOp 3 (.nbrdMask k a sf) s fun s => boardIssue (s.sr a) .mask (some sf.toNat) (.vm k.toNat) s

/-- NBRD_VM (R288): Reads 64 bits of a vm register into a scalar. -/
def execNbrdVm (d : BitVec 5) (k : BitVec 5) (q : BitVec 2) (s : State) : Host.Outcome State Fault Refusal :=
  slotOp 3 (.nbrdVm d k q) s fun s => .ok (s.later 3 1 (.s d.toNat (BitVec.ofNat 64 (nfld (s.me.vmreg k.toNat).toNat (64 * q.toNat) 64))))

/-- NBCLR (R289): Empties a notice board, keeping its level. -/
def execNbclr (a : BitVec 5) (s : State) : Host.Outcome State Fault Refusal :=
  slotOp 3 (.nbclr a) s fun s => boardIssue (s.sr a) .clear none .none s

/-- FLAG_APPLY (R280): The flag port applies one update to a flag word. -/
def execFlagApply (core : Nat) (s : State) : Host.Outcome State Fault Refusal :=
  .next (s.flagPort core)

/-- BOARD_OP_APPLY (R290): A board's home applies one post, read or clear in its order. -/
def execBoardOpApply (die : Nat) (s : State) : Host.Outcome State Fault Refusal :=
  .next (s.boardPort die)

/-- BOARD_REPLY (R287): A board reply arrives and writes vm and s[d], or is refused. -/
def execBoardReply (die : Nat) (n : Nat) (s : State) : Host.Outcome State Fault Refusal :=
  .next (s.boardReplyAt die n)

end Sys2Proof.Machine
end

