-- ==== Sys2Proof/Machine/Queues.lean ====
section
/-! DEFINITION. Channel queues, result queues into memory and onto links, scratchpad writes, and event counters (R157 to
R161, R172, R174, R326, R343, R358). -/

namespace Sys2Proof.Machine

/-! ## Movement of queue entries (R157 to R159, R326, R358) -/

/-- Receive FIFO `q` of core `c` can take an entry; a saved core's count as full (R326). -/
def State.canTake (s : State) (c q : Nat) : Bool :=
  (s.core c).saved.isEmpty && decide ((spGet [] (s.core c).recvQ q).length < 8)

/-- An entry appended to a receive FIFO. -/
def State.giveEntry (s : State) (c q : Nat) (e : VEntry) : State :=
  s.modCore c fun k => { k with recvQ := spMod [] q (· ++ [e]) k.recvQ }

/-- The oldest entry of a send FIFO of q6 or q7 moves to its bound receive FIFO, where there is room (R159). -/
def State.moveBound (s : State) (c q : Nat) : State :=
  match (s.core c).bind.find? (·.1 == q), spGet [] (s.core c).sendQ q with
  | some (_, b), e :: t =>
    let tc := c / 64 * 64 + b.tcid
    if s.canTake tc b.tq then (s.modCore c fun k => { k with sendQ := spPut q t k.sendQ }).giveEntry tc b.tq e else s
  | _, _ => s

/-- The entries of a bound send FIFO move as far as they can. -/
def State.pumpBound (s : State) (c q : Nat) : State := (List.range 8).foldl (fun s _ => s.moveBound c q) s

/-- Entries of the receive store of a port, and those on their way to it (R358). -/
def State.storeLoad (s : State) (d port : Nat) : Nat :=
  (spGet [] (s.die d).rstore port).length +
    (s.pkts.filter fun p => p.dst == d && match p.body with
      | .half _ q 1 _ _ => q == port
      | _ => false).length

/-- The two packets of an entry (R358). -/
def State.sendHalves (s : State) (d e cid r : Nat) (v : VEntry) : State :=
  (List.range 2).foldl (fun (s : State) h => s.send
    { num := 0, src := d, dst := e, here := d,
      body := .half cid r h (tab 64 fun l => v.data.getD (64 * h + l) 0) (BitVec.ofNat 64 (v.valid.toNat / 2 ^ (64 * h))) }) s

/-- The oldest entry of a link send FIFO passes to the router when the neighbour's store has room (R358). -/
def State.moveLink (s : State) (c q : Nat) : State :=
  let d := c / 64
  let e := s.neighbour d q
  match spGet [] (s.core c).sendQ q with
  | v :: t =>
    if s.linkUp d q && decide (s.storeLoad e (facing q) < 8) then
      (s.modCore c fun k => { k with sendQ := spPut q t k.sendQ }).sendHalves d e (c % 64) (facing q) v
    else s
  | [] => s

/-- The entries of a send FIFO move as far as they can. -/
def State.pumpSend (s : State) (c q : Nat) : State :=
  if q < 6 then (List.range 8).foldl (fun s _ => s.moveLink c q) s else s.pumpBound c q

/-- Every send FIFO of die `d` onto a port moves, in ascending core. -/
def State.pumpPort (s : State) (d port : Nat) : State :=
  ((s.cores.filter fun k => k.1 / 64 == d && !(spGet [] k.2.sendQ port).isEmpty).map (·.1)).foldl
    (fun (s : State) c => s.pumpSend c port) s

/-- The oldest entry of a port's receive store moves into its core's FIFO where there is room; the next waits behind it
(R326). -/
def State.moveStore (s : State) (d port : Nat) : State :=
  match spGet [] (s.die d).rstore port with
  | (cid, q, v) :: t =>
    if s.canTake (64 * d + cid) q then
      ((s.modDie d fun e => { e with rstore := spPut port t e.rstore }).giveEntry (64 * d + cid) q v).pumpPort
        (s.neighbour d port) (facing port)
    else s
  | [] => s

/-- Whatever waits for room in receive FIFO `q` of core `c` moves. -/
def State.pumpRecv (s : State) (c q : Nat) : State :=
  if q < 6 then (List.range 8).foldl (fun s _ => s.moveStore (c / 64) q) s
  else
    ((s.cores.filter fun k => k.1 / 64 == c / 64 && k.2.bind.any fun b => b.2.tcid == c % 64 && b.2.tq == q).map
      (·.1)).foldl (fun (s : State) j => (s.pumpBound j 6).pumpBound j 7) s

/-- Whatever waits for a queue of core `c`, to come in or to go out, moves (R326, R380). -/
def State.pumpCore (s : State) (c : Nat) : State :=
  (List.range 8).foldl (fun (s : State) q => (s.pumpRecv c q).pumpSend c q) s

/-- QUEUE_ENTRY_HALF: the half numbered `n` arrives at the neighbour's receive store; a second half whose first was discarded
with its link is discarded too (R358), and so is any half at a die under reset (R361). -/
def State.halfArrives (s : State) (d n : Nat) : State :=
  match s.pktAt d n with
  | some p =>
    match p.body with
    | .half cid q h l v =>
      if p.dst = d ∧ !s.overtakes p then
        let s := s.dropPkt n
        let key := (q * 64 + cid) * 8
        if (s.die d).inReset || (h != 0 && !spHas key (s.die d).rhalf) then s.pumpPort (s.neighbour d q) (facing q)
        else if h = 0 then s.modDie d fun e => { e with rhalf := spPut key (l, v) e.rhalf }
        else
          let (l0, v0) := spGet ([], 0) (s.die d).rhalf key
          let e : VEntry := { data := l0 ++ l, valid := BitVec.ofNat 128 (v0.toNat + v.toNat * 2 ^ 64) }
          let s := s.modDie d fun k => { k with rhalf := spDel key k.rhalf }
          (s.modDie d fun k => { k with rstore := spMod [] q (· ++ [(cid, q, e)]) k.rstore }).moveStore d q
      else s
    | _ => s
  | none => s

/-! ## Queue instructions (R157 to R161) -/

/-- The trap of a push onto queue `q` (R159, R358). -/
def State.pushFail (s : State) (q : Nat) : Option (Nat × Word) :=
  let k := s.core (coreOf s.x)
  if !k.canSend q then some (cQueueUnbound, 0)
  else if q < 6 && !s.linkUp (dieOf s.x) q then some (cLinkDown, 0)
  else none

/-- An entry pushed onto send FIFO `q` of the issuing core. -/
def State.pushEntry (s : State) (q : Nat) (e : VEntry) : State :=
  (s.modCore (coreOf s.x) fun k => { k with sendQ := spMod [] q (· ++ [e]) k.sendQ }).pumpSend (coreOf s.x) q

/-- A push of one entry. -/
def pushQ (q : Nat) (e : VEntry) (s : State) : Res := failOn (s.pushFail q) (.ok (s.pushEntry q e))

/-- A pop of the oldest receive entry of queue `q`, with `k` for the entry; an empty FIFO has blocked. -/
def popQ (q : Nat) (k : VEntry → State → State) (s : State) : Res :=
  let c := coreOf s.x
  match spGet [] (s.core c).recvQ q with
  | e :: t => .ok (k e ((s.modCore c fun k => { k with recvQ := spPut q t k.recvQ }).pumpRecv c q))
  | [] => .ok s

/-- The word of `qstat` (R158). -/
def State.qstatWord (s : State) (q : Nat) : Word :=
  let k := s.core (coreOf s.x)
  BitVec.ofNat 64 (b2n (q < 6 && s.linkUp (dieOf s.x) q) * 2 ^ 17 + b2n (k.canSend q) * 2 ^ 16 +
    (spGet [] k.recvQ q).length * 2 ^ 8 + (spGet [] k.sendQ q).length)

/-- `qcfg` (R159): its send FIFO is empty. -/
def bindQ (q : Nat) (w : Word) (s : State) : Res :=
  if q < 6 then .trap cReservedField 0
  else
    let b : Binding := { tq := 6 + wfld w 6 1, tcid := wfld w 0 6 }
    .ok (s.modCore (coreOf s.x) fun k => { k with bind := if w.getLsbD 63 then spPut q b k.bind else spDel q k.bind })

/-- The oldest entry of result queue `n` taken, with `k` for it (R112). -/
def popRq (n : Nat) (k : VEntry → State → Res) (s : State) : Res :=
  match spGet [] (s.core (coreOf s.x)).rq n with
  | [] => .trap cRqUnderflow 0
  | e :: t => k e (s.modCore (coreOf s.x) fun c => { c with rq := spPut n t c.rq })

/-- `strq` (R160): the store is one access, aligned to its bytes per lane. That `strq.d` through a control-space handle is one
access of 1,024 bytes too, and so traps ALIGNMENT (R382), is the model's choice (log 88). -/
def storeQueue (i : Instr) (n h : Nat) (off : Word) (valid : Bool) (z : Nat) (s : State) : Res :=
  let w := if z = 0 then 8 else if z = 1 then 4 else 2
  match spGet [] (s.core (coreOf s.x)).rq n with
  | [] => .trap cRqUnderflow 0
  | e :: t =>
    let p : Piece := { off := off.toNat, len := 128 * w }
    failOn (s.accessCheck s.x (s.me.hreg h) [p] w true) <|
    let s := s.doStore i h (fun l => e.data.getD l 0) none fun l => !valid || e.valid.getLsbD l
    .ok (s.modCore (coreOf s.x) fun c => { c with rq := spPut n t c.rq })

/-! ## The instruction scratchpad (R172) -/

/-- `istore` (R172): the write goes to the bank that is idle now. -/
def storeBundle (a b : Word) (s : State) : Res :=
  let t := wfld a 0 16
  if t < 0x200 then .trap cIbankWrite (BitVec.ofNat 64 t)
  else if 0x11FF < t then .trap cIbankRange (BitVec.ofNat 64 t)
  else
    let r : IStoreRec :=
      { x := s.x, bank := 1 - s.bankNow, baddr := t, slot := wfld a 16 2, word := wfld b 0 32 }
    .ok (s.modCore (coreOf s.x) fun k => { k with istores := k.istores ++ [r] })

/-- ISTORE_LAND: the oldest `istore` in flight of core `c` reaches its bank. The bundle as it stood before writes that no
`ifence` has ordered is kept, until a fetch can see the new one (R124, R208). -/
def State.istoreArrives (s : State) (c : Nat) : State :=
  match (s.core c).istores with
  | [] => s
  | r :: t =>
    s.modCore c fun k =>
      let old := spGet 0 k.ipad r.key
      let k := { k with istores := t, ipad := spMod 0 r.key (fun b => putSlot b r.slot r.word) k.ipad }
      if r.bank = k.ibank ∧ !k.storing r.bank r.baddr then
        { k with olds := spDel r.key k.olds, landed := k.landed.filter fun q => q.key != r.key }
      else { k with olds := if spHas r.key k.olds then k.olds else spPut r.key old k.olds, landed := k.landed ++ [r] }

/-! ## Event counters (R174, R343) -/

/-- The tally that a counter's selection counts: of a die's block 0x06, or of a core. -/
def State.evTally (s : State) (core : Bool) (unit : Nat) (sel : Word) : Nat :=
  let src := wfld sel 0 8
  let arg := if src = 7 ∨ src = 14 ∨ src = 17 then wfld sel 8 8 else 0
  let d := if core then unit / 64 else unit
  let n := spGet 0 s.tally (tallyKey core unit src arg true) +
    (if sel.getLsbD 63 then 0 else spGet 0 s.tally (tallyKey core unit src arg false))
  if src = 1 then s.clk d
  else if src = 4 then Config.bankStalls core unit s.now (sel.getLsbD 63)
  else if src = 19 then s.throttled d
  else if src = 5 ∨ src = 6 then n / 64
  else n

/-- The control address of a counter: of a die, or of core `unit`. -/
def evPa (core : Bool) (unit i : Nat) : Nat :=
  if core then cluCtlPa (unit / 8) (0x48108 + 64 * (unit % 8) + 16 * i) else ctlPa unit (0x6000008 + 16 * i)

/-- EVSEL of a counter. -/
def State.evSel (s : State) (core : Bool) (unit i : Nat) : Word := spGet 0 s.ctl (evPa core unit i - 8)

/-- The value of a counter to a reader of a world (R343). -/
def State.evCount (s : State) (core : Bool) (unit i : Nat) (secure : Bool) : Word :=
  let sel := s.evSel core unit i
  if sel.getLsbD 63 && !secure then 0
  else
    let (b, m) := spGet (0, 0) s.evBase (evPa core unit i)
    BitVec.ofNat 64 (if s.evNew.contains (core, unit, i) then b else b + s.evTally core unit sel - m)

/-- A counter set to `v`, counting on from now; used for a write and for a change of selection. -/
def State.evSet (s : State) (core : Bool) (unit i : Nat) (v : Nat) : State :=
  { s with evBase := spPut (evPa core unit i) (v, s.evTally core unit (s.evSel core unit i)) s.evBase }

/-- EVCNT written: the increments of the present cycle are lost, the later ones too (R343). -/
def State.evWrite (s : State) (core : Bool) (unit i : Nat) (v : Nat) : State :=
  { s.evSet core unit i v with evNew := if s.evNew.contains (core, unit, i) then s.evNew else s.evNew ++ [(core, unit, i)] }

/-- The clock goes on by `dt` cycles: a counter written in the cycle that ends counts from its end (R343). -/
def State.tick (s : State) (dt : Nat) : State :=
  if dt = 0 then s
  else { s with
    now := s.now + dt
    evNew := []
    evBase := s.evNew.foldl (fun m q =>
      spMod (0, 0) (evPa q.1 q.2.1 q.2.2) (fun e => (e.1, s.evTally q.1 q.2.1 (s.evSel q.1 q.2.1 q.2.2))) m) s.evBase }

/-- `evrd` (R174). -/
def readEvent (d : Nat) (w : Word) (s : State) : Res :=
  let i := w.toNat
  let v := if i < 16 then s.evCount false (dieOf s.x) i s.me.world
    else if i < 20 then s.evCount true (coreOf s.x) (i - 16) s.me.world
    else 0
  .ok (s.later 3 1 (.s d v))

/-! ## Instructions and events -/

/-- QPUSH (R157): Pushes a scalar as lane 0 of a channel-queue entry. -/
def execQpush (n : BitVec 5) (a : BitVec 5) (s : State) : Host.Outcome State Fault Refusal :=
  slotOp 3 (.qpush n a) s fun s => pushQ n.toNat { data := [s.sr a], valid := 1 } s

/-- QPOP (R157): Pops a channel-queue entry's lane 0 into a scalar. -/
def execQpop (d : BitVec 5) (n : BitVec 5) (s : State) : Host.Outcome State Fault Refusal :=
  slotOp 3 (.qpop d n) s fun s => popQ n.toNat (fun e s => s.later 3 2 (.s d.toNat (e.data.getD 0 0))) s

/-- VQPUSH (R157): Pushes a whole vector onto a channel queue. -/
def execVqpush (n : BitVec 5) (a : BitVec 5) (k : BitVec 5) (f : BitVec 1) (s : State) : Host.Outcome State Fault Refusal :=
  slotOp 3 (.vqpush n a k f) s fun s =>
    let m := if f = 1 then s.pr k.toNat else BitVec.allOnes 128
    pushQ n.toNat { data := tab 128 fun l => if m.getLsbD l then s.vr a l else 0, valid := m } s

/-- VQPOP (R157): Pops a whole channel-queue entry into a vector. -/
def execVqpop (d : BitVec 5) (n : BitVec 5) (k : BitVec 5) (f : BitVec 1) (s : State) : Host.Outcome State Fault Refusal :=
  slotOp 3 (.vqpop d n k f) s fun s => popQ n.toNat (fun e s =>
    let s := s.later 3 2 (.v d.toNat (tab 128 fun l => (BitVec.allOnes 64, e.data.getD l 0)))
    if f = 1 then s.later 3 2 (.p k.toNat e.valid) else s) s

/-- QSTAT (R158): Reads a channel queue's status word. -/
def execQstat (d : BitVec 5) (n : BitVec 5) (s : State) : Host.Outcome State Fault Refusal :=
  slotOp 3 (.qstat d n) s fun s => .ok (s.later 3 1 (.s d.toNat (s.qstatWord n.toNat)))

/-- QCFG (R159): Binds or unbinds q6 or q7 to a core of the die. -/
def execQcfg (n : BitVec 5) (a : BitVec 5) (s : State) : Host.Outcome State Fault Refusal :=
  slotOp 3 (.qcfg n a) s fun s => bindQ n.toNat (s.sr a) s

/-- STRQ (R160): Pops a result-queue entry and stores it to memory. -/
def execStrq (n : BitVec 5) (h : BitVec 5) (b : BitVec 5) (v : BitVec 1) (z : BitVec 2) (s : State) : Host.Outcome State Fault Refusal :=
  slotOp 3 (.strq n h b v z) s fun s => storeQueue (.strq n h b v z) n.toNat h.toNat (s.sr b) (v == 1) z.toNat s

/-- QRQ (R161): Moves a result-queue entry onto a channel send queue. -/
def execQrq (m : BitVec 5) (n : BitVec 5) (s : State) : Host.Outcome State Fault Refusal :=
  slotOp 3 (.qrq m n) s fun s => failOn (s.pushFail m.toNat) (popRq n.toNat (fun e s => .ok (s.pushEntry m.toNat e)) s)

/-- ISTORE (R172): Writes one slot word into the idle overlay bank. -/
def execIstore (a : BitVec 5) (b : BitVec 5) (s : State) : Host.Outcome State Fault Refusal :=
  slotOp 3 (.istore a b) s fun s => storeBundle (s.sr a) (s.sr b) s

/-- IFENCE (R172): Waits until the context's istore writes have landed. -/
def execIfence (s : State) : Host.Outcome State Fault Refusal :=
  slotOp 3 (.ifence) s fun s => .ok (s.modCore (coreOf s.x) fun k => k.fenced s.x)

/-- EVRD (R174): Reads an event counter. -/
def execEvrd (d : BitVec 5) (a : BitVec 5) (s : State) : Host.Outcome State Fault Refusal :=
  slotOp 3 (.evrd d a) s fun s => readEvent d.toNat (s.sr a) s

/-- ISTORE_LAND (R172): An istore write reaches the idle bank. -/
def execIstoreLand (core : Nat) (s : State) : Host.Outcome State Fault Refusal :=
  .next (s.istoreArrives core)

/-- QUEUE_ENTRY_HALF (R358): Half of a channel-queue entry arrives at the neighbour's receive store. -/
def execQueueEntryHalf (die : Nat) (n : Nat) (s : State) : Host.Outcome State Fault Refusal :=
  .next (s.halfArrives die n)

end Sys2Proof.Machine
end

