-- ==== Sys2Proof/Machine/Ctl.lean ====
section
/-! DEFINITION. Reading and writing control registers, with what a write does (R4, R285, R303, R304, R310, R313, R314,
R317, R335 to R346, R376, R377, R382). -/

namespace Sys2Proof.Machine

/-! ## Reads -/

/-- The word that a control register shows to a reader of a world; a WO field reads 0 (R4, R343). -/
def State.ctlRead (s : State) (d off : Nat) (secure : Bool) : Word :=
  let v := s.reg d off
  match creg d off with
  | .none => 0
  | .stream k o =>
    if d != s.conductor (d / 64) then 0
    else if o = 0x40 then BitVec.allOnes 64
    else if o = 0x88 then 0
    else if o = 0x18 then putFld v 0 3 (s.strState (d / 64) k)
    else v
  | .region o =>
    let h := regionHome (d / 64) (regionOf d)
    if o = 0x18 then s.prstat (d / 64) (regionOf d) else s.reg h (0x4000000 + o)
  | .mig 0 => BitVec.ofNat 64 (s.migState d)
  | .turetry => 0
  | .dpresset => 0
  | .msext _ => 0
  | .hpost => 0
  | .cxcmd _ => 0
  | .devkey i => wordOf (Config.deviceKey d) i
  | .devcert i => wordOf (Config.certificate d) i
  | .evcnt c u i => s.evCount c u i secure
  | .owner c => match (s.core c).owner with
    | some k => BitVec.ofNat 64 (4 + k.toNat)
    | Option.none => 0
  | _ => v

/-! ## Frames of die events (R310 to R312) -/

/-- A frame of a die event (SRC 5) for the ring of world `w` of die `d`. -/
def State.dieEvent (s : State) (d cause : Nat) (faddr : Word) (w : Bool) : State :=
  s.deliver d { cause := cause, src := 5, fl := 2 * b2n w, faddr := faddr, clk := s.clk d, world := w }

/-! ## Contexts that wait on the translation unit, and CXCMD (R313, R314, R316, R317) -/

/-- A frozen context becomes ready and presents its bundle again. -/
def State.thaw (s : State) (x : Nat) : State :=
  s.modCtx x fun c => if c.st = .frozen then { c with st := .ready, why := none } else c

/-- Contexts of die `d` that wait for a free entry try again (R316). -/
def State.wakeFull (s : State) (d : Nat) : State :=
  ((s.ctxs.filter fun p => dieOf p.1 == d && p.2.why == some .missWait).map (·.1)).foldl State.thaw s

/-- An entry of the translation unit frees (R316). -/
def State.freeTuEnt (s : State) (d n : Nat) : State := (s.modDie d fun e => { e with tu := spDel n e.tu }).wakeFull d

/-- Context `x` no longer waits on entry `n` of its die; the entry frees when no waiter is left (R317). -/
def State.leaveTu (s : State) (x n : Nat) : State :=
  let d := dieOf x
  let s := s.modDie d fun e => { e with tu := e.tu.map fun t =>
    if t.1 == n then (n, { t.2 with waiters := t.2.waiters.filter (· != .ctx x) }) else t }
  match (s.die d).tu.find? (·.1 == n) with
  | some t => if t.2.waiters.isEmpty then s.freeTuEnt d n else s
  | none => s

/-- TURETRY on entry `n`: every waiter of a fault entry presents its bundle again, and the entry frees (R317). -/
def State.tuRetry (s : State) (d n : Nat) (secure : Bool) : State :=
  match (s.die d).tu.find? (·.1 == n) with
  | some (_, t) =>
    if t.fault.isNone || (t.world && !secure) then s
    else
      let s := t.waiters.foldl (fun (s : State) q => match q with
        | .ctx x => s.thaw x
        | _ => s) s
      s.freeTuEnt d n
  | none => s

/-- The cause and FADDR of the frame of a frozen context. -/
def State.frozenBy (s : State) (x : Nat) : Nat × Word :=
  match (s.ctx x).why with
  | some (.trap c f) => (c, f)
  | some (.miss e va _ _) =>
    match (s.die (dieOf x)).tu.find? (·.1 == e) with
    | some (_, t) => (t.fault.getD 0, BitVec.ofNat 64 va)
    | none => (0, 0)
  | _ => (0, 0)

/-- A command of CXCMD that its register takes (R313, R314): a frozen context that is not saved; a privileged one only
from the host or the other world. -/
def State.cxAccepts (s : State) (x : Nat) (w : Access) : Bool :=
  let c := s.ctx x
  c.st == .frozen && !c.held && (!c.priv || w.who.isHost || w.secure != c.world)

/-- The context leaves the translation entry that it waits on. -/
def State.unwait (s : State) (x : Nat) : State :=
  match (s.ctx x).why with
  | some (.miss e _ _ _) => s.leaveTu x e
  | _ => s

/-- CXCMD action 0. -/
def State.cxResume (s : State) (x : Nat) : State := (s.unwait x).thaw x

/-- CXCMD action 1: the context becomes dormant; a `tcall` child ends with the frame's cause (R313). -/
def State.cxRetire (s : State) (x : Nat) : State :=
  let (c, f) := s.frozenBy x
  ((s.unwait x).thaw x).finish x c f

/-- CXCMD action 2: ready at `a`, the unissued bundle skipped. -/
def State.cxResumeAt (s : State) (x a : Nat) : State :=
  let s := ((s.unwait x).thaw x).modCtx x fun c => { c with pc := a }
  if 0x11FF < a then
    s.takeTrap x cIbankRange (BitVec.ofNat 64 a) { baddr := a, bank := (s.core (coreOf x)).ibank }
  else s

/-- A write of CXCMD of core `c` (R313). -/
def State.cxcmd (s : State) (c : Nat) (w : Access) : State :=
  let x := 4 * c + wfld w.data 0 2
  if !w.data.getLsbD 63 || !s.cxAccepts x w then s
  else match wfld w.data 4 2 with
    | 0 => s.cxResume x
    | 1 => s.cxRetire x
    | 2 => s.cxResumeAt x (wfld w.data 16 16)
    | _ => s

/-! ## Doorbells of streams (R304, R319, R320, R328, R329) -/

/-- STRSTAT.STATE set; entering TRAPPED, SAVED or FINISHED raises the stream's vector (R347). -/
def State.setStrState (s : State) (p k st : Nat) : State :=
  let s := s.setStr p k 0x18 (putFld (s.str p k 0x18) 0 3 st)
  if st = 4 ∨ st = 5 ∨ st = 6 then s.raise (64 * p) (4 + k) else s

/-- STRSTAT.CAUSE and ORIG set. -/
def State.setStrCause (s : State) (p k cause orig : Nat) : State :=
  s.setStr p k 0x18 (putFld (putFld (s.str p k 0x18) 56 8 cause) 48 8 orig)

/-- Contexts of panel `p` that run work of stream `k` (R318). -/
def State.strCtxs (s : State) (p k : Nat) : List Nat :=
  (s.ctxs.filter fun q => q.1 / (256 * 64) == p && q.2.stream.toNat == k && q.2.st != .dormant).map (·.1)

/-- A context of a stream that is being saved stops at its bundle boundary (R320). -/
def State.holdCtx (s : State) (x : Nat) : State :=
  let s := s.modCtx x fun c => { c with held := true, st := if c.st = .selected then .ready else c.st }
  if (s.core (coreOf x)).sel = some (x % 4) then s.leaveStage x false else s

/-- The stream becomes SAVING for a hard save (R320); one that begins again after a fault belongs to the graceful pre-emption
that the first was to end, which it escalates (R303, R319, R329). -/
def State.strHard (s : State) (p k : Nat) (esc : Bool) : State :=
  let back := if s.strState p k = 5 then 5 else 1
  let s := s.modStrm p k fun t => { t with
    savedAt := s.now
    hard := true
    esc := esc || (t.stuck && t.grace)
    grace := t.grace && (t.stuck || [2, 3].contains (s.strState p k))
    back := if esc || t.stuck then t.back else back
    fetched := none
    stuck := false }
  ((s.strCtxs p k).foldl State.holdCtx s).setStrState p k 3

/-- The header of die `d`'s block is one that this part wrote for the stream (R328); none where its read faults. -/
def State.headerOk (s : State) (p k d : Nat) : Option Bool :=
  (s.saveRead p k d 0 42).map fun l => (leVal (l.take 8) == 0x5A56534156450001 && l.getD 8 0 == 0x10 && l.getD 9 0 == 0xA1 &&
      (l.getD 10 0).toNat == k && (l.getD 11 0).getLsbD 2 == s.strWorld p k)

/-- The checks of a restore over every die: none where all pass, else the cause (R328, R329). -/
def State.restoreCheck (s : State) (p k : Nat) : Option Nat :=
  (s.panelDies p).findSome? fun d => match s.headerOk p k d with
    | some true => none
    | some false => some cRestoreMismatch
    | none => some cSaveAreaFault

/-- CMASK of the header of die `d`'s block (R322): the cores whose state it holds. -/
def State.savedCores (s : State) (p k d : Nat) : List Nat :=
  match s.saveNum p k d 32 8 with
  | some n => ((List.range 64).filter n.testBit).map (64 * d + ·)
  | none => []

/-- A restore begins: the cores of CMASK take no start until they are restored (R328, step 2). -/
def State.beginRestore (s : State) (p k : Nat) : State :=
  let l := (s.panelDies p).flatMap (s.savedCores p k)
  let s := s.modStrm p k fun t => { t with restoring := l }
  l.foldl (fun (s : State) c => s.modCore c fun e => { e with awaits := true }) s

/-- START: the loop counters are 0, and fetch starts at STRPC (R304). A stagger still pending is cleared, here and at an ABORT: R304
is silent, and the choice is the model's (R332, log 94). -/
def State.strStart (s : State) (p k : Nat) : State :=
  let s := (s.setStr p k 0x20 0).setStr p k 0x28 0
  (s.modStrm p k fun t => { t with fetched := none, ended := false, stagger := 0, lastDone := s.now }).setStrState p k 1

/-- GRACEFUL (R319). -/
def State.strGraceful (s : State) (p k : Nat) : State :=
  (s.modStrm p k fun t => { t with graceAt := s.now, hard := false, esc := false, grace := true, back := 1, fetched := none }).setStrState p k 2

/-- RESUME from SAVED or from TRAPPED (R304, R328, R329). An ABORT that still waits for dispatched words goes on waiting: R304 is
silent, and the choice is the model's, as for HARD (log 93). -/
def State.strResume (s : State) (p k : Nat) : State :=
  if s.strState p k = 5 then
    let s := (s.strCtxs p k).foldl (fun (s : State) x => s.modCtx x fun c => { c with held := false }) s
    (s.modStrm p k fun t => { t with fetched := none, lastDone := s.now, stuck := false }).setStrState p k 1
  else match s.restoreCheck p k with
    | some c => s.setStrCause p k c 0
    | none => (s.beginRestore p k).setStrState p k 7

/-- What a save of the stream holds is given up: saved cores, whose queues open again, contexts that wait on walks, and
words at the dies (R326). -/
def State.dropSave (s : State) (p k : Nat) : State :=
  let held := (s.cores.filter fun q => q.1 / 4096 == p && q.2.saved.contains k).map (·.1)
  let s := { s with
    cores := s.cores.map fun (q : Nat × Core) =>
      if q.1 / 4096 = p then (q.1, { q.2 with saved := q.2.saved.filter (· != k) }) else q
    dies := s.dies.map fun (q : Nat × Die) =>
      if q.1 / 64 = p then
        (q.1, { q.2 with tu := q.2.tu.map fun (t : Nat × TuEnt) => (t.1, { t.2 with waiters := t.2.waiters.filter fun w =>
                           match w with
                           | .saved j _ => j != k
                           | _ => true })
                         seq := q.2.seq.filter fun h => h.stream.toNat != k })
      else q }
  let s := held.foldl State.pumpCore s
  (s.strCtxs p k).foldl (fun (s : State) x => s.modCtx x fun c => { c with held := false }) s

/-- ABORT (R304): from TRAPPED it takes effect once every dispatched word has completed. -/
def State.strAbort (s : State) (p k : Nat) : State :=
  if s.strState p k = 5 && !(s.strm p k).flight.isEmpty then s.modStrm p k fun t => { t with aborting := true }
  else
    let s := if s.strState p k = 4 then s.dropSave p k else s
    (s.modStrm p k fun _ => {}).setStrState p k 0

/-- A doorbell command (R304). -/
def State.doorbell (s : State) (p k cmd : Nat) : State :=
  let st := s.strState p k
  let on := fun (l : List Nat) (t : State) =>
    if l.contains st then t else s.setStr p k 0x18 (putFld (s.str p k 0x18) 56 8 cDoorbellInvalid)
  match cmd with
  | 0 => s
  | 1 => on [0, 6] (s.strStart p k)
  | 2 => on [1] (s.strGraceful p k)
  | 3 => on [1, 2, 5] (s.strHard p k (st == 2))
  | 4 => on [4, 5] (s.strResume p k)
  | 5 => on [5, 4, 6] (s.strAbort p k)
  | _ => on [] s

/-! ## Migration, attestation, measurement, host posts (R339, R341, R342, R345, R377, R378) -/

/-- MIGCTL.STATE set. -/
def State.setMig (s : State) (d st : Nat) : State := s.setReg d 0x2000100 (BitVec.ofNat 64 st)

/-- MIGCTL.GO (R377): the copy starts at the first line. -/
def State.migGo (s : State) (d : Nat) : State :=
  if s.migState d = 0 ∨ s.migState d = 3 then
    (s.modDie d fun e => { e with migNext := 0, migDirty := [] }).setMig d 1
  else s

/-- A migration stops in the copying phase (R378): STATE 3 and a frame on the ring of the page's world. -/
def State.migStop (s : State) (d : Nat) : State :=
  if s.migState d = 1 then
    let v := s.reg d 0x2000118
    ((s.modDie d fun e => { e with migNext := 0, migDirty := [] }).setMig d 3).dieEvent d cMigrationAbort
      (BitVec.ofNat 64 (wfld v 14 44 * 2 ^ 14)) (v.getLsbD 0)
  else s

/-- MIGCTL.FIN (R378). -/
def State.migFin (s : State) (d : Nat) : State := if s.migState d = 2 then s.setMig d 0 else s

/-- A write of MIGCTL. -/
def State.migctl (s : State) (d : Nat) (v : Word) : State :=
  if v.getLsbD 63 && (s.migState d == 0 || s.migState d == 3) then s.migGo d
  else if v.getLsbD 62 && s.migState d == 1 then s.migStop d
  else if v.getLsbD 61 && s.migState d == 2 then s.migFin d
  else s

/-- Measurement slot `j` of die `d` extended by a digest of 32 bytes: SM3 of the slot followed by it (R337). -/
def State.extend (s : State) (d j : Nat) (digest : List Byte) : State :=
  let old := (List.range 4).flatMap fun i => leBytes 8 (s.reg d (0x5000800 + 32 * j + 8 * i)).toNat
  let h := Config.sm3 (old ++ digest)
  (List.range 4).foldl (fun (s : State) i => s.setReg d (0x5000800 + 32 * j + 8 * i) (wordOf h i)) s

/-- Word `i` of MSEXT4 to MSEXT7 written; the fourth word of a slot extends it (R339). -/
def State.msextWrite (s : State) (d i : Nat) (v : Word) : State :=
  let j := i / 4
  let s := s.modDie d fun e => { e with msext := spPut i v e.msext }
  if i % 4 = 3 then
    let dg := (List.range 4).flatMap fun w => leBytes 8 (spGet 0 (s.die d).msext (4 * j + w)).toNat
    (s.extend d (4 + j) dg).modDie d fun e => { e with msext := e.msext.filter fun p => p.1 / 4 != j }
  else s

/-- ATTCTL written (R342): GO while idle copies the nonce and sets BUSY; while busy it sets OVR. -/
def State.attctl (s : State) (d : Nat) (v : Word) : State :=
  let w := s.reg d 0x5000300
  let w := w &&& ~~~(v &&& 6)
  if !v.getLsbD 63 then s.setReg d 0x5000300 w
  else if w.getLsbD 0 then s.setReg d 0x5000300 (w ||| 4)
  else
    let n := (List.range 4).flatMap fun i => leBytes 8 (s.reg d (0x5000308 + 8 * i)).toNat
    (s.setReg d 0x5000300 (w ||| 1)).modDie d fun e => { e with nonce := n }

/-- HPOST written (R345). -/
def State.hpost (s : State) (d : Nat) (w : Access) : State :=
  let sec := w.data.getLsbD 62
  if w.data.getLsbD 63 && (w.secure || !sec) then s.dieEvent d cHostSignal (BitVec.ofNat 64 (wfld w.data 0 48)) sec
  else s

/-- DPRESSET written by stage 2 of the conductor, once (R339). -/
def State.presset (s : State) (d : Nat) (w : Access) : State :=
  if (s.die d).presSet || (s.pan (d / 64)).pourOn || w.who != .firmware (s.conductor (d / 64)) 2 then s
  else (s.setReg d 0x8 w.data).modDie d fun e => { e with presSet := true }

/-- DOMCFG written while V is 0 (R341); boot firmware extends MS2 with the eight bytes, and its stage 2 is done once V is
set (R337). -/
def State.domcfgWrite (s : State) (d : Nat) (w : Access) : State :=
  let v := w.data &&& BitVec.ofNat 64 CReg.domcfg.mask
  let s := s.setReg d 0x5000200 v
  let s := if v.getLsbD 63 then s.takeCfg d v else s
  if w.who.isFirmware then
    let st := s.reg d 0x5000008
    let s := s.extend d 2 (leBytes 8 v.toNat)
    if v.getLsbD 63 && wfld st 8 8 == 2 && !st.getLsbD 62 then s.setReg d 0x5000008 (st ||| BitVec.ofNat 64 (2 ^ 63)) else s
  else s

/-- A board configured: it is emptied and its level is 0 (R285). -/
def State.nbcfgWrite (s : State) (d n : Nat) (v : Word) : State :=
  (s.setReg d (0x1000000 + 8 * n) (v &&& BitVec.ofNat 64 (CReg.nbcfg n).mask)).modDie d fun e =>
    { e with boards := spDel n e.boards }

/-- TRRING written: HEAD and TAIL are cleared, and stopped delivery goes on (R310, R312). -/
def State.trring (s : State) (d k : Nat) (v : Word) : State :=
  let o := 0x100 + 0x40 * k
  let s := ((s.setReg d (o + 8) (v &&& BitVec.ofNat 64 (CReg.ring k 8).mask)).setReg d (o + 0x10) 0).setReg d (o + 0x18) 0
  s.modDie d fun e => { e with ringDead := e.ringDead.filter (· != (k == 1)) }

/-- EVSEL written: the count is kept; a non-secure write is ignored while SEC is set (R343). -/
def State.evselWrite (s : State) (core : Bool) (unit i : Nat) (w : Access) : State :=
  if (s.evSel core unit i).getLsbD 63 && !w.secure then s else
  let v := w.data
  let n := (s.evCount core unit i true).toNat
  { s with ctl := spPut (evPa core unit i - 8) (v &&& BitVec.ofNat 64 (CReg.evsel core unit i).mask) s.ctl }.evSet core unit i n

/-- The writer is of the world that MIGCTL and its registers ask for (R377). -/
def State.migWorld (s : State) (d o : Nat) (w : Access) : Bool :=
  w.who.isHost || w.secure == (if o = 0x18 then w.data else s.reg d 0x2000118).getLsbD 0

/-! ## Writes -/

/-- A write that its register takes. -/
def State.ctlTake (s : State) (d off : Nat) (w : Access) : State :=
  let v := w.data
  match creg d off with
  | .none => s
  | .stream k 0x88 => s.doorbell (d / 64) k (wfld v 0 3)
  | .stream k 0x80 => s.setStr (d / 64) k 0x80 (s.str (d / 64) k 0x80 &&& ~~~(v &&& BitVec.ofNat 64 (2 ^ 63)))
  | .ring k 8 => s.trring d k v
  | .ring _ 0x10 => s
  | .hfault => s.setReg d 0x180 0
  | .nbcfg n => s.nbcfgWrite d n v
  | .turetry => if v.getLsbD 63 then s.tuRetry d (wfld v 0 10) w.secure else s
  | .mig 0 => if s.migWorld d 0 w then s.migctl d v else s
  | .mig o => if s.migWorld d o w then s.setReg d off (s.cregTake d (.mig o) v) else s
  | .region o =>
    if o = 0x18 then s
    else if (spGet (0, 0) (s.regionAt d).by_ o).1 = s.now ∧ d % 64 < (spGet (0, 0) (s.regionAt d).by_ o).2 then s
    else (s.setReg (regionHome (d / 64) (regionOf d)) off (s.cregTake d (.region o) v)).modPan (d / 64) fun p =>
      { p with regions := spMod {} (regionOf d) (fun g => { g with by_ := spPut o (s.now, d % 64) g.by_ }) p.regions }
  | .bootctl => if v.getLsbD 63 then s.setReg d off (BitVec.ofNat 64 (2 ^ 63)) else s
  | .dpresset => s.presset d w
  | .domcfg => s.domcfgWrite d w
  | .attctl => s.attctl d v
  | .msext i => s.msextWrite d i v
  | .wrlock => if v.getLsbD 0 then s.setReg d off 1 else s
  | .evsel c u i => s.evselWrite c u i w
  | .evcnt c u i => if (s.evSel c u i).getLsbD 63 && !w.secure then s else s.evWrite c u i v.toNat
  | .hpost => s.hpost d w
  | .hperr => s.setReg d off (s.reg d off &&& ~~~(v &&& 3))
  | .stgcfg u =>
    if (s.clu u).seq.isEmpty && (List.range 8).all fun k => (s.core (8 * u + k)).tu.isEmpty
    then s.setReg d off (s.cregTake d (.stgcfg u) v) else s
  | .cxcmd c => s.cxcmd c w
  | r => if r.mask = 0 then s else s.setReg d off (s.cregTake d r v)

/-- A write of a control register (R4, R382): the state after it, and whether it is a non-secure context's write that
traps WORLD_VIOLATION. -/
def State.ctlWrite (s : State) (d off : Nat) (w : Access) : State × Bool :=
  let r := creg d off
  if !w.secure && s.cregSecure d r then
    (s, match w.who with
      | .context _ => true
      | _ => false)
  else if r.open_ w && s.cregReady d r w.data then (s.ctlTake d off w, false)
  else (s, false)

/-! ## Accesses where they land (R25, R336, R382) -/

/-- `n` bytes at a physical address; control space gives whole words. -/
def State.portRead (s : State) (pa n : Nat) (secure : Bool) : List Byte :=
  if paKind pa = 3 then
    ((List.range (n / 8)).flatMap fun i => leBytes 8 (s.ctlRead (paDie pa) (paOff pa + 8 * i) secure).toNat)
  else s.bytes pa n

/-- Words of a control-space store, in ascending address; whether one of them trapped. -/
def State.ctlStore (s : State) (pa : Nat) (secure : Bool) (who : Maker) : List Word → State × Bool
  | [] => (s, false)
  | v :: t =>
    let (s, b) := s.ctlWrite (paDie pa) (paOff pa) { data := v, secure := secure, who := who }
    let (s, b') := s.ctlStore (pa + 8) secure who t
    (s, b || b')

/-- The words that a run of bytes holds. -/
def wordsOf (l : List Byte) : List Word := tab (l.length / 8) fun i => BitVec.ofNat 64 (leVal ((l.drop (8 * i)).take 8))

/-- Bytes stored at a physical address, at memory or at control registers. -/
def State.portWrite (s : State) (pa : Nat) (l : List Byte) (secure : Bool) (who : Maker) : State × Bool :=
  if paKind pa = 3 then s.ctlStore pa secure who (wordsOf l) else (s.writeBytes pa l, false)

/-! ## Instructions -/

/-- A doorbell event: the write of STRDB with the command (R303, R304). -/
def State.ring (s : State) (p k cmd : Nat) (w : Access) : State :=
  (s.ctlWrite (s.conductor p) (0x1088 + 0x100 * (k % 4)) { w with data := BitVec.ofNat 64 cmd }).1

/-- A CXCMD event: the write of the core's register with GO and the action (R313). -/
def State.cxEvent (s : State) (c act : Nat) (w : Access) : State :=
  (s.ctlWrite (c / 64) ((0x10 + c % 64 / 8) * 0x1000000 + 0x48000 + 8 * (c % 8))
    { w with data := putFld (putFld w.data 63 1 1) 4 2 act }).1


/-- BOOTCTL_GO (R339): Write of BOOTCTL.GO lets boot proceed. -/
def execBootctlGo (die : Nat) (w : Access) (s : State) : Host.Outcome State Fault Refusal :=
  .next ((s.ctlWrite die 0x5000000 { w with data := w.data }).1)

/-- DPRESSET_WRITE (R339): One write per reset sets the present-die mask. -/
def execDpressetWrite (die : Nat) (w : Access) (s : State) : Host.Outcome State Fault Refusal :=
  .next ((s.ctlWrite die 0x5000010 { w with data := w.data }).1)

/-- DOMCFG_WRITE (R341): Sets the domain shape and position, brings up optical links and enables the conductor's Pour. -/
def execDomcfgWrite (die : Nat) (w : Access) (s : State) : Host.Outcome State Fault Refusal :=
  .next ((s.ctlWrite die 0x5000200 { w with data := w.data }).1)

/-- MSEXT_EXTEND (R339): Writing the last word of MSEXTj extends measurement slot j. -/
def execMsextExtend (die : Nat) (j : Nat) (w : Access) (s : State) : Host.Outcome State Fault Refusal :=
  .next ((s.ctlWrite die (0x5000918 + 32 * (j % 4)) { w with data := w.data }).1)

/-- WRLOCK_WRITE (R336): Locks the world-region, CEWORLD and FPWORLD registers until reset. -/
def execWrlockWrite (die : Nat) (w : Access) (s : State) : Host.Outcome State Fault Refusal :=
  .next ((s.ctlWrite die 0x5000FF8 { w with data := w.data }).1)

/-- ATTCTL_GO (R342): Starts an attestation report over the current nonce. -/
def execAttctlGo (die : Nat) (w : Access) (s : State) : Host.Outcome State Fault Refusal :=
  .next ((s.ctlWrite die 0x5000300 { w with data := w.data }).1)

/-- HPOST_WRITE (R345): Host posts a HOST_SIGNAL frame to a die's ring. -/
def execHpostWrite (die : Nat) (w : Access) (s : State) : Host.Outcome State Fault Refusal :=
  .next ((s.ctlWrite die 0x7000008 { w with data := w.data }).1)

/-- REGISTER_WRITE (R4): Write of a control register with no row of its own, by its access codes. -/
def execRegisterWrite (addr : Nat) (w : Access) (s : State) : Host.Outcome State Fault Refusal :=
  .next ((s.ctlWrite (paDie addr) (paOff addr) w).1)

/-- STRDB_START (R304): Doorbell START puts an idle or finished stream into RUN. -/
def execStrdbStart (pan : Nat) (k : Nat) (w : Access) (s : State) : Host.Outcome State Fault Refusal :=
  .next (s.ring pan k 1 w)

/-- STRDB_GRACEFUL (R319): Doorbell GRACEFUL makes a running stream DRAINING. -/
def execStrdbGraceful (pan : Nat) (k : Nat) (w : Access) (s : State) : Host.Outcome State Fault Refusal :=
  .next (s.ring pan k 2 w)

/-- STRDB_HARD (R320): Doorbell HARD stops the stream's work and saves it. -/
def execStrdbHard (pan : Nat) (k : Nat) (w : Access) (s : State) : Host.Outcome State Fault Refusal :=
  .next (s.ring pan k 3 w)

/-- STRDB_RESUME (R328): Doorbell RESUME restores a saved stream or resumes a trapped one. -/
def execStrdbResume (pan : Nat) (k : Nat) (w : Access) (s : State) : Host.Outcome State Fault Refusal :=
  .next (s.ring pan k 4 w)

/-- STRDB_ABORT (R304): Doorbell ABORT makes the stream IDLE. -/
def execStrdbAbort (pan : Nat) (k : Nat) (w : Access) (s : State) : Host.Outcome State Fault Refusal :=
  .next (s.ring pan k 5 w)

/-- CXCMD_RESUME (R313): Makes a frozen context ready to present its bundle again. -/
def execCxcmdResume (core : Nat) (w : Access) (s : State) : Host.Outcome State Fault Refusal :=
  .next (s.cxEvent core 0 w)

/-- CXCMD_RETIRE (R313): Makes a frozen context dormant. -/
def execCxcmdRetire (core : Nat) (w : Access) (s : State) : Host.Outcome State Fault Refusal :=
  .next (s.cxEvent core 1 w)

/-- CXCMD_RESUME_AT (R313): Makes a frozen context ready at a given bundle address. -/
def execCxcmdResumeAt (core : Nat) (w : Access) (s : State) : Host.Outcome State Fault Refusal :=
  .next (s.cxEvent core 2 w)

/-- TURETRY (R317): Releases a fault entry so every waiter presents again. -/
def execTuretry (die : Nat) (w : Access) (s : State) : Host.Outcome State Fault Refusal :=
  .next ((s.ctlWrite die 0x2000000 { w with data := w.data }).1)

/-- MIGCTL_GO (R377): Starts migration of a page. -/
def execMigctlGo (die : Nat) (w : Access) (s : State) : Host.Outcome State Fault Refusal :=
  .next ((s.ctlWrite die 0x2000100 { w with data := BitVec.ofNat 64 (2 ^ 63) }).1)

/-- MIGCTL_ABORT (R378): Aborts a migration in the copying phase. -/
def execMigctlAbort (die : Nat) (w : Access) (s : State) : Host.Outcome State Fault Refusal :=
  .next ((s.ctlWrite die 0x2000100 { w with data := BitVec.ofNat 64 (2 ^ 62) }).1)

/-- MIGCTL_FIN (R378): Ends forwarding so the old frame is ordinary memory. -/
def execMigctlFin (die : Nat) (w : Access) (s : State) : Host.Outcome State Fault Refusal :=
  .next ((s.ctlWrite die 0x2000100 { w with data := BitVec.ofNat 64 (2 ^ 61) }).1)

/-- NBCFG_WRITE (R285): Configures a notice board and empties it. -/
def execNbcfgWrite (die : Nat) (b : Nat) (w : Access) (s : State) : Host.Outcome State Fault Refusal :=
  .next ((s.ctlWrite die (0x1000000 + 8 * (b % 64)) { w with data := w.data }).1)

/-- TRRING_WRITE (R310): Sets a trap ring and clears HEAD and TAIL. -/
def execTrringWrite (die : Nat) (world : Nat) (w : Access) (s : State) : Host.Outcome State Fault Refusal :=
  .next ((s.ctlWrite die (0x108 + 0x40 * (world % 2)) { w with data := w.data }).1)

end Sys2Proof.Machine
end

