-- ==== Sys2Proof/Machine/Copy.lean ====
section
/-! DEFINITION. Copy commands: issue, start, transfers and completion (R162 to R171, R278, R279, R382, R384). -/

namespace Sys2Proof.Machine

/-! ## The descriptor (R163, R164) -/

/-- A field of the descriptor. -/
def CopyCmd.fld (c : CopyCmd) (o n : Nat) : Nat := leAt c.desc o n
/-- SRC; the bits of SRC, of a DST in memory and of AUX above a virtual address are dropped, which the spec leaves open
(log 80). -/
def CopyCmd.src (c : CopyCmd) : Nat := c.fld 0 8 % 2 ^ 58
def CopyCmd.dst (c : CopyCmd) : Nat := c.fld 8 8 % 2 ^ 58
def CopyCmd.rlen (c : CopyCmd) : Nat := c.fld 16 4
def CopyCmd.rows (c : CopyCmd) : Nat := c.fld 20 4
def CopyCmd.sstr (c : CopyCmd) : Nat := c.fld 24 4
def CopyCmd.dstr (c : CopyCmd) : Nat := c.fld 28 4
def CopyCmd.aux (c : CopyCmd) : Nat := c.fld 48 8 % 2 ^ 58
def CopyCmd.dec (c : CopyCmd) : Nat := c.fld 32 1 % 4
def CopyCmd.cvt (c : CopyCmd) : Nat := c.fld 32 1 / 4 % 4
def CopyCmd.trn (c : CopyCmd) : Bool := (c.fld 32 1).testBit 4
def CopyCmd.gath (c : CopyCmd) : Bool := (c.fld 32 1).testBit 5
def CopyCmd.flag (c : CopyCmd) (i : Nat) : Bool := (c.fld 33 1).testBit i
def CopyCmd.dstk (c : CopyCmd) : Nat := c.fld 33 1 / 64
def CopyCmd.rrep (c : CopyCmd) : Bool := c.flag 5
def CopyCmd.aop (c : CopyCmd) : Nat := c.fld 34 1 % 16
def CopyCmd.ty (c : CopyCmd) : Nat := c.fld 34 1 / 16
def CopyCmd.esz (c : CopyCmd) : Nat := 2 ^ c.fld 35 1
/-- Bytes of an atomic element, and of a source element, which is a pair for a compare-and-swap (R166). -/
def CopyCmd.elemB (c : CopyCmd) : Nat := aopBytes c.ty
def CopyCmd.srcB (c : CopyCmd) : Nat := if c.aop = 7 then 2 * c.elemB else c.elemB
/-- The target core and the first pattern or bundle of a special destination. -/
def CopyCmd.special (c : CopyCmd) : Nat × Nat := (dieOf c.x * 64 + c.fld 8 1 % 64, c.fld 10 2)
/-- Bytes of a source row, the scales of an MXFP4 import included. -/
def CopyCmd.srcRow (c : CopyCmd) : Nat := if c.cvt = 1 then c.rlen + c.rlen / 16 else c.rlen
/-- Bytes of a row after conversion. -/
def CopyCmd.cvtRowB (c : CopyCmd) : Nat :=
  match c.cvt with
  | 0 => c.rlen
  | 1 => 24 * (c.rlen / 16)
  | 2 => 2 * c.rlen
  | _ => c.rlen / 2
/-- Rows and bytes of a row at the destination. A transpose after CVT 2 or 3 cuts the converted row into elements: the
model's reading of RLEN ÷ ESZ there (log 80). -/
def CopyCmd.outShape (c : CopyCmd) : Nat × Nat :=
  if c.trn then (c.cvtRowB / c.esz, c.rows * c.esz) else (c.rows, c.cvtRowB)

/-- The descriptor fails the checks of R162, step 6. That a `cpya` with RREP, and one whose RLEN is no multiple of its
source element, fail here is the model's choice (logs 40 and 80). -/
def CopyCmd.bad (c : CopyCmd) : Bool :=
  let xf := c.fld 32 1
  let out := c.rows * c.rlen
  c.fld 39 1 != 0 || decide (64 ≤ xf) || c.dec == 3 || c.dstk == 3 ||
  (c.flag 4 && decide (63 < c.fld 38 1)) ||
  !(decide (1 ≤ c.rows) && decide (c.rows ≤ 2 ^ 24) && decide (1 ≤ c.rlen) && decide (c.rlen ≤ 2 ^ 24)) ||
  (c.gath && c.dec != 0) || (c.trn && c.cvt == 1) || (xf != 0 && (c.atomic || c.rrep || c.dstk != 0)) ||
  (c.rrep && (c.atomic || c.dstk != 0 || c.fld 8 8 % 64 != 0 || c.rlen % 64 != 0 || c.dstr % 64 != 0)) ||
  (c.cvt == 1 && (c.rows != 1 || c.rlen % 16 != 0)) || (c.cvt == 2 && c.rlen % 2 != 0) || (c.cvt == 3 && c.rlen % 4 != 0) ||
  (c.dec == 2 && c.rlen % 2 != 0) ||
  (c.trn && (decide (3 < c.fld 35 1) || c.cvtRowB % c.esz != 0)) || (!c.trn && c.fld 35 1 != 0) ||
  (c.flag 2 && !c.flag 0) || (c.flag 3 && !c.flag 1) ||
  (c.fld 48 8 != 0 && !(c.gath || c.cvt == 1 || c.atomic)) || (!c.atomic && c.fld 34 1 != 0) ||
  (c.atomic && (c.rows != 1 || !aopOk c.ty c.aop || c.rlen % c.srcB != 0 || c.dstk != 0)) ||
  ((c.dstk == 1 || c.dstk == 2) &&
    (c.fld 8 1 / 64 != 0 || c.fld 9 1 != 0 || c.fld 12 4 != 0 || c.fld 8 1 % 64 / 8 != cidOf (coreOf c.x) / 8 ||
     out % (if c.dstk = 1 then 128 else 16) != 0 || (c.dstk == 1 && decide (64 < c.fld 10 2 + out / 128))))

/-- A range of virtual addresses that a command reaches. -/
structure CopyRange where
  va : Nat
  len : Nat
  write : Bool
  /-- named by AUX: the table of a gather, or a destination -/
  aux : Bool := false
  deriving DecidableEq, Repr

/-- The ranges that a command reads, the index list aside; `idx` is the index list of a gather, and a stream shows its
length only as it decodes. -/
def CopyCmd.sources (c : CopyCmd) (idx : List Nat) : List CopyRange :=
  if c.atomic then [{ va := c.src, len := c.rlen, write := false }]
  else if c.dec ≠ 0 then [{ va := c.src, len := 1, write := false }]
  else if c.gath then
    tab c.rows fun i => { va := (c.aux + idx.getD i 0 * c.sstr) % 2 ^ 58, len := c.srcRow, write := false, aux := true }
  else tab c.rows fun i => { va := (c.src + i * c.sstr) % 2 ^ 58, len := c.srcRow, write := false }

/-- The ranges that a command writes. -/
def CopyCmd.dests (c : CopyCmd) : List CopyRange :=
  let n := c.rlen / c.srcB
  if c.atomic then
    [{ va := c.dst, len := n * c.elemB, write := true }] ++
      (if c.aux = 0 then [] else [{ va := c.aux, len := n * c.elemB, write := true, aux := true }])
  else if c.dstk ≠ 0 then []
  else
    let (r, b) := c.outShape
    (tab r fun j => { va := (c.dst + j * c.dstr) % 2 ^ 58, len := b, write := true }) ++
      (if c.cvt = 1 then [{ va := c.aux, len := c.rlen / 16 * 4, write := true, aux := true }] else [])

/-! ## Issue (R162, R278) -/

/-- The engine's world for a command: its context and its engine must be secure (R335). -/
def State.copyWorld (s : State) (x k : Nat) : Bool :=
  (s.ctx x).world && (s.cluReg (cluOf x) 0x48080).getLsbD k

/-- `cpy` and `cpya` (R162). The tag is CSTAG as the bundle's earlier slots leave it: in the bundle whose T slot confirms or
squashes that tag the command carries none, an order that the spec leaves open (log 34). -/
def copyIssue (d a b k : Nat) (atomic : Bool) (s : State) : Res :=
  let x := s.x
  let h := s.me.hreg a
  let off := (s.me.sreg b).toNat
  let p : Piece := { off := off, len := 64 }
  let c := coreOf x
  if !h.valid then .trap cHandleInvalid 0
  else if !sramHandle (cluOf x) h p then .trap cCopyDescriptor (BitVec.ofNat 64 (h.va + off))
  else if off % 64 ≠ 0 then .trap cAlignment (BitVec.ofNat 64 off)
  else failOn (s.accessCheck x h [p] 64 false) <|
    let q := spGet {} (s.core c).cq k
    let m : CopyCmd :=
      { num := q.next, x := x, life := s.me.life, world := s.copyWorld x k,
        strSecure := s.strWorld (dieOf x / 64) s.me.stream.toNat, priv := s.me.priv, stream := s.me.stream, prio := s.me.prio,
        desc := s.pieceBytes h p, va := h.va + off, pa := h.pa off, atomic := atomic,
        tag := if s.me.tagV then some s.me.tag else none, waits := s.covers x 5 }
    let s := s.modCore c fun e => { e with cq := spPut k { q with next := q.next + 1, cmds := q.cmds ++ [m] } e.cq }
    let s := match m.tag with
      | some t => s.modInfl c s.me.stream.toNat t.toNat (· + 1)
      | none => s
    .ok (s.later 3 1 (.s d (BitVec.ofNat 64 m.num)))

/-! ## Commands in their queue -/

/-- Command `num` of queue `k` of core `c`. -/
def State.cmd (s : State) (c k num : Nat) : Option CopyCmd := (spGet {} (s.core c).cq k).cmds.find? (·.num == num)
/-- The command changed by `f`. -/
def State.modCmd (s : State) (c k num : Nat) (f : CopyCmd → CopyCmd) : State :=
  s.modCore c fun e => { e with cq := spMod {} k (fun q =>
    { q with cmds := q.cmds.map fun m => if m.num == num then f m else m }) e.cq }
/-- Its run changed by `f`. -/
def State.modRun (s : State) (c k num : Nat) (f : CopyRun → CopyRun) : State :=
  s.modCmd c k num fun m => { m with run := m.run.map f }
/-- The command stops on a fault. -/
def State.cmdFault (s : State) (c k num cause : Nat) (faddr : Word) : State :=
  s.modCmd c k num fun m => { m with run := some { m.run.getD {} with fault := some (cause, faddr) } }

/-- The page of a running command that holds a virtual address. -/
def CopyRun.page (r : CopyRun) (va : Nat) : Option Handle :=
  r.pages.find? fun h => h.va ≤ va && va < h.va + h.bytes
/-- The physical address of a virtual address in the pages of a command. -/
def CopyRun.pa (r : CopyRun) (va : Nat) : Nat :=
  match r.page va with
  | some h => h.pa (va - h.va)
  | none => 0

/-- A range cut into pieces of one aligned block of `w` bytes. -/
def cutAt (w va len : Nat) : List (Nat × Nat) :=
  if len = 0 then []
  else (List.range ((va + len - 1) / w - va / w + 1)).map fun i =>
    let lo := max va ((va / w + i) * w)
    let hi := min (va + len) ((va / w + i + 1) * w)
    (lo, hi - lo)

/-- The transfers of a range of a command: one an aligned 64-byte block, and one a word in control space (R382, R384). -/
def CopyRun.cuts (r : CopyRun) (va len : Nat) : List (Nat × Nat) :=
  (cutAt 64 va len).flatMap fun p => if paKind (r.pa (p.1 % 2 ^ 58)) = 3 then cutAt 8 p.1 p.2 else [p]

/-! ## Start: translation and the checks before a byte moves (R168, R265, R336, R382) -/

/-- The first address of the ranges whose page the translation cache does not hold. -/
def State.copyMiss (s : State) (d : Nat) (w : Bool) (l : List CopyRange) : Option Nat :=
  l.findSome? fun r => (vpages r.va r.len).findSome? fun p =>
    if (s.tlbFind d w (p * 0x4000 % 2 ^ 58)).isNone then some (max r.va (p * 0x4000)) else none

/-- The check of one piece of a range within a 4 KiB granule, at its page. -/
def State.copyCutFail (s : State) (m : CopyCmd) (h : Handle) (r : CopyRange) (va n : Nat) : Option (Nat × Word) :=
  let pa := h.pa (va % 2 ^ 58 - h.va)
  let u := cluOf m.x
  let w := BitVec.ofNat 64 va
  let c64 := fun (v : Nat) => v % 8 != 0
  let core := 64 * paDie pa + paOff pa / 0x200000
  let inWin := fun (a k : Nat) => inClu u a k && s.inWindow u m.stream.toNat (paOff a % 0x400000) k
  let lowest := fun (bad : Nat → Bool) => some (cSramRange, BitVec.ofNat 64 (va + (firstBelow n fun i => bad (pa + i)).getD 0))
  if !m.world && (h.world || s.secureAt pa n || (r.write && paKind pa == 3 && s.ctlDenied (paDie pa) (paOff pa) false)) then
    some (cWorldViolation, w)
  else if (r.write && !h.wr) || (!r.write && !h.rd) then some (cPermission, w)
  else if paKind pa == 3 && m.atomic && r.write && !r.aux then some (cCopyDescriptor, BitVec.ofNat 64 m.va)
  else if paKind pa == 3 && !(m.atomic && r.aux) && (c64 m.src || c64 m.dst || c64 m.rlen || c64 m.sstr || c64 m.dstr) then some (cAlignment, w)
  else if r.aux && m.atomic && !inWin pa n then lowest fun a => !inWin a 1
  else if r.aux && inClu u pa n && !inWin pa n then lowest fun a => !inWin a 1
  else if s.inReserved pa n then lowest fun a => s.inReserved a 1
  else if r.write && m.rrep && !(paKind pa == 2 && s.seededAll core (paOff pa % 0x200000) n) then some (cWeightWrite, w)
  else if r.write && !m.rrep && s.seededPa pa n then some (cWeightWrite, w)
  else none

/-- The checks of every range, in order. -/
def State.copyFail (s : State) (m : CopyCmd) (l : List CopyRange) : Option (Nat × Word) :=
  l.findSome? fun r => (vcuts r.va r.len).findSome? fun q =>
    match s.tlbFind (dieOf m.x) m.world (q.1 % 2 ^ 58) with
    | some h => s.copyCutFail m h r q.1 q.2
    | none => none

/-- The refusals of a scratchpad destination (R123, R163). -/
def State.padFail (s : State) (m : CopyCmd) : Option (Nat × Word) :=
  if m.dstk ≠ 2 then none
  else
    let (t, a) := m.special
    if 0x1200 < a + m.rows * m.rlen / 16 ∨ 0x11FF < a then some (cIbankRange, BitVec.ofNat 64 m.va)
    else if a < 0x200 ∧ (List.range 4).any fun i => (s.ctx (4 * t + i)).st != .dormant then
      some (cIbankWrite, BitVec.ofNat 64 a)
    else none

/-- The alignment that an atomic command asks for (R166); a compare-and-swap pair at SRC is held to the type's width, the
model's reading of "element size" (log 80). -/
def CopyCmd.misaligned (m : CopyCmd) : Option (Nat × Word) :=
  if !m.atomic then none
  else if m.src % m.elemB ≠ 0 then some (cAlignment, BitVec.ofNat 64 m.src)
  else if m.dst % m.elemB ≠ 0 then some (cAlignment, BitVec.ofNat 64 m.dst)
  else none

/-- The pages of the ranges as the translation cache holds them. -/
def State.copyPages (s : State) (m : CopyCmd) (l : List CopyRange) : List Handle :=
  ((l.flatMap fun r => vpages r.va r.len).filterMap fun p =>
    s.tlbFind (dieOf m.x) m.world (p * 0x4000 % 2 ^ 58)).eraseDups

/-- The reads of the given ranges. -/
def CopyRun.readsOf (r : CopyRun) (l : List CopyRange) : List CopyRead :=
  l.flatMap fun q => (r.cuts q.va q.len).map fun p => { addr := r.pa (p.1 % 2 ^ 58), va := p.1, len := p.2 }

/-- A command whose ranges must be translated: a miss joins a walk, a fault entry stops it (R316); else `go`. -/
def State.copyTranslate (s : State) (c k : Nat) (m : CopyCmd) (l : List CopyRange) (go : State → State) : State :=
  let d := dieOf m.x
  match s.copyMiss d m.world l with
  | none => go s
  | some va =>
    let vpn := va % 2 ^ 58 / 0x4000
    match ((s.die d).tu.find? fun e => e.2.world == m.world && e.2.vpn == vpn).bind fun e => e.2.fault with
    | some cause => s.cmdFault c k m.num cause (BitVec.ofNat 64 va)
    | none => (s.joinWalk d m.world vpn (.copy c k m.num va)).1

/-- The full check of a command, after which its source is read. The checks come in the model's order: a misaligned `cpya`
into control space ends with ALIGNMENT (log 40). -/
def State.copyCheckAll (s : State) (c k : Nat) (m : CopyCmd) (idx : List Nat) : State :=
  let src := m.sources idx
  let all := src ++ m.dests
  match m.misaligned with
  | some (cause, f) => s.cmdFault c k m.num cause f
  | none => s.copyTranslate c k m all fun s =>
    match (s.copyFail m all).orElse fun _ => s.padFail m with
    | some (cause, f) => s.cmdFault c k m.num cause f
    | none =>
      let r : CopyRun := { m.run.getD {} with pages := s.copyPages m all, phase := 2, bank := 1 - (s.core m.special.1).ibank }
      let first : List CopyRange := if m.dec ≠ 0 then
        [{ va := m.src, len := 64 - m.src % 64, write := false }] else src
      let r := { r with reads := r.readsOf first }
      s.modCmd c k m.num fun e => { e with run := some r }

/-- The index list that a gather has read. -/
def CopyRun.indexVals (r : CopyRun) : List Nat := elemsAt 4 (r.index.flatMap fun q => q.got.getD [])

/-! ## From the source to the writes -/

/-- The writes of a row of bytes at a virtual address. -/
def CopyRun.writesAt (r : CopyRun) (va : Nat) (l : List Byte) (aux : Bool) : List CopyWrite :=
  (r.cuts va l.length).map fun p =>
    { addr := r.pa (p.1 % 2 ^ 58), va := p.1, bytes := (l.drop (p.1 - va)).take p.2, aux := aux }

/-- The writes of a command whose source bytes are `l`, and its events (R164, R166). -/
def CopyCmd.output (m : CopyCmd) (r : CopyRun) (l : List Byte) : List CopyWrite × Fl :=
  if m.atomic then
    let e := m.elemB
    (tab (m.rlen / m.srcB) fun i =>
      let b := (l.drop (i * m.srcB)).take m.srcB
      { addr := r.pa ((m.dst + i * e) % 2 ^ 58), va := m.dst + i * e, bytes := b.drop (m.srcB - e),
        cmp := if m.aop = 7 then b.take e else [] }, 0)
  else if m.dstk = 1 then
    ((rowsOf 64 l).zipIdx.map fun p => { addr := 2 * m.special.2 + p.2, va := p.2, bytes := p.1 }, 0)
  else if m.dstk ≠ 0 then
    ((rowsOf 16 l).zipIdx.map fun p => { addr := m.special.2 + p.2, va := p.2, bytes := p.1 }, 0)
  else if m.cvt = 1 then
    let nb := m.rlen / 16
    (r.writesAt m.dst (mxElems (l.take m.rlen)) false ++
      r.writesAt m.aux (((l.drop m.rlen).take nb).flatMap fun b => leBytes 4 (e8m0 b.toNat)) true, 0)
  else
    let rows := (rowsOf m.rlen l).map (cvtRow m.cvt)
    let evt := rows.foldl (fun a p => a ||| p.2) 0
    let out := if m.trn then transposeRows m.esz (rows.map (·.1)) else rows.map (·.1)
    (out.zipIdx.flatMap fun p => r.writesAt ((m.dst + p.2 * m.dstr) % 2 ^ 58) p.1 false, evt)

/-- The source bytes that have been read. -/
def CopyRun.bytes (r : CopyRun) : List Byte := r.reads.flatMap fun q => q.got.getD []

/-- The command begins to write. -/
def State.copyWrites (s : State) (c k : Nat) (m : CopyCmd) (r : CopyRun) (l : List Byte) (used : Nat) : State :=
  let (w, evt) := m.output r l
  s.modRun c k m.num fun r => { r with phase := 3, writes := w, evt := evt, used := used }

/-- One more block of a compressed stream: its page is translated as the decoder reaches it. -/
def State.copyMore (s : State) (c k : Nat) (m : CopyCmd) (r : CopyRun) : State :=
  let va := (m.src / 64 + r.reads.length) * 64 % 2 ^ 58
  let q : CopyRange := { va := va, len := 64, write := false }
  s.copyTranslate c k m [q] fun s =>
    match s.copyFail m [q] with
    | some (cause, f) => s.cmdFault c k m.num cause f
    | none =>
      s.modRun c k m.num fun r =>
        let r := { r with pages := (r.pages ++ s.copyPages m [q]).eraseDups }
        { r with reads := r.reads ++ r.readsOf [q] }

/-- A command goes on once what it was reading has arrived. It reads its whole source before it writes a byte, which settles
a source and a destination that overlap, and what a late fault leaves unwritten: the model's choice (log 80). -/
def State.copyAdvance (s : State) (c k num : Nat) : State :=
  match s.cmd c k num with
  | none => s
  | some m =>
    match m.run with
    | none => s
    | some r =>
      if r.fault.isSome then s
      else if r.phase = 0 then
        if r.index.all (·.got.isSome) then s.modRun c k num fun r => { r with phase := 1 } else s
      else if r.phase = 2 then
        if !r.reads.all (·.got.isSome) then s
        else if m.dec = 0 then s.copyWrites c k m r r.bytes r.bytes.length
        else
          match (if m.dec = 1 then huffman r.bytes else zvc r.bytes) (m.rows * m.srcRow) with
          | .more => s.copyMore c k m r
          | .bad => s.cmdFault c k num cCompressedFormat (BitVec.ofNat 64 m.src)
          | .done o u => s.copyWrites c k m r o u
      else s

/-- Command `num` of queue `k` of core `c` waits for a walk of its die (R316). -/
def State.copyWalks (s : State) (c k num : Nat) : Bool :=
  (s.die (c / 64)).tu.any fun e => e.2.waiters.any fun w => match w with
    | .copy c' k' n _ => c' == c && k' == k && n == num
    | _ => false

/-- The command that a queue may start next (R170, R278, R384): the first that has not started, where fewer than four
run and what its release waits for has performed; else one that goes on with its start: it waits for no walk, and has its
ranges to translate, its index list read, or a block of its compressed stream to fetch. -/
def State.startable (s : State) (c k : Nat) : Option CopyCmd :=
  let q := spGet {} (s.core c).cq k
  let fresh : Option CopyCmd := match q.cmds.find? (·.run.isNone) with
    | some m => if (q.cmds.filter (·.run.isSome)).length < 4 && m.waits.all (fun i => !s.pend.contains i) then some m else none
    | none => none
  fresh.orElse fun _ => q.cmds.find? fun (m : CopyCmd) => match m.run with
    | some r => r.fault.isNone && (r.phase == 1 || r.phase == 4 || (r.phase == 2 && r.reads.all (·.got.isSome))) &&
        !s.copyWalks c k m.num
    | none => false

/-- A started command has its first ranges translated and checked: the index list of a gather, else all that it reaches. -/
def State.copyBegin (s : State) (c k : Nat) (m : CopyCmd) : State :=
  if m.gath then
    let l : List CopyRange := [{ va := m.src, len := 4 * m.rows, write := false }]
    s.copyTranslate c k m l fun s =>
      match s.copyFail m l with
      | some (cause, f) => s.cmdFault c k m.num cause f
      | none =>
        let r : CopyRun := { pages := s.copyPages m l }
        s.modCmd c k m.num fun e => { e with run := some { r with index := r.readsOf l } }
  else s.copyCheckAll c k m []

/-- COPY_COMMAND_START. -/
def State.copyStart (s : State) (c k : Nat) : State :=
  match s.startable c k with
  | none => s
  | some m =>
    match m.run with
    | some r =>
      if r.phase = 1 then s.copyCheckAll c k m r.indexVals
      else if r.phase = 4 then s.copyBegin c k m
      else s.copyAdvance c k m.num
    | none =>
      if m.bad then s.cmdFault c k m.num cCopyDescriptor (BitVec.ofNat 64 m.va)
      else
        let r : CopyRun := { phase := 4 }
        (s.modCmd c k m.num fun e => { e with run := some r }).copyBegin c k { m with run := some r }

/-! ## Transfers (R268, R384) -/

/-- The addresses of a read, word by word of 8 bytes. -/
def CopyRead.words (q : CopyRead) : List (List Nat) :=
  (cutAt 8 q.addr q.len).map fun p => (List.range p.2).map (p.1 + ·)

/-- A read may start: no word of it is partly in the store buffer (R268). -/
def State.readReady (s : State) (u : Nat) (q : CopyRead) : Bool :=
  q.got.isNone && !q.sent && q.words.all fun w => (s.buf u).matchWord w != 1

/-- The bytes that the store buffer forwards to a read, by address. -/
def State.forwardTo (s : State) (u : Nat) (q : CopyRead) : Sp Byte :=
  (q.words.filter fun w => (s.buf u).matchWord w == 2).flatMap fun w => w.filterMap fun a =>
    ((s.buf u).youngest a).map fun e => (a, spGet 0 e.data a)

/-- The transfer of a command that is ready: which list (0 index, 1 source, 2 writes) and which entry. -/
def State.transferOf (s : State) (u : Nat) (m : CopyCmd) : Option (Nat × Nat) :=
  match m.run with
  | none => none
  | some r =>
    if r.fault.isSome then none
    else if r.phase = 0 then (r.index.findIdx? (s.readReady u)).map fun i => (0, i)
    else if r.phase = 2 then (r.reads.findIdx? (s.readReady u)).map fun i => (1, i)
    else if r.phase = 3 then
      if m.atomic then
        match r.writes.findIdx? (!·.done) with
        | some i => if (r.writes.getD i { addr := 0, va := 0, bytes := [] }).sent then none else some (2, i)
        | none => none
      else (r.writes.findIdx? fun w => !w.done && !w.sent).map fun i => (2, i)
    else none

/-- Entry `i` of a list changed by `f`. -/
def modAt {α : Type} (l : List α) (i : Nat) (f : α → α) : List α := l.zipIdx.map fun p => if p.2 == i then f p.1 else p.1

/-- The bytes that a read asks for: a control word is read whole (R382). -/
def CopyRead.reach (q : CopyRead) : Nat × Nat := if paKind q.addr = 3 then (q.addr / 8 * 8, 8) else (q.addr, q.len)

/-- A read of a command answered with the bytes it asked for, the forwarded ones standing over them. -/
def State.readGot (s : State) (c k num which i : Nat) (l : List Byte) : State :=
  let f := fun (q : CopyRead) => { q with
    got := some (((l.drop (q.addr - q.reach.1)).take q.len).zipIdx.map fun p => spGet p.1 q.fwd (q.addr + p.2)) }
  (s.modRun c k num fun r =>
    if which = 0 then { r with index := modAt r.index i f } else { r with reads := modAt r.reads i f }).copyAdvance c k num

/-- The read numbered `i` starts. -/
def State.startRead (s : State) (c k : Nat) (m : CopyCmd) (which i : Nat) (q : CopyRead) : State :=
  let u := cluOf m.x
  let fwd := s.forwardTo u q
  let ids := (q.words.flatMap id).filterMap fun a => if spHas a fwd then ((s.buf u).youngest a).map (·.id) else none
  let s := if (s.ctx m.x).life = m.life then s.observe m.x ids.eraseDups else s
  let f := fun (q : CopyRead) => { q with fwd := fwd, sent := true }
  let s := s.modRun c k m.num fun r =>
    if which = 0 then { r with index := modAt r.index i f } else { r with reads := modAt r.reads i f }
  if s.badAt q.addr q.len && fwd.length != q.len then s.cmdFault c k m.num cEccUncorrectable (BitVec.ofNat 64 q.va)
  else if fwd.length = q.len then s.readGot c k m.num which i (List.replicate q.len 0)
  else
    let (a, n) := q.reach
    let h := s.homeFrom (dieOf m.x) a
    if paDie h = dieOf m.x then (s.countHbm a n false m.world).readGot c k m.num which i (s.portRead a n m.world)
    else
      s.request (dieOf m.x) { num := 0, dst := paDie h, body := .load h n, issuer := .copy c k m.num which i, secure := m.world,
                              priv := m.priv }

/-- A half of a pattern written into a core's idle bank (R104, R384). A pattern that was valid there stays valid while it is
overwritten: the rules are silent, and the choice is the model's (log 90). -/
def Core.putPat (e : Core) (w : CopyWrite) : Core :=
  { e with pats := spMod [] (64 * (1 - e.patBank) + w.addr / 2) (fun l => tab 128 fun i =>
      if i / 64 = w.addr % 2 then w.bytes.getD (i % 64) 0 else l.getD i 0) e.pats }

/-- A special destination's half pattern or bundle written (R104, R123, R384); a pattern is valid once its command is over. -/
def State.writeSpecial (s : State) (m : CopyCmd) (bank : Nat) (w : CopyWrite) : State :=
  let t := m.special.1
  if m.dstk = 1 then
    s.modCore t fun e => e.putPat w
  else
    let key := if w.addr < 0x200 then w.addr else 0x2000 * (bank + 1) + w.addr
    s.modCore t fun e => { e with
      ipad := spPut key (leVal w.bytes) e.ipad
      olds := spDel key e.olds
      landed := e.landed.filter (·.key != key) }

/-- An atomic element at its home: the old value, and the events (R279). -/
def State.atomicAt (s : State) (a ty op v cmp : Nat) : State × Nat × Fl :=
  let n := aopBytes ty
  let old := s.mval a n
  let (new, fl) := aopApply ty op old v cmp
  (if op = 7 ∧ old ≠ cmp then s else s.writeBytes a (leBytes n new), old, fl)

/-- A write of a command has performed; an atomic element's old value is one more write, to AUX. -/
def State.wrote (s : State) (c k num i : Nat) (old : Option Nat) (fl : Fl) : State :=
  match s.cmd c k num with
  | none => s
  | some m =>
    let ob := (old.map fun v => leBytes m.elemB v).getD []
    s.modRun c k num fun r =>
      let va := (m.aux + i * m.elemB) % 2 ^ 58
      let more : List CopyWrite := if old.isSome && m.aux != 0 then [{ addr := r.pa va, va := va, bytes := ob, aux := true }]
        else []
      { r with writes := (modAt r.writes i fun w => { w with done := true, old := ob }) ++ more, evt := r.evt ||| fl }

/-- A write as it goes out: a control word is written whole, and bytes of it that the command does not give are free values
(R382, log 80). -/
def State.wholeWord (s : State) (w : CopyWrite) : State × Nat × List Byte :=
  if paKind w.addr = 3 ∧ w.bytes.length < 8 then
    let o := w.addr % 8
    let l := tab 8 (Config.copyRest s.free)
    ({ s with free := s.free + 1 }, w.addr - o, l.take o ++ w.bytes ++ l.drop (o + w.bytes.length))
  else (s, w.addr, w.bytes)

/-- The write numbered `i` starts. -/
def State.startWrite (s : State) (c k : Nat) (m : CopyCmd) (r : CopyRun) (i : Nat) (w₀ : CopyWrite) : State :=
  let d := dieOf m.x
  let s := s.modRun c k m.num fun r => { r with writes := modAt r.writes i fun w => { w with sent := true } }
  let (s, addr, bytes) := s.wholeWord w₀
  let w : CopyWrite := { w₀ with addr := addr, bytes := bytes }
  let a := s.homeFrom d w.addr
  if m.dstk ≠ 0 then
    let s := if m.dstk = 1 && w.addr % 2 == 1 then s.modRun c k m.num fun r =>
        { r with pats := r.pats ++ [64 * (1 - (s.core m.special.1).patBank) + w.addr / 2] } else s
    (s.writeSpecial m r.bank w).wrote c k m.num i none 0
  else if paDie a = d then
    let s := s.countHbm w.addr w.bytes.length true m.world
    if m.atomic && !w.aux then
      let (s, old, fl) := s.atomicAt w.addr m.ty m.aop (leVal w.bytes) (leVal w.cmp)
      (s.acquire m.x 5 (.mem w.addr m.elemB)).wrote c k m.num i (some old) fl
    else
      let (s, denied) := s.portWrite w.addr w.bytes m.world (.context m.priv)
      if denied then s.cmdFault c k m.num cWorldViolation (BitVec.ofNat 64 w.va) else s.wrote c k m.num i none 0
  else
    let body := if m.atomic && !w.aux then ReqBody.atomic a m.ty m.aop (leVal w.bytes) (leVal w.cmp)
      else .store (w.bytes.zipIdx.map fun p => (a + p.2, p.1))
    s.request d { num := 0, dst := paDie a, body := body, issuer := .copy c k m.num 2 i, secure := m.world, priv := m.priv,
                  rec_ := m.rrep }

/-- One transfer of a command. -/
def State.transfer (s : State) (c k : Nat) (m : CopyCmd) : State :=
  match m.run, s.transferOf (cluOf m.x) m with
  | some r, some (0, i) => match r.index[i]? with
    | some q => s.startRead c k m 0 i q
    | none => s
  | some r, some (1, i) => match r.reads[i]? with
    | some q => s.startRead c k m 1 i q
    | none => s
  | some r, some (_, i) => match r.writes[i]? with
    | some w => s.startWrite c k m r i w
    | none => s
  | _, none => s
  | none, _ => s

/-- The queue's next command in ascending number, cyclically from the one served last, with a transfer ready. -/
def State.nextCmd (s : State) (c k : Nat) : Option CopyCmd :=
  let q := spGet {} (s.core c).cq k
  let l := q.cmds.filter fun m => (s.transferOf (c / 8) m).isSome
  (l.find? fun m => decide (q.last < m.num)).orElse fun _ => l.head?

/-- COPY_TRANSFER: engine `k` of cluster `u` serves the next core cyclically, ascending, that has a transfer ready. -/
def State.engineTurn (s : State) (u k : Nat) : State :=
  let last := spGet 7 (s.clu u).engLast k
  match (tab 8 fun i => (last + 1 + i) % 8).findSome? fun j => (s.nextCmd (8 * u + j) k).map fun m => (j, m) with
  | none => s
  | some (j, m) =>
    let c := 8 * u + j
    let s := s.modClu u fun e => { e with engLast := spPut k j e.engLast }
    let s := s.modCore c fun e => { e with cq := spMod {} k (fun q => { q with last := m.num }) e.cq }
    s.transfer c k m

/-! ## Completion (R167, R168, R170, R171, R210) -/

/-- An entry put before the first whose key is larger. -/
def insertBy {α : Type} (key : α → Nat) (a : α) : List α → List α
  | [] => [a]
  | b :: t => if key a < key b then a :: b :: t else b :: insertBy key a t
/-- A list in ascending order of a key; equal keys keep their order. -/
def sortBy {α : Type} (key : α → Nat) (l : List α) : List α := l.foldl (fun m a => insertBy key a m) []

/-- The bytes that the destination's checksum covers (R167): every byte written, in ascending address, and those of one address
in the order of their rows. An element that a failed compare-and-swap leaves as it is counts as no byte written (log 80). -/
def CopyCmd.written (m : CopyCmd) (r : CopyRun) : List Byte :=
  let l := r.writes.filter fun w => !(m.atomic && !w.aux && m.aop == 7 && w.old != w.cmp)
  let new := fun (w : CopyWrite) =>
    if m.atomic && !w.aux then leBytes m.elemB (aopApply m.ty m.aop (leVal w.old) (leVal w.bytes) (leVal w.cmp)).1 else w.bytes
  let cells := fun (l : List CopyWrite) => (sortBy Prod.fst (l.flatMap fun w => (new w).zipIdx.map fun p => (w.va + p.2, p.1))).map (·.2)
  cells (l.filter (!·.aux)) ++ cells (l.filter (·.aux))

/-- The two checksums of a command that has written everything. -/
def CopyCmd.crcs (m : CopyCmd) (r : CopyRun) : Nat × Nat := (crc32c (r.bytes.take r.used), crc32c (m.written r))

/-- The command has nothing left to do: it stopped on a fault, or every write has performed. -/
def CopyRun.ended (r : CopyRun) : Bool :=
  (r.fault.isSome && r.writes.all fun w => w.done || !w.sent) || (r.fault.isNone && r.phase == 3 && r.writes.all (·.done))

/-- The cause and FADDR that a finished command reports. -/
def CopyCmd.result (m : CopyCmd) (r : CopyRun) : Option (Nat × Word) :=
  match r.fault with
  | some f => some f
  | none =>
    let (a, b) := m.crcs r
    if (m.flag 2 && a != m.fld 40 4) || (m.flag 3 && b != m.fld 44 4) then some (cChecksumMismatch, BitVec.ofNat 64 m.va)
    else none

/-- A queue with command `num` completed: the timeline rises over every completed run of numbers (R170). -/
def CopyQ.complete (q : CopyQ) (num : Nat) : CopyQ :=
  let done := q.done ++ [num]
  let tl := (List.range done.length).foldl (fun t _ => if done.contains (t + 1) then t + 1 else t) q.tl
  { q with cmds := q.cmds.filter (·.num != num), done := done.filter fun n => decide (tl < n), tl := tl }

/-- The handler start of a command of queue `k` (R114, R171); one of a stream that is saved waits for its restore (R169). -/
def State.copyHandler (s : State) (k : Nat) (m : CopyCmd) : State :=
  let c := 64 * dieOf m.x + m.fld 38 1
  let e := m.fld 36 2
  let r : StartReq := { entry := e, regs := [(1, BitVec.ofNat 64 m.va), (2, BitVec.ofNat 64 m.num)], stream := m.stream,
                        prio := m.prio, origin := .handler }
  if 0x11FF < e then
    s.deliver (dieOf m.x) { cause := cKernelEntry, src := 4, fl := 2 * b2n m.strSecure, who := cidOf c + 64 * m.stream.toNat,
                            faddr := BitVec.ofNat 64 m.num, clk := s.clk (dieOf m.x), world := m.strSecure }
  else
    if s.strStill (dieOf m.x / 64) m.stream.toNat then
      s.modStrm (dieOf m.x / 64) m.stream.toNat fun t =>
        { t with late := t.late ++ [(c, { cycle := s.now, rank := 0, order := [k, coreOf m.x, m.num], req := r })] }
    else s.arriveStart c 0 r [k, coreOf m.x, m.num]

/-- The completion of a command that is over: checksums, STAT, the timeline, and its frame, deferral or handler. -/
def State.copyFinish (s : State) (c k : Nat) (m : CopyCmd) (r : CopyRun) : State :=
  let f := m.result r
  let tagged := m.tag.isSome
  let ok := r.fault.isNone
  let (a, b) := m.crcs r
  let s := if ok && m.flag 0 && !m.flag 2 then s.writeBytes (m.pa + 40) (leBytes 4 a) else s
  let s := if ok && m.flag 1 && !m.flag 3 then s.writeBytes (m.pa + 44) (leBytes 4 b) else s
  let cause := match f with
    | some (q, _) => if tagged then 0 else q
    | none => 0
  let s := s.writeBytes (m.pa + 56) (leBytes 8 (cause * 2 ^ 16 + r.evt.toNat))
  let s := if m.dstk = 1 then s.modCore m.special.1 fun e => { e with patOk := (e.patOk ++ r.pats).eraseDups } else s
  let s := s.modCore c fun e => { e with cq := spMod {} k (·.complete m.num) e.cq }
  let s := match m.tag, f with
    | some t, some (q, w) => s.deferFault c m.stream.toNat t.toNat q w 1 [0, k, m.num]
    | none, some (q, w) =>
      s.deliver (dieOf m.x) { cause := q, src := 1, fl := 2 * b2n m.strSecure, who := cidOf c + 64 * m.stream.toNat, faddr := w,
                              aux := BitVec.ofNat 64 (k + m.num % 2 ^ 32 * 2 ^ 32), clk := s.clk (dieOf m.x), world := m.strSecure }
    | _, none => s
  let s := match m.tag with
    | some t => s.modInfl c m.stream.toNat t.toNat (· - 1)
    | none => s
  if m.flag 4 && f.isNone then s.copyHandler k m else s

/-- An untagged command that the fault of the same walk stopped, and whose frame comes before that of command `num` of queue `k`
of core `c`, has not completed (R316). -/
def State.copyBehind (s : State) (c k num : Nat) (w : Nat × Nat) : Bool :=
  (s.cores.filter fun q => q.1 / 64 == c / 64).any fun q => (List.range 4).any fun j => (spGet {} q.2.cq j).cmds.any fun m =>
    m.tag.isNone && (m.run.bind CopyRun.walk) == some w && keyLt [q.1 / 8, j, m.num] [c / 8, k, num]

/-- COPY_COMMAND_COMPLETE: an untagged fault waits for room in the trap store (R312), and that of a walk for the frames before
its own (R316). -/
def State.copyComplete (s : State) (c k num : Nat) : State :=
  match s.cmd c k num with
  | none => s
  | some m =>
    match m.run with
    | none => s
    | some r =>
      if !r.ended || ((m.result r).isSome && m.tag.isNone &&
          (!(s.die (dieOf m.x)).room || (r.walk.map (s.copyBehind c k num)).getD false)) then s
      else s.copyFinish c k m r

/-! ## Instructions and events -/


/-- CPY (R162): Puts a copy descriptor into a copy queue. -/
def execCpy (d : BitVec 5) (a : BitVec 5) (b : BitVec 5) (n : BitVec 2) (s : State) : Host.Outcome State Fault Refusal :=
  slotOp 3 (.cpy d a b n) s fun s => copyIssue d.toNat a.toNat b.toNat n.toNat false s

/-- CPYA (R166): Puts an accumulate-on-write copy descriptor into a copy queue. -/
def execCpya (d : BitVec 5) (a : BitVec 5) (b : BitVec 5) (n : BitVec 2) (s : State) : Host.Outcome State Fault Refusal :=
  slotOp 3 (.cpya d a b n) s fun s => copyIssue d.toNat a.toNat b.toNat n.toNat true s

/-- TLWAIT (R170): Waits until a timeline counter reaches a value and acquires. -/
def execTlwait (a : BitVec 5) (n : BitVec 5) (s : State) : Host.Outcome State Fault Refusal :=
  slotOp 3 (.tlwait a n) s fun s => .ok s

/-- TLRD (R170): Reads a timeline counter without acquiring. -/
def execTlrd (d : BitVec 5) (n : BitVec 5) (s : State) : Host.Outcome State Fault Refusal :=
  slotOp 3 (.tlrd d n) s fun s => .ok (s.later 3 1 (.s d.toNat (BitVec.ofNat 64 (spGet {} (s.core (coreOf s.x)).cq n.toNat).tl)))

/-- COPY_COMMAND_START (R384): A queued copy command starts, translating and checking before moving bytes. -/
def execCopyCommandStart (core : Nat) (k : Nat) (s : State) : Host.Outcome State Fault Refusal :=
  .next (s.copyStart core k)

/-- COPY_TRANSFER (R384): An engine starts one transfer of up to 64 bytes for a running command. -/
def execCopyTransfer (clu : Nat) (k : Nat) (s : State) : Host.Outcome State Fault Refusal :=
  .next (s.engineTurn clu k)

/-- COPY_COMMAND_COMPLETE (R168): A command writes STAT, advances its timeline and may start a handler or deliver or defer a fault. -/
def execCopyCommandComplete (core : Nat) (k : Nat) (n : Nat) (s : State) : Host.Outcome State Fault Refusal :=
  .next (s.copyComplete core k n)

end Sys2Proof.Machine
end

