-- ==== Sys2Proof/Machine/Wire.lean ====
section
/-! DEFINITION. Packets as they travel: their flits and the 64 bytes of the header flit (R352, R354, R356, R357). -/

namespace Sys2Proof.Machine

/-! ## Payloads (R356, R357, R374) -/

/-- Type of an element sum, as R166 numbers types: fp32 and widened bf16, fp64, i64. -/
def collTy (fmt : Nat) : Nat := if fmt = 0x08 then 5 else if fmt = 0x04 then 1 else 4

/-- Bytes of a chunk's elements on the wire. -/
def Chunk.bytes (c : Chunk) : Nat :=
  if c.elems.isEmpty then 0
  else if c.wc then
    let n := c.elems.length
    (tab ((n + 63) / 64) fun i => if c.plain.contains i then 4 * min 64 (n - 64 * i) else 36).sum
  else (c.elems.length * (if c.kind < 2 then 8 * aopBytes (collTy c.etype) else fmtBits c.etype) + 7) / 8

/-- Payload bytes of a packet. -/
def PktBody.payload : PktBody → Nat
  | .req (.store d) => d.length
  | .data b => b.length
  | .half .. => 512
  | .boardReply _ _ none _ _ => 40
  | .mgmt _ => 32
  | .chunk c => c.bytes
  | .selfd c _ _ => c.bytes
  | _ => 0

/-- Payload flits of a packet; a store's bytes sit at PA mod 64 of its one flit. -/
def PktBody.npay : PktBody → Nat
  | .req (.store _) => 1
  | b => (b.payload + 63) / 64

/-- Flits of a packet: the header and its payload. -/
def PktBody.flits (b : PktBody) : Nat := 1 + b.npay

/-! ## The header flit (R356) -/

/-- TYPE: a refused board operation is answered by a NAK; a completion token is in no row of R357. -/
def PktBody.type : PktBody → Option Nat
  | .req (.load _ _) => some 1
  | .req (.store _) => some 2
  | .req (.atomic ..) => some 3
  | .data _ => some 4
  | .old _ => some 4
  | .ack => some 5
  | .greet => some 5
  | .nak _ _ => some 6
  | .nakLost _ => some 6
  | .collNak .. => some 6
  | .half .. => some 7
  | .chunk _ => some 8
  | .selfd .. => some 9
  | .req (.flag ..) => some 10
  | .req (.board ..) => some 11
  | .boardReply _ _ none _ _ => some 12
  | .boardReply _ _ (some _) _ _ => some 6
  | .mgmt _ => some 13
  | .credit .. => some 14
  | .notice => some 15
  | .token .. => none

/-- CAUSE. -/
def PktBody.cause : PktBody → Nat
  | .nak c _ => c
  | .nakLost c => c
  | .collNak _ _ _ c _ => c
  | .boardReply _ _ r _ _ => r.getD 0
  | .chunk c => (c.poison.map (·.2)).getD 0
  | .selfd c _ _ => (c.poison.map (·.2)).getD 0
  | _ => 0

/-- GRP or QID. -/
def PktBody.grp : PktBody → Nat
  | .half c q h _ _ => q + 8 * (c % 64) + 512 * h
  | .chunk c => c.group + 256 * c.gen
  | .selfd c _ _ => c.group + 256 * c.gen
  | .credit g n _ => g + 256 * n
  | .collNak g n _ _ _ => g + 256 * n
  | _ => 0

/-- LEN: payload bytes; the bytes that a load asks for; the element count of a collective; the bytes granted. -/
def PktBody.len : PktBody → Nat
  | .req (.load _ n) => n
  | .chunk c => c.count
  | .selfd c _ _ => c.count
  | .credit _ _ n => n
  | b => b.payload

/-- PA or EOFF of a packet to die `t`; for a board operation the word s[a] that names the board and slot (R286). -/
def PktBody.addr (t : Nat) : PktBody → Nat
  | .req (.load a _) => a
  | .req (.store d) => ((d.head?).map (·.1)).getD 0
  | .req (.atomic a _ _ _ _) => a
  | .req (.flag c n _ _ _ _ _) => flagPa c n
  | .req (.board n slot _ _ _ _ _) => t / 64 * 2 ^ 32 + (t % 64 * 64 + n) * 2 ^ 16 + slot
  | .chunk c => c.eoff
  | .selfd c _ _ => c.eoff
  | _ => 0

/-- OPND. -/
def PktBody.opnd : PktBody → Nat
  | .req (.atomic _ _ _ v _) => v
  | .req (.flag _ _ (.add v) _ _ _ _) => v
  | .req (.flag _ _ (.set v) _ _ _ _) => v.toNat
  | .req (.board _ _ (.post v) _ _ _ _) => v.toNat
  | .old v => v
  | .half _ _ _ _ v => v.toNat
  | _ => 0

/-- A list of small fields packed from bit 0 on, each `w` bits wide. -/
def packFields (w : Nat) (l : List Nat) : Nat := (l.take 8).zipIdx.foldl (fun n p => n + p.1 % 2 ^ w * 2 ^ (w * p.2)) 0

/-- Bytes 32 to 47: ROUTE, OPS, NR and NO, CNUM, KIND or AOP, ETYPE, CHUNK. -/
def PktBody.tail : PktBody → List Byte
  | .req (.atomic _ ty op _ _) => leBytes 10 0 ++ leBytes 1 (op + 16 * ty) ++ leBytes 5 0
  | .chunk c => leBytes 8 0 ++ leBytes 2 c.cnum ++ leBytes 1 (c.kind + 8 * c.op + 32 * b2n c.wc) ++ leBytes 1 c.etype ++ leBytes 4 c.idx
  | .selfd c r o =>
    leBytes 3 (packFields 3 r) ++ leBytes 4 (packFields 4 o) ++ leBytes 1 (r.length + 16 * o.length) ++ leBytes 2 c.cnum ++
      leBytes 1 (c.kind + 8 * c.op + 32 * b2n c.wc) ++ leBytes 1 c.etype ++ leBytes 4 c.idx
  | .collNak _ _ n _ _ => leBytes 8 0 ++ leBytes 2 n ++ leBytes 6 0
  | _ => leBytes 16 0

/-- CMP. -/
def PktBody.cmp : PktBody → Nat
  | .req (.atomic _ _ op _ c) => if op = 7 then c else 0
  | _ => 0

/-- Bytes 0 to 55 of the header flit of a packet of type `t`. -/
def Pkt.fields (p : Pkt) (t : Nat) : List Byte :=
  leBytes 1 t ++ leBytes 1 (p.body.npay + 16 * (2 * p.body.pair + b2n p.odd) + 128 * b2n p.rty) ++
  leBytes 1 (p.cls + 16 * b2n p.secure + 32 * p.scope) ++ leBytes 1 p.body.cause ++ leBytes 2 (domD p.src) ++ leBytes 2 (domD p.dst) ++
  leBytes 2 p.seq ++ leBytes 2 p.body.grp ++ leBytes 4 p.body.len ++ leBytes 8 (p.body.addr p.dst) ++ leBytes 8 p.body.opnd ++ p.body.tail ++
  leBytes 8 p.body.cmp

/-- The 64 bytes of a packet's header flit: HCRC is the CRC-32C of bytes 0 to 55. -/
def Pkt.header (p : Pkt) : Option (List Byte) :=
  p.body.type.map fun t => p.fields t ++ leBytes 4 (crc32c (p.fields t)) ++ leBytes 4 0

end Sys2Proof.Machine
end

