-- ==== Sys2Proof/Machine/Net.lean ====
section
/-! DEFINITION. Long loads and stores beyond the cluster, requests at their target, replies at their source, and the
torus: forwarding, lost packets and reset notices (R25, R151, R267, R268, R336, R353 to R362, R382). -/

namespace Sys2Proof.Machine

/-- Cycles of 20 µs at the core clock of 3 GHz (R360, R362). -/
def resendCycles : Nat := 60000

/-! ## Ends of requests at their source (R151, R267, R286, R360) -/

/-- FADDR of a cause that came with a NAK: the physical address for the causes of the fabric, else the VA (R315). -/
def nakAddr (cause : Nat) (pa va : Word) : Word :=
  if cause == cRemoteReset || cause == cRemoteTimeout || cause == cLinkDown || cause == cDuplicateWindow ||
      cause == cSramRange then pa else va

/-- A long load of context `x` ends in a trap when its data would have arrived (R151, R360). -/
def State.longTrap (s : State) (x : Nat) (o : LongOp) (cause : Nat) (faddr : Word) : State :=
  (s.refusal x o cause faddr).settle o.num

/-- The long load numbered `n` of context `x`. -/
def State.longLoad (s : State) (x n : Nat) : Option LongOp := (s.ctx x).longs.find? fun o => o.id == n && o.isLoad

/-- Part `i` of a long load changed. -/
def State.modPart (s : State) (x n i : Nat) (f : LongPart → LongPart) : State :=
  s.modCtx x fun c => { c with longs := c.longs.map fun o =>
    if o.id == n && o.isLoad then { o with parts := modAt o.parts i f } else o }

/-- An entry of a store buffer is acknowledged and leaves, and late entries enter (R267). -/
def State.sbDone (s : State) (u id : Nat) : State :=
  (((s.modClu u fun c => { c with sb := c.sb.filter (·.id != id) }).settle id).refill u)

/-- The frame of a store that its home refused: the context keeps running (R311, R360). -/
def State.storeFrame (s : State) (e : SbEnt) (cause : Nat) (pa : Word) : State :=
  let c := s.ctx e.x
  s.deliver (dieOf e.x)
    { cause := cause, src := 0, fl := 2 * b2n e.secure + 12, baddr := e.baddr, loc := 3 + 4 * e.bank + 8 * (e.x % 4),
      who := cidOf (coreOf e.x) + 64 * c.stream.toNat, faddr := pa, clk := s.clk (dieOf e.x), world := e.secure }

/-- A flag or board operation ends with a cause (R286, R327, R360). -/
def State.outFails (s : State) (id x cause : Nat) (pa : Word) (flag : Bool) : State :=
  let s := match (s.ctx x).longs.find? fun o => o.num == id && !o.isLoad with
    | some l => s.refusal x l cause (if flag then pa else BitVec.ofNat 64 l.off)
    | none =>
      match (List.range 4).findSome? fun k => ((spGet ({} : Ctx) (s.strm (dieOf x / 64) k).vctx x).longs.find? fun (o : LongOp) =>
          o.num == id && !o.isLoad).map fun o => (k, o) with
      | some (k, l) => s.vaultLog k x l.id
          { kind := 4, cause := cause, cid := cidOf (coreOf x), ctx := x % 4, word := if flag then pa else BitVec.ofNat 64 l.off }
      | none => s
  if flag then s.applied id x else s.settle id

/-- The physical address that a request names. -/
def ReqBody.pa : ReqBody → Nat
  | .load a _ => a
  | .store d => ((d.head?).map (·.1)).getD 0
  | .atomic a _ _ _ _ => a
  | .flag c n _ _ _ _ _ => flagPa c n
  | .board .. => 0

/-- A request ends with a cause at its source (R360). -/
def State.failReq (s : State) (d : Nat) (r : Req) (cause : Nat) (faddr : Word) : State :=
  let s := s.endReq d r
  match r.issuer with
  | .long x n i =>
    match s.longLoad x n with
    | some o => s.longTrap x o cause (nakAddr cause faddr ((o.parts[i]?.map (·.va)).getD 0))
    | none => s
  | .sb u id =>
    match (s.clu u).sb.find? (·.id == id) with
    | some e => (s.sbDone u id).storeFrame e cause faddr
    | none => s
  | .out id x =>
    match r.body with
    | .flag .. => s.outFails id x cause faddr true
    | _ => s.outFails id x cause faddr false
  | .copy c k num which i =>
    match s.cmd c k num with
    | none => s
    | some m =>
      let va := match m.run with
        | none => 0
        | some q => if which = 2 then (q.writes[i]?.map CopyWrite.va).getD 0
            else ((if which = 0 then q.index else q.reads)[i]?.map CopyRead.va).getD 0
      let s := if which = 2 then s.modRun c k num fun q => { q with writes := modAt q.writes i fun w => { w with sent := false } }
        else s
      s.cmdFault c k num cause (nakAddr cause faddr (BitVec.ofNat 64 va))

/-- A request ends with its data, its old value or its acknowledgement. -/
def State.endsWell (s : State) (d : Nat) (r : Req) (b : PktBody) : State :=
  let s := s.endReq d r
  match r.issuer, b with
  | .long x n i, .data l => s.modPart x n i fun p => { p with got := some l }
  | .sb u id, .ack => s.sbDone u id
  | .copy c k num which i, .data l => s.readGot c k num which i l
  | .copy c k num _ i, .ack => s.wrote c k num i none 0
  | .copy c k num _ i, .old v =>
    match r.body, s.cmd c k num with
    | .atomic a ty op o cmp, some m =>
      ((s.acquire m.x 5 (.mem a (aopBytes ty))).wrote c k num i (some v) (aopApply ty op v o cmp).2)
    | _, _ => s
  | _, _ => s

/-! ## Long loads (R151 to R154, R268, R275) -/

/-- Part `i` of a long load takes the bytes that the buffer forwards to it while every entry that it matched is still there;
else it is read at the own die, or asked for at another, once those entries are acknowledged (R268, R269, log 85). -/
def State.partStep (s : State) (x n i : Nat) : State :=
  match s.longLoad x n with
  | none => s
  | some o =>
    match o.parts[i]? with
    | none => s
    | some p =>
      if p.got.isSome || p.sent || p.waits.any s.pend.contains then s
      else if !p.src.isEmpty && p.src.all s.pend.contains then
        (s.modPart x n i fun q => { q with got := some p.fwd }).observe x p.src
      else if p.src.any s.pend.contains then s
      else
        let a := s.homeFrom (dieOf x) p.addr
        if paDie a = dieOf x then
          if s.badAt p.addr p.len then s.longTrap x o cEccUncorrectable p.va
          else (s.countHbm p.addr p.len false o.secure).modPart x n i fun q =>
            { q with got := some (s.portRead p.addr p.len o.secure) }
        else
          (s.modPart x n i fun q => { q with sent := true }).request (dieOf x)
            { num := 0, dst := paDie a, body := .load a p.len, issuer := .long x n i, cls := o.cls, secure := o.secure,
              priv := (s.ctx x).priv }

/-- The bytes of a lane of a long load. -/
def LongOp.laneVal (o : LongOp) (l : Nat) : Nat := leVal ((o.parts.filter (·.lane == l)).flatMap fun p => p.got.getD [])

/-- A long load whose parts have all arrived writes its register, and an acquire acquires; one of the own cluster's SRAM has
acquired at issue (R151, R153, R266, R275). -/
def State.longLand (s : State) (x n : Nat) : State :=
  match s.longLoad x n with
  | none => s
  | some o =>
    if !o.parts.all fun p => p.got.isSome then s
    else if let some va := o.bad then s.longTrap x o cEccUncorrectable va
    else
      let dest : Dest := match o.dest with
        | .s r z => .s r (szExtend z (o.laneVal 0))
        | .v r z => vecDest r z o.laneVal
        | _ => Dest.none
      let s := s.modCtx x fun c => { c.put dest with longs := c.longs.filter (·.id != n) }
      let s := match o.kind with
        | .load (some sc) => if o.own then s else o.parts.foldl (fun (s : State) (p : LongPart) => s.acquire x sc (.mem p.addr p.len)) s
        | _ => s
      s.settle o.num

/-- LONG_LOAD_DATA: what the long load `n` waits for no longer is read, and it lands once everything has arrived. -/
def State.longStep (s : State) (x n : Nat) : State :=
  match s.longLoad x n with
  | none => s
  | some o =>
    if o.waits.any s.pend.contains then s
    else ((List.range o.parts.length).foldl (fun (s : State) i => s.partStep x n i) s).longLand x n

/-! ## The store buffer drains (R267, R272 to R274) -/

/-- The home die of an entry. -/
def SbEnt.home (e : SbEnt) : Nat := paDie (((e.data.head?).map (·.1)).getD 0)

/-- The words of control space that a set of bytes holds: addresses ascending, and values. -/
def ctlWords (l : Sp Byte) : List (Nat × Word) :=
  ((l.map fun p => p.1 / 8).eraseDups).map fun w => (8 * w, wordOf (fun i => spGet 0 l (8 * w + i)) 0)

/-- Bytes stored at their home: memory, or control registers word by word; whether a control write was denied. -/
def State.storeAt (s : State) (l : Sp Byte) (secure : Bool) (who : Maker) : State × Bool :=
  match l with
  | [] => (s, false)
  | (a, _) :: _ =>
    if paKind a = 3 then
      (ctlWords l).foldl (fun (q : State × Bool) p =>
        let (t, b) := q.1.ctlWrite (paDie p.1) (paOff p.1) { data := p.2, secure := secure, who := who }
        (t, q.2 || b)) (s, false)
    else (s.writeCells l, false)

/-- An entry `e`, with the older entries of the buffer before it, may leave the head of its class queue. -/
def State.mayDrain (s : State) (older : List SbEnt) (e : SbEnt) : Bool :=
  e.waits.all (fun i => !s.pend.contains i) &&
  older.all fun o =>
    !e.meets o &&
    !(o.cls == e.cls && o.x == e.x && (o.home != e.home || e.home == dieOf e.x))

/-- STORE_BUFFER_DRAIN: the head of class queue `k` leaves cluster `u` toward its home (R267). -/
def State.drain (s₀ : State) (u k : Nat) : State :=
  let s := s₀.refill u
  let sb := (s.clu u).sb
  match sb.find? fun e => e.cls == k && !e.sent with
  | none => s
  | some e =>
    if !s.mayDrain (sb.takeWhile (·.id != e.id)) e then s
    else if paDie (s.homeFrom (u / 8) (((e.data.head?).map (·.1)).getD 0)) = u / 8 then
      let s := s.countHbm (((e.data.head?).map (·.1)).getD 0) e.data.length true e.secure
      (s.storeAt e.data e.secure (.context e.priv)).1.sbDone u e.id
    else
      let s := s.modClu u fun c => { c with sb := c.sb.map fun o => if o.id == e.id then { o with sent := true } else o }
      let data := e.data.map fun b => (s.homeFrom (u / 8) b.1, b.2)
      s.request (u / 8) { num := 0, dst := paDie (((data.head?).map (·.1)).getD 0), body := .store data, issuer := .sb u e.id, cls := k,
                          secure := e.secure, priv := e.priv }

/-- WCB_FLUSH_TIMEOUT: entry `n` of a cluster's write-combining buffer has waited WCBWAIT cycles (R293). -/
def State.wcbTimeout (s : State) (u n : Nat) : State :=
  match (s.clu u).wcb[n]? with
  | some w =>
    if (s.clu u).wcbwait.toNat ≤ s.now - w.cycle then (s.flushWcb u w).countDie (u / 8) 17 (u % 8) 1 (s.cluSecure u) else s
  | none => s

/-! ## Requests at their target (R25, R336, R359 to R361, R382) -/

/-- What a target does with a request that has reached it. -/
inductive Verdict where
  /-- it waits in the reorder store -/
  | hold
  /-- it is discarded: the reorder store is full, or a resend of it has been served before it -/
  | drop
  /-- it executes -/
  | run
  /-- a load executes again -/
  | again
  /-- it is answered from the record -/
  | saved (v : Saved)
  | nak (cause : Nat)
  deriving DecidableEq, Repr

/-- How far a SEQ lies ahead of the next one expected, modulo 2^16. -/
def seqAhead (expect seq : Nat) : Nat := (seq + 2 ^ 16 - expect) % 2 ^ 16

/-- A request of `src` numbered `seq` waits in a flag port or at a board of die `d`. -/
def State.atPort (s : State) (d src seq : Nat) : Bool :=
  ((s.die d).bport.any fun a => a.remote == some (src, seq)) ||
    s.cores.any fun k => k.1 / 64 == d && k.2.fport.any fun a => a.remote == some (src, seq)

/-- The packet is a request. -/
def PktBody.isReq : PktBody → Bool
  | .req _ => true
  | _ => false

/-- The requests that wait in the reorder store of die `d` for a missing one, among those sent before packet `n` (R359). -/
def State.reordered (s : State) (d n : Nat) : Nat :=
  (s.pkts.filter fun q => q.old.isNone &&
    let ahead := seqAhead (spGet 0 (s.die d).expect q.src) q.seq
    q.here == d && q.dst == d && q.body.isReq && decide (q.num < n) && ahead != 0 && decide (ahead < 2 ^ 15)).length

/-- Whose record a request stands in: its source's, and apart from it that of requests which an old home forwarded (R378). -/
def Pkt.filterKey (p : Pkt) : Nat := match p.old with
  | some o => p.src + 2048 * (o + 1)
  | none => p.src

/-- The verdict on a request packet at die `d` (R359 to R361); a forwarded one has passed the old home's numbering. -/
def State.judge (s : State) (d : Nat) (p : Pkt) : Verdict :=
  let e := s.die d
  let next := (e.expect.find? (·.1 == p.src)).map (·.2)
  let lost := e.lost.contains p.src
  let rec_ : Option Saved := ((spGet [] e.filter p.filterKey).find? (·.1 == p.seq)).map (·.2)
  let ahead := seqAhead (next.getD 0) p.seq
  if p.dst ≠ d then .hold
  else if e.inReset then .nak cRemoteReset
  else if p.old.isSome then
    match rec_ with
    | none => .run
    | some .none => .again
    | some v => .saved v
  else match p.rty, rec_ with
    | true, some Saved.none => .again
    | true, some v => .saved v
    | _, _ =>
      if p.rty && s.atPort d p.src p.seq then .hold
      else if p.rty && lost then .nak cRemoteReset
      else if next.isNone && lost then .run
      else if ahead = 0 then .run
      else if 2 ^ 15 ≤ ahead then (if p.rty then .nak cDuplicateWindow else .drop)
      else if 256 ≤ s.reordered d p.num then .drop
      else .hold

/-- The first SEQ from `n` on that is not among those given. -/
def skipSeqs (l : List Nat) : Nat → Nat → Nat
  | 0, n => n
  | k + 1, n => if l.contains n then skipSeqs l k ((n + 1) % 2 ^ 16) else n

/-- The request is the next one: its SEQ is no longer awaited, and neither are those after it whose resends have ended with
REMOTE_RESET. -/
def State.passSeq (s : State) (d : Nat) (p : Pkt) : State :=
  if p.old.isSome then s else s.modDie d fun e =>
    let next := (e.expect.find? (·.1 == p.src)).map (·.2)
    if next == some p.seq || (next.isNone && (e.lost.contains p.src || p.seq == 0))
    then
      let l := spGet [] e.nakked p.src
      let n := skipSeqs l l.length ((p.seq + 1) % 2 ^ 16)
      { e with expect := spPut p.src n e.expect, nakked := spPut p.src (l.filter fun q => decide (seqAhead n q < 2 ^ 15)) e.nakked }
    else e

/-- A resend that ends with REMOTE_RESET is awaited no longer (R361): it is passed where it is the next one, and remembered
until then where it lies ahead. -/
def State.passNak (s : State) (d : Nat) (p : Pkt) : State :=
  let e := s.die d
  if e.inReset || p.old.isSome then s
  else if (e.expect.find? (·.1 == p.src)).map (·.2) == some p.seq then s.passSeq d p
  else s.modDie d fun e => { e with nakked := spMod [] p.src (fun l => if l.contains p.seq then l else l ++ [p.seq]) e.nakked }

/-- The world of a request that came through a port (R335). -/
def State.pktSecure (s : State) (d : Nat) (p : Pkt) : Bool := p.secure && (s.reg d 0x5000100).getLsbD p.via

/-- The runs of bytes that a memory request reaches. -/
def ReqBody.spans : ReqBody → List (Nat × Nat)
  | .load a n => [(a, n)]
  | .store d => d.map fun p => (p.1, 1)
  | .atomic a ty _ _ _ => [(a, aopBytes ty)]
  | _ => []

/-- The request writes. -/
def ReqBody.writes : ReqBody → Bool
  | .store _ => true
  | .atomic .. => true
  | _ => false

/-- A store of one whole aligned 64-byte record. -/
def ReqBody.record : ReqBody → Bool
  | .store d => d.length == 64 && decide (((d.head?).map (·.1)).getD 1 % 64 = 0)
  | _ => false

/-- The request carries one naturally aligned 8-byte access (R382). -/
def ReqBody.oneWord : ReqBody → Bool
  | .load a n => a % 8 == 0 && n == 8
  | .store d => match d with
    | (a, _) :: _ => a % 8 == 0 && d.map (·.1) == tab 8 (a + ·)
    | [] => false
  | _ => false

/-- The checks on a memory request where it lands: the cause and address of a NAK (R203, R265, R336, R382). -/
def State.reqFail (s : State) (b : ReqBody) (secure : Bool) (rec_ : Bool := false) : Option (Nat × Word) :=
  let l := b.spans
  let at_ := BitVec.ofNat 64 b.pa
  if !secure && l.any fun p => s.secureAt p.1 p.2 then some (cWorldViolation, at_)
  else if paKind b.pa = 3 && !b.oneWord then some (cAlignment, at_)
  else match (l.flatMap fun p => (List.range p.2).map (p.1 + ·)).find? fun a => s.inReserved a 1 with
    | some a => some (cSramRange, BitVec.ofNat 64 a)
    | none =>
      if b.writes && !(rec_ && b.record) && l.any fun p => s.seededPa p.1 p.2 then some (cWeightWrite, at_)
      else if !b.writes && l.any fun p => s.badAt p.1 p.2 then some (cEccUncorrectable, at_)
      else none

/-- A request recorded at die `d`: a load that executes again keeps its place among the last 256. -/
def State.recordPkt (s : State) (d : Nat) (p : Pkt) (v : Saved) : State :=
  s.modDie d fun e => { e with filter := spMod [] p.filterKey (fun l =>
    if l.any (·.1 == p.seq) then l.map fun q => if q.1 == p.seq then (p.seq, v) else q else ((p.seq, v) :: l).take 256) e.filter }

/-- A request answered from die `d`, in the old home's name where that forwarded it, and recorded. -/
def State.answerPkt (s : State) (d : Nat) (p : Pkt) (v : Saved) (b : PktBody) : State :=
  (s.recordPkt d p v).send { num := 0, src := p.old.getD d, dst := p.src, here := d, seq := p.seq, body := b }

/-- A memory request at other addresses. -/
def ReqBody.moved (f : Nat → Nat) : ReqBody → ReqBody
  | .load a n => .load (f a) n
  | .store l => .store (l.map fun p => (f p.1, p.2))
  | .atomic a ty op v c => .atomic (f a) ty op v c
  | b => b

/-- The request as its old home forwards it to the new one (R378). -/
def State.forwarded (s : State) (d : Nat) (p : Pkt) (b : ReqBody) : Option Pkt :=
  let e := paDie (s.homeOf b.pa)
  match b with
  | .flag .. => none
  | .board .. => none
  | _ => if p.dst = d ∧ paDie b.pa = d ∧ e ≠ d then
      some { p with dst := e, here := d, via := 6, dim := 0, odd := false, secure := s.pktSecure d p, old := some d,
                    body := .req (b.moved s.homeOf) }
    else none

/-- A NAK of a request. -/
def State.nakPkt (s : State) (d : Nat) (p : Pkt) (cause : Nat) (faddr : Word) : State :=
  s.answerPkt d p (.nak cause faddr) (.nak cause faddr)

/-- A request executes at its target as one access, or goes on to the new home of its page (R359, R378). -/
def State.runReq (s : State) (d : Nat) (p : Pkt) (b : ReqBody) : State :=
  let secure := s.pktSecure d p
  match s.forwarded d p b, s.reqFail b secure p.rec_ with
  | some q, _ => (s.recordPkt d p .gone).send q
  | none, some (c, f) => s.nakPkt d p c f
  | none, none =>
    match b with
    | .load a n => (s.countHbm a n false secure).answerPkt d p .none (.data (s.portRead a n secure))
    | .store l =>
      let (s, denied) := (s.countHbm b.pa l.length true secure).storeAt l secure (.context p.priv)
      if denied then s.nakPkt d p cWorldViolation (BitVec.ofNat 64 b.pa) else s.answerPkt d p .ack .ack
    | .atomic a ty op v cmp =>
      let (s, old, _) := (s.countHbm a (aopBytes ty) true secure).atomicAt a ty op v cmp
      s.answerPkt d p (.old old) (.old old)
    | .flag c n op id x sc cov =>
      s.modCore c (·.flagArrives { input := 9, cycle := s.now, n := n, op := op, id := id, x := x, scope := sc, covered := cov,
                                   remote := some (p.src, p.seq) })
    | .board n slot op id x long sc =>
      s.modDie d fun e => { e with bport := e.bport ++
        [{ input := 8, cycle := s.now, b := n, slot := slot, op := op, id := id, x := x, long := long, scope := sc,
           secure := secure, remote := some (p.src, p.seq) }] }

/-- The reply that a record gives (R360), a request that has been forwarded having none once the forwarding is over; a board's
reply goes to the context that the request names. -/
def Saved.reply (b : ReqBody) : Saved → PktBody
  | .none => .ack
  | .ack => .ack
  | .old v => .old v
  | .board ref m w =>
    match b with
    | .board _ _ _ _ x long _ => .boardReply x long ref m w
    | _ => .ack
  | .nak c f => .nak c f
  | .gone => .nak cDuplicateWindow 0

/-- A request that has reached die `d` is dealt with (R359 to R361). -/
def State.serveReq (s : State) (d : Nat) (p : Pkt) (b : ReqBody) : State :=
  let t := s.dropPkt p.num
  match s.judge d p with
  | .hold => s
  | .drop => t
  | .run => (t.passSeq d p).runReq d p b
  | .again => (t.countDie d 15 0 1 p.secure).runReq d p b
  | .saved v =>
    if v = .gone ∧ (s.forwarded d p b).isSome then (t.countDie d 15 0 1 p.secure).runReq d p b
    else (t.countDie d 15 0 1 p.secure).send
      { num := 0, src := p.old.getD d, dst := p.src, here := d, seq := p.seq, body := v.reply b }
  | .nak c => (if c = cRemoteReset then t.passNak d p else t).send { num := 0, src := p.old.getD d, dst := p.src, here := d, seq := p.seq, body := .nak c (BitVec.ofNat 64 b.pa) }

/-- An older request that came from the same source by the same way, and that can be served, stands before packet `p` at die
`d` (R353). -/
def State.beforePkt (s : State) (d : Nat) (p : Pkt) : Bool :=
  s.pkts.any fun q => q.here == d && q.src == p.src && q.old == p.old && q.body.isReq && decide (q.num < p.num) && s.judge d q != .hold

/-- A request packet `n` of the kind that `k` admits, at die `d`: those of one source are dealt with in the order in which they
have arrived (R353). -/
def State.reqEvent (s : State) (d n : Nat) (k : ReqBody → Bool) : State :=
  match s.pktAt d n with
  | some p =>
    match p.body with
    | .req b => if k b && !s.beforePkt d p then s.serveReq d p b else s
    | _ => s
  | none => s

/-- The kinds of requests (R357). -/
def ReqBody.kind : ReqBody → Nat
  | .load .. => 1
  | .store .. => 2
  | .atomic .. => 3
  | .flag .. => 10
  | .board .. => 11

/-! ## Replies at their source (R360); those of one sender are taken in the order in which it sent them (R353) -/

/-- A later execution of the same load is still to answer: only the reply to the last is used (R360). -/
def State.superseded (s : State) (d : Nat) (p : Pkt) : Bool :=
  s.pkts.any fun q => match q.body with
    | .req (.load _ _) => q.src == d && q.dst == p.src && q.seq == p.seq && q.rty
    | .data _ => q.src == p.src && q.dst == d && q.seq == p.seq && decide (p.num < q.num)
    | _ => false

/-- READ_REPLY. -/
def State.readReplyAt (s : State) (d n : Nat) : State :=
  match s.pktAt d n with
  | some p =>
    if p.dst ≠ d ∨ s.overtakes p then s
    else match p.body with
      | .data l =>
        let t := s.dropPkt n
        if s.superseded d p then t
        else match s.reqOf d p with
          | some r => t.endsWell d r (.data l)
          | none => t
      | .old v => match s.reqOf d p with
        | some r => (s.dropPkt n).endsWell d r (.old v)
        | none => s.dropPkt n
      | _ => s
  | none => s

/-- ACKNOWLEDGEMENT: of a store or a flag operation, or of a reset notice (R362). -/
def State.ackAt (s : State) (d n : Nat) : State :=
  match s.pktAt d n with
  | some p =>
    if p.dst ≠ d ∨ s.overtakes p then s
    else match p.body with
      | .ack => match s.reqOf d p with
        | some r => (s.dropPkt n).endsWell d r .ack
        | none => s.dropPkt n
      | .greet =>
        ((s.dropPkt n).modDie d fun e => { e with notices := spMod {} p.src (fun t => { t with acked := true }) e.notices }).pumpReqs
          d p.src
      | _ => s
  | none => s

/-- The NAK of a request. -/
def State.reqNak (s : State) (d : Nat) (p : Pkt) (cause : Nat) (faddr : Word) : State :=
  match s.reqOf d p with
  | some r => (s.dropPkt p.num).failReq d r cause faddr
  | none => s.dropPkt p.num

/-! ## Silence, and reset notices (R360, R362) -/

/-- REQUEST_RESEND_TIMEOUT: 20 µs without a reply. -/
def State.resend (s : State) (d n : Nat) : State :=
  match (s.die d).reqs.find? (·.num == n) with
  | some r =>
    if 1 ≤ r.sends ∧ r.sends < 8 ∧ r.sentAt + resendCycles ≤ s.now then
      (s.modDie d fun e => { e with reqs := e.reqs.map fun q =>
        if q.num == n then { q with sends := q.sends + 1, sentAt := s.now } else q }).send (r.pkt d true)
    else s
  | none => s

/-- REMOTE_TIMEOUT: 20 µs after the eighth send. -/
def State.timeout (s : State) (d n : Nat) : State :=
  match (s.die d).reqs.find? (·.num == n) with
  | some r =>
    if 8 ≤ r.sends ∧ r.sentAt + resendCycles ≤ s.now then s.failReq d r cRemoteTimeout (BitVec.ofNat 64 r.body.pa) else s
  | none => s

/-- RESET_NOTICE_RESEND: the notice to `t` goes again, or after eight sends what waits for it ends (R362). -/
def State.noticeResend (s : State) (d t : Nat) : State :=
  let n := spGet {} (s.die d).notices t
  if n.acked || n.sends == 0 || decide (s.now < n.sentAt + resendCycles) then s
  else if n.sends < 8 then s.sendNotice d t
  else
    let l := (s.die d).reqs.filter fun r => r.dst == t && r.sends == 0
    let s := s.modDie d fun e => { e with reqs := e.reqs.filter fun r => !(r.dst == t && r.sends == 0) }
    let s := l.foldl (fun (s : State) r => s.failReq d r cRemoteTimeout (BitVec.ofNat 64 r.body.pa)) s
    s.modDie d fun e => { e with notices := spDel t e.notices }

/-- RESET_NOTICE at its target (R362). -/
def State.noticeAt (s : State) (d n : Nat) : State :=
  match s.pktAt d n with
  | some p =>
    match p.body with
    | .notice =>
      if p.dst ≠ d then s
      else if (s.die d).inReset then s.dropPkt n
      else if s.beforePkt d p then s
      else
        let s := { s with pkts := s.pkts.filter fun q =>
          q.num != n && !(q.here == d && q.dst == d && q.src == p.src && q.old.isNone && q.body.isReq && decide (q.num < n)) }
        let mute := fun (r : Option (Nat × Nat)) => match r with
          | some (o, _) => if o = p.src then none else r
          | none => none
        let s := { s with cores := s.cores.map fun (k : Nat × Core) =>
          (k.1, if k.1 / 64 = d then { k.2 with fport := k.2.fport.map fun (a : FlagArr) => { a with remote := mute a.remote } } else k.2) }
        let s := s.modDie d fun e => { e with
          bport := e.bport.map fun (a : BoardArr) => { a with remote := mute a.remote }
          filter := spDel p.src e.filter
          nakked := spDel p.src e.nakked
          lost := e.lost.filter (· != p.src)
          expect := spPut p.src 0 e.expect }
        s.send { num := 0, src := d, dst := p.src, here := d, body := .greet }
    | _ => s
  | none => s

/-! ## The torus (R353 to R355) -/

/-- A packet ends at die `d`, and its source hears of the cause (R355, R373); halves of queue entries end in silence
(R358). -/
def State.bounce (s : State) (d : Nat) (p : Pkt) (cause : Nat) : State :=
  let s := s.dropPkt p.num
  match p.body with
  | .req b => s.reply d p (.nak cause (BitVec.ofNat 64 b.pa))
  | .chunk c => s.reply d p (.collNak c.group c.gen c.cnum cause false)
  | .selfd c _ _ => s.reply d p (.collNak c.group c.gen c.cnum cause false)
  | .token g n c _ _ => s.reply d p (.collNak g n c cause true)
  | .half .. => s
  | _ => s.reply d p (.nakLost cause)

/-- A packet crosses the link of a port (R354), or ends before it when the link is down. -/
def State.hop (s : State) (d port : Nat) (p : Pkt) : State :=
  if !s.linkUp d port then s.bounce d p cLinkDown
  else
    let q := { p with here := s.neighbour d port, via := facing port, dim := portDim port,
                      odd := s.wraps d port || (portDim port == p.dim && p.odd) }
    let s := { s with pkts := s.pkts.map fun (r : Pkt) => if r.num == p.num then q else r }
    (s.modDie d fun e => { e with tries := spDel port e.tries }).countDie d 7 port p.body.flits p.secure

/-- PACKET_FORWARD. -/
def State.forward (s : State) (d n : Nat) : State :=
  match s.pktAt d n with
  | none => s
  | some p =>
    if p.dst = d ∨ s.overtakes p then s
    else match p.body with
      | .half _ q _ _ _ => s.hop d (facing q) p
      | .selfd _ (_ :: _) (_ :: _) => s
      | _ => match s.routePort d p.dst with
        | some port => s.hop d port p
        | none => s

/-- FLIT_CRC_FAIL: one failed attempt on flit `f` of the packet that the port is sending; the flits before it have crossed
(R355). -/
def State.flitFails (s : State) (d port f : Nat) : State :=
  if !s.linkUp d port then s
  else
    let t := spGet (f, 0) (s.die d).tries port
    let n := if t.1 = f then t.2 + 1 else 1
    if 16 ≤ n then s.linkFails d port else s.modDie d fun e => { e with tries := spPut port (f, n) e.tries }

/-! ## Events -/


/-- LONG_LOAD_DATA (R151): Long-load data arrives, writes the register and clears its pending bit. -/
def execLongLoadData (ctx : Nat) (n : Nat) (s : State) : Host.Outcome State Fault Refusal :=
  .next (s.longStep ctx n)

/-- STORE_BUFFER_DRAIN (R267): The head entry of a class queue leaves toward its home when credit and release conditions allow. -/
def execStoreBufferDrain (clu : Nat) (cls : Nat) (s : State) : Host.Outcome State Fault Refusal :=
  .next (s.drain clu cls)

/-- WCB_FLUSH_TIMEOUT (R293): A write-combining entry is flushed by read-modify-write after WCBWAIT. -/
def execWcbFlushTimeout (clu : Nat) (n : Nat) (s : State) : Host.Outcome State Fault Refusal :=
  .next (s.wcbTimeout clu n)

/-- LOAD_REQUEST (R359): A load request executes at its target in sequence order. -/
def execLoadRequest (die : Nat) (n : Nat) (s : State) : Host.Outcome State Fault Refusal :=
  .next (s.reqEvent die n fun b => b.kind == 1)

/-- STORE_REQUEST (R359): A store request executes once at its target and is acknowledged. -/
def execStoreRequest (die : Nat) (n : Nat) (s : State) : Host.Outcome State Fault Refusal :=
  .next (s.reqEvent die n fun b => b.kind == 2)

/-- ATOMIC_REQUEST (R360): An atomic executes once at its target and its old value is saved. -/
def execAtomicRequest (die : Nat) (n : Nat) (s : State) : Host.Outcome State Fault Refusal :=
  .next (s.reqEvent die n fun b => b.kind == 3)

/-- FLAG_OPERATION (R357): A flag operation from another die arrives at the flag port. -/
def execFlagOperation (die : Nat) (n : Nat) (s : State) : Host.Outcome State Fault Refusal :=
  .next (s.reqEvent die n fun b => b.kind == 10)

/-- BOARD_OPERATION (R357): A board operation arrives at the board's home die. -/
def execBoardOperation (die : Nat) (n : Nat) (s : State) : Host.Outcome State Fault Refusal :=
  .next (s.reqEvent die n fun b => b.kind == 11)

/-- READ_REPLY (R357): Read data or an atomic's old value arrives at the source. -/
def execReadReply (die : Nat) (n : Nat) (s : State) : Host.Outcome State Fault Refusal :=
  .next (s.readReplyAt die n)

/-- ACKNOWLEDGEMENT (R357): A store acknowledgement arrives and the buffer entry leaves. -/
def execAcknowledgement (die : Nat) (n : Nat) (s : State) : Host.Outcome State Fault Refusal :=
  .next (s.ackAt die n)

/-- REQUEST_RESEND_TIMEOUT (R360): After 20 us without a reply the source resends the request with RTY set. -/
def execRequestResendTimeout (die : Nat) (n : Nat) (s : State) : Host.Outcome State Fault Refusal :=
  .next (s.resend die n)

/-- REMOTE_TIMEOUT (R360): After eight sends the request ends with REMOTE_TIMEOUT. -/
def execRemoteTimeout (die : Nat) (n : Nat) (s : State) : Host.Outcome State Fault Refusal :=
  .next (s.timeout die n)

/-- RESET_NOTICE_RESEND (R362): An unacknowledged reset notice is sent again every 20 us. -/
def execResetNoticeResend (die : Nat) (peer : Nat) (s : State) : Host.Outcome State Fault Refusal :=
  .next (s.noticeResend die peer)

/-- RESET_NOTICE (R362): A target ends the source's pending requests, empties its filter and acknowledges. -/
def execResetNotice (die : Nat) (n : Nat) (s : State) : Host.Outcome State Fault Refusal :=
  .next (s.noticeAt die n)

/-- PACKET_FORWARD (R354): A router forwards a transit packet one hop by dimension order and VC rules. -/
def execPacketForward (die : Nat) (n : Nat) (s : State) : Host.Outcome State Fault Refusal :=
  .next (s.forward die n)

/-- FLIT_CRC_FAIL (R355): A flit fails its link CRC and is sent again; `at_` is the port plus 6 times the flit's number in its
packet. -/
def execFlitCrcFail (die : Nat) (at_ : Nat) (s : State) : Host.Outcome State Fault Refusal :=
  .next (s.flitFails die (at_ % 6) (at_ / 6))

end Sys2Proof.Machine
end

