-- ==== Sys2Proof/Machine/Land.lean ====
section
/-! DEFINITION. The issue stage between bundles, results of the array and the Grinder, page walks that end, shootdowns, and
trap frames that leave the trap store (R114 to R118, R149, R175, R177, R190, R201, R310 to R312, R316). -/

namespace Sys2Proof.Machine

/-! ## The issue stage (R116 to R118) -/

/-- ISSUE_STAGE_SELECT: a stage that has selected no context takes a ready one. -/
def State.stageSelect (s : State) (c : Nat) : State :=
  match (s.core c).sel with
  | some _ => s
  | none =>
    match s.readyAfter c (((s.core c).selFrom).getD 3) with
    | some j => s.select c j
    | none => s

/-- The bundle of context `x` would still block. -/
def State.stillBlocks (s : State) (x : Nat) : Bool :=
  let pc := (s.ctx x).pc
  let l := slotsOf (s.bundleAt (coreOf x) pc)
  decide (pc ≤ 0x11FF) && (State.present { s with iss := { x := x, hdr := headerOf l } } l).2 == .block

/-- BLOCK_CLEAR: a blocked context whose bundle blocks no longer is ready. -/
def State.blockClear (s : State) (x : Nat) : State :=
  if (s.ctx x).st = .blocked ∧ !s.stillBlocks x then s.modCtx x fun c => { c with st := .ready } else s

/-- A waiting start of a stream whose work a save or restore holds (R320, R328). -/
def State.startHeld (s : State) (c : Nat) (w : Waiting) : Bool :=
  s.strStill (c / 4096) w.req.stream.toNat && w.req.origin != .trapHandler

/-- CONTEXT_START: the oldest waiting start takes a dormant context (R114). -/
def State.serveStart (s : State) (c : Nat) : State :=
  match (s.core c).starts.find? fun w => !s.startHeld c w, s.dormantOf c with
  | some w, some i =>
    (s.modCore c fun k => { k with starts := k.starts.erase w }).start (4 * c + i) w.req
  | _, _ => s

/-! ## The array, staging buffers and the Grinder (R177, R188, R190, R201) -/

/-- What an outstanding write leaves in its accumulator: the elements, flags and earliest event (R47, R190). -/
def State.accResult (s : State) (o : AccOp) (old : List Half) : List Half × Fl × Option LogEv :=
  match o.res with
  | .data d f e => (d, f, e)
  | .mma q =>
    let l := s.mmaAll q old
    let (f, e) := accFlags l fun i e => evOfElem o.count 2 o.baddr o.bank (i / 64) (i % 64) 0 e
    (l.map fun r => BitVec.ofNat 32 r.val, f, e)

/-- ACC_WRITE_COMPLETE: the outstanding write `n` of core `c` is done, where it is the next one of its accumulator, and
of the array for a multiply (R177). -/
def State.accDone (s : State) (c n : Nat) : State :=
  let k := s.core c
  match k.accq.find? (·.id == n) with
  | none => s
  | some o =>
    if (k.accq.find? (·.dst == o.dst)).map (·.id) != some n ||
        (o.isMma && (k.accq.find? AccOp.isMma).map (·.id) != some n) then s
    else
      let (d, f, e) := s.accResult o (s.acc c o.dst).data
      let s := s.modCore c fun k =>
        { k with acc := spMod {} o.dst (fun a => { a with data := d }) k.acc, accq := k.accq.filter (·.id != n) }
      let s := match o.res with
        | .mma _ => (s.countCore c 3 1 (s.ctx o.x).world).modCore c fun k => { k with lastWork := s.now }
        | .data _ _ _ => s
      s.modCtx o.x fun x => if x.life = o.life then x.record f e else x

/-- STAGING_BUFFER_READY. -/
def State.stagingReady (s : State) (c b : Nat) : State :=
  s.modCore c fun k => { k with bs := spMod {} (b % 2) (fun g => { g with busy := false }) k.bs }

/-- The `seedscan` of a context whose time has come. -/
def Ctx.scanDue (c : Ctx) (now : Nat) : Option (LongOp × Word) :=
  c.longs.findSome? fun o => match o.kind with
    | .scan v t => if t ≤ now then some (o, v.getD 0 0) else none
    | _ => none

/-- SEEDSCAN_RESULT: the first context of the core whose result is due takes it. -/
def State.scanLand (s : State) (c : Nat) : State :=
  match (List.range 4).findSome? fun i => ((s.ctx (4 * c + i)).scanDue s.now).map fun o => (4 * c + i, o) with
  | some (x, o, v) => s.modCtx x fun e => o.dest.boardPut { e with longs := e.longs.filter (·.id != o.id) } 0 v
  | none => s

/-! ## Page walks that end (R316) -/

/-- The contexts that wait on an entry, ascending. -/
def TuEnt.ctxs (t : TuEnt) : List Nat :=
  sortBy id (t.waiters.filterMap fun q => match q with
    | .ctx x => some x
    | _ => none)

/-- The copy commands that wait on an entry, in ascending cluster, queue and number, with the addresses that they missed
on. -/
def TuEnt.copies (t : TuEnt) : List (Nat × Nat × Nat × Nat) :=
  sortBy (fun (p : Nat × Nat × Nat × Nat) => (p.1 / 8 * 4 + p.2.1) * 2 ^ 64 + p.2.2.1) (t.waiters.filterMap fun q =>
    match q with
    | .copy c k n va => some (c, k, n, va)
    | _ => none)

/-- The address and slot of a context's miss, and the overlay bank active at its issue. -/
def Ctx.missAt (c : Ctx) : Nat × Nat × Nat :=
  match c.why with
  | some (.miss _ va k b) => (va, k, b)
  | _ => (0, 0, 0)

/-- One waiting context learns of the fault of its walk: a child of a speculative word ends, and a privileged context is
recorded in HFAULT (R211, R260, R314). -/
def State.walkFault (s : State) (x cause : Nat) : State :=
  let c := s.ctx x
  let f := BitVec.ofNat 64 c.missAt.1
  if c.specChild then (s.thaw x).finish x cause f
  else if c.priv then
    ((s.modCtx x fun e => { e with why := some (.trap cause f) }).setReg (dieOf x) 0x180 (hfaultWord cause x c.pc)).raise
      (dieOf x) 10
  else s

/-- The tile units that wait on an entry learn of the fault of its walk (R316). -/
def State.unitFaults (s : State) (t : TuEnt) (cause : Nat) : State :=
  t.waiters.foldl (fun (s : State) q => match q with
    | .unit c n va => s.modCore c fun k => { k with tu := k.tu.map fun h =>
        if h.num = n then { h with walk := some (cause, BitVec.ofNat 64 va) } else h }
    | _ => s) s

/-- A context of a saved stream learns of the fault of its walk: a privileged one is recorded in HFAULT, and the fate of every
one but a child of a speculative word enters the reply log (R314, R327). Such a child presents its bundle again when it is
restored, and ends with the fault of that walk (R211). -/
def State.savedFault (s : State) (d k x cause seq : Nat) : State :=
  let c : Ctx := spGet {} (s.strm (d / 64) k).vctx x
  if c.specChild then s
  else
    let s := if c.priv then (s.setReg d 0x180 (hfaultWord cause x c.pc)).raise d 10 else s
    s.logReply d k { kind := 3, cause := cause, cid := cidOf (coreOf x), ctx := x % 4, word := BitVec.ofNat 64 c.missAt.1,
                     seq := if c.priv then 0 else seq } 0

/-- A walk of die `d` ends in a fault (R316): the entry keeps it for the waiters that stay, one frame names the lowest
context among them, and copy commands and leaf words end with it. -/
def State.walkFails (s : State) (d n : Nat) (t : TuEnt) (cause : Nat) : State :=
  let s := t.ctxs.foldl (fun (s : State) x => s.walkFault x cause) s
  let stay := t.ctxs.filter fun x => (s.ctx x).st == .frozen && !(s.ctx x).priv
  let vault := fun (k x : Nat) => spGet ({} : Ctx) (s.strm (d / 64) k).vctx x
  let kept := (t.waiters.filter fun q => match q with
    | .ctx x => stay.contains x
    | .saved k x => !(vault k x).priv && !(vault k x).specChild
    | _ => false)
  let s := s.modDie d fun e => { e with tu := spPut n { t with fault := some cause, waiters := kept } e.tu }
  let saved := t.waiters.filterMap fun q => match q with
    | .saved k x => some (k, x)
    | _ => none
  let all : List (Nat × Ctx) := (stay.map fun x => (x, s.ctx x)) ++
    (saved.map fun q => (q.2, vault q.1 q.2))
  let s := match sortBy Prod.fst (all.filter fun p => !p.2.priv && !p.2.specChild) with
    | (x, c) :: _ => s.deliver d (s.frameOf c x cause (BitVec.ofNat 64 c.missAt.1)
        { slot := c.missAt.2.1, walk := some n, baddr := c.pc, bank := c.missAt.2.2 })
    | [] => s
  let seq := wfld (s.reg d (0x110 + 0x40 * b2n t.world)) 0 32 +
    (((s.die d).store ++ (s.die d).waiting).filter fun f => f.world == t.world).length - 1
  let s := saved.foldl (fun (s : State) (q : Nat × Nat) => s.savedFault d q.1 q.2 cause seq) s
  let s := t.copies.foldl (fun (s : State) (p : Nat × Nat × Nat × Nat) =>
    (s.cmdFault p.1 p.2.1 p.2.2.1 cause (BitVec.ofNat 64 p.2.2.2)).modRun p.1 p.2.1 p.2.2.1 fun r =>
      { r with walk := some (n, s.now) }) s
  let s := t.copies.foldl (fun (s : State) (p : Nat × Nat × Nat × Nat) => s.copyComplete p.1 p.2.1 p.2.2.1) s
  let s := s.unitFaults t cause
  if kept.isEmpty then s.freeTuEnt d n else s

/-- TRANSLATION_WALK_DONE: the walk of entry `n` of die `d` ends. -/
def State.walkDone (s : State) (d n : Nat) : State :=
  match (s.die d).tu.find? (·.1 == n) with
  | none => s
  | some (_, t) =>
    if t.fault.isSome then s
    else
      let s := s.countWalk d t.world t.root (t.vpn * 0x4000)
      match s.walkRoot d t.world t.root (t.vpn * 0x4000) with
      | .page h =>
        let s := s.modDie d fun e => { e with tlb := e.tlb ++ [{ world := t.world, page := h }] }
        (t.ctxs.foldl State.thaw s).freeTuEnt d n
      | .fault c => s.walkFails d n t c

/-- SHOOTDOWN_COMPLETE: every access that the shootdown of context `x` waits for has performed (R149). -/
def State.shotDone (s : State) (x : Nat) : State :=
  s.modCtx x fun c => match c.shoot with
    | some h => if h.waits.any s.pend.contains then c else { c with shoot := some { h with done := true } }
    | none => c

/-! ## Trap frames leave the store (R310 to R312) -/

/-- The 64 bytes of a frame (R311). -/
def Frame.bytes (f : Frame) (seq : Nat) : List Byte :=
  leBytes 1 f.cause ++ leBytes 1 f.orig ++ leBytes 1 f.src ++ leBytes 1 f.fl ++ leBytes 2 f.baddr ++ leBytes 1 f.loc ++
    leBytes 1 f.who ++ leBytes 8 f.faddr.toNat ++ leBytes 8 f.path.toNat ++ leBytes 8 f.aux.toNat ++ leBytes 8 f.clk ++
    leBytes 8 seq ++ leBytes 16 0

/-- A machine check of die `d` is reported to the host (R312, R315, R347). -/
def State.machineCheck (s : State) (d : Nat) (faddr : Word) : State :=
  (s.modPan (d / 64) fun p => { p with checks := p.checks ++ [(d, faddr)] }).raise d 8

/-- A frame may be written at a virtual address of world `w`: where a unit of the die may write, and reaches. -/
def State.frameOk (s : State) (d : Nat) (w : Bool) (va : Nat) : Bool := (s.unitFail d w [(va, 64)] true).isNone

/-- The handler start of a frame (R312, step 3). -/
def State.startHandler (s : State) (d : Nat) (f : Frame) (va : Nat) (cfg : Word) : State :=
  let c := 64 * d + wfld cfg 48 6
  let e := wfld cfg 0 16
  if 0x11FF < e then
    s.deliver d { cause := cKernelEntry, src := 4, fl := 2 * b2n f.world, who := cidOf c + f.who / 64 * 64, clk := s.clk d,
                  world := f.world }
  else
    s.arriveStart c 0 { entry := e, regs := [(1, BitVec.ofNat 64 va), (2, BitVec.ofNat 64 f.cause)],
                        stream := BitVec.ofNat 2 (f.who / 64), origin := .trapHandler, world := some f.world, priv := true }

/-- The oldest frame that waits at its source enters the store. -/
def State.refillStore (s : State) (d : Nat) : State :=
  s.modDie d fun e => match e.waiting with
    | f :: t => if e.store.length < 64 then { e with store := e.store ++ [f], waiting := t } else e
    | [] => e

/-- TRAP_FRAME_WRITE. -/
def State.frameWrite (s : State) (d : Nat) : State :=
  match (s.die d).store with
  | [] => s
  | f :: rest =>
    let o := 0x100 + 0x40 * b2n f.world
    let cfg := s.reg d o
    let ring := s.reg d (o + 8)
    let head := wfld (s.reg d (o + 0x10)) 0 32
    let n := 2 ^ (wfld ring 0 4 + 4)
    let va := wfld ring 12 46 * 2 ^ 12 + 64 * (head % n)
    if !cfg.getLsbD 63 || (s.die d).ringDead.contains f.world || decide (8 < wfld ring 0 4) ||
        decide (n ≤ (head + 2 ^ 32 - wfld (s.reg d (o + 0x18)) 0 32) % 2 ^ 32) then s
    else if !s.frameOk d f.world va then
      (s.modDie d fun e => { e with ringDead := e.ringDead ++ [f.world] }).machineCheck d (BitVec.ofNat 64 (b2n f.world))
    else
      let s := ((s.countTouch d f.world [(va, 64)] true).xwrite d f.world va (f.bytes head)).1
      let s := s.setReg d (o + 0x10) (BitVec.ofNat 64 ((head + 1) % 2 ^ 32))
      ((s.modDie d fun e => { e with store := rest }).refillStore d).startHandler d f va cfg

/-! ## System instructions (R175) -/

/-- `sys.world`. -/
def sysWorld (a : Word) (s : State) : Res :=
  if !s.me.world then .trap cWorldViolation 0
  else .ok (s.modCore (coreOf s.x) fun k => { k with nextWorld := a.getLsbD 0 })

/-! ## Instructions and events -/


/-- SYS_WORLD (R175): Sets the core's world for its next start. -/
def execSysWorld (a : BitVec 5) (s : State) : Host.Outcome State Fault Refusal :=
  slotOp 3 (.sysWorld a) s fun s => sysWorld (s.sr a) s

/-- SYS_SHOOT (R175): Shoots down a page's translations and handles domain-wide. -/
def execSysShoot (a : BitVec 5) (s : State) : Host.Outcome State Fault Refusal :=
  slotOp 3 (.sysShoot a) s fun s => .ok (s.modCtx s.x fun c => { c with shoot := none })

/-- ISSUE_STAGE_SELECT (R116): The issue stage picks a context after a block, freeze, yield, stop or trap. -/
def execIssueStageSelect (core : Nat) (s : State) : Host.Outcome State Fault Refusal :=
  .next (s.stageSelect core)

/-- BLOCK_CLEAR (R117): A blocking condition clears and the context becomes ready. -/
def execBlockClear (ctx : Nat) (s : State) : Host.Outcome State Fault Refusal :=
  .next (s.blockClear ctx)

/-- CONTEXT_START (R114): A waiting tcall child or handler start takes a context that became dormant. -/
def execContextStart (core : Nat) (s : State) : Host.Outcome State Fault Refusal :=
  .next (s.serveStart core)

/-- EXPOSED_RESULT_LAND (R119): An exposed result is written when the issue count reaches n + L, with its flags and log. -/
def execExposedResultLand (ctx : Nat) (s : State) : Host.Outcome State Fault Refusal :=
  .next (s.land ctx)

/-- ACC_WRITE_COMPLETE (R177): The last element of an accumulator write lands and the busy mark clears. -/
def execAccWriteComplete (core : Nat) (n : Nat) (s : State) : Host.Outcome State Fault Refusal :=
  .next (s.accDone core n)

/-- STAGING_BUFFER_READY (R188): A tldb's bytes are in place and the B buffer leaves busy. -/
def execStagingBufferReady (core : Nat) (b : Nat) (s : State) : Host.Outcome State Fault Refusal :=
  .next (s.stagingReady core b)

/-- SEEDSCAN_RESULT (R201): The seedscan result is written after 32c + 20 cycles. -/
def execSeedscanResult (core : Nat) (s : State) : Host.Outcome State Fault Refusal :=
  .next (s.scanLand core)

/-- TRANSLATION_WALK_DONE (R316): A page walk completes, releasing or faulting its waiters. -/
def execTranslationWalkDone (die : Nat) (n : Nat) (s : State) : Host.Outcome State Fault Refusal :=
  .next (s.walkDone die n)

/-- SHOOTDOWN_COMPLETE (R149): A shootdown completes once affected accesses have performed. -/
def execShootdownComplete (n : Nat) (s : State) : Host.Outcome State Fault Refusal :=
  .next (s.shotDone n)

/-- TRAP_FRAME_WRITE (R312): A frame leaves the trap store into its ring and starts a handler context. -/
def execTrapFrameWrite (die : Nat) (s : State) : Host.Outcome State Fault Refusal :=
  .next (s.frameWrite die)

end Sys2Proof.Machine
end

