-- ==== Sys2Proof/Machine/UnitMem.lean ====
section
/-! DEFINITION. Memory as tile units, sequencers, the Pour and ring sequencers reach it, and the STATUS word (R67 to R70,
R179, R258, R265, R268, R336, R375). -/

namespace Sys2Proof.Machine

/-! ## STATUS (R258) -/

/-- A STATUS word. -/
def Status.word (t : Status) : Word :=
  BitVec.ofNat 64 (t.cause * 2 ^ 56 + min t.nfault 4095 * 2 ^ 44 + t.top * 2 ^ 41 + t.bot * 2 ^ 38 + t.gidx * 2 ^ 27 +
    t.die * 2 ^ 21 + t.clu * 2 ^ 18 + t.core * 2 ^ 15 + t.lc * 2 ^ 12 + b2n t.abt * 2 ^ 11 + t.evt.toNat)

/-! ## Translation and checks of a unit that has no context -/

/-- The pages of ranges that a unit of die `d` reaches in world `w`. -/
def State.unitPages (s : State) (d : Nat) (w : Bool) (l : List (Nat × Nat)) : List Handle :=
  ((l.flatMap fun r => vpages r.1 r.2).filterMap fun p => match s.xlate d w (p * 0x4000) with
    | .page h => some h
    | .fault _ => none).eraseDups

/-- `w` bits written at bit position `p` of the pages. -/
def State.putBits (s : State) (l : List Handle) (p w v : Nat) : State :=
  let n := (p % 8 + w + 7) / 8
  let old := leVal (s.pageBytes l (p / 8) n)
  let m := 2 ^ (p % 8)
  let new := old - old / m % 2 ^ w * m + v % 2 ^ w * m
  (List.range n).foldl (fun (s : State) i => s.putByte (pagesPa l (p / 8 + i)) (BitVec.ofNat 8 (new / 256 ^ i))) s

/-- Elements written into a plain tile from element `e` of its row-by-row order on. -/
def State.putRow (s : State) (l : List Handle) (d : Desc) (e : Nat) : List Nat → State
  | [] => s
  | v :: t => (s.putBits l (d.bitPos (e / d.cols) (e % d.cols)) (fmtBits d.fmt) v).putRow l d (e + 1) t

/-- HBM bytes of ranges of virtual addresses that a unit moves through its pages, for event sources 5 and 6 (R343). -/
def State.countRanges (s : State) (l : List Handle) (r : List (Nat × Nat)) (write secure : Bool) : State :=
  (r.flatMap fun q => vcuts q.1 q.2).foldl (fun (s : State) q => s.countHbm (pagesPa l q.1) q.2 write secure) s

/-- The bytes that `n` elements of a plain tile from element `e` on reach. -/
def Desc.span (d : Desc) (e n : Nat) : List (Nat × Nat) :=
  ((List.range n).map fun i => d.bitPos ((e + i) / d.cols) ((e + i) % d.cols)).map fun p =>
    (p / 8, (p % 8 + fmtBits d.fmt + 7) / 8)

/-- The memory as cluster `u`'s readers see it: its store buffer over what lies in memory (R268). -/
def State.overlay (s : State) (u : Nat) : State := (s.buf u).sb.foldl (fun (t : State) e => t.writeCells e.data) s

/-- The context that a unit of cluster `u` reads ranges for has observed the stores whose entries it takes bytes from
(R268). -/
def State.observeFor (s : State) (u : Nat) (who : Option Nat) (pages : List Handle) (l : List (Nat × Nat)) : State :=
  match who with
  | none => s
  | some x =>
    if (s.clu u).sb.isEmpty then s
    else
      let got := (l.flatMap fun r => (List.range r.2).filterMap fun i =>
        ((s.buf u).youngest (pagesPa pages (r.1 + i))).map (·.id)).eraseDups
      s.observe x got

/-- Some aligned word of the ranges lies partly in the store buffer of cluster `u` (R268). -/
def State.torn (s : State) (u : Nat) (pages : List Handle) (l : List (Nat × Nat)) : Bool :=
  !(s.clu u).sb.isEmpty &&
  l.any fun r => (vcutWords r.1 r.2).any fun q =>
    (s.buf u).matchWord ((List.range q.2).map fun i => pagesPa pages (q.1 + i)) == 1
where
  /-- the range cut at aligned words -/
  vcutWords (va len : Nat) : List (Nat × Nat) :=
    if len = 0 then []
    else (List.range ((va + len - 1) / 8 - va / 8 + 1)).map fun i =>
      let lo := max va ((va / 8 + i) * 8)
      let hi := min (va + len) ((va / 8 + i + 1) * 8)
      (lo, hi - lo)

end Sys2Proof.Machine
end

