-- ==== Sys2Proof/Machine/Coll.lean ====
section
/-! DEFINITION. Groups, credits and collectives: the ring sums, all-gather, broadcast and all-to-all, the completion token,
self-describing packets and wire compression (R243, R247, R363 to R375). -/

namespace Sys2Proof.Machine

/-! ## The deal of granules (R247) -/

/-- First granule of part `i` of `g` granules dealt to `n` parts. -/
def dealStart (g n i : Nat) : Nat := i * (g / n) + min i (g % n)
/-- Granules of part `i`. -/
def dealCount (g n i : Nat) : Nat := g / n + (if i < g % n then 1 else 0)

/-! ## Groups (R363 to R365) -/

/-- Size of a group's box along ring phase `p`. -/
def Group.size (g : Group) (p : Nat) : Nat := match p with
  | 0 => g.bx
  | 1 => g.by_
  | _ => g.bz

/-- Coordinate of member `m` along ring phase `p`. -/
def Group.coord (g : Group) (p m : Nat) : Nat := match p with
  | 0 => m % g.bx
  | 1 => m / g.bx % g.by_
  | _ => m / (g.bx * g.by_)

/-- The next member along the ring of phase `p`. -/
def Group.after (g : Group) (p m : Nat) : Nat :=
  let u := match p with
    | 0 => 1
    | 1 => g.bx
    | _ => g.bx * g.by_
  m - g.coord p m * u + (g.coord p m + 1) % g.size p * u

/-- First element and length of the sub-chunk of member `o` (R369). -/
def Group.sub (g : Group) (e o : Nat) : Nat × Nat :=
  let (x, y, z) := (g.coord 0 o, g.coord 1 o, g.coord 2 o)
  let n := dealCount e g.bx x
  let m := dealCount n g.by_ y
  (dealStart e g.bx x + dealStart n g.by_ y + dealStart m g.bz z, dealCount m g.bz z)

/-- The group that a word names at die `d`: id [7:0], generation [11:8]. -/
def State.groupOf (s : State) (d w : Nat) : Option Group :=
  ((s.die d).groups.find? (·.1 == w % 256)).bind fun q => if q.2.gen = w / 256 % 16 then some q.2 else none

/-- Group `id` of die `d` changed. -/
def State.modGroup (s : State) (d id : Nat) (f : Group → Group) : State :=
  s.modDie d fun e => { e with groups := e.groups.map fun (q : Nat × Group) => if q.1 = id then (id, f q.2) else q }

/-- Collective `n` of group `id` of die `d`, with its group. -/
def State.collOf (s : State) (d id n : Nat) : Option (Group × Coll) :=
  ((s.die d).groups.find? (·.1 == id)).bind fun q => (q.2.colls.find? (·.cnum == n)).map fun c => (q.2, c)

/-- Collective `n` of group `id` of die `d` changed. -/
def State.modColl (s : State) (d id n : Nat) (f : Coll → Coll) : State :=
  s.modGroup d id fun g => { g with colls := g.colls.map fun c => if c.cnum = n then f c else c }

/-- Index of a die among a group's members. -/
def Group.memberOf (g : Group) (d : Nat) : Nat := (g.members.findIdx? (· == d)).getD 0

/-- A number of the 64 bytes of a group descriptor. -/
def gfld (l : List Byte) (o n : Nat) : Nat := leVal ((l.drop o).take n)

/-- The dies of a box in index order (R363). -/
def boxDies (l : List Byte) : List Nat :=
  let f := fun i => gfld l (8 + i) 1
  (List.range (f 5 - f 4 + 1)).flatMap fun k => (List.range (f 3 - f 2 + 1)).flatMap fun j =>
    (List.range (f 1 - f 0 + 1)).map fun i => dieAt (f 0 + i) (f 2 + j) (f 4 + k)

/-- A domain die number whose position lies in the rings (R352). -/
def State.dieNamed (s : State) (d n : Nat) : Bool :=
  let (nx, ny, nz) := s.rings d
  n % 32 < nx && n / 32 % 16 < ny && decide (n / 512 < nz)

/-- The members that a descriptor names; none where it is invalid (R364). `list` are the numbers of LIST. -/
def State.groupMembers (s : State) (d : Nat) (l : List Byte) (list : List Nat) : Option (List Nat) :=
  let box := gfld l 1 1 == 1
  let (nx, ny, nz) := s.rings d
  let f := fun i => gfld l (8 + i) 1
  let zero := gfld l 6 2 == 0 && gfld l 14 50 == 0
  let stg := decide (1 ≤ gfld l 4 2) && decide (gfld l 4 2 ≤ 16)
  let ok := if box then gfld l 2 2 == 0 && f 0 ≤ f 1 && f 1 < nx && f 2 ≤ f 3 && f 3 < ny && f 4 ≤ f 5 && decide (f 5 < nz)
    else gfld l 1 1 == 0 && gfld l 8 6 == 0 && 1 ≤ gfld l 2 2 && gfld l 2 2 ≤ 2048 &&
      list.all fun n => decide (n < 2048) && s.dieNamed d n
  let m := if box then boxDies l else list.map dieOfD
  if zero && stg && ok && m.eraseDups.length == m.length && m.contains d then some m else none

/-- A grant of credit sent to a member (R364, R366). -/
def State.grant (s : State) (d t id gen n : Nat) : State :=
  s.send { num := 0, src := d, dst := t, here := d, body := .credit id gen n }

/-- `grp.mk` (R363, R364). -/
def groupMake (r hn : Nat) (off : Nat) (s : State) : Res :=
  let x := s.x
  let d := dieOf x
  let h := s.me.hreg hn
  let p : Piece := { off := off, len := 64 }
  let l := s.pieceBytes h p
  let n := if gfld l 1 1 = 0 then min (gfld l 2 2) 2048 else 0
  let q : Piece := { off := off, len := 64 + 2 * n }
  let id := gfld l 0 1
  if !h.valid then .trap cHandleInvalid 0
  else if !sramHandle (cluOf x) h p then .trap cSramRange (outsideVa (cluOf x) h off p.len)
  else failOn (s.accessCheck x h [p] 64 false) <|
    if !sramHandle (cluOf x) h q then .trap cSramRange (outsideVa (cluOf x) h off q.len)
    else failOn (s.accessCheck x h [q] 64 false) <|
      let list := elemsAt 2 ((s.pieceBytes h q).drop 64)
      match s.groupMembers d l list with
      | none => .trap cGroupInvalid (BitVec.ofNat 64 id)
      | some m =>
        let e := s.die d
        let stg := gfld l 4 2
        if spHas id e.groups then .trap cGroupInvalid (BitVec.ofNat 64 id)
        else if 16 ≤ e.groups.length ∨ 64 < (e.groups.map fun (g : Nat × Group) => g.2.stg).sum + stg then
          .trap cGroupResources (BitVec.ofNat 64 id)
        else
          let box := gfld l 1 1 == 1
          let f := fun i => gfld l (8 + i) 1
          let gen := spGet 0 e.gens id
          let g : Group :=
            { gen := gen, box := box, members := m, bx := if box then f 1 - f 0 + 1 else m.length,
              by_ := if box then f 3 - f 2 + 1 else 1, bz := if box then f 5 - f 4 + 1 else 1,
              idx := (m.findIdx? (· == d)).getD 0, stg := stg }
          let s := s.modDie d fun e => { e with groups := spPut id g e.groups }
          let share := max 512 (stg * 65536 / max 1 (m.length - 1))
          let s := (m.filter (· != d)).foldl (fun (s : State) t => s.grant d t id gen share) s
          .ok (s.later 3 1 (.s r (BitVec.ofNat 64 (gen * 256 + id))))

/-- `grp.free` (R365); its blocking condition has held it until the group is idle. -/
def groupFree (a : Word) (s : State) : Res :=
  let d := dieOf s.x
  if wfld a 12 52 != 0 || (s.groupOf d a.toNat).isNone then .trap cGroupInvalid (BitVec.ofNat 64 (wfld a 0 8))
  else
    let id := wfld a 0 8
    .ok (s.modDie d fun e => { e with groups := spDel id e.groups, gens := spMod 0 id (fun g => (g + 1) % 16) e.gens })

/-- `grp.q` (R365). -/
def groupQuery (r : Nat) (a : Word) (s : State) : Res :=
  if wfld a 12 52 ≠ 0 then .trap cGroupInvalid (BitVec.ofNat 64 (wfld a 0 8))
  else
    let v := match s.groupOf (dieOf s.x) a.toNat with
      | none => 0
      | some g => 2 ^ 63 + b2n g.box * 2 ^ 62 + g.gen * 2 ^ 58 + g.idx * 2 ^ 41 + (g.members.length - 1) * 2 ^ 30 +
          g.cause * 2 ^ 22 + g.colls.length * 2 ^ 8 + spGet 0 (s.die (dieOf s.x)).stales (wfld a 0 8)
    .ok (s.later 3 2 (.s r (BitVec.ofNat 64 v)))

/-! ## Shapes and elements (R368) -/

/-- A plain, row-major tile. -/
def Desc.rowMajor (d : Desc) : Bool := fmtKnown d.fmt && d.fmt != 0x20 && !d.wsl && !d.cm && d.stor == 0

/-- Element count of a tile. -/
def Desc.count (d : Desc) : Nat := d.rows * d.cols

/-- The formats of a reduction. -/
def reduceFmt (a c : Nat) (wc : Bool) : Bool :=
  (if a = 0x05 then c == 0x07 else (a == 0x07 || a == 0x08 || a == 0x04) && a == c) && (!wc || a == 0x07 || a == 0x05)

/-- The shape rules of R368 at member `g.idx`; `a` is ignored by a broadcast anywhere but at its root. -/
def Group.shapeOk (g : Group) (kind root : Nat) (wc : Bool) (a c : Desc) : Bool :=
  let n := g.members.length
  let e := a.count
  match kind with
  | 0 => a.rowMajor && c.rowMajor && reduceFmt a.fmt c.fmt wc && c.count == e
  | 1 => a.rowMajor && c.rowMajor && reduceFmt a.fmt c.fmt wc && c.count == (g.sub e g.idx).2
  | 2 => a.rowMajor && c.rowMajor && a.fmt == c.fmt && c.count == n * e
  | 3 => c.rowMajor && (root != g.idx || (a.rowMajor && a.fmt == c.fmt && a.count == c.count))
  | _ => a.rowMajor && c.rowMajor && a.fmt == c.fmt && c.count == e && e % n == 0

/-- The element count that chunks of a collective carry. -/
def Coll.e (c : Coll) : Nat := c.count

/-- Elements of one packet: 512 bytes of them, or as many whole 64-byte records as fit where elements straddle records, so that
no record of a seeded destination is written in two packets (R356, R375). -/
def pieceElems (kind fmt : Nat) : Nat :=
  let w := if kind < 2 then 8 * aopBytes (collTy fmt) else fmtBits fmt
  let r := Nat.lcm 512 w
  4096 / r * (r / w)

/-- A run of elements cut into packets: first element and length, from element `e` on. -/
def packets (size e n : Nat) : List (Nat × Nat) :=
  (List.range ((n + size - 1) / size)).map fun i => (e + size * i, min size (n - size * i))

/-- The source and destination descriptors of a collective at die `d`. -/
def Coll.da (c : Coll) (d : Nat) : Desc := descOf (d % 64) c.a
def Coll.dc (c : Coll) (d : Nat) : Desc := descOf (d % 64) c.c

/-- The format that chunks of a collective name. -/
def Coll.fmt (c : Coll) (d : Nat) : Nat := if c.kind = 3 then (c.dc d).fmt else (c.da d).fmt

/-- Elements of a packet of the collective. -/
def Coll.size (c : Coll) (d : Nat) : Nat := pieceElems c.kind (c.fmt d)

/-- The packets of member `o`'s sub-chunk. -/
def Coll.units (g : Group) (c : Coll) (d o : Nat) : List (Nat × Nat) :=
  let (e, n) := g.sub c.count o
  packets (c.size d) e n

/-- Steps that the collective takes at this member in all. -/
def Coll.expected (g : Group) (c : Coll) (d : Nat) : Nat :=
  let n := g.members.length
  match c.kind with
  | 2 => n * (packets (c.size d) 0 c.count).length
  | 3 => (packets (c.size d) 0 c.count).length
  | 4 => n * (packets (c.size d) 0 (c.count / n)).length
  | k => ((List.range n).map fun o =>
      let u := (c.units g d o).length
      let x := g.coord 0 o == g.coord 0 g.idx
      let y := x && g.coord 1 o == g.coord 1 g.idx
      u * (1 + b2n x + b2n y) + (if k = 0 ∨ o = g.idx then u else 0)).sum

/-! ## Wire compression (R374) -/

/-- One code of a block: round_half_even(y / scale) clamped to ±7. -/
def wcCode (y scale : Nat) : Int :=
  match fp32.val y, fp32.val scale with
  | .fin n1 m1 e1, .fin _ m2 e2 =>
    if m2 = 0 then 0
    else
      let num := if e1 < e2 then m1 else m1 * 2 ^ (e1 - e2).toNat
      let den := if e1 < e2 then m2 * 2 ^ (e2 - e1).toNat else m2
      let q := num / den
      let r := num % den
      let k := if den < 2 * r ∨ (2 * r = den ∧ q % 2 = 1) then q + 1 else q
      let k := min k 7
      if n1 then -(k : Int) else k
  | _, _ => 0

/-- A block of values and residuals as it travels: the values sent, the residuals left, whether it travels uncompressed, and
the events of its arithmetic (R47). -/
def wcBlock (x r : List Nat) : List Nat × List Nat × Bool × Fl :=
  let sums := x.zipIdx.map fun p => addF32 p.1 (r.getD p.2 0)
  let y := sums.map (·.1)
  let fl := sums.foldl (fun a p => a ||| p.2) 0
  let odd := y.any fun v => match fp32.val v with
    | .fin _ _ _ => false
    | _ => true
  if odd then (y, y.map fun _ => 0, true, fl)
  else
    let top := y.foldl (fun m v => max m (v % 2 ^ 31)) 0
    let scale := fp32.div 0 top 0x40E00000
    let q := y.map fun v =>
      let k := if scale.1 = 0 then 0 else wcCode v scale.1
      mulF32 (cvtIF fp32 0 k).1 scale.1
    let left := y.zipIdx.map fun p => fp32.sub 0 p.1 ((q.map (·.1)).getD p.2 0)
    (q.map (·.1), left.map (·.1), false, (q ++ left).foldl (fun a p => a ||| p.2) (fl ||| scale.2))

/-- What a chunk becomes on the wire: the values sent, the residuals of the group, the blocks sent uncompressed, and the
events. -/
structure Sent where
  vals : List Nat := []
  ef : Sp Half := []
  plain : List Nat := []
  evt : Fl := 0

/-- A chunk compressed block by block against the residuals from position `e` on. -/
def wcChunk (ef : Sp Half) (e : Nat) (l : List Nat) : Sent :=
  (List.range ((l.length + 63) / 64)).foldl (fun (acc : Sent) b =>
    let x := (l.drop (64 * b)).take 64
    let (q, r, odd, fl) := wcBlock x (tab x.length fun i => (spGet 0 acc.ef (e + 64 * b + i)).toNat)
    { vals := acc.vals ++ q
      ef := r.zipIdx.foldl (fun m p => spPut (e + 64 * b + p.2) (BitVec.ofNat 32 p.1) m) acc.ef
      plain := if odd then acc.plain ++ [b] else acc.plain
      evt := acc.evt ||| fl }) { ef := ef }

/-! ## Chunks on their way (R366, R368) -/

/-- Chunks of the outbox that their members' credit covers leave, in order for each member. -/
def State.flush (s : State) (d id n : Nat) (stay : List (Nat × Chunk)) : List (Nat × Chunk) → State
  | [] => s.modColl d id n fun c => { c with outbox := stay }
  | (m, c) :: t =>
    match s.collOf d id n with
    | none => s
    | some (g, _) =>
      if (stay.any fun q => q.1 == m) || decide (spGet 0 g.credit m < c.bytes) then s.flush d id n (stay ++ [(m, c)]) t
      else
        let s := s.modGroup d id fun g => { g with credit := spMod 0 m (· - c.bytes) g.credit }
        (s.send { num := 0, src := d, dst := g.members.getD m d, here := d,
                  body := if c.kind = 4 then .selfd c [] [] else .chunk c }).flush d id n stay t

/-- Whatever may leave the outbox of a collective leaves. -/
def State.flushColl (s : State) (d id n : Nat) : State :=
  match s.collOf d id n with
  | some (_, c) => s.flush d id n [] c.outbox
  | none => s

/-- A chunk of this member for member `m` put into the outbox; `plain` are its blocks that travel uncompressed (R374). -/
def State.toMember (s : State) (d id n m idx step eoff : Nat) (l : List Nat) (plain : List Nat := []) : State :=
  match s.collOf d id n with
  | none => s
  | some (g, c) =>
    let k : Chunk := { group := id, gen := g.gen, cnum := n, count := c.count, kind := c.kind, op := c.op, etype := c.fmt d,
                       wc := c.wc, idx := idx, from_ := g.idx, step := step, eoff := eoff, elems := l, plain := plain }
    s.modColl d id n fun c => { c with outbox := c.outbox ++ [(m, k)] }

/-- A final value sent by its owner to every other member. -/
def State.toAll (s : State) (d id n idx step eoff : Nat) (l : List Nat) (plain : List Nat := []) : State :=
  match s.collOf d id n with
  | none => s
  | some (g, _) => ((List.range g.members.length).filter (· != g.idx)).foldl
      (fun (s : State) m => s.toMember d id n m idx step eoff l plain) s

/-- The elements that leave this member compressed: the values sent, and the blocks sent uncompressed. Residuals are kept in
the group, and the events count in the collective's status (R47, R374). -/
def State.compressed (s : State) (d id n pos : Nat) (l : List Nat) : State × List Nat × List Nat :=
  match s.collOf d id n with
  | some (g, c) =>
    if c.wc then
      let w := wcChunk g.ef pos l
      ((s.modGroup d id fun g => { g with ef := w.ef }).modColl d id n fun c => { c with evt := c.evt ||| w.evt }, w.vals, w.plain)
    else (s, l, [])
  | none => (s, l, [])

/-- Steps finished. -/
def State.collStep (s : State) (d id n : Nat) : State := s.modColl d id n fun c => { c with steps := c.steps + 1 }

/-- Elements written into the destination from element `e` on; a collective that faults writes nothing more (R371). -/
def State.collWrite (s : State) (d id n e : Nat) (l : List Nat) : State :=
  match s.collOf d id n with
  | none => s
  | some (_, c) =>
    (if c.poison.isSome then s else
      (s.putRow c.pages (c.dc d) e l).countRanges c.pages ((c.dc d).span e l.length) true c.world).collStep d id n

/-- A result of a reduction: a NaN is canonical, a signalling one raises NV (R29, R369). -/
def collCanon (ty v : Nat) : Nat × Fl :=
  let f := if ty = 5 then fp64 else fp32
  if ty = 1 then (v, 0) else match f.val v with
    | .nan => (f.nanBits, f.snanFl v)
    | _ => (v, 0)

/-- The result of a sub-chunk's packet at its owner (R368, R369). -/
def State.collFinal (s : State) (d id n o e : Nat) (l : List Nat) : State :=
  match s.collOf d id n with
  | none => s
  | some (g, c) =>
    let r := l.map (collCanon (collTy (c.fmt d)))
    let l := r.map (·.1)
    let s := s.modColl d id n fun c => { c with evt := r.foldl (fun f q => f ||| q.2) c.evt }
    if c.kind = 1 then s.collWrite d id n (e - (g.sub c.count o).1) l
    else
      let s := s.collWrite d id n e l
      let (s, q, plain) := s.compressed d id n (c.count + e) l
      s.toAll d id n o 3 e q plain

/-- One addition of a ring: the partial sum and this member's value (R369). -/
def Coll.add (c : Coll) (d : Nat) (p v : List Nat) : List Nat × Fl :=
  let ty := collTy (c.fmt d)
  let r := p.zipIdx.map fun q => aopApply ty c.op q.1 (v.getD q.2 0) 0
  (r.map (·.1), r.foldl (fun f q => f ||| q.2) 0)

/-- The chunk of a ring that waits for this member's value: phase and first element. -/
def Coll.waiting (c : Coll) (p e : Nat) : Option Chunk := c.inbox.find? fun k => k.step == p && k.eoff == e

/-- Credit for a consumed chunk goes back to its sender (R366). -/
def State.giveBack (s : State) (d : Nat) (c : Chunk) : State :=
  match s.groupOf d (c.group + 256 * c.gen) with
  | some g => if c.bytes = 0 then s else s.grant d (g.members.getD c.from_ d) c.group c.gen c.bytes
  | none => s

/-- A chunk that has waited for this member's value is used: it leaves the inbox, its credit goes back, and the events of the
addition count. -/
def State.unpark (s : State) (d id n : Nat) (k : Chunk) (fl : Fl) : State :=
  (s.modColl d id n fun c => { c with inbox := c.inbox.filter (· != k), evt := c.evt ||| fl }).giveBack d k

/-- The partial `l` of phase `p` of packet `e` of owner `o` holds this member's value: it goes on round the ring, or
becomes the member's value of the next phase (R369). The first number bounds the phases left. -/
def State.carry (s : State) (d id n : Nat) : Nat → Nat → Nat → Nat → List Nat → State
  | 0, _, _, _, _ => s
  | f + 1, p, o, e, l =>
    match (s.collStep d id n).collOf d id n with
    | none => s
    | some (g, c) =>
      let s := s.collStep d id n
      if g.coord p g.idx ≠ g.coord p o then
        let (s, q, plain) := s.compressed d id n e l
        s.toMember d id n (g.after p g.idx) o p e q plain
      else if p = 2 then s.collFinal d id n o e l
      else if g.coord (p + 1) g.idx = (g.coord (p + 1) o + 1) % g.size (p + 1) then s.carry d id n f (p + 1) o e l
      else match c.waiting (p + 1) e with
        | some k =>
          let (v, fl) := c.add d k.elems l
          (s.unpark d id n k fl).carry d id n f (p + 1) o e v
        | none => s.modColl d id n fun c => { c with part := spPut (4 * e + p + 1) l c.part }

/-- The value of this member for a ring phase of a packet, where it has it. -/
def Coll.value (c : Coll) (p e m : Nat) : Option (List Nat) :=
  if p = 0 then (if c.begun then some ((c.src.drop e).take m) else none)
  else (c.part.find? (·.1 == 4 * e + p)).map (·.2)

/-- A fault of member `m` becomes known here (R371): the lowest member is kept; the first time, every other member
hears of it, and what waits for credit is dropped. -/
def State.poisonColl (s : State) (d id n m cause : Nat) (faddr : Word) : State :=
  match s.collOf d id n with
  | none => s
  | some (g, c) =>
    let best := match c.poison with
      | some (b, k) => if m < b then (m, cause) else (b, k)
      | none => (m, cause)
    let first := c.poison.isNone
    let s := s.modColl d id n fun c => { c with poison := some best, faddr := if m = g.idx then faddr else c.faddr }
    if first then
      let s := c.inbox.foldl (fun (s : State) k => s.giveBack d k) (s.modColl d id n fun c => { c with outbox := [], inbox := [] })
      ((List.range g.members.length).filter (· != g.idx)).foldl (fun (s : State) t =>
        s.send { num := 0, src := d, dst := g.members.getD t d, here := d,
                 body := .chunk { group := id, gen := g.gen, cnum := n, count := c.count, kind := c.kind, op := c.op,
                                  etype := c.fmt d, wc := c.wc, idx := 0, from_ := g.idx, step := 0, eoff := 0, elems := [],
                                  poison := some best } }) s
    else s

/-! ## Starting at a member (R368, R371, R375) -/

/-- A destination row lies in seeded weight SRAM in whole records. -/
def Desc.records (d : Desc) : Bool :=
  d.base % 64 == 0 && (d.stride % 64 == 0 || decide (d.rows ≤ 1)) && d.cols * fmtBits d.fmt % 512 == 0

/-- The own part of a collective whose source has been read: its first values go out (R368, R369). -/
def State.collSend (s : State) (d id n : Nat) : State :=
  match s.collOf d id n with
  | none => s
  | some (g, c) =>
    let cut := fun (e m : Nat) => (c.src.drop e).take m
    match c.kind with
    | 2 => (packets (c.size d) 0 c.count).foldl (fun (s : State) p =>
        (s.collWrite d id n (g.idx * c.count + p.1) (cut p.1 p.2)).toAll d id n 0 3 (g.idx * c.count + p.1) (cut p.1 p.2)) s
    | 3 => if c.root = g.idx then (packets (c.size d) 0 c.count).foldl (fun (s : State) p =>
        (s.collWrite d id n p.1 (cut p.1 p.2)).toAll d id n 0 3 p.1 (cut p.1 p.2)) s else s
    | 4 =>
      let b := c.count / g.members.length
      (List.range g.members.length).foldl (fun (s : State) m =>
        (packets (c.size d) 0 b).foldl (fun (s : State) p =>
          let l := cut (m * b + p.1) p.2
          if m = g.idx then s.collWrite d id n (m * b + p.1) l else s.toMember d id n m 0 3 (g.idx * b + p.1) l) s) s
    | _ =>
      (List.range g.members.length).foldl (fun (s : State) o =>
        (c.units g d o).foldl (fun (s : State) u =>
          let v := cut u.1 u.2
          if g.coord 0 g.idx = (g.coord 0 o + 1) % g.bx then s.carry d id n 4 0 o u.1 v
          else match (s.collOf d id n).bind fun q => (q.2.waiting 0 u.1).map fun k => (q.2, k) with
            | some (c, k) =>
              let (t, fl) := c.add d k.elems v
              (s.unpark d id n k fl).carry d id n 4 0 o u.1 t
            | none => s) s) s

/-- A collective starts at its member once what it releases has performed: the tiles are checked, the source is read
(R371). Only a broadcast writes whole seed records (R375). -/
def State.collBegin (s : State) (d id n : Nat) : State :=
  match s.collOf d id n with
  | none => s
  | some (g, c) =>
    if c.begun || c.waits.any s.pend.contains then s
    else
      let da := c.da d
      let dc := c.dc d
      let reads := c.kind != 3 || c.root == g.idx
      let bad := fun (t : Desc) => if t.base % fmtAlign t.fmt ≠ 0 ∧ !t.empty then some (cAlignment, BitVec.ofNat 64 t.base) else none
      let fail := ((if reads then (bad da).orElse fun _ => s.unitFail d c.world da.ranges false else none).orElse fun _ =>
        bad dc).orElse fun _ => s.unitFail d c.world dc.ranges true (c.kind == 3 && dc.records)
      match fail with
      | some (k, f) => (s.modColl d id n fun c => { c with begun := true }).poisonColl d id n g.idx k f
      | none =>
        let pages := s.unitPages d c.world da.ranges
        let raw := if reads then tab da.count fun i => s.pageElem pages da (i / da.cols) (i % da.cols) else []
        let wide := raw.map fun v => if c.kind < 2 && da.fmt == 0x05 then widenBf v else (v, 0)
        let dst := s.unitPages d c.world dc.ranges
        let s := if reads then s.countRanges pages da.ranges false c.world else s
        let s := s.modColl d id n fun c => { c with
          begun := true, src := wide.map (·.1), pages := dst, evt := wide.foldl (fun f v => f ||| v.2) c.evt }
        let s := if c.wc && g.efE != c.count then s.modGroup d id fun g => { g with ef := [], efE := c.count } else s
        if c.poison.isSome then s else s.collSend d id n

/-- Every collective of a group does what it can at die `d`. -/
def State.collPump (s : State) (d id : Nat) : State :=
  match (s.die d).groups.find? (·.1 == id) with
  | none => s
  | some (_, g) => (g.colls.map (·.cnum)).foldl (fun (s : State) n => (s.collBegin d id n).flushColl d id n) s

/-- A collective is over at this member with the cause that the token brings, and that member. -/
def State.collEnd (s : State) (d id n : Nat) (worst : Option (Nat × Nat)) : State :=
  match s.collOf d id n with
  | none => s
  | some (g, c) =>
    let cause := (worst.map (·.2)).getD 0
    let s := s.modGroup d id fun g => { g with colls := g.colls.filter (·.cnum != n), cause := cause }
    let faddr := match worst with
      | some (m, _) => if m = g.idx then c.faddr else 0
      | none => 0
    let st : Status := { cause := cause, nfault := b2n (cause != 0), top := 5, bot := 5, gidx := (worst.map (·.1)).getD 0,
                         evt := c.evt, faddr := faddr }
    match c.issuer with
    | none => s.modDie d fun e => { e with seq := e.seq.map fun h =>
        if h.num = c.word then { h with ended := true, evt := h.evt ||| c.evt, fail := if cause = 0 then h.fail else some st } else h }
    | some (x, f) =>
      let s := if cause = 0 then s else
        s.deliver d { cause := cause, src := 3, fl := 2 * b2n c.world, who := cidOf (coreOf x) + 64 * c.stream.toNat,
                      faddr := faddr, path := st.word, clk := s.clk d, world := c.world }
      let a := s.nextId
      let s := { s with nextId := a + 1, pend := s.pend ++ [a] }
      s.modCore (coreOf x)
        (·.flagArrives { input := 8, cycle := s.now, n := f, op := .add 1, id := a, x := x, scope := 5, covered := [] })

/-- A collective joins its group at die `d` as the next one (R367); one that a member's die reset has ended already ends at
once (R361). -/
def State.collStart (s : State) (d id : Nat) (c : Coll) : State :=
  let s := s.modGroup d id fun g => { g with next := g.next + 1, colls := g.colls ++ [{ c with cnum := g.next % 2 ^ 16 }] }
  match (s.die d).groups.find? (·.1 == id) with
  | some (_, g) =>
    let n := (g.next + 2 ^ 16 - 1) % 2 ^ 16
    match g.doomed.find? (·.1 == n) with
    | some (_, m) =>
      (s.modGroup d id fun g => { g with doomed := g.doomed.filter (·.1 != n) }).collEnd d id n (some (m, cRemoteReset))
    | none => s.collPump d id
  | none => s

/-- `coll` (R367); a descriptor whose FMT no format code names is FORMAT_PROFILE, before the shape is judged (R68, log 28). -/
def collIssue (kind op : Nat) (wc : Bool) (w : Word) (ta tc : Nat) (s : State) : Res :=
  let x := s.x
  let d := dieOf x
  match s.groupOf d (wfld w 0 12) with
  | none => .trap cGroupInvalid (BitVec.ofNat 64 (wfld w 0 8))
  | some g =>
    let root := wfld w 12 11
    let a := s.desc x ta
    let c := s.desc x tc
    if !fmtKnown c.fmt || ((kind != 3 || root == g.idx) && !fmtKnown a.fmt) then .trap cFormatProfile 0
    else if wfld w 29 35 ≠ 0 ∨ g.members.length ≤ root ∨ !g.shapeOk kind root wc a c then .trap cCollShape 0
    else .ok (s.collStart d (wfld w 0 8)
      { cnum := 0, count := if kind = 3 then c.count else a.count, kind := kind, op := op, wc := wc, root := root,
        a := s.me.tdreg ta, c := s.me.tdreg tc, world := s.me.world, stream := s.me.stream,
        issuer := some (x, wfld w 23 6), waits := s.covers x 5 })

/-! ## Chunks arrive (R365, R366, R368, R371, R373) -/

/-- The packet's group is not live here under its generation: it is dropped, and counted (R365). -/
def State.stalePkt (s : State) (d n id : Nat) : State :=
  ((s.dropPkt n).countDie d 16 0 1 (((s.pktAt d n).map (·.secure)).getD false)).modDie d fun e =>
    { e with stales := spMod 0 id (fun k => min 255 (k + 1)) e.stales }

/-- A chunk is used at this member, and its credit goes back; one that this member's own value must precede is parked
(R366). -/
def State.useChunk (s : State) (d : Nat) (c : Chunk) : State :=
  match s.collOf d c.group c.cnum with
  | none => s.giveBack d c
  | some (g, q) =>
    match c.poison with
    | some (m, k) => s.poisonColl d c.group c.cnum m k 0
    | none =>
      if c.count ≠ q.count ∨ c.kind ≠ q.kind ∨ c.op ≠ q.op ∨ c.etype ≠ q.fmt d then
        (s.giveBack d c).poisonColl d c.group c.cnum g.idx cCollShape 0
      else if q.poison.isSome then s.giveBack d c
      else if c.step = 3 then (s.giveBack d c).collWrite d c.group c.cnum c.eoff c.elems
      else match q.value c.step c.eoff c.elems.length with
        | some v =>
          let (t, fl) := q.add d c.elems v
          ((s.giveBack d c).modColl d c.group c.cnum fun k =>
            { k with part := spDel (4 * c.eoff + c.step) k.part, evt := k.evt ||| fl }).carry
            d c.group c.cnum 4 c.step c.idx c.eoff t
        | none => s.modColl d c.group c.cnum fun k => { k with inbox := k.inbox ++ [c] }

/-- The die has not issued the collective numbered `n` of a group yet. -/
def Group.future (g : Group) (n : Nat) : Bool := decide ((n + 2 ^ 16 - g.next % 2 ^ 16) % 2 ^ 16 < 2 ^ 15)

/-- A packet that this die holds in its group's reservation for a collective it has not issued, or for the member to be ready,
stands in no other packet's way (R366). -/
def State.parked (s : State) (d : Nat) (p : Pkt) : Bool :=
  let held := fun (c : Chunk) => (s.groupOf d (c.group + 256 * c.gen)).any (·.future c.cnum)
  match p.body with
  | .chunk c => held c
  | .selfd c _ _ => held c
  | .token .. => true
  | _ => false

/-- An older packet of the same source and channel pair, not parked, has reached die `d` and has not been taken: packets
between two dies are taken in the order in which they were sent (R353). -/
def State.inTurn (s : State) (d : Nat) (p : Pkt) : Bool :=
  !s.pkts.any fun q => decide (q.num < p.num) && q.here == d && q.dst == d && q.src == p.src && q.body.pair == p.body.pair &&
    !q.body.routed && !s.parked d q

/-- A chunk `c` in packet `p` that has reached its member: one whose collective this die has not issued yet waits. -/
def State.takeChunk (s : State) (d : Nat) (p : Pkt) (c : Chunk) : State :=
  match s.groupOf d (c.group + 256 * c.gen) with
  | none => s.stalePkt d p.num c.group
  | some g =>
    if g.future c.cnum then s
    else ((s.dropPkt p.num).useChunk d c).flushColl d c.group c.cnum

/-- COLLECTIVE_CHUNK. -/
def State.chunkAt (s : State) (d n : Nat) : State :=
  match s.pktAt d n with
  | some p =>
    match p.body with
    | .chunk c => if p.dst = d && s.inTurn d p then s.takeChunk d p c else s
    | _ => s
  | none => s

/-- The payload of a self-describing packet delivered at EOFF (R373). -/
def State.deliverChunk (s : State) (d : Nat) (c : Chunk) : State := s.collWrite d c.group c.cnum c.eoff c.elems

/-- The payload added into the chunk staged here: the sum (R373). -/
def State.stagedSum (s : State) (d : Nat) (c : Chunk) : State × List Nat :=
  match s.collOf d c.group c.cnum with
  | none => (s, c.elems)
  | some (_, q) =>
    let held := (q.part.find? (·.1 == 4 * c.eoff + 3)).map (·.2)
    let own := held.getD ((q.src.drop c.eoff).take c.elems.length)
    let (t, fl) := q.add d c.elems own
    (s.modColl d c.group c.cnum fun k => { k with part := spPut (4 * c.eoff + 3) t k.part, evt := k.evt ||| fl }, t)

/-- SELF_DESCRIBING: the packet's next entry acts at the router of die `d`, or it is delivered with its lists empty. An entry
that delivers or adds here waits until this die has issued the collective; on route 6 the packet stays for its next entry. -/
def State.selfdAt (s : State) (d n : Nat) : State :=
  match s.pktAt d n with
  | none => s
  | some p =>
    match p.body with
    | .selfd c (r :: rs) (o :: os) =>
      let rest := fun (c : Chunk) => { p with body := .selfd c rs os }
      let group := s.groupOf d (c.group + 256 * c.gen)
      if decide (6 < r) || decide (4 < o) || (o == 2 && r != 6) then s.bounce d p cRouteInvalid
      else if decide (r < 6) && !s.linkUp d r then s.bounce d p cLinkDown
      else if o != 0 && group.isNone then s.stalePkt d n c.group
      else if o != 0 && group.any fun g => g.future c.cnum then s
      else
        let go := fun (s : State) (q : Pkt) =>
          let s := { s with pkts := s.pkts.map fun (z : Pkt) => if z.num == n then q else z }
          if r = 6 then s else s.hop d r q
        match o with
        | 0 => go s (rest c)
        | 1 => go (s.deliverChunk d c) (rest c)
        | 2 => ((s.dropPkt n).deliverChunk d c).flushColl d c.group c.cnum
        | 3 =>
          let (s, t) := s.stagedSum d c
          go s (rest { c with elems := t })
        | _ =>
          let (s, t) := s.stagedSum d c
          (s.dropPkt n).collWrite d c.group c.cnum c.eoff t
    | .selfd c _ _ => if p.dst = d && s.inTurn d p then s.takeChunk d p c else s
    | _ => s

/-- CREDIT_GRANT: one for an ID that is not live here is dropped as any packet (R365, R366). -/
def State.creditAt (s : State) (d n : Nat) : State :=
  match s.pktAt d n with
  | some p =>
    match p.body with
    | .credit id gen b =>
      if p.dst ≠ d || !s.inTurn d p then s
      else match s.groupOf d (id + 256 * gen) with
        | some g => ((s.dropPkt n).modGroup d id fun k => { k with credit := spMod 0 (g.memberOf p.src) (· + b) k.credit }).collPump d id
        | none => s.stalePkt d n id
    | _ => s
  | none => s

/-! ## Completion (R371, R372) -/

/-- The member has finished its own steps. -/
def Coll.ready (g : Group) (c : Coll) (d : Nat) : Bool :=
  c.begun && c.outbox.isEmpty && (c.poison.isSome || c.steps == c.expected g d)

/-- The lower of two faulting members. -/
def worse (a b : Option (Nat × Nat)) : Option (Nat × Nat) :=
  match a, b with
  | some p, some q => if q.1 < p.1 then some q else some p
  | some p, none => some p
  | none, q => q

/-- The token of collective `n` sent on to member `m`. -/
def State.sendToken (s : State) (d id : Nat) (g : Group) (n pass m : Nat) (w : Option (Nat × Nat)) : State :=
  s.send { num := 0, src := d, dst := g.members.getD m d, here := d, body := .token id g.gen n pass w }

/-- The token `w` of a pass has reached this member, which is ready. -/
def State.passToken (s : State) (d id : Nat) (g : Group) (c : Coll) (pass : Nat) (w : Option (Nat × Nat)) : State :=
  let n := g.members.length
  if pass = 1 ∧ g.idx ≠ 0 then
    s.sendToken d id g c.cnum 1 ((g.idx + 1) % n) (worse w c.poison)
  else
    let s := s.collEnd d id c.cnum w
    if g.idx + 1 < n then s.sendToken d id g c.cnum 2 (g.idx + 1) w else s

/-- The first member launches the token of a collective that is ready. -/
def State.launchToken (s : State) (d id : Nat) (g : Group) : State :=
  match g.colls.find? fun c => c.ready g d && !c.launched with
  | some c =>
    if g.members.length = 1 then s.collEnd d id c.cnum c.poison
    else (s.modColl d id c.cnum fun k => { k with launched := true }).sendToken d id g c.cnum 1 1 c.poison
  | none => s

/-- COLL_TOKEN_PASS: the collectives of group `id` do what they can at die `d`, and a completion token goes on from a
member that is ready; it waits where the collective has not been issued yet. -/
def State.tokenStep (s : State) (d id : Nat) : State :=
  let s := s.collPump d id
  let tok := s.pkts.findSome? fun p => match p.body with
    | .token i gen n pass w => if p.here = d ∧ p.dst = d ∧ i = id ∧ s.inTurn d p then some (p.num, gen, n, pass, w) else none
    | _ => none
  match tok with
  | some (num, gen, n, pass, w) =>
    match s.groupOf d (id + 256 * gen) with
    | none => s.stalePkt d num id
    | some g =>
      match g.colls.find? (·.cnum == n) with
      | none => if g.future n then s else s.dropPkt num
      | some c => if c.ready g d then (s.dropPkt num).passToken d id g c pass w else s
  | none =>
    match (s.die d).groups.find? (·.1 == id) with
    | some (_, g) => if g.idx = 0 then s.launchToken d id g else s
    | none => s

/-- NAK: of a request, or of a packet of a collective, which poisons it; a lost token ends it here (R355, R371, R373). -/
def State.nakAt (s : State) (d n : Nat) : State :=
  match s.pktAt d n with
  | some p =>
    if p.dst ≠ d || s.overtakes p then s
    else match p.body with
      | .nak c f => s.reqNak d p c f
      | .collNak id gen k cause token =>
        match s.groupOf d (id + 256 * gen) with
        | some g =>
          let s := (s.dropPkt n).poisonColl d id k g.idx cause 0
          match s.collOf d id k with
          | some (_, c) => if token then s.collEnd d id k c.poison else s
          | none => s
        | none => s.stalePkt d n id
      | .nakLost _ => s.dropPkt n
      | _ => s
  | none => s

/-! ## Instructions and events -/


/-- COLL_AR (R367): Starts an all-reduce on a group. -/
def execCollAr (d : BitVec 5) (a : BitVec 5) (b : BitVec 5) (w : BitVec 1) (o : BitVec 2) (s : State) : Host.Outcome State Fault Refusal :=
  slotOp 3 (.collAr d a b w o) s fun s => collIssue 0 o.toNat (w == 1) (s.sr d) a.toNat b.toNat s

/-- COLL_RS (R367): Starts a reduce-scatter on a group. -/
def execCollRs (d : BitVec 5) (a : BitVec 5) (b : BitVec 5) (w : BitVec 1) (o : BitVec 2) (s : State) : Host.Outcome State Fault Refusal :=
  slotOp 3 (.collRs d a b w o) s fun s => collIssue 1 o.toNat (w == 1) (s.sr d) a.toNat b.toNat s

/-- COLL_AG (R367): Starts an all-gather on a group. -/
def execCollAg (d : BitVec 5) (a : BitVec 5) (b : BitVec 5) (s : State) : Host.Outcome State Fault Refusal :=
  slotOp 3 (.collAg d a b) s fun s => collIssue 2 0 false (s.sr d) a.toNat b.toNat s

/-- COLL_BC (R367): Starts a broadcast on a group. -/
def execCollBc (d : BitVec 5) (a : BitVec 5) (b : BitVec 5) (s : State) : Host.Outcome State Fault Refusal :=
  slotOp 3 (.collBc d a b) s fun s => collIssue 3 0 false (s.sr d) a.toNat b.toNat s

/-- COLL_A2A (R367): Starts an all-to-all on a group. -/
def execCollA2a (d : BitVec 5) (a : BitVec 5) (b : BitVec 5) (s : State) : Host.Outcome State Fault Refusal :=
  slotOp 3 (.collA2a d a b) s fun s => collIssue 4 0 false (s.sr d) a.toNat b.toNat s

/-- GRP_MK (R364): Creates a group at the issuing die and reserves its staging. -/
def execGrpMk (d : BitVec 5) (a : BitVec 5) (b : BitVec 5) (s : State) : Host.Outcome State Fault Refusal :=
  slotOp 3 (.grpMk d a b) s fun s => groupMake d.toNat a.toNat (s.sr b).toNat s

/-- GRP_FREE (R365): Ends a group at this die once idle and raises its generation. -/
def execGrpFree (a : BitVec 5) (s : State) : Host.Outcome State Fault Refusal :=
  slotOp 3 (.grpFree a) s fun s => groupFree (s.sr a) s

/-- GRP_Q (R365): Reads a group's status word. -/
def execGrpQ (d : BitVec 5) (a : BitVec 5) (s : State) : Host.Outcome State Fault Refusal :=
  slotOp 3 (.grpQ d a) s fun s => groupQuery d.toNat (s.sr a) s

/-- COLLECTIVE_CHUNK (R369): A ring sequencer receives a chunk, adds or forwards it, or poisons on disagreement. -/
def execCollectiveChunk (die : Nat) (n : Nat) (s : State) : Host.Outcome State Fault Refusal :=
  .next (s.chunkAt die n)

/-- SELF_DESCRIBING (R373): A self-describing packet pops its route and op lists at a router. -/
def execSelfDescribing (die : Nat) (n : Nat) (s : State) : Host.Outcome State Fault Refusal :=
  .next (s.selfdAt die n)

/-- CREDIT_GRANT (R366): A member grants chunk credit from its group reservation. -/
def execCreditGrant (die : Nat) (n : Nat) (s : State) : Host.Outcome State Fault Refusal :=
  .next (s.creditAt die n)

/-- COLL_TOKEN_PASS (R371): The collective's completion token passes a member, which completes on the second pass. -/
def execCollTokenPass (die : Nat) (g : Nat) (s : State) : Host.Outcome State Fault Refusal :=
  .next (s.tokenStep die g)

/-- NAK (R360): A NAK delivers a cause to the request's issuer. -/
def execNak (die : Nat) (n : Nat) (s : State) : Host.Outcome State Fault Refusal :=
  .next (s.nakAt die n)

end Sys2Proof.Machine
end

