-- ==== Sys2Proof/Machine/Pack.lean ====
section
/-! DEFINITION. What a save area keeps in places whose layout the spec leaves open, as numbers and as bytes: the SEQ region
(R320, R321) and the spare bytes of context blocks (R324, log 16). A number is a byte that counts its bytes, then those
bytes, the lowest first. -/

namespace Sys2Proof.Machine

/-! ## Numbers as bytes -/

/-- The bytes of a number. -/
def numBytes (n : Nat) : List Byte :=
  let k := if n = 0 then 0 else n.log2 / 8 + 1
  BitVec.ofNat 8 k :: leBytes k n

/-- The bytes of a list of numbers. -/
def numsBytes (l : List Nat) : List Byte := l.flatMap numBytes

/-- The numbers that bytes hold, at most `n` of them. -/
def numsOf : Nat → List Byte → List Nat
  | 0, _ => []
  | _, [] => []
  | n + 1, b :: t => leVal (t.take b.toNat) :: numsOf n (t.drop b.toNat)

/-! ## Reading numbers in order -/

/-- A reader of numbers. -/
abbrev Rd (α : Type) := StateM (List Nat) α

/-- The next number; 0 after the last. -/
def rdNat : Rd Nat := fun l => (l.headD 0, l.tail)
def rdBit : Rd Bool := do return (← rdNat) != 0
def rdBv (w : Nat) : Rd (BitVec w) := do return BitVec.ofNat w (← rdNat)

/-- `n` items. -/
def rdMany {α : Type} (f : Rd α) : Nat → Rd (List α)
  | 0 => return []
  | n + 1 => do
    let a ← f
    return a :: (← rdMany f n)

/-- A list behind its length; no more items than there are numbers. -/
def rdList {α : Type} (f : Rd α) : Rd (List α) := do
  let n ← rdNat
  rdMany f (min n (← get).length)

/-- An item that may be absent. -/
def rdOpt {α : Type} (f : Rd α) : Rd (Option α) := do
  if ← rdBit then return some (← f) else return none

/-- The numbers of a list and of an item that may be absent. -/
def wrList {α : Type} (f : α → List Nat) (l : List α) : List Nat := l.length :: l.flatMap f
def wrOpt {α : Type} (f : α → List Nat) : Option α → List Nat
  | some a => 1 :: f a
  | none => [0]

/-! ## The pieces -/

/-- A source of tile words. -/
def WSrc.nums : WSrc → List Nat
  | .stream p k => [0, p, k]
  | .sent c l => [1, c, l]
def rdSrc : Rd WSrc := do
  let b ← rdBit
  let (p, k) := (← rdNat, ← rdNat)
  return if b then .sent p k else .stream p k

/-- A status. -/
def Status.nums (t : Status) : List Nat :=
  [t.cause, t.nfault, t.top, t.bot, t.gidx, t.die, t.clu, t.core, t.lc, b2n t.abt, t.evt.toNat, t.faddr.toNat]
def rdStatus : Rd Status := do
  return { cause := ← rdNat, nfault := ← rdNat, top := ← rdNat, bot := ← rdNat, gidx := ← rdNat, die := ← rdNat, clu := ← rdNat,
           core := ← rdNat, lc := ← rdNat, abt := ← rdBit, evt := ← rdBv 7, faddr := ← rdBv 64 }

/-- A child. -/
def Child.nums (k : Child) : List Nat := [k.idx, k.unit, k.lo, k.len]
def rdChild : Rd Child := do return { idx := ← rdNat, unit := ← rdNat, lo := ← rdNat, len := ← rdNat }

/-- A pair. -/
def rdPair {α β : Type} (f : Rd α) (g : Rd β) : Rd (α × β) := do return (← f, ← g)

/-- A word at a unit. Its staged share of A and its reservation are left out: both are made again (R251). -/
def HWord.nums (h : HWord) : List Nat :=
  [h.num, encodeTile h.w, h.va] ++ h.src.nums ++ [h.stream.toNat, h.prio.toNat, b2n h.world, h.top, h.level, h.a.toNat, h.b.toNat,
    h.c.toNat, h.oa.1, h.oa.2.1, h.oa.2.2, h.ob.1, h.ob.2.1, h.ob.2.2, h.lo, h.deal.1, h.deal.2] ++
  wrOpt (fun (q : Nat × Nat) => [q.1, q.2]) h.parent ++ [b2n h.open_] ++ wrList Child.nums h.todo ++ wrList Child.nums h.live ++
  [h.ticket, h.tickets, h.reserve] ++ wrOpt (fun (q : Nat × Status) => q.1 :: q.2.nums) h.first ++
  [h.nf, h.evt.toNat, b2n h.abt, b2n h.faulted] ++ wrList (fun (q : Nat × List Nat) => q.1 :: wrList (fun v => [v]) q.2) h.parts ++
  [h.hold] ++ wrOpt (fun t => [t]) h.came ++ [h.pos] ++ wrOpt (fun (q : Nat × Word) => [q.1, q.2.toNat]) h.walk ++
  wrList (fun v => [v]) h.own ++ wrOpt Status.nums h.fail ++ [b2n h.ended] ++
  wrOpt (fun (q : Nat × Nat × Nat × Option (BitVec 8)) => [q.1, q.2.1, q.2.2.1] ++ wrOpt (fun t => [t.toNat]) q.2.2.2) h.sentBy ++
  wrOpt (fun t => [t]) h.who
def rdWord : Rd HWord := do
  let h : HWord := { num := ← rdNat, w := decodeTile (← rdNat), va := ← rdNat, src := ← rdSrc, stream := ← rdBv 2, prio := ← rdBv 2,
                     world := ← rdBit, top := ← rdNat, level := ← rdNat, a := ← rdBv 256, b := ← rdBv 256, c := ← rdBv 256 }
  let h := { h with oa := (← rdNat, ← rdNat, ← rdNat), ob := (← rdNat, ← rdNat, ← rdNat), lo := ← rdNat,
                    deal := (← rdNat, ← rdNat), parent := ← rdOpt (rdPair rdNat rdNat), open_ := ← rdBit }
  let h := { h with todo := ← rdList rdChild, live := ← rdList rdChild, ticket := ← rdNat, tickets := ← rdNat, reserve := ← rdNat }
  let h := { h with first := ← rdOpt (rdPair rdNat rdStatus), nf := ← rdNat, evt := ← rdBv 7, abt := ← rdBit, faulted := ← rdBit }
  let h := { h with parts := ← rdList (rdPair rdNat (rdList rdNat)), hold := ← rdNat, came := ← rdOpt rdNat, pos := ← rdNat }
  let h := { h with walk := ← rdOpt (rdPair rdNat (rdBv 64)), own := ← rdList rdNat, fail := ← rdOpt rdStatus, ended := ← rdBit }
  let h := { h with sentBy := ← rdOpt (do return (← rdNat, ← rdNat, ← rdNat, ← rdOpt (rdBv 8))), who := ← rdOpt rdNat }
  return { h with reserved := h.reserve == 0 }

/-- How a context was started. -/
def Origin.nums : Origin → List Nat
  | .tcall w c sp => [0, w, c, b2n sp]
  | .handler => [1, 0, 0, 0]
  | .trapHandler => [2, 0, 0, 0]
  | .start => [3, 0, 0, 0]
def rdOrigin : Rd Origin := do
  let k ← rdNat
  let (w, c, sp) := (← rdNat, ← rdNat, ← rdBit)
  return match k with
    | 0 => .tcall w c sp
    | 1 => .handler
    | 2 => .trapHandler
    | _ => .start

/-- A waiting start. -/
def StartReq.nums (q : StartReq) : List Nat :=
  [q.entry] ++ wrList (fun (r : Nat × Word) => [r.1, r.2.toNat]) q.regs ++ wrList (fun (r : Nat × BitVec 256) => [r.1, r.2.toNat]) q.tds ++
  [q.child.toNat, q.stream.toNat, q.prio.toNat] ++ q.origin.nums ++ wrOpt (fun b => [b2n b]) q.world ++ [b2n q.priv] ++
  wrOpt (fun t => [t.toNat]) q.tag
def rdReq : Rd StartReq := do
  return { entry := ← rdNat, regs := ← rdList (rdPair rdNat (rdBv 64)), tds := ← rdList (rdPair rdNat (rdBv 256)), child := ← rdBv 32,
           stream := ← rdBv 2, prio := ← rdBv 2, origin := ← rdOrigin, world := ← rdOpt rdBit, priv := ← rdBit,
           tag := ← rdOpt (rdBv 8) }
def Waiting.nums (w : Waiting) : List Nat := [w.cycle, w.rank] ++ wrList (fun v => [v]) w.order ++ w.req.nums
def rdWaiting : Rd Waiting := do return { cycle := ← rdNat, rank := ← rdNat, order := ← rdList rdNat, req := ← rdReq }

/-- The end of a `tcall` child. -/
def ChildEnd.nums (e : ChildEnd) : List Nat :=
  [e.word, e.child, e.cause, e.faddr.toNat, e.ctx, e.life] ++ wrList (fun v => [v]) e.waits
def rdEnd : Rd ChildEnd := do
  return { word := ← rdNat, child := ← rdNat, cause := ← rdNat, faddr := ← rdBv 64, ctx := ← rdNat, life := ← rdNat,
           waits := ← rdList rdNat }

/-- A unit. -/
def unitNums : UnitId → List Nat
  | .pour p => [0, p]
  | .die d => [1, d]
  | .clu u => [2, u]
  | .core c => [3, c]
def rdUnit : Rd UnitId := do
  let k ← rdNat
  let n ← rdNat
  return match k with
    | 0 => .pour n
    | 1 => .die n
    | 2 => .clu n
    | _ => .core n

/-! ## Accesses in flight of a context (R324, log 16) -/

/-- A destination of an interlocked operation. -/
def LongDest.nums : LongDest → List Nat
  | .s n z => [0, n, z]
  | .v n z => [1, n, z]
  | .sw n => [2, n, 0]
  | .vm k => [3, k, 0]
  | .vms k n => [4, k, n]
  | .none => [5, 0, 0]
def rdDest : Rd LongDest := do
  let k ← rdNat
  let (a, b) := (← rdNat, ← rdNat)
  return match k with
    | 0 => .s a b
    | 1 => .v a b
    | 2 => .sw a
    | 3 => .vm a
    | 4 => .vms a b
    | _ => .none

/-- What an interlocked operation waits for, beside a load. -/
def LongKind.nums : LongKind → List Nat
  | .scan v t => 0 :: t :: wrList (fun (w : Word) => [w.toNat]) v
  | .board d b sc => [1, d, b] ++ wrOpt (fun c => [c]) sc
  | .flag => [2]
  | .load _ => [3]
def rdKind : Rd LongKind := do
  match ← rdNat with
  | 0 => return .scan (at_ := ← rdNat) (val := ← rdList (rdBv 64))
  | 1 => return .board (← rdNat) (← rdNat) (← rdOpt rdNat)
  | _ => return .flag

/-- An interlocked operation other than a load. -/
def LongOp.nums (o : LongOp) : List Nat :=
  [o.id, o.issued, o.slot, o.baddr, o.bank, o.cls] ++ o.kind.nums ++ o.dest.nums ++ [o.off, o.num, b2n o.secure] ++ wrList (fun i => [i]) o.waits
def rdLong : Rd LongOp := do
  return { id := ← rdNat, issued := ← rdNat, slot := ← rdNat, baddr := ← rdNat, bank := ← rdNat, cls := ← rdNat, kind := ← rdKind,
           dest := ← rdDest, off := ← rdNat, num := ← rdNat, secure := ← rdBit, waits := ← rdList rdNat }

/-- What is in flight of a context beside its loads: the stores that its tokens wait for, its operations that wait for a
reply, the accesses that it has issued and observed, and its fences. -/
def Ctx.flight (c : Ctx) : List Nat :=
  wrList (fun (t : Nat × Token) => t.1 :: wrList (fun i => [i]) t.2.waits) c.tokens ++
  wrList LongOp.nums (c.longs.filter fun o => !o.isLoad) ++ [c.nextLong] ++
  wrList (fun (e : Nat × Nat × Bool) => [e.1, e.2.1, b2n e.2.2]) c.mine ++ wrList (fun i => [i]) c.seen ++
  wrList (fun (f : FenceRec) => [f.mask, f.scope] ++ wrList (fun i => [i]) f.before) c.fences
def rdFlight : Rd Ctx := do
  return { tokens := ← rdList (rdPair rdNat do return { mask := 0, waits := ← rdList rdNat }), longs := ← rdList rdLong,
           nextLong := ← rdNat, mine := ← rdList (do return (← rdNat, ← rdNat, ← rdBit)), seen := ← rdList rdNat,
           fences := ← rdList do return { mask := ← rdNat, scope := ← rdNat, before := ← rdList rdNat } }

/-! ## The SEQ region of a die (R320, R321) -/

/-- What the sequencers and tile units of a die hold of a stream: words at units, waiting starts, ends of children and sent
words, by core. -/
structure SeqImage where
  words : List (UnitId × HWord) := []
  starts : List (Nat × Waiting) := []
  ends : List (Nat × ChildEnd) := []
  sends : List (Nat × HWord) := []
  deriving DecidableEq, Repr

/-- The bytes of an image, after eight that count them. -/
def SeqImage.bytes (m : SeqImage) : List Byte :=
  let l := numsBytes (wrList (fun (q : UnitId × HWord) => unitNums q.1 ++ q.2.nums) m.words ++
    wrList (fun (q : Nat × Waiting) => q.1 :: q.2.nums) m.starts ++ wrList (fun (q : Nat × ChildEnd) => q.1 :: q.2.nums) m.ends ++
    wrList (fun (q : Nat × HWord) => q.1 :: q.2.nums) m.sends)
  leBytes 8 l.length ++ l

/-- The image that numbers give. -/
def SeqImage.of (l : List Nat) : SeqImage :=
  let rd : Rd SeqImage := do
    return { words := ← rdList (rdPair rdUnit rdWord), starts := ← rdList (rdPair rdNat rdWaiting),
             ends := ← rdList (rdPair rdNat rdEnd), sends := ← rdList (rdPair rdNat rdWord) }
  (rd l).1

end Sys2Proof.Machine
end

