-- ==== Sys2Proof/Machine/Matrix.lean ====
section
/-! DEFINITION. The matrix part of the T slot: multiplies, accumulator moves, drains, scales, descriptors, staging
buffers and the Grinder (R176 to R202). -/

namespace Sys2Proof.Machine

/-! ## Operands -/

/-- A plain tile may be read or written by the T slot: a known format that is not in column layout (R68, R181). -/
def Desc.plain (d : Desc) : Bool := fmtKnown d.fmt && !d.wsl

/-- The place checks of a plain tile in cluster SRAM (R179). -/
def State.plainCheck (s : State) (d : Desc) (write : Bool) : Option (Nat × Word) :=
  s.operandCheck s.x d.ranges d.base (d.base % fmtAlign d.fmt != 0) write .sram

/-- The elements of a plain tile, row by row. -/
def State.tileElems (s : State) (d : Desc) : List Nat :=
  tab (d.rows * d.cols) fun i => s.tileElem s.x d (i / d.cols) (i % d.cols)

/-- Elements of 16 or 32 bits written into a plain tile, row by row. -/
def State.putElems (s : State) (d : Desc) (f : Nat → Nat → Nat) : State :=
  (List.range (d.rows * d.cols)).foldl (fun s i =>
    s.vaWrite s.x (d.bitPos (i / d.cols) (i % d.cols) / 8) (leBytes (fmtBits d.fmt / 8) (f (i / d.cols) (i % d.cols)))) s

/-- The first bad seed record of a seeded tile, by its address (R200). -/
def State.recordBad (s : State) (d : Desc) : Option (Nat × Word) :=
  let n := if d.empty then 0 else (d.cols + 63) / 64
  ((List.range n).find? fun j =>
    let va := d.base + 64 * j
    let r := leVal (s.vaBytes s.x va 64)
    let o := paOff (s.vaPa s.x va) % 0x200000
    seedBad r || d.stride % 32 != 0 || 32 * seedKB r < d.stride + d.rows || !s.seededAll (coreOf s.x) o 64).map fun j =>
      (cGrinderRecord, BitVec.ofNat 64 (d.base + 64 * j))

/-- The weight at (k, n) of a seeded tile. -/
def State.seedElem (s : State) (d : Desc) (k n : Nat) : Nat :=
  seedWeight (leVal (s.vaBytes s.x (d.base + 64 * (n / 64)) 64)) (d.stride + k) (n % 64)

/-! ## The matrix multiply (R189, R190) -/

/-- What the B operand gives the checks: format, rows, columns, whether it has scales. -/
structure BView where
  fmt : Nat
  rows : Nat
  cols : Nat
  scaled : Bool

/-- The checks of formats, shape and kind (R189, steps 2 to 5). -/
def mmaBad (p : Half) (gr : Bool) (da : Desc) (b : BView) (storOk : Bool) (z : Bool) (kind : Nat) : Bool :=
  !profValid p || (profB p == 0x20) != gr ||
  da.fmt != profA p || b.fmt != profB p || da.stor != 0 || da.wsl || !storOk ||
  decide (32 < da.rows) || decide (64 < b.cols) || b.rows != da.cols || decide (32 * gang p < da.cols) ||
  ((isMx (profA p) || isMx (profB p)) && da.cols % 32 != 0) ||
  (!z && kind != (if profAcc p = 0 then 0 else 1))

/-- The place checks of A and of B; with an empty operand there is no element work and nothing is read (R68). -/
def State.mmaPlaces (s : State) (da : Desc) (cols : Nat) (b : Option (Nat × Word)) (k : Res) : Res :=
  if da.empty || cols == 0 then k else failOn (s.plainCheck da false) (failOn b k)

/-- A multiply that has passed its checks joins the array queue with what it latches at issue (R190, R191). -/
def State.mmaIssue (s : State) (t : Nat) (p : Half) (da : Desc) (b : BView) (src : BSrc) (l : List (Nat × Nat)) (z sp : Bool) :
    State :=
  let pages := (s.ctxPages s.x).filter fun h => l.any fun r => overlaps r.1 r.2 h.va h.bytes
  s.accWrite t (if z then (if profAcc p = 0 then 0 else 1) else (s.acc (coreOf s.x) t).kind) (s.newTag sp)
    (.mma { prof := p, m := da.rows, n := b.cols, k := da.cols, a := s.tileElems da, b := src, pages := pages,
            sa := da.sbase != 0 && isMx (profA p), sb := b.scaled && isMx (profB p), xs := s.me.xs, z := z })

/-- `tmma.ws`. -/
def mmaWs (t a b : BitVec 4) (f : BitVec 2) (z sp : Bool) (s : State) : Res :=
  let p := s.me.fmreg f.toNat
  let da := s.desc s.x a.toNat
  let db := s.desc s.x b.toNat
  let v : BView := { fmt := db.fmt, rows := db.rows, cols := db.cols, scaled := db.sbase != 0 }
  failTag (s.tagCheck t.toNat sp z) <|
  trapIf (mmaBad p false da v (db.stor == 0 && db.wsl) z (s.acc (coreOf s.x) t.toNat).kind) cFormatProfile <|
  s.mmaPlaces da db.cols (s.operandCheck s.x (wslRanges db.base (fmtBits db.fmt) db.rows db.cols) db.base
    (db.base % fmtAlign db.fmt != 0 || nfld db.base 5 6 != 0) false .weights) <|
  .ok (s.mmaIssue t.toNat p da v (.ws db.base) (wslRanges db.base (fmtBits db.fmt) db.rows db.cols) z sp)

/-- `tmma.gr`. -/
def mmaGr (t a b : BitVec 4) (f : BitVec 2) (z sp : Bool) (s : State) : Res :=
  let p := s.me.fmreg f.toNat
  let da := s.desc s.x a.toNat
  let db := s.desc s.x b.toNat
  let v : BView := { fmt := db.fmt, rows := db.rows, cols := db.cols, scaled := false }
  failTag (s.tagCheck t.toNat sp z) <|
  trapIf (mmaBad p true da v (db.stor == 3 && !db.wsl) z (s.acc (coreOf s.x) t.toNat).kind) cFormatProfile <|
  s.mmaPlaces da db.cols ((s.operandCheck s.x (seedRanges db) db.base (db.base % 64 != 0) false .weights).orElse
    fun _ => s.recordBad db) <|
  .ok (s.mmaIssue t.toNat p da v (.gr db.base db.stride) (seedRanges db) z sp)

/-- `tmma.cs`. -/
def mmaCs (t a b : BitVec 4) (f : BitVec 2) (z sp : Bool) (s : State) : Res :=
  let p := s.me.fmreg f.toNat
  let da := s.desc s.x a.toNat
  let g : Staging := spGet {} (s.core (coreOf s.x)).bs b.toNat
  let v : BView := { fmt := g.fmt, rows := g.rows, cols := g.cols, scaled := g.scaled }
  failTag (s.tagCheck t.toNat sp z) <|
  trapIf (mmaBad p false da v true z (s.acc (coreOf s.x) t.toNat).kind) cFormatProfile <|
  s.mmaPlaces da g.cols none <|
  .ok (s.mmaIssue t.toNat p da v (.cs g.elems) [] z sp)

/-! ## Accumulators (R192 to R195) -/

/-- Elements of an accumulator computed at issue, with their flags and the earliest event. -/
def State.accElems (s : State) (f : Nat → Nat → Nat × Fl) : AccRes :=
  let l := tab 2048 fun i => ({ val := 0 } : Stepped).then 0 (f (i / 64) (i % 64))
  let (fl, ev) := accFlags l fun i e =>
    evOfElem s.me.count 2 s.me.pc s.bankNow (i / 64) (i % 64) 0 e
  .data (l.map fun r => BitVec.ofNat 32 r.val) fl ev

/-- Element (m, n) of an accumulator. -/
def Acc.el (a : Acc) (m n : Nat) : Nat := (a.data.getD (64 * m + n) 0).toNat

/-- `tzero` (R192). -/
def zeroAcc (t : BitVec 4) (kind : Nat) (sp : Bool) (s : State) : Res :=
  failTag (s.tagCheck t.toNat sp true) <|
  .ok (s.accWrite t.toNat kind (s.newTag sp) (.data (List.replicate 2048 0) 0 none))

/-- `tldc` (R193). -/
def loadAcc (t : BitVec 4) (d : Nat) (sp : Bool) (s : State) : Res :=
  let e := s.desc s.x d
  failTag (s.tagCheck t.toNat sp true) <|
  trapIf (!(e.fmt == 0x07 || e.fmt == 0x03 || e.fmt == 0x05) || !e.plain || decide (32 < e.rows) ||
    decide (64 < e.cols)) cFormatProfile <|
  failOn (s.plainCheck e false) <|
  .ok (s.accWrite t.toNat (if e.fmt = 0x03 then 1 else 0) (s.newTag sp) (s.accElems fun m n =>
    if e.rows ≤ m ∨ e.cols ≤ n then (0, 0)
    else if e.fmt = 0x05 then widenBf (s.tileElem s.x e m n) else (s.tileElem s.x e m n, 0)))

/-- `tstc` (R194). -/
def storeAcc (t : BitVec 4) (d : Nat) (s : State) : Res :=
  let a := s.acc (coreOf s.x) t.toNat
  let e := s.desc s.x d
  trapIf a.tv cAccTagConflict <|
  trapIf (e.fmt != (if a.kind = 0 then 0x07 else 0x03) || !e.plain || decide (32 < e.rows) || decide (64 < e.cols))
    cFormatProfile <|
  failOn (s.plainCheck e true) <|
  .ok (s.putElems e a.el)

/-- `tmov` (R195). -/
def moveAcc (t : BitVec 4) (d : Nat) (s : State) : Res :=
  let a := s.acc (coreOf s.x) d
  trapIf a.tv cAccTagConflict <|
  failTag (s.tagCheck t.toNat false true) <|
  .ok (s.accWrite t.toNat a.kind none (.data (tab 2048 fun i => a.data.getD i 0) 0 none))

/-- One element of `tacc` (R195): FP32, or INT32 wrapping or saturating. -/
def accAdd (kind : Nat) (sat : Bool) (x y : Nat) : Nat × Fl :=
  if kind = 0 then addF32 x y
  else
    let v := sgnN 32 x + sgnN 32 y
    if sat then let (r, fl) := sat32 v; (wrapN 32 r, fl) else (wrapN 32 v, 0)

/-- `tacc` (R195). -/
def addAcc (t : BitVec 4) (d : Nat) (sat : Bool) (s : State) : Res :=
  let a := s.acc (coreOf s.x) t.toNat
  let b := s.acc (coreOf s.x) d
  trapIf b.tv cAccTagConflict <|
  failTag (s.tagCheck t.toNat false false) <|
  trapIf (a.kind != b.kind) cFormatProfile <|
  .ok (s.accWrite t.toNat a.kind none (s.accElems fun m n => accAdd a.kind sat (a.el m n) (b.el m n)))

/-! ## Draining (R196, R197) -/

/-- One lane of a drain: 0 `.f`, 1 `.bf`, 2 `.raw`; `bias` as FP32 bits. -/
def drainElem (fn kind x : Nat) (relu : Bool) (bias : Option Nat) : Word × Fl :=
  if fn = 2 then (if kind = 1 then sextNat 32 x else BitVec.ofNat 64 x, 0)
  else
    let v0 : FVal := if kind = 1 then .fin (decide (sgnN 32 x < 0)) (sgnN 32 x).natAbs 0 else fp32.val x
    let f0 : Fl := if kind = 1 then 0 else fp32.snanFl x
    let (v, f1) : FVal × Fl := match bias with
      | some b => let (w, fl) := fp32.finish 0 (f0 ||| fp32.snanFl b) (v0.add 0 (fp32.val b)); (fp32.val w, fl)
      | none => (v0, f0)
    let v : FVal := if relu then (match v with
      | .fin neg m e => if neg || m = 0 then .fin false 0 0 else .fin neg m e
      | .inf neg => if neg then .fin false 0 0 else .inf neg
      | .nan => .nan) else v
    let (w, f2) := if fn = 0 then fp32.ofVal 0 v else bf16.ofVal 0 v
    (BitVec.ofNat 64 w, f1 ||| f2)

/-- Entries of result queue `q` still due from drains of any context of core `c` (R197). -/
def State.rqDue (s : State) (c q : Nat) : Nat :=
  ((List.range 4).flatMap fun i => (s.ctx (4 * c + i)).snaps.filter fun n =>
    match n.dest with
    | .rq n _ => n == q
    | _ => false).length

/-- The sixteen entries of a drain, each an exposed result of latency 6 + i. -/
def State.drainSnaps (s : State) (q : Nat) (f : Nat → Nat → Word × Fl) : List Snap :=
  (List.range 16).map fun i =>
    let l := tab 128 fun l => f (2 * i + l / 64) (l % 64)
    let fl := l.foldl (fun a r => a ||| r.2) 0
    let ev := (List.range 128).findSome? fun j =>
      let k := kindOf (l.getD j (0, 0)).2
      if k = 0 then none else some { s.event 2 0 (2 * i + j / 64) (j % 64) 0 k with slot := 2 }
    { s.snap 2 (6 + i) (.rq q [{ data := l.map (·.1), valid := BitVec.allOnes 128 }]) with flags := fl, ev := ev }

/-- `tdrain` (R196). R75's table lists it among the readers of xs0 to xs7, and R196 gives it none to read: that it reads no scale
register is the model's choice (log 89). -/
def drain (fn : Nat) (t : BitVec 4) (q : Nat) (relu : Bool) (bias : Option Nat) (s : State) : Res :=
  let a := s.acc (coreOf s.x) t.toNat
  trapIf a.tv cAccTagConflict <|
  trapIf (decide (32 < (spGet [] (s.core (coreOf s.x)).rq q).length + s.rqDue (coreOf s.x) q + 16)) cRqOverflow <|
  let l := s.drainSnaps q fun m n =>
    drainElem fn a.kind (a.el m n) relu (bias.map fun v => wfld (s.me.lane v n) 0 32)
  .ok (s.modCtx s.x fun c => { c with snaps := c.snaps ++ l })

/-! ## Scales, profiles, descriptors, staging buffers (R184 to R188) -/

/-- `tscl` (R184): `role` 0 for A, 1 for B. -/
def loadScales (role : Nat) (t d half : Nat) (g : Nat) (kb : State → Nat) (s : State) : Res :=
  let e := s.desc s.x d
  let w := tsclWords e role half g (kb s)
  trapIf (!fmtKnown e.fmt) cFormatProfile <|
  failOn (s.operandCheck s.x (w.map fun p => (p.2, 4)) e.sbase (e.sbase % 4 != 0) false .sram) <|
  let n := if role = 0 then 32 else 64
  .ok (s.later 2 6 (.xs t (32 * half) (tab n fun i =>
    match w.find? fun p => p.1 == 32 * half + i with
    | some (_, a) => BitVec.ofNat 32 (leVal (s.vaBytes s.x a 4))
    | none => 0x3F800000)))

/-- `tdld` (R186). -/
def loadDesc (t : Nat) (hn : Nat) (off : Nat) (s : State) : Res :=
  let h := s.me.hreg hn
  let p : Piece := { off := off, len := 32 }
  failOn (s.accessCheck s.x h [p] 32 false) <|
  failOn (if ownSram (cluOf s.x) h [p] then none else some (cSramRange, BitVec.ofNat 64 (h.va + off))) <|
  let n := s.snap 2 12 (.td t (BitVec.allOnes 256) (BitVec.ofNat 256 (leVal (s.pieceBytes h p))))
  let trap := if s.pieceBad h p then some (cEccUncorrectable, BitVec.ofNat 64 (h.va + off)) else none
  .ok (s.modCtx s.x fun c => c.push { n with trap := trap })

/-- The bits of a descriptor from `lo` on, `n` of them. -/
def tdMask (lo n : Nat) : BitVec 256 := BitVec.ofNat 256 ((2 ^ n - 1) * 2 ^ lo)
/-- `v` placed in a descriptor from bit `lo` on. -/
def tdAt (lo : Nat) (v : Nat) : BitVec 256 := BitVec.ofNat 256 (v * 2 ^ lo)

/-- A part of a descriptor register set (R187). -/
def setDesc (t lo : Nat) (v : Nat) (s : State) : Res := .ok (s.later 2 1 (.td t (tdMask lo 64) (tdAt lo v)))

/-- The sub-tile of a descriptor at (row0, col0), worked on as stored (R70, R187); none where the cut is refused. -/
def subTile (w : BitVec 256) (row0 col0 : Nat) : Option (BitVec 256) :=
  let n := w.toNat
  let base := n % 2 ^ 64
  let rows := nfld n 64 32
  let cols := nfld n 96 32
  let stride := nfld n 128 32
  let fmt := nfld n 160 8
  let bits := fmtBits fmt
  let make := fun (b st : Nat) =>
    some (BitVec.ofNat 256 (b % 2 ^ 64 + (rows - row0) * 2 ^ 64 + (cols - col0) * 2 ^ 96 + st % 2 ^ 32 * 2 ^ 128 +
      n / 2 ^ 160 * 2 ^ 160))
  if !fmtKnown fmt then none
  else if fmt = 0x20 then
    if row0 % 32 ≠ 0 ∨ col0 % 64 ≠ 0 then none else make (base + 64 * (col0 / 64)) (stride + row0)
  else if n.testBit 172 then
    if col0 ≠ 0 ∨ row0 * bits % 8 ≠ 0 then none
    else
      let p := 8 * (base % 32) + row0 * bits
      make (base / 2048 * 2048 + 2048 * (p / 256) + p % 256 / 8) stride
  else if n.testBit 169 then
    if row0 * bits % 8 ≠ 0 then none else make (base + col0 * stride + row0 * bits / 8) stride
  else if col0 * bits % 8 ≠ 0 then none
  else make (base + row0 * stride + col0 * bits / 8) stride

/-- `tldb` (R188). -/
def loadStaging (b : Nat) (d : Nat) (s : State) : Res :=
  let e := s.desc s.x d
  trapIf (!e.plain || decide (128 < e.rows) || decide (32768 < e.rows * e.cols * fmtBits e.fmt)) cFormatProfile <|
  failOn (s.plainCheck e false) <|
  let g : Staging :=
    { fmt := e.fmt, rows := e.rows, cols := e.cols, scaled := e.sbase != 0, elems := s.tileElems e, busy := true }
  .ok (s.modCore (coreOf s.x) fun k => { k with bs := spPut b g k.bs })

/-! ## The Grinder (R201, R202) -/

/-- The inner sum of `seedscan` for one seed, over the target row by row. -/
def scanSum (t : List Nat) (seed : Nat) : Nat :=
  (List.range 2048).foldl (fun d i =>
    let v := bf16.val (t.getD i 0)
    (fp32.finish 0 0 ((fp32.val d).add 0 (if seedNeg seed (i / 64) (i % 64) then v.negate else v))).1) 0

/-- The magnitude of an FP32 pattern that is no NaN. -/
def fp32Abs (x : Nat) : Nat := x % 2 ^ 31

/-- The better of two seeds: the larger magnitude, NaNs below every number, ties to the first. -/
def scanBetter (a b : Nat × Nat) : Nat × Nat :=
  if fp32.isNan b.2 then a else if fp32.isNan a.2 then b else if fp32Abs a.2 < fp32Abs b.2 then b else a

/-- The result of `seedscan`. -/
def scanResult (t : List Nat) (first count : Nat) : Word :=
  let cand := fun (i : Nat) => let g := (first + i) % 2 ^ 32; (g, scanSum t g)
  let (g, d) := (List.range (count - 1)).foldl (fun a i => scanBetter a (cand (i + 1))) (cand 0)
  let w := (bf16.ofVal 0 (match fp32.val d with
    | .fin neg m e => .fin neg m (e - 11)
    | v => v)).1
  BitVec.ofNat 64 (w * 2 ^ 32 + g)

/-- `seedscan` (R201). A target outside the launch's cluster SRAM traps SRAM_RANGE, as R179 has it for a T-slot operand;
R201 read alone asks for FORMAT_PROFILE: the model's choice (log 83). -/
def seedScan (t : Nat) (d : Nat) (a b : BitVec 5) (s : State) : Res :=
  let e := s.desc s.x t
  let c := (s.sr b).toNat
  trapIf (e.fmt != 0x05 || !e.plain || e.rows != 32 || e.cols != 64) cFormatProfile <|
  trapIf (c == 0 || decide (1024 < c)) cGrinderRecord <|
  failOn (s.plainCheck e false) <|
  let until_ := s.now + 32 * c + 20
  let v := scanResult (s.tileElems e) (wfld (s.sr a) 0 32) c
  let s := s.modCore (coreOf s.x) fun k => { k with grindUntil := max k.grindUntil until_ }
  .ok (s.modCtx s.x fun k =>
    { k with
      longs := k.longs ++ [{ id := k.nextLong, issued := k.count, slot := 2, baddr := k.pc, kind := .scan [v] until_,
                             dest := .sw d }]
      nextLong := k.nextLong + 1 })

/-- `grx` (R202). -/
def expandSeed (t d : Nat) (s : State) : Res :=
  let dst := s.desc s.x t
  let src := s.desc s.x d
  let e : Desc := { dst with rows := src.rows, cols := src.cols }
  trapIf (src.fmt != 0x20 || src.stor != 3 || src.wsl || dst.fmt != 0x05 || dst.stor != 0 || dst.wsl || decide (dst.rows < src.rows) ||
    decide (dst.cols < src.cols)) cFormatProfile <|
  failOn (s.operandCheck s.x (seedRanges src) src.base (src.base % 64 != 0) false .weights) <|
  failOn (s.plainCheck e true) <|
  failOn (s.recordBad src) <|
  let s' := if src.empty then s else s.putElems e (s.seedElem src)
  let until_ := s.now + 8 + src.rows * ((src.cols + 63) / 64)
  .ok (s'.modCore (coreOf s.x) fun k =>
    { k with grindUntil := max k.grindUntil until_, grxUntil := spPut (s.x % 4) until_ k.grxUntil })

/-! ## Instructions -/

/-- TMMA_WS (R189): Matrix multiply-accumulate with B from weight SRAM. -/
def execTmmaWs (t : BitVec 4) (a : BitVec 4) (b : BitVec 4) (f : BitVec 2) (z : BitVec 1) (sf : BitVec 1) (s : State) : Host.Outcome State Fault Refusal :=
  slotOp 2 (.tmmaWs t a b f z sf) s (mmaWs t a b f (z == 1) (sf == 1))

/-- TMMA_GR (R189): Matrix multiply-accumulate with B expanded by the Grinder. -/
def execTmmaGr (t : BitVec 4) (a : BitVec 4) (b : BitVec 4) (f : BitVec 2) (z : BitVec 1) (sf : BitVec 1) (s : State) : Host.Outcome State Fault Refusal :=
  slotOp 2 (.tmmaGr t a b f z sf) s (mmaGr t a b f (z == 1) (sf == 1))

/-- TMMA_CS (R189): Matrix multiply-accumulate with B from a staging buffer. -/
def execTmmaCs (t : BitVec 4) (a : BitVec 4) (b : BitVec 4) (f : BitVec 2) (z : BitVec 1) (sf : BitVec 1) (s : State) : Host.Outcome State Fault Refusal :=
  slotOp 2 (.tmmaCs t a b f z sf) s (mmaCs t a b f (z == 1) (sf == 1))

/-- TZERO (R192): Zeros an accumulator and sets its KIND, optionally speculatively. -/
def execTzero (t : BitVec 4) (k : BitVec 1) (sf : BitVec 1) (s : State) : Host.Outcome State Fault Refusal :=
  slotOp 2 (.tzero t k sf) s (zeroAcc t k.toNat (sf == 1))

/-- TLDC (R193): Loads an accumulator from a cluster-SRAM tile. -/
def execTldc (t : BitVec 4) (d : BitVec 5) (sf : BitVec 1) (s : State) : Host.Outcome State Fault Refusal :=
  slotOp 2 (.tldc t d sf) s (loadAcc t d.toNat (sf == 1))

/-- TSTC (R194): Stores an accumulator to a cluster-SRAM tile. -/
def execTstc (t : BitVec 4) (d : BitVec 5) (s : State) : Host.Outcome State Fault Refusal :=
  slotOp 2 (.tstc t d) s (storeAcc t d.toNat)

/-- TDRAIN_F (R196): Drains an accumulator as FP32 with optional bias and ReLU into a result queue. -/
def execTdrainF (t : BitVec 4) (d : BitVec 5) (a : BitVec 5) (r : BitVec 1) (b : BitVec 1) (s : State) : Host.Outcome State Fault Refusal :=
  slotOp 2 (.tdrainF t d a r b) s (drain 0 t d.toNat (r == 1) (if b = 1 then some a.toNat else none))

/-- TDRAIN_BF (R196): Drains an accumulator as BF16 into a result queue. -/
def execTdrainBf (t : BitVec 4) (d : BitVec 5) (a : BitVec 5) (r : BitVec 1) (b : BitVec 1) (s : State) : Host.Outcome State Fault Refusal :=
  slotOp 2 (.tdrainBf t d a r b) s (drain 1 t d.toNat (r == 1) (if b = 1 then some a.toNat else none))

/-- TDRAIN_RAW (R196): Drains the raw 32-bit accumulator elements into a result queue. -/
def execTdrainRaw (t : BitVec 4) (d : BitVec 5) (s : State) : Host.Outcome State Fault Refusal :=
  slotOp 2 (.tdrainRaw t d) s (drain 2 t d.toNat false none)

/-- TSCL_A (R184): Loads A block scales into a scale register half. -/
def execTsclA (t : BitVec 4) (d : BitVec 5) (k : BitVec 10) (g : BitVec 5) (h : BitVec 1) (s : State) : Host.Outcome State Fault Refusal :=
  slotOp 2 (.tsclA t d k g h) s (loadScales 0 t.toNat d.toNat h.toNat g.toNat fun s => s.kbOf k)

/-- TSCL_B (R184): Loads B block scales into a scale register. -/
def execTsclB (t : BitVec 4) (d : BitVec 5) (k : BitVec 10) (g : BitVec 5) (s : State) : Host.Outcome State Fault Refusal :=
  slotOp 2 (.tsclB t d k g) s (loadScales 1 t.toNat d.toNat 0 g.toNat fun s => s.kbOf k)

/-- TLDB (R188): Loads a B staging buffer from cluster SRAM. -/
def execTldb (t : BitVec 4) (d : BitVec 5) (s : State) : Host.Outcome State Fault Refusal :=
  slotOp 2 (.tldb t d) s (loadStaging t.toNat d.toNat)

/-- SETFMT (R185): Writes a format profile register. -/
def execSetfmt (t : BitVec 4) (a : BitVec 5) (s : State) : Host.Outcome State Fault Refusal :=
  slotOp 2 (.setfmt t a) s fun s =>
    let v := (s.sr a).truncate 32
    trapIf (!profValid v) cFormatProfile (.ok (s.later 2 3 (.fm t.toNat v)))

/-- TDLD (R186): Loads a tile descriptor from cluster SRAM. -/
def execTdld (t : BitVec 4) (d : BitVec 5) (i : BitVec 17) (s : State) : Host.Outcome State Fault Refusal :=
  slotOp 2 (.tdld t d i) s fun s => loadDesc t.toNat d.toNat (s.wide 2 17 i.toNat * 32) s

/-- TDSET_BASE (R187): Sets a descriptor's BASE. -/
def execTdsetBase (t : BitVec 4) (a : BitVec 5) (s : State) : Host.Outcome State Fault Refusal :=
  slotOp 2 (.tdsetBase t a) s fun s => setDesc t.toNat 0 (s.sr a).toNat s

/-- TDSET_SHAPE (R187): Sets a descriptor's ROWS and COLS. -/
def execTdsetShape (t : BitVec 4) (a : BitVec 5) (s : State) : Host.Outcome State Fault Refusal :=
  slotOp 2 (.tdsetShape t a) s fun s => setDesc t.toNat 64 (s.sr a).toNat s

/-- TDSET_LAYOUT (R187): Sets STRIDE, FMT, FLAGS and DSHIFT. -/
def execTdsetLayout (t : BitVec 4) (a : BitVec 5) (s : State) : Host.Outcome State Fault Refusal :=
  slotOp 2 (.tdsetLayout t a) s fun s => setDesc t.toNat 128 (wfld (s.sr a) 0 56) s

/-- TDSET_SBASE (R187): Sets a descriptor's scale base. -/
def execTdsetSbase (t : BitVec 4) (a : BitVec 5) (s : State) : Host.Outcome State Fault Refusal :=
  slotOp 2 (.tdsetSbase t a) s fun s => setDesc t.toNat 192 (s.sr a).toNat s

/-- TDSET_SUB (R187): Builds a sub-tile descriptor. -/
def execTdsetSub (t : BitVec 4) (d : BitVec 5) (a : BitVec 5) (s : State) : Host.Outcome State Fault Refusal :=
  slotOp 2 (.tdsetSub t d a) s fun s =>
    match subTile (s.me.tdreg d.toNat) (wfld (s.sr a) 0 32) (wfld (s.sr a) 32 32) with
    | some v => .ok (s.later 2 1 (.td t.toNat (BitVec.allOnes 256) v))
    | none => .trap cFormatProfile 0

/-- TDSET_MOV (R187): Copies a descriptor register. -/
def execTdsetMov (t : BitVec 4) (d : BitVec 5) (s : State) : Host.Outcome State Fault Refusal :=
  slotOp 2 (.tdsetMov t d) s fun s => .ok (s.later 2 1 (.td t.toNat (BitVec.allOnes 256) (s.me.tdreg d.toNat)))

/-- TMOV (R195): Copies one accumulator into another. -/
def execTmov (t : BitVec 4) (d : BitVec 5) (s : State) : Host.Outcome State Fault Refusal :=
  slotOp 2 (.tmov t d) s (moveAcc t d.toNat)

/-- TACC (R195): Adds one accumulator into another element by element. -/
def execTacc (t : BitVec 4) (d : BitVec 5) (sf : BitVec 1) (s : State) : Host.Outcome State Fault Refusal :=
  slotOp 2 (.tacc t d sf) s (addAcc t d.toNat (sf == 1))

/-- SEEDSCAN (R201): Searches seeds for the best one-basis fit of a BF16 target. -/
def execSeedscan (t : BitVec 4) (d : BitVec 5) (a : BitVec 5) (b : BitVec 5) (s : State) : Host.Outcome State Fault Refusal :=
  slotOp 2 (.seedscan t d a b) s (seedScan t.toNat d.toNat a b)

/-- GRX (R202): Expands a seeded tile into a BF16 tile in cluster SRAM. -/
def execGrx (t : BitVec 4) (d : BitVec 5) (s : State) : Host.Outcome State Fault Refusal :=
  slotOp 2 (.grx t d) s (expandSeed t.toNat d.toNat)

end Sys2Proof.Machine
end

