-- ==== Sys2Proof/Machine/TileOps.lean ====
section
/-! DEFINITION. Tile words: the checks of the unit that decodes them, their descriptors, and the cuts of their shares
(R66, R67, R70, R187, R233 to R250). -/

namespace Sys2Proof.Machine

/-! ## The checks of R67 and of R236, steps 1 and 2 -/

/-- An opcode of R66. -/
def tileKnown (op : Nat) : Bool := (1 ≤ op && op ≤ 0x0C) || (0x10 ≤ op && op ≤ 0x15)

/-- The level is one that the opcode accepts, from a stream of the Pour or from `tsend` (R233, R235, R244). -/
def levelOk (pour : Bool) (op level : Nat) : Bool :=
  if 0x10 ≤ op then pour && level == 4
  else
    (if pour then [3, 4, 5] else [2, 3]).contains level &&
    (match op with
      | 0x0B => [3, 4]
      | 0x0C => [5]
      | _ => [2, 3, 4]).contains level

/-- The fields DA, DB and DC that an opcode uses (R235, R244). -/
def tileUses (op : Nat) : Bool × Bool × Bool := match op with
  | 0x01 => (true, true, true)
  | 0x02 => (true, true, true)
  | 0x08 => (true, true, true)
  | 0x0B => (true, false, false)
  | 0x10 => (true, false, false)
  | 0x11 => (true, false, false)
  | op => if (3 ≤ op && op ≤ 7) || op == 0x0C then (true, false, true) else (false, false, false)

/-- A descriptor VA that the opcode uses reaches above bit 57 (R67, step 5). -/
def tileVaBad (w : TileWord) : Bool :=
  let (a, b, c) := tileUses w.op.toNat
  let hi := fun (v : Word) => wfld v 58 6 != 0
  (a && hi w.da) || (b && hi w.db) || (c && hi w.dc)

/-- FUNC is a value of its column (R236, step 1). -/
def funcOk (op f : Nat) : Bool := match op with
  | 0x01 => f < 2
  | 0x02 => f < 5
  | 0x03 => f < 9
  | 0x04 => f == 0
  | 0x05 => f < 2
  | 0x06 => f % 4 != 3 && f < 8
  | 0x07 => f < 8
  | 0x09 => f == 0
  | 0x0A => 2 ≤ f && f ≤ 5
  | 0x0B => f < 3
  | 0x0C => f < 5
  | _ => true

/-- The opcode allows the split, at this level (R235, R236, R245, R249); at level 4 no split makes partials. -/
def splitOk (op func level split : Nat) : Bool :=
  (match op with
    | 0x01 => split ≤ 5
    | 0x07 => split ≤ 1 || split == 4
    | op => if op ≤ 8 then split ≤ 2 || split == 4 || split == 5 else split == 0) &&
  (split < 3 || level ≤ 3) &&
  (op != 6 || level ≤ 3 || split != (if func.testBit 2 then 1 else 2))

/-- The checks of R67 and of R236, steps 1 and 2, in order: the cause of the first that fails. -/
def tileCheck (pour : Bool) (w : TileWord) : Option Nat :=
  let op := w.op.toNat
  if !tileKnown op then some cTileWordIllegal
  else if w.rsv then some cTileWordIllegal
  else if !levelOk pour op w.level.toNat then some cTileLevel
  else if 6 ≤ w.split.toNat then some cSplitInvalid
  else if tileVaBad w then some cTileWordIllegal
  else if 0x10 ≤ op then
    if (op = 0x10 ∨ op = 0x11) ∧ w.da.toNat % 32 ≠ 0 then some cTileWordIllegal
    else if op = 0x13 ∧ w.func.toNat % 8 = 0 then some cTileWordIllegal
    else none
  else if !funcOk op w.func.toNat then some cTileWordIllegal
  else if !splitOk op w.func.toNat w.level.toNat w.split.toNat then some cSplitInvalid
  else none

/-! ## Memory as a unit reads operands (R179) -/

/-- The checks of R179 that a unit of die `d` makes on an operand: translation, world and permission, then the alignment
of its base, then the rest. -/
def State.operandFail (s : State) (d : Nat) (w : Bool) (l : List (Nat × Nat)) (base : Nat) (mis write : Bool)
    (rec_ : Bool := false) : Option (Nat × Word) :=
  let align := if mis && !l.isEmpty then some (cAlignment, BitVec.ofNat 64 base) else none
  match s.unitFail d w l write rec_ with
  | some (c, f) =>
    if c = cTranslationFault ∨ c = cStripeConfig ∨ c = cWorldViolation ∨ c = cPermission then some (c, f)
    else align.or (some (c, f))
  | none => align

/-- A descriptor at a VA, as die `d` reads it (R236, step 3); DR applied and cleared (R245). -/
def State.readDesc (s : State) (d : Nat) (w : Bool) (va : Word) : BitVec 256 ⊕ (Nat × Word) :=
  let v := va.toNat % 2 ^ 58
  match s.operandFail d w [(v, 32)] v (v % 32 != 0) false with
  | some e => .inr e
  | none =>
    let n := leVal (s.pageBytes (s.unitPages d w [(v, 32)]) v 32)
    let n := if n.testBit 168 then n - n % 2 ^ 64 - 2 ^ 168 + (descOf (d % 64) (BitVec.ofNat 256 n)).base else n
    .inl (BitVec.ofNat 256 n)

/-- The opcode needs the descriptor (R236, R241, R243). -/
def needsDesc (w : TileWord) : Bool × Bool × Bool := match w.op.toNat with
  | 0x08 => (false, false, w.split.toNat != 0)
  | 0x0C => (w.func.toNat != 3, false, true)
  | op => tileUses op

/-- One descriptor of a word: 0 where DA, DB or DC is 0. -/
def State.wordDesc (s : State) (d : Nat) (h : HWord) (uses needs : Bool) (va : Word) : BitVec 256 ⊕ (Nat × Word) :=
  if !uses then .inl 0
  else if va = 0 then (if needs then .inr (cTileWordIllegal, BitVec.ofNat 64 h.va) else .inl 0)
  else s.readDesc d h.world va

/-- The descriptors of a word, A before B before C. -/
def State.wordDescs (s : State) (d : Nat) (h : HWord) : HWord ⊕ (Nat × Word) :=
  let (ua, ub, uc) := tileUses h.w.op.toNat
  let (na, nb, nc) := needsDesc h.w
  match s.wordDesc d h ua na h.w.da with
  | .inr e => .inr e
  | .inl a => match s.wordDesc d h ub nb h.w.db with
    | .inr e => .inr e
    | .inl b => match s.wordDesc d h uc nc h.w.dc with
      | .inr e => .inr e
      | .inl c => .inl { h with a := a, b := b, c := c, oa := (0, 0, (descOf 0 a).cols), ob := (0, 0, (descOf 0 b).cols) }

/-- Descriptors that stand resolved. -/
def HWord.da (h : HWord) : Desc := descOf 0 h.a
def HWord.db (h : HWord) : Desc := descOf 0 h.b
def HWord.dc (h : HWord) : Desc := descOf 0 h.c
/-- Descriptor A, B or C of a word, and its VA. -/
def HWord.desc (h : HWord) (i : Nat) : BitVec 256 := match i with
  | 0 => h.a
  | 1 => h.b
  | _ => h.c
def HWord.descVa (h : HWord) (i : Nat) : Word := match i with
  | 0 => h.w.da
  | 1 => h.w.db
  | _ => h.w.dc
/-- The opcode, FUNC and PARAM of a word. -/
def HWord.op (h : HWord) : Nat := h.w.op.toNat
def HWord.func (h : HWord) : Nat := h.w.func.toNat
def HWord.param (h : HWord) : Nat := h.w.param.toNat

/-! ## Formats and shapes (R237 to R240) -/

/-- Plain storage. -/
def Desc.stored (d : Desc) : Bool := fmtKnown d.fmt && d.fmt != 0x20 && !d.wsl && d.stor == 0

/-- Where `tmm` finds a wrong format or shape: A, B or C by 0, 1 or 2 (R237). -/
def tmmBad (p : Half) (a b c : Desc) : Option Nat :=
  let gr := b.stor == 3 && b.fmt == 0x20 && !b.wsl
  if !profValid p then some 0
  else if a.fmt != profA p || !a.stored then some 0
  else if b.fmt != profB p || gr != (profB p == 0x20) || !(gr || b.stored || (b.wsl && b.stor == 0)) then some 1
  else if !c.stored || c.fmt != (if profAcc p = 0 then 0x07 else 0x03) || a.rows != c.rows || a.cols != b.rows ||
      b.cols != c.cols || ((isMx (profA p) || isMx (profB p)) && a.cols % 32 != 0) then some 2
  else none

/-- A floating-point format of the elementwise instructions. -/
def ewFloat (f : Nat) : Bool := 5 ≤ f && f ≤ 8

/-- The format and shape rules of a word's entry hold; `none`, or the descriptor to report. -/
def HWord.formatBad (h : HWord) : Option Nat :=
  let (a, b, c) := (h.da, h.db, h.dc)
  let same := a.rows == c.rows && a.cols == c.cols
  let ok := fun (k : Bool) => if a.stored && c.stored && k then none else some 2
  match h.op with
  | 0x01 => tmmBad h.w.param a b c
  | 0x02 => ok (b.stored && a.fmt == b.fmt && a.fmt == c.fmt && 3 ≤ a.fmt && a.fmt ≤ 8 && same &&
      b.rows == a.rows && b.cols == a.cols)
  | 0x03 => ok (a.fmt == c.fmt && same && (if h.func < 3 then 3 ≤ a.fmt && a.fmt ≤ 8 else ewFloat a.fmt))
  | 0x04 => ok (1 ≤ a.fmt && a.fmt ≤ 8 && 1 ≤ c.fmt && c.fmt ≤ 8 && same)
  | 0x05 => ok (a.fmt == c.fmt && (if h.func = 0 then same else c.rows == a.cols && c.cols == a.rows))
  | 0x06 => ok (((c.fmt == 7 && (a.fmt == 7 || a.fmt == 5)) || (c.fmt == 8 && a.fmt == 8) ||
      (c.fmt == 4 && (a.fmt == 3 || a.fmt == 4))) &&
      (if h.func.testBit 2 then c.rows == 1 && c.cols == a.cols else c.rows == a.rows && c.cols == 1))
  | 0x07 => ok ((a.fmt == 7 || a.fmt == 5) && c.fmt == 4 && c.rows == a.rows && c.cols == h.func + 1)
  | 0x08 => [0, 1, 2].find? fun i => h.descVa i != 0 && !fmtKnown (descOf 0 (h.desc i)).fmt
  | _ => none

/-! ## Shares (R246 to R248) -/

/-- The axis that a split names: 1 M, 2 N, 3 K, 0 none; a pull split splits as the static one does. -/
def HWord.axis (h : HWord) : Nat := match h.w.split.toNat with
  | 4 => 1
  | 5 => 2
  | n => n

/-- Indices of one granule along the split axis (R246). -/
def HWord.granule (h : HWord) : Nat := match h.axis with
  | 1 => 32
  | 2 => 64
  | _ => 32 * gang h.w.param

/-- Extent along the split axis (R246). -/
def HWord.extent (h : HWord) : Nat := match h.axis with
  | 1 => if (h.op == 6 && h.func.testBit 2) || h.op == 7 then h.da.rows else h.dc.rows
  | 2 => if h.op == 6 && !h.func.testBit 2 then h.da.cols else h.dc.cols
  | _ => h.da.cols

/-- Granules of the share along the split axis. -/
def HWord.granules (h : HWord) : Nat := (h.extent + h.granule - 1) / h.granule

/-- The split runs along the axis that is added up: its children return partials (R239, R250). -/
def HWord.adds (h : HWord) : Bool :=
  (h.op == 1 && h.axis == 3) || (h.op == 6 && h.axis == (if h.func.testBit 2 then 1 else 2))

/-- A descriptor with another number of rows and columns. -/
def withShape (w : BitVec 256) (rows cols : Nat) : BitVec 256 :=
  let n := w.toNat
  BitVec.ofNat 256 (n - nfld n 64 64 * 2 ^ 64 + (rows % 2 ^ 32 + cols % 2 ^ 32 * 2 ^ 32) * 2 ^ 64)

/-- Rows `e` to `e + n - 1` of a tile; an absent tile stays absent. -/
def cutRows (w : BitVec 256) (e n : Nat) : Option (BitVec 256) :=
  if w = 0 then some 0 else (subTile w e 0).map fun v => withShape v (min n ((descOf 0 w).rows - e)) (descOf 0 w).cols
/-- Columns `e` to `e + n - 1` of a tile. -/
def cutCols (w : BitVec 256) (e n : Nat) : Option (BitVec 256) :=
  if w = 0 then some 0 else (subTile w 0 e).map fun v => withShape v (descOf 0 w).rows (min n ((descOf 0 w).cols - e))
/-- B of a `tmm` cut along N: in weight SRAM and seeded, every core keeps its share at columns 0 and up (R248). -/
def cutB (w : BitVec 256) (e n : Nat) : Option (BitVec 256) :=
  let d := descOf 0 w
  if w ≠ 0 ∧ (d.wsl ∨ d.stor = 3) then some (withShape w d.rows (min n (d.cols - e))) else cutCols w e n

/-- The cuts of A, B and C to indices `e` to `e + n - 1` of the split axis (R248): none where one of them fails, with the
descriptor to report. -/
def HWord.cutTo (h : HWord) (e n : Nat) : HWord ⊕ Nat :=
  let mm := h.op == 1 || h.op == 8
  let turned := h.op == 5 && h.func == 1
  let a := match h.axis with
    | 1 => if turned then cutCols h.a e n else cutRows h.a e n
    | 2 => if mm then some h.a else if turned then cutRows h.a e n else cutCols h.a e n
    | _ => cutCols h.a e n
  let b := match h.axis with
    | 1 => if mm then some h.b else cutRows h.b e n
    | 2 => if h.op = 1 then cutB h.b e n else cutCols h.b e n
    | _ => cutRows h.b e n
  let c := if h.adds then some h.c else match h.axis with
    | 1 => cutRows h.c e n
    | _ => cutCols h.c e n
  let oa := if mm && h.axis == 2 then h.oa
    else if (h.axis == 1) != turned then (h.oa.1 + e, h.oa.2.1, h.oa.2.2)
    else (h.oa.1, h.oa.2.1 + e, h.oa.2.2)
  let ob := match h.axis with
    | 2 => (h.ob.1, h.ob.2.1 + e, h.ob.2.2)
    | 3 => (h.ob.1 + e, h.ob.2.1, h.ob.2.2)
    | _ => h.ob
  match a, b, c with
  | some a, some b, some c => .inl { h with a := a, b := b, c := c, oa := oa, ob := ob }
  | none, _, _ => .inr 0
  | _, none, _ => .inr 1
  | _, _, none => .inr 2

/-- The word cut to granules `g` to `g + n - 1` of its share. -/
def HWord.share (h : HWord) (g n : Nat) : HWord ⊕ Nat :=
  let e := g * h.granule
  match h.cutTo e (min (n * h.granule) (h.extent - e)) with
  | .inl k => .inl { k with lo := h.lo + g }
  | .inr i => .inr i

/-! ## Leaf work on elements (R237 to R240) -/

/-- The vector type of an element format. -/
def fmtType (f : Nat) : Nat := match f with
  | 0x01 => 7
  | 0x03 => 2
  | 0x05 => 5
  | 0x06 => 6
  | 0x07 => 4
  | 0x08 => 3
  | _ => 0

/-- `tew`: 0 add, 1 sub, 2 mul, 3 min, 4 max. -/
def tewElem (k fmt x y : Nat) : Elem :=
  let t := fmtType fmt
  if k < 3 then elArith k t 0 x y else elMinMax (k == 4) t x y

/-- `teu`. -/
def teuElem (k fmt : Nat) (p : Nat) (x : Nat) : Elem :=
  let t := fmtType fmt
  let f := ffmtOf t
  if k = 1 ∨ k = 2 then elSign (k == 1) t x
  else if k = 0 then
    if isFp t then
      if f.isNan x then (f.nanBits, f.snanFl x) else if x.testBit (elemW t - 1) ∨ x = 0 then (0, 0) else (x, 0)
    else (if intOf t x < 0 then 0 else x, 0)
  else if k < 8 then f.sfu t (k - 3) 0 x
  else f.finish 0 (f.snanFl x ||| fp32.snanFl p) ((f.val x).mul (fp32.val p))

/-- `tcvt` (R33). -/
def tcvtElem (fa fc x : Nat) : Elem :=
  let w := fmtBits fc
  if fa < 5 then
    if fc < 5 then
      let v := sgnN (fmtBits fa) x
      if v < -((2 : Int) ^ (w - 1)) then (2 ^ (w - 1), flSAT)
      else if (2 : Int) ^ (w - 1) - 1 < v then (2 ^ (w - 1) - 1, flSAT)
      else (wrapN w v, 0)
    else cvtIF (ffmtOf (fmtType fc)) 0 (sgnN (fmtBits fa) x)
  else if fc < 5 then
    let (v, fl) := cvtFI (ffmtOf (fmtType fa)) 0 x (-((2 : Int) ^ (w - 1))) ((2 : Int) ^ (w - 1) - 1)
    (wrapN w v, fl)
  else cvtFF (ffmtOf (fmtType fa)) (ffmtOf (fmtType fc)) 0 x

/-- An element of A as `tred` adds it in C's format. -/
def tredIn (fa x : Nat) : Elem := match fa with
  | 0x05 => widenBf x
  | 0x03 => (wrapN 64 (sgnN 32 x), 0)
  | _ => (x, 0)

/-- One step of `tred`, in C's format. -/
def tredStep (op fc x y : Nat) : Elem := redComb op (fmtType fc) 0 x y

/-- `tred` over a list of elements of A. -/
def tredAll (op fa fc : Nat) (l : List Nat) : Elem :=
  l.foldl (fun (acc : Elem) v =>
    let (y, f1) := tredIn fa v
    let (r, f2) := tredStep op fc acc.1 y
    (r, acc.2 ||| f1 ||| f2)) (redIdentity op (fmtType fc), 0)

/-- The `k` entries of a row of `ttopk`. -/
def ttopkRow (fa k : Nat) (l : List Nat) : List Nat × Fl :=
  let t := fmtType fa
  let r := topOf (ffmtOf t) k (l.zipIdx.map fun p => (p.2, p.1))
  (tab k fun j => match r[j]? with
    | some (i, v) => topVal t v * 2 ^ 32 + i
    | none => 0xFF800000FFFFFFFF, l.foldl (fun f v => f ||| (ffmtOf t).snanFl v) 0)

/-- The addition of two partials (R250). -/
def HWord.addPart (h : HWord) (x y : Nat) : Elem :=
  if h.op = 1 then accAdd (if profAcc h.w.param = 0 then 0 else 1) (profAcc h.w.param == 2) x y
  else tredStep (h.func % 4) h.dc.fmt x y

/-- An operand that the word reads is empty: there is no element work, and C keeps what it holds (R68, log 28). -/
def HWord.noWork (h : HWord) : Bool := h.da.empty || ((h.op == 1 || h.op == 2) && h.db.empty)

/-- What the sum of partials starts from at the unit that accepted the word: C where it is kept. -/
def HWord.keepsC (h : HWord) : Bool := h.op == 1 && h.func == 0

/-- The value that C starts from where it is not kept. -/
def HWord.zero (h : HWord) : Nat := if h.op = 1 then 0 else redIdentity (h.func % 4) (fmtType h.dc.fmt)

end Sys2Proof.Machine
end

