-- ==== Sys2Proof/Machine/Leaf.lean ====
section
/-! DEFINITION. Leaf work of a core's tile unit, block by block (R237 to R240, R246, R250, R253). -/

namespace Sys2Proof.Machine

/-! ## Blocks -/

/-- The virtual ranges of rows `r` to `r + n - 1` and columns `c` to `c + m - 1` of a plain tile. -/
def Desc.blockRanges (d : Desc) (r n c m : Nat) : List (Nat × Nat) :=
  if n = 0 ∨ m = 0 then []
  else
    let w := fmtBits d.fmt
    let (i0, i, j0, j) := if d.cm then (c, m, r, n) else (r, n, c, m)
    (List.range i).map fun k =>
      let p := 8 * (d.base + (i0 + k) * d.stride) + j0 * w
      (p / 8, (p % 8 + j * w + 7) / 8)

/-- Blocks of the share of C: 32 rows by 64 columns, or all of a row for `tred` and `ttopk` (R253); none where an operand
is empty (R68). -/
def HWord.blocks (h : HWord) : Nat := if h.noWork then 0 else (h.dc.rows + 31) / 32 * ((h.dc.cols + 63) / 64)

/-- First row, rows, first column and columns of block `i` of C. -/
def HWord.blockAt (h : HWord) (i : Nat) : Nat × Nat × Nat × Nat :=
  let n := max 1 ((h.dc.cols + 63) / 64)
  let r := i / n * 32
  let c := i % n * 64
  (r, min 32 (h.dc.rows - r), c, min 64 (h.dc.cols - c))

/-- The block of A that a block of C is computed from. -/
def HWord.blockOfA (h : HWord) (b : Nat × Nat × Nat × Nat) : Nat × Nat × Nat × Nat :=
  let (r, n, c, m) := b
  match h.op with
  | 0x01 => (r, n, 0, h.da.cols)
  | 0x05 => if h.func = 1 then (c, m, r, n) else b
  | 0x06 => if h.func.testBit 2 then (0, h.da.rows, c, m) else (r, n, 0, h.da.cols)
  | 0x07 => (r, n, 0, h.da.cols)
  | _ => b

/-! ## B of a `tmm` (R237) -/

/-- The weight SRAM of core `c` as a page at address 0. -/
def weightPage (c : Nat) : Handle := { valid := true, rd := true, size := 1, kind := 2, frame := wsramPa c 0 }

/-- The checks of a range of core `c`'s own weight SRAM, by its offset. -/
def State.weightFail (s : State) (c : Nat) (w : Bool) (l : List (Nat × Nat)) (base : Nat) (mis : Bool) : Option (Nat × Word) :=
  match l.find? fun r => !w && s.secureAt (wsramPa c r.1) r.2 with
  | some r => some (cWorldViolation, BitVec.ofNat 64 r.1)
  | none =>
    if mis && !l.isEmpty then some (cAlignment, BitVec.ofNat 64 base)
    else match l.find? fun r => 0x180000 < r.1 + r.2 with
      | some r => some (cSramRange, BitVec.ofNat 64 (max r.1 0x180000))
      | none => (l.find? fun r => s.badAt (wsramPa c r.1) r.2).map fun r => (cEccUncorrectable, BitVec.ofNat 64 r.1)

/-- The first malformed record of a seeded B (R200). -/
def State.seedFail (s : State) (c : Nat) (d : Desc) : Option (Nat × Word) :=
  ((List.range (if d.empty then 0 else (d.cols + 63) / 64)).find? fun j =>
    let o := d.base + 64 * j
    let r := leVal (s.bytes (wsramPa c o) 64)
    seedBad r || d.stride % 32 != 0 || decide (32 * seedKB r < d.stride + d.rows) || !s.seededAll c o 64).map fun j =>
      (cGrinderRecord, BitVec.ofNat 64 (d.base + 64 * j))

/-- The checks of B for a block of C at columns `c` to `c + m - 1`; a share of more than 64 columns in column layout was
refused before (R181). -/
def State.tmmBFail (s : State) (core : Nat) (h : HWord) (c m : Nat) : Option (Nat × Word) :=
  let b := h.db
  if b.stor = 3 then
    let l := if b.empty then [] else [(b.base + c, 64 * ((m + 63) / 64))]
    (s.weightFail core h.world l b.base (b.base % 64 != 0)).orElse fun _ => s.seedFail core b
  else if b.wsl then
    s.weightFail core h.world (wslRanges b.base (fmtBits b.fmt) b.rows b.cols) b.base
      (b.base % fmtAlign b.fmt != 0 || nfld b.base 5 6 != 0)
  else s.operandFail (core / 64) h.world (b.blockRanges 0 b.rows c m) b.base (b.base % fmtAlign b.fmt != 0) false

/-- Element (k, n) of B. -/
def State.tmmB (s : State) (core : Nat) (h : HWord) (pages : List Handle) (k n : Nat) : Nat :=
  let b := h.db
  if b.stor = 3 then seedWeight (leVal (s.bytes (wsramPa core (b.base + 64 * (n / 64))) 64)) (b.stride + k) (n % 64)
  else if b.wsl then s.wslElem [weightPage core] b.base (fmtBits b.fmt) k n
  else s.pageElem pages b k n

/-- Where the scale of A's block at (row, col) of the share lies, in the whole operand (R36). -/
def HWord.scaleA (h : HWord) (row col : Nat) : Nat :=
  (h.da.sbase + 4 * ((h.oa.1 + row) * (h.oa.2.2 / 32) + (h.oa.2.1 + col) / 32)) % 2 ^ 58
/-- The same for B. -/
def HWord.scaleB (h : HWord) (row col : Nat) : Nat :=
  (h.db.sbase + 4 * ((h.ob.1 + row) / 32 * h.ob.2.2 + h.ob.2.1 + col)) % 2 ^ 58

/-- A and B are read with block scales. -/
def HWord.scaledA (h : HWord) : Bool := isMx (profA h.w.param) && profAcc h.w.param == 0 && h.da.sbase != 0
def HWord.scaledB (h : HWord) : Bool := isMx (profB h.w.param) && profAcc h.w.param == 0 && h.db.sbase != 0

/-- The words of scales that a block of C reads. -/
def HWord.scaleRanges (h : HWord) (b : Nat × Nat × Nat × Nat) : List (Nat × Nat) :=
  let (r, n, c, m) := b
  let ks := (List.range ((h.da.cols + 31) / 32)).map (32 * ·)
  (if h.scaledA then (List.range n).flatMap fun i => ks.map fun k => (h.scaleA (r + i) k, 4) else []) ++
  (if h.scaledB then (List.range m).flatMap fun j => ks.map fun k => (h.scaleB k (c + j), 4) else [])

/-- One FP32 word of the pages. -/
def State.pageWord (s : State) (l : List Handle) (va : Nat) : Nat := leVal (s.pageBytes l va 4)

/-! ## A in the staging area (R251) -/

/-- The byte at position `k` of ranges that follow one another. -/
def placeAt : List (Nat × Nat) → Nat → Nat
  | [], k => k
  | r :: t, k => if k < r.2 then r.1 + k else placeAt t (k - r.2)

/-- Element (i, j) of the word's share of A from a staged copy. -/
def State.stagedElem (s : State) (g : Stage) (h : HWord) (i j : Nat) : Nat :=
  let w := fmtBits h.da.fmt
  let p := ((h.oa.1 + i - g.row) * g.cols + (h.oa.2.1 + j - g.col)) * w
  leVal ((List.range ((p % 8 + w + 7) / 8)).map fun k => s.byte (placeAt g.place (p / 8 + k))) / 2 ^ (p % 8) % 2 ^ w

/-- Element (i, j) of the share of A: from the staging area where the die has copied it there, else from its home. -/
def State.elemA (s : State) (h : HWord) (pages : List Handle) (i j : Nat) : Nat :=
  match h.stg with
  | some g => s.stagedElem g h i j
  | none => s.pageElem pages h.da i j

/-- Element (i, j) of C after a `tmm` of the share, from `x` before (R237, R253). -/
def State.tmmElem (s : State) (core : Nat) (h : HWord) (pages : List Handle) (i j x : Nat) : Elem :=
  (List.range ((h.da.cols + 31) / 32)).foldl (fun (acc : Elem) b =>
    let ks := (List.range (min 32 (h.da.cols - 32 * b))).map fun k => 32 * b + k
    let sA := if h.scaledA then s.pageWord pages (h.scaleA i (32 * b)) else 0x3F800000
    let sB := if h.scaledB then s.pageWord pages (h.scaleB (32 * b) j) else 0x3F800000
    let (v, fl) := mmaBlock h.w.param sA sB (ks.map fun k => (s.elemA h pages i k, s.tmmB core h pages k j)) acc.1
    (v, acc.2 ||| fl)) (x, 0)

/-! ## One block -/

/-- Element (i, j) of C; `m` reads as the unit sees memory. A `tred` of axis 0 reduces the core's whole share of a row in one
ascending chain, whatever R248 says of lane clusters: the choice is the model's (log 91). -/
def State.leafElem (m : State) (core : Nat) (h : HWord) (pages : List Handle) (i j : Nat) : Elem :=
  let (a, b, c) := (h.da, h.db, h.dc)
  match h.op with
  | 0x01 => m.tmmElem core h pages i j (if h.keepsC && !h.adds then m.pageElem pages c i j else 0)
  | 0x02 => tewElem h.func a.fmt (m.elemA h pages i j) (m.pageElem pages b i j)
  | 0x03 => teuElem h.func a.fmt h.param (m.elemA h pages i j)
  | 0x04 => tcvtElem a.fmt c.fmt (m.elemA h pages i j)
  | 0x05 => (if h.func = 1 then m.elemA h pages j i else m.elemA h pages i j, 0)
  | 0x06 => tredAll (h.func % 4) a.fmt c.fmt
      (if h.func.testBit 2 then tab a.rows fun r => m.elemA h pages r j else tab a.cols fun q => m.elemA h pages i q)
  | 0x07 =>
    let (l, fl) := ttopkRow a.fmt (h.func + 1) (tab a.cols fun q => m.elemA h pages i q)
    (l.getD j 0, fl)
  | _ => (0, 0)

/-- The operands of a block as ranges: those read and those written. -/
def HWord.reads (h : HWord) (b : Nat × Nat × Nat × Nat) : List (Nat × Nat) :=
  let (r, n, c, m) := h.blockOfA b
  (if h.stg.isSome then [] else h.da.blockRanges r n c m) ++
  (match h.op with
    | 0x01 => if h.db.stored then h.db.blockRanges 0 h.db.rows b.2.2.1 b.2.2.2 else []
    | 0x02 => h.db.blockRanges b.1 b.2.1 b.2.2.1 b.2.2.2
    | _ => []) ++
  (if h.keepsC && !h.adds then h.dc.blockRanges b.1 b.2.1 b.2.2.1 b.2.2.2 else []) ++ (if h.op = 1 then h.scaleRanges b else [])

/-- The ranges that a block reaches through translation: those read, then C where it is written. -/
def HWord.touches (h : HWord) (b : Nat × Nat × Nat × Nat) : List (Nat × Nat) :=
  h.reads b ++ if h.adds then [] else h.dc.blockRanges b.1 b.2.1 b.2.2.1 b.2.2.2

/-- The first fault of a block (R179). -/
def State.blockFail (s : State) (core : Nat) (h : HWord) (b : Nat × Nat × Nat × Nat) : Option (Nat × Word) :=
  let d := core / 64
  let plain := fun (t : Desc) (q : Nat × Nat × Nat × Nat) (write : Bool) =>
    s.operandFail d h.world (t.blockRanges q.1 q.2.1 q.2.2.1 q.2.2.2) t.base (t.base % fmtAlign t.fmt != 0) write
  (if h.op = 1 ∧ h.db.wsl ∧ 64 < h.db.cols then some (cFormatProfile, h.descVa 1) else none).orElse fun _ =>
  (if h.stg.isSome then none else plain h.da (h.blockOfA b) false).orElse fun _ =>
  (match h.op with
    | 0x01 => s.tmmBFail core h b.2.2.1 b.2.2.2
    | 0x02 => plain h.db b false
    | _ => none).orElse fun _ =>
  (if h.op = 1 then s.unitFail d h.world (h.scaleRanges b) false else none).orElse fun _ =>
  (if h.keepsC && !h.adds then plain h.dc b false else none).orElse fun _ =>
  (if h.adds then none else plain h.dc b true)

/-- Rows of a block written into C. -/
def State.putBlock (s : State) (pages : List Handle) (d : Desc) (b : Nat × Nat × Nat × Nat) (v : Nat → Nat → Nat) : State :=
  (List.range b.2.1).foldl (fun (s : State) i =>
    s.putRow pages d ((b.1 + i) * d.cols + b.2.2.1) (tab b.2.2.2 fun j => v i j)) s

/-! ## Staging buffers (R188, R253) -/

/-- A number of `w`-bit elements, the first lowest. -/
def packNum (w : Nat) (l : List Nat) : Nat := l.foldr (fun e a => e % 2 ^ w + 2 ^ w * a) 0

/-- Bits of an entry of a staging buffer as it is kept: of an element, or of a byte where FMT is 0. -/
def Staging.bits (g : Staging) : Nat := if g.fmt = 0 then 8 else fmtBits g.fmt

/-- The word stages blocks of B through the buffers of its core. -/
def HWord.stages (h : HWord) : Bool := h.op == 1 && h.db.stored

/-- A staging buffer as the tile unit releases it: the rows `k` to `k + n - 1` of B that it staged last, and FMT 0. -/
def HWord.lastStage (h : HWord) (m : State) (pages : List Handle) (k n col w : Nat) : Staging :=
  let b := fmtBits h.db.fmt
  let v := packNum b ((List.range n).flatMap fun i => tab w fun j => m.pageElem pages h.db (k + i) (col + j))
  { fmt := 0, rows := n, cols := w, elems := tab ((n * w * b + 7) / 8) fun i => v / 256 ^ i % 256 }

/-- The buffers of core `c` after a block whose native steps of `g` indices of K went through bs0 and bs1 in turn
(log 61). -/
def State.releaseStages (s : State) (c : Nat) (h : HWord) (pages : List Handle) (b : Nat × Nat × Nat × Nat) : State :=
  let g := 32 * gang h.w.param
  let steps := (h.da.cols + g - 1) / g
  if !h.stages then s
  else
    let m := s.overlay (c / 8)
    ([steps - 2, steps - 1].eraseDups.filter (· < steps)).foldl (fun (s : State) i => s.modCore c fun k =>
      { k with bs := spPut (i % 2) (h.lastStage m pages (g * i) (min g (h.da.cols - g * i)) b.2.2.1 b.2.2.2) k.bs }) s

/-- The next block of leaf word `h` at core `c`: the memory after it, and the word. -/
def State.leafBlock (s : State) (c : Nat) (h : HWord) : State × HWord :=
  let b := h.blockAt h.pos
  let d := c / 64
  match s.blockFail c h b with
  | some (k, f) => (s, { h with ended := true, fail := some { cause := k, nfault := 1, bot := 1, faddr := f } })
  | none =>
    let out := h.dc.blockRanges b.1 b.2.1 b.2.2.1 b.2.2.2
    let pages := s.unitPages d h.world (h.touches b)
    let m := s.overlay (c / 8)
    let vals := tab b.2.1 fun i => tab b.2.2.2 fun j => m.leafElem c h pages (b.1 + i) (b.2.2.1 + j)
    let at_ := fun i j => (vals.getD i []).getD j (0, 0)
    let fl := vals.foldl (fun f r => r.foldl (fun f e => f ||| e.2) f) (0 : Fl)
    let s := (((s.releaseStages c h pages b).observeFor (c / 8) h.who pages (h.reads b)).countRanges pages (h.reads b) false
      h.world).countRanges pages (if h.adds then [] else out) true h.world
    let h := { h with pos := h.pos + 1, ended := decide (h.blocks ≤ h.pos + 1), evt := h.evt ||| fl }
    if h.adds then
      let old := h.own
      (s, { h with own := tab (h.dc.rows * h.dc.cols) fun e =>
        let i := e / h.dc.cols
        let j := e % h.dc.cols
        if b.1 ≤ i ∧ i < b.1 + b.2.1 ∧ b.2.2.1 ≤ j ∧ j < b.2.2.1 + b.2.2.2 then (at_ (i - b.1) (j - b.2.2.1)).1 else old.getD e 0 })
    else (s.putBlock pages h.dc b (fun i j => (at_ i j).1), h)

end Sys2Proof.Machine
end

