-- ==== Sys2Proof/Machine/Seq.lean ====
section
/-! DEFINITION. Die and cluster sequencers and tile units: how words wait, start, split, gather statuses and complete, and
words sent with `tsend` (R211, R241, R242, R245, R247 to R262, R332). -/

namespace Sys2Proof.Machine

/-! ## Units and the words they hold -/

/-- The words that a unit holds, in order of arrival; for the Pour, of stream 0 first. -/
def State.words (s : State) : UnitId → List HWord
  | .pour p => (List.range 4).flatMap fun k => (s.strm p k).flight
  | .die d => (s.die d).seq
  | .clu u => (s.clu u).seq
  | .core c => (s.core c).tu

/-- The words of a unit changed as a list. -/
def State.mapWords (s : State) (u : UnitId) (f : List HWord → List HWord) : State :=
  match u with
  | .pour p => s.modPan p fun q =>
      { q with strs := q.strs.map fun (t : Nat × Stream) => (t.1, { t.2 with flight := f t.2.flight }) }
  | .die d => s.modDie d fun e => { e with seq := f e.seq }
  | .clu u => s.modClu u fun e => { e with seq := f e.seq }
  | .core c => s.modCore c fun e => { e with tu := f e.tu }

/-- Word number `n` of a unit changed. -/
def State.modWord (s : State) (u : UnitId) (n : Nat) (f : HWord → HWord) : State :=
  s.mapWords u fun l => l.map fun h => if h.num = n then f h else h

/-- Word number `n` of a unit. -/
def State.wordNum (s : State) (u : UnitId) (n : Nat) : Option HWord := (s.words u).find? (·.num == n)

/-- The level of a unit. -/
def unitLevel : UnitId → Nat
  | .pour _ => 4
  | .die _ => 3
  | .clu _ => 2
  | .core _ => 1

/-- The panel of a unit. -/
def unitPanel : UnitId → Nat
  | .pour p => p
  | .die d => d / 64
  | .clu u => u / 512
  | .core c => c / 4096

/-- The die whose translation a unit uses (R16, R375). -/
def State.unitDie (s : State) : UnitId → Nat
  | .pour p => s.conductor p
  | .die d => d
  | .clu u => u / 8
  | .core c => c / 64

/-- Child unit `i` of a unit (R245). -/
def childUnit : UnitId → Nat → UnitId
  | .pour p, i => .die (64 * p + i)
  | .die d, i => .clu (8 * d + i)
  | .clu u, i => .core (8 * u + i)
  | .core c, _ => .core c

/-- Memory as a unit reads it: through the store buffer of its cluster (R268). -/
def State.seenBy (s : State) : UnitId → State
  | .clu u => s.overlay u
  | .core c => s.overlay (c / 8)
  | _ => s

/-- Room for one more word (R262). -/
def State.seqRoom (s : State) (u : UnitId) : Bool := (s.words u).length < 32

/-- The stream of a word is being saved or restored: its words stand still (R320, R328). -/
def State.halted (s : State) (u : UnitId) (h : HWord) : Bool :=
  s.strStill (unitPanel u) h.stream.toNat

/-- `tsync`, `tfence` and `twait` (R242). -/
def HWord.barrier (h : HWord) : Bool := h.op == 9 || h.op == 0x0A || h.op == 0x0B

/-- The earlier words of the same source at the unit that have not completed (R254). -/
def State.earlier (s : State) (u : UnitId) (h : HWord) : List HWord :=
  ((s.words u).takeWhile (·.num != h.num)).filter fun e => e.src == h.src && !e.ended

/-- The stagger hold of a word is over: it has lasted its time from the word's arrival (R332). -/
def HWord.arrived (h : HWord) (now : Nat) : Bool :=
  h.hold == 0 || match h.came with
    | some t => decide (t + h.hold ≤ now)
    | none => false

/-- A word may start at its unit (R242, R254, R332). -/
def State.mayOpen (s : State) (u : UnitId) (h : HWord) : Bool :=
  let e := s.earlier u h
  !h.open_ && !s.halted u h && e.all (·.open_) && !e.any HWord.barrier && (!h.w.ord || e.isEmpty) && h.arrived s.now

/-- The word was sent on speculation (R211). -/
def HWord.spec (h : HWord) : Bool := h.w.spec && match h.src with
  | .sent _ _ => true
  | .stream _ _ => false

/-! ## Statuses (R258, R259) -/

/-- The status that a word returns from its unit; number `i` of the unit among its siblings goes into the path. -/
def HWord.status (h : HWord) (i : Nat) : Status :=
  let st : Status := match h.fail with
    | some f => f
    | none => match h.first with
      | some (_, f) => { f with nfault := h.nf }
      | none => {}
  let st := { st with top := h.top, evt := h.evt ||| st.evt, abt := h.abt }
  if st.cause = 0 then { st with nfault := 0, bot := 0 }
  else if h.level < st.bot then st
  else match h.level with
    | 3 => { st with die := i }
    | 2 => { st with clu := i }
    | 1 => { st with core := i }
    | _ => st

/-- The number of a unit in a path. -/
def unitNum : UnitId → Nat
  | .pour _ => 0
  | .die d => d % 64
  | .clu u => u % 8
  | .core c => c % 8

/-- A child's status gathered into its parent (R259). -/
def HWord.gather (h : HWord) (i : Nat) (t : Status) : HWord :=
  let h := { h with evt := h.evt ||| t.evt, nf := min 4095 (h.nf + t.nfault), abt := h.abt || t.abt }
  if t.cause = 0 then h
  else
    let first := match h.first with
      | some (j, st) => if i < j then some (i, t) else some (j, st)
      | none => some (i, t)
    { h with faulted := true, first := first }

/-- No further child of the word starts: one has faulted, and COF is 0 (R259). -/
def HWord.stopped (h : HWord) : Bool := h.faulted && !h.w.cof

/-- GIDX of a word's status at a die: a `tcoll` names the die's index in its group (R258). -/
def State.gidxAt (s : State) (d : Nat) (h : HWord) : Nat :=
  if h.w.op = 0x0C then ((s.groupOf d (h.w.param.toNat % 4096)).map (·.idx)).getD 0 else 0

/-- A word ends at its unit on a fault that the unit found. -/
def State.failWord (s : State) (u : UnitId) (n cause : Nat) (faddr : Word) : State :=
  s.modWord u n fun h => { h with open_ := true, ended := true,
                                  fail := some { cause := cause, nfault := 1, bot := h.level, faddr := faddr,
                                                 gidx := s.gidxAt (s.unitDie u) h } }

/-! ## Partials (R250) -/

/-- Partials added in ascending order, element by element. -/
def HWord.sum (h : HWord) (start : List Nat) (l : List (List Nat)) : List Nat × Fl :=
  l.foldl (fun (acc : List Nat × Fl) p =>
    let r := acc.1.zipIdx.map fun q => h.addPart q.1 (p.getD q.2 0)
    (r.map (·.1), r.foldl (fun f e => f ||| e.2) acc.2)) (start, 0)

/-- The unit accepted the word, so it adds into C itself. -/
def HWord.accepted (h : HWord) : Bool := h.top == h.level

/-- The adds of R250 at a unit, once every child has completed without a fault. -/
def State.addParts (s : State) (u : UnitId) (h : HWord) : State :=
  let l := h.parts.map (·.2)
  let d := s.unitDie u
  let c := h.dc
  if !h.accepted then
    match l with
    | [] => s
    | p :: t =>
      let (r, fl) := h.sum p t
      s.modWord u h.num fun k => { k with own := r, evt := k.evt ||| fl }
  else if h.noWork then s
  else
    let mis := c.base % fmtAlign c.fmt != 0
    let fail := (if h.keepsC then s.operandFail d h.world c.ranges c.base mis false else none).orElse fun _ =>
      s.operandFail d h.world c.ranges c.base mis true
    match fail with
    | some (k, f) => s.modWord u h.num fun h => { h with fail := some { cause := k, nfault := 1, bot := h.level, faddr := f } }
    | none =>
      let pages := s.unitPages d h.world c.ranges
      let m := s.seenBy u
      let start := tab (c.rows * c.cols) fun e => if h.keepsC then m.pageElem pages c (e / c.cols) (e % c.cols) else h.zero
      let (r, fl) := h.sum start l
      (s.putRow pages c 0 r).modWord u h.num fun k => { k with evt := k.evt ||| fl }

/-- The store buffer of the unit's cluster holds a part of a word that the unit would read (R268). -/
def State.tornAt (s : State) (u : UnitId) (w : Bool) (l : List (Nat × Nat)) : Bool :=
  match u with
  | .clu c => s.torn c (s.unitPages (c / 8) w l) l
  | _ => false

/-- A sequencer reads ranges for a word: what it takes from its cluster's store buffer is observed (R268). -/
def State.observeAt (s : State) (u : UnitId) (h : HWord) (l : List (Nat × Nat)) : State :=
  match u with
  | .clu c => s.observeFor c h.who (s.unitPages (c / 8) h.world l) l
  | _ => s

/-- A word whose children are all done is over at its unit; one that adds into C first waits for a C that lies partly in
the store buffer (R268). -/
def State.settleWord (s : State) (u : UnitId) (n : Nat) : State :=
  match s.wordNum u n with
  | none => s
  | some h =>
    if !h.open_ || h.ended || !h.todo.isEmpty || !h.live.isEmpty || (decide (h.ticket < h.tickets) && !h.stopped) then s
    else
      let adds := h.adds && h.level != 1 && h.first.isNone
      if adds && h.accepted && h.keepsC && s.tornAt u h.world h.dc.ranges then s
      else
      let s := if adds then (if h.accepted && h.keepsC then s.observeAt u h h.dc.ranges else s).addParts u h else s
      s.modWord u n fun h => { h with ended := true, abt := h.abt || decide (h.ticket < h.tickets) }

/-- Child `i` of word `n` completed with a status, and a partial where the word adds. -/
def State.noteChild (s : State) (u : UnitId) (n i : Nat) (t : Status) (part : Option (List Nat)) : State :=
  (s.modWord u n fun h =>
    let h := { h.gather i t with live := h.live.filter (·.idx != i) }
    match part with
    | some p => { h with parts := spPut i p h.parts }
    | none => h).settleWord u n

/-! ## Words start at a sequencer (R236, R242, R243, R245 to R249) -/

/-- The children of a word over `n` units, for a split that is not a pull (R245, R247). -/
def HWord.kids (h : HWord) (n : Nat) : List Child :=
  if h.axis = 0 then (List.range (if h.op = 8 then n else 1)).map fun i => { idx := i, unit := i, lo := 0, len := 0 }
  else
    let g := h.granules
    ((List.range n).filter fun i => 0 < dealCount g n i).map fun i =>
      { idx := i, unit := i, lo := dealStart g n i, len := dealCount g n i }

/-- A pull split that its unit hands out by tickets (R249). -/
def HWord.pulls (h : HWord) : Bool := 4 ≤ h.w.split.toNat && 2 ≤ h.level

/-- Bytes of the A share that the die copies into cluster `u`: none where A lies in the cluster's own SRAM (R251). -/
def State.stagedBytes (s : State) (u : Nat) (h : HWord) : Nat :=
  let a := h.da
  let pages := s.unitPages (u / 8) h.world a.ranges
  let own := (a.ranges.flatMap fun r => vcuts r.1 r.2).all fun q => inClu u (pagesPa pages q.1) q.2
  if own then 0 else (a.rows * a.cols * fmtBits a.fmt + 7) / 8

/-- Bytes that a cluster sequencer reserves for its share (R251). -/
def State.stagingNeed (s : State) (u : Nat) (h : HWord) : Nat :=
  if h.op = 8 ∨ h.barrier then 0
  else
    s.stagedBytes u h +
    (if h.axis = 3 ∧ h.op = 1 then
      4 * h.dc.rows * h.dc.cols * (b2n (h.top == 3) + min 8 h.granules) else 0)

/-- The resolved word starts at a sequencer: its children are listed. A word whose three amounts sum to 0 makes no reservation,
so that a bad staging area does not fail it: the rules are silent, and the choice is the model's (log 92). -/
def State.listKids (s : State) (u : UnitId) (h : HWord) : State :=
  let h := { h with open_ := true }
  let h := if h.pulls then { h with tickets := h.granules } else { h with todo := h.kids 8 }
  let h := match u with
    | .clu c => let n := s.stagingNeed c h; { h with reserve := n, reserved := n == 0 }
    | _ => { h with reserved := true }
  (s.modWord u h.num fun _ => h).settleWord u h.num

/-- The options of a `tcoll` are wrong, or its shape (R372). -/
def tcollBad (g : Group) (d : Nat) (h : HWord) : Bool :=
  let (p, k) := (h.param, h.func)
  let (op, wc) := (nfld p 12 2, p.testBit 14)
  decide (2 ^ 26 ≤ p) || op == 3 || (2 ≤ k && (op != 0 || wc)) || (wc && op != 0) || decide (g.members.length ≤ nfld p 15 11) ||
    !g.shapeOk k (nfld p 15 11) wc (descOf (d % 64) h.a) (descOf (d % 64) h.c)

/-- A `tcoll` word starts its collective at a die; a fifth outstanding one of its group waits (R243, R367, R372). -/
def State.openColl (s : State) (d : Nat) (h : HWord) : State :=
  match s.groupOf d (h.param % 4096) with
  | none => s.failWord (.die d) h.num cGroupInvalid (BitVec.ofNat 64 (h.param % 256))
  | some g =>
    let badA := (h.func != 3 || nfld h.param 15 11 == g.idx) && !fmtKnown h.da.fmt
    if badA || !fmtKnown h.dc.fmt then s.failWord (.die d) h.num cFormatProfile (h.descVa (if badA then 0 else 2))
    else if tcollBad g d h then s.failWord (.die d) h.num cCollShape 0
    else if 4 ≤ g.colls.length then s
    else
      (s.modWord (.die d) h.num fun _ => { h with open_ := true }).collStart d (h.param % 256)
        { cnum := 0, count := if h.func = 3 then h.dc.count else h.da.count, kind := h.func, op := nfld h.param 12 2,
          wc := h.param.testBit 14, root := nfld h.param 15 11, a := h.a, c := h.c, world := h.world, stream := h.stream,
          word := h.num }

/-- The condition of a `twait` (R242). -/
def twaitMet (f v p : Nat) : Bool := match f with
  | 0 => p ≤ v
  | 1 => v == p
  | _ => nfld v 32 32 ≤ v % 2 ^ 32

/-- One read of a `twait`: met or not, or the cause of a read that faults. -/
def State.twaitRead (s : State) (u : UnitId) (h : HWord) : Bool ⊕ (Nat × Word) :=
  if h.w.da = 0 then .inr (cTileWordIllegal, BitVec.ofNat 64 h.va)
  else
    let va := h.w.da.toNat % 2 ^ 58
    let d := s.unitDie u
    match s.operandFail d h.world [(va, 8)] va (va % 8 != 0) false with
    | some e => .inr e
    | none => .inl (twaitMet h.func (leVal ((s.seenBy u).pageBytes (s.unitPages d h.world [(va, 8)]) va 8)) h.param)

/-- A barrier word at a sequencer: `twait` reads its word again; the others are over once every earlier word is. -/
def State.barrierStep (s : State) (u : UnitId) (h : HWord) : State :=
  if s.halted u h || h.ended then s
  else if h.op = 0x0B then
    match s.twaitRead u h with
    | .inl true => s.modWord u h.num fun h => { h with open_ := true, ended := true }
    | .inl false => s.modWord u h.num fun h => { h with open_ := true }
    | .inr (c, f) => s.failWord u h.num c f
  else if (s.earlier u h).isEmpty then s.modWord u h.num fun h => { h with open_ := true, ended := true }
  else s.modWord u h.num fun h => { h with open_ := true }

/-- The word takes its die's share of a split at level 4 (R245, R247). -/
def HWord.dieShare (h : HWord) : Option HWord ⊕ Nat :=
  if h.top ≠ 4 ∨ h.axis = 0 then .inl (some h)
  else
    let g := h.granules
    let (i, n) := h.deal
    if dealCount g n i = 0 then .inl none
    else match h.share (dealStart g n i) (dealCount g n i) with
      | .inl k => .inl (some k)
      | .inr e => .inr e

/-- Where the descriptors of a word lie. -/
def HWord.descRanges (h : HWord) : List (Nat × Nat) :=
  ([0, 1, 2].filter fun i => h.descVa i != 0).map fun i => ((h.descVa i).toNat % 2 ^ 58, 32)

/-- A word that comes from the Pour or from `tsend` starts at the unit that accepts it: the checks of R236, then its
children (R245). -/
def State.openTop (s : State) (u : UnitId) (h : HWord) : State :=
  let check := if h.sentBy.isSome then tileCheck false h.w else none
  match check with
  | some c => s.failWord u h.num c (BitVec.ofNat 64 h.va)
  | none =>
    if h.barrier then s.barrierStep u h
    else if s.tornAt u h.world h.descRanges then s
    else
      let s := s.observeAt u h h.descRanges
      match (s.seenBy u).wordDescs (s.unitDie u) h with
      | .inr (c, f) => s.failWord u h.num c f
      | .inl h =>
        match h.formatBad with
        | some i => s.failWord u h.num cFormatProfile (h.descVa i)
        | none =>
          if h.op = 0x0C then s.openColl (s.unitDie u) h
          else match h.dieShare with
            | .inr i => s.failWord u h.num cFormatProfile (h.descVa i)
            | .inl none => s.modWord u h.num fun h => { h with open_ := true, ended := true }
            | .inl (some h) => s.listKids u h

/-- A word starts at a core's tile unit: `tcall` lists its children, one for each granule of the share (R241). -/
def State.openLeaf (s : State) (c : Nat) (h : HWord) : State :=
  if h.op = 8 then
    let kids : List Child := if h.axis = 0 then [{ idx := 0, unit := 0, lo := 0, len := 0 }]
      else (List.range h.granules).map fun g => { idx := h.lo + g, unit := 0, lo := g, len := 1 }
    (s.modWord (.core c) h.num fun h => { h with open_ := true, todo := kids }).settleWord (.core c) h.num
  else s.modWord (.core c) h.num fun h => { h with open_ := true, ended := h.blocks == 0 }

/-- A word starts at its unit. -/
def State.openWord (s : State) (u : UnitId) (h : HWord) : State :=
  match u with
  | .core c => s.openLeaf c h
  | _ => if h.level = 3 ∨ h.parent.isNone then s.openTop u h else s.listKids u h

/-! ## The Pour's readiness (R304 to R307) -/

/-- The Pour of panel `p` is enabled (R16, R337, R341). -/
def State.pourEnabled (s : State) (p : Nat) : Bool := (s.pan p).pourOn && (s.domcfg (s.conductor p)).getLsbD 63

/-- Die-mask register `i` of a stream; dm0 reads all ones (R303). -/
def State.strDm (s : State) (p k i : Nat) : Word := if i = 0 then BitVec.allOnes 64 else s.str p k (0x40 + 8 * i)

/-- The dies that a word selects, ascending (R245, R307). -/
def State.selection (s : State) (p k : Nat) (w : TileWord) : List Nat :=
  let m := s.strDm p k w.dm.toNat
  let m := (if w.inv then ~~~m else m) &&& s.reg (s.conductor p) 0x8
  (List.range 64).filter m.getLsbD

/-- The Pour keeps the word: it goes to no die (R242, R244). -/
def pourKeeps (w : TileWord) : Bool := 0x10 ≤ w.op.toNat || (w.level == 4 && (w.op == 9 || w.op == 0x0B))

/-- The Pour may dispatch a word that it keeps: a level-4 `tsync` once every earlier word has completed, a level-4 `twait`
once a read has met its condition (R242, R306). -/
def Stream.keepReady (t : Stream) (w : TileWord) : Bool :=
  if w.op = 9 then t.flight.isEmpty else if w.op = 0x0B then t.met || w.da == 0 else true

/-- A stream is ready (R306); a stream trap waits for room in the trap store (R312). -/
def State.streamReady (s : State) (p k : Nat) : Bool :=
  let t := s.strm p k
  s.pourEnabled p && s.strState p k == 1 &&
  match t.fetched with
  | none => false
  | some w =>
    if (tileCheck true w).isSome || (w.op == 0x0B && w.level == 4 && w.da == 0) then (s.die (s.conductor p)).room
    else if pourKeeps w then t.keepReady w
    else (s.selection p k w).all fun i => s.seqRoom (.die (64 * p + i))

/-! ## Words sent with `tsend` wait for a place (R256, R262) -/

/-- The Pour has a word ready for die `d`. -/
def State.pourWants (s : State) (d : Nat) : Bool :=
  (List.range 4).any fun k => s.streamReady (d / 64) k && match (s.strm (d / 64) k).fetched with
    | some w => !pourKeeps w && (s.selection (d / 64) k w).contains (d % 64)
    | none => false

/-- Core numbers of the `tsend` ports of a sequencer, in order. -/
def portsOf : UnitId → List Nat
  | .die d => (List.range 64).map (64 * d + ·)
  | .clu u => (List.range 8).map (8 * u + ·)
  | _ => []

/-- The first word that core `c` has waiting for a unit. -/
def State.waitingAt (s : State) (c : Nat) (u : UnitId) : Option HWord :=
  (s.core c).sends.find? fun h => h.level == unitLevel u

/-- A word at the die's sequencer has a child ready for cluster `u`. -/
def State.childWants (s : State) (u : Nat) : Bool :=
  let d := UnitId.die (u / 8)
  (s.words d).any fun h => h.open_ && !h.ended && !h.barrier && h.reserved && !h.stopped && !s.halted d h &&
    (h.todo.any (·.unit == u % 8) || (decide (h.ticket < h.tickets) && !h.live.any (·.unit == u % 8)))

/-- A sequencer with room takes one waiting word, in round-robin order by source port; port 0 is the Pour's at a die, and at a
cluster it is that of the die's sequencer, which sends the children of stream words. -/
def State.admitSend (s : State) (u : UnitId) : State :=
  let last := match u with
    | .die d => (s.die d).seqLast
    | .clu c => (s.clu c).seqLast
    | _ => 0
  let ports := portsOf u
  let has := fun (i : Nat) => match i with
    | 0 => match u with
      | .die d => s.pourWants d
      | .clu c => s.childWants c
      | _ => false
    | i + 1 => match ports[i]? with
      | some c => (s.waitingAt c u).isSome
      | none => false
  let n := ports.length + 1
  if !s.seqRoom u then s
  else match ((List.range n).map fun k => (last + 1 + k) % n).find? has with
    | some (i + 1) =>
      let c := ports.getD i 0
      match s.waitingAt c u with
      | some h =>
        let s := s.modCore c fun k => { k with sends := k.sends.filter (·.num != h.num) }
        let s := match u with
          | .die d => s.modDie d fun e => { e with seqLast := i + 1 }
          | .clu c => s.modClu c fun e => { e with seqLast := i + 1 }
          | _ => s
        s.mapWords u (· ++ [h])
      | none => s
    | _ => s

/-! ## Children (R248, R249, R259) -/

/-- A child unit is free to take a child of word `h`: a sequencer with room, or a tile unit that runs no other leaf word. -/
def State.unitFree (s : State) (u : UnitId) (h : HWord) : Bool :=
  match u with
  | .core c => h.op == 8 || (s.core c).tu.all fun k => k.op == 8 || k.ended
  | u => s.seqRoom u

/-- A pull split becomes the matching static one below level 2 (R248). -/
def childSplit (level : Nat) (w : TileWord) : TileWord :=
  if level < 2 ∧ w.split = 4 then { w with split := 1 }
  else if level < 2 ∧ w.split = 5 then { w with split := 2 }
  else w

/-- The word of a child, as its unit receives it. -/
def HWord.child (h : HWord) (n i : Nat) : HWord :=
  { num := n, w := childSplit (h.level - 1) h.w, va := h.va, src := h.src, stream := h.stream, prio := h.prio,
    world := h.world, top := h.top, level := h.level - 1, stg := h.stg, who := h.who, a := h.a, b := h.b, c := h.c, oa := h.oa, ob := h.ob, lo := h.lo,
    parent := some (h.num, i) }

/-- Child `k` of word `h` goes to its unit, or fails in the cut; at a cluster's sequencer that is the turn of port 0 (R262). -/
def State.sendChild (s : State) (u : UnitId) (h : HWord) (k : Child) : State :=
  let s := s.modWord u h.num fun h => { h with live := h.live ++ [k] }
  match (if h.axis = 0 then .inl h else h.share k.lo k.len : HWord ⊕ Nat) with
  | .inr i => s.noteChild u h.num k.idx { cause := cFormatProfile, nfault := 1, bot := h.level, faddr := h.descVa i } none
  | .inl g =>
    let s := { s.mapWords (childUnit u k.unit) (· ++ [g.child s.nextId k.idx]) with nextId := s.nextId + 1 }
    match childUnit u k.unit with
    | .clu v => (s.modClu v fun e => { e with seqLast := 0 }).admitSend (.clu v)
    | _ => s

/-- The start of a `tcall` child (R241). -/
def HWord.callReq (h : HWord) (c : Nat) (k : Child) : StartReq :=
  let put := fun (n : Nat) (va : Word) (d : BitVec 256) => if va = 0 then [] else [(n, d)]
  let at_ := k.idx * h.granule
  let ext := if h.axis = 1 then h.dc.rows else h.dc.cols
  let word := fun (n : Nat) => BitVec.ofNat 64 n
  { entry := h.param % 2 ^ 16
    regs := [(1, word (if h.axis = 1 then at_ else 0)), (2, word (if h.axis = 2 then at_ else 0)),
             (3, word (if h.axis = 0 then 0 else ext)), (4, word (h.param / 2 ^ 16 + 65536 * h.func))]
    tds := put 0 h.w.da h.a ++ put 1 h.w.db h.b ++ put 2 h.w.dc h.c
    child := BitVec.ofNat 32 (if h.axis = 0 then cidOf c else k.idx)
    stream := h.stream
    prio := h.prio
    origin := .tcall h.num k.idx h.spec }

/-- The next child of a `tcall` starts at its core (R114, R241). -/
def State.callChild (s : State) (c : Nat) (h : HWord) (k : Child) : State :=
  let s := s.modWord (.core c) h.num fun h => { h with live := h.live ++ [k] }
  match (if h.axis = 0 then .inl h else h.share k.lo k.len : HWord ⊕ Nat) with
  | .inr i => s.noteChild (.core c) h.num k.idx { cause := cFormatProfile, nfault := 1, bot := 1, faddr := h.descVa i } none
  | .inl g =>
    if 0x11FF < h.param % 2 ^ 16 then s.noteChild (.core c) h.num k.idx { cause := cKernelEntry, nfault := 1, bot := 1 } none
    else s.arriveStart c 1 (g.callReq c k)

/-- CHILD_START: a word that a stagger holds arrives at its die; a word starts at its unit; else its child `i` starts where its unit can take it, or is aborted; a core
starts the children of a `tcall` in ascending order (R241, R259). -/
def State.childStart (s : State) (u : UnitId) (n i : Nat) : State :=
  match (s.words u)[n]? with
  | none => s.admitSend u
  | some h =>
    if unitLevel u = 4 then s
    else if 0 < h.hold && h.came.isNone then s.modWord u h.num fun h => { h with came := some s.now }
    else if !h.open_ then (if s.mayOpen u h then s.openWord u h else s)
    else if h.barrier then s.barrierStep u h
    else if s.halted u h || h.ended then s
    else match h.todo.find? (·.idx == i) with
      | none => s
      | some k =>
        let drop := fun (s : State) => s.modWord u h.num fun h => { h with todo := h.todo.filter (·.idx != i) }
        if h.stopped then ((drop s).modWord u h.num fun h => { h with abt := true }).settleWord u h.num
        else match u with
          | .core c => if h.todo.head? == some k then (drop s).callChild c h k else s
          | u => if h.reserved && s.unitFree (childUnit u k.unit) h then (drop s).sendChild u h k else s

/-- PULL_TICKET: free child unit `i` takes the next ticket of word `n` (R249). -/
def State.pullTicket (s : State) (u : UnitId) (n i : Nat) : State :=
  match (s.words u)[n]? with
  | none => s
  | some h =>
    if !h.open_ || h.ended || s.halted u h || h.stopped || !h.reserved || decide (h.tickets ≤ h.ticket) || decide (8 ≤ i) ||
        h.live.any (·.unit == i) || !s.unitFree (childUnit u i) h then s
    else (s.modWord u h.num fun h => { h with ticket := h.ticket + 1 }).sendChild u { h with ticket := h.ticket + 1 }
      { idx := h.ticket, unit := i, lo := h.ticket, len := 1 }

/-- The lowest `need` free bytes from `lo` to `hi`, beside ranges in ascending order. -/
def takeFree (hi : Nat) : List (Nat × Nat) → Nat → Nat → List (Nat × Nat)
  | [], lo, need => if need = 0 ∨ hi ≤ lo then [] else [(lo, min need (hi - lo))]
  | r :: t, lo, need =>
    let n := min need (r.1 - lo)
    (if n = 0 then [] else [(lo, n)]) ++ takeFree hi t (max lo (r.1 + r.2)) (need - n)

/-- The die copies a cluster's share of A into its reservation, element by element in row order; a share whose read faults
is left at its home, where the leaf's own checks report the fault (R18, R251, log 61). -/
def State.stageA (s : State) (u : Nat) (h : HWord) : State :=
  let a := h.da
  let n := s.stagedBytes u h
  if n = 0 ∨ (s.operandFail (u / 8) h.world a.ranges a.base (a.base % fmtAlign a.fmt != 0) false).isSome then s
  else
    let pages := s.unitPages (u / 8) h.world a.ranges
    let m := s.overlay u
    let v := packNum (fmtBits a.fmt) (tab (a.rows * a.cols) fun e => m.pageElem pages a (e / a.cols) (e % a.cols))
    let s := (s.countRanges pages a.ranges false h.world).observeFor u h.who pages a.ranges
    ((List.range n).foldl (fun (s : State) i => s.putByte (placeAt h.area i) (BitVec.ofNat 8 (v / 256 ^ i))) s).modWord
      (.clu u) h.num fun h => { h with stg := some { place := h.area, row := h.oa.1, col := h.oa.2.1, cols := a.cols } }

/-- STAGING_RESERVE: the reservation of a waiting word is made where it fits, and the share of A copied into it (R251,
R252). -/
def State.stagingReserve (s : State) (u : UnitId) (n : Nat) : State :=
  match u with
  | .clu c =>
    match (s.clu c).seq[n]? with
    | none => s
    | some h =>
      let (b, m) := s.staging c
      let bad := overlaps b m flagBase flagBytes || decide (0x400000 < b + m)
      let held := sortBy Prod.fst ((s.clu c).seq.flatMap fun g => if g.reserved then g.area else [])
      let used := (held.map (·.2)).sum
      if !h.open_ || h.reserved || h.ended then s
      else if bad || decide (m < h.reserve) then
        s.modWord u h.num fun h => { h with ended := true, todo := [], tickets := 0,
                                            fail := some { cause := cStagingOverflow, nfault := 1, bot := 2 } }
      else if used + h.reserve ≤ m ∧ !s.tornAt u h.world h.da.ranges then
        let h := { h with reserved := true, area := takeFree (sramPa c (b + m)) held (sramPa c b) h.reserve }
        (s.modWord u h.num fun _ => h).stageA c h
      else s
  | _ => s

/-- The leaf word that the tile unit of core `c` runs next. -/
def State.leafNext (s : State) (c : Nat) : Option HWord :=
  (s.core c).tu.find? fun h => h.open_ && !h.ended && h.op != 8 && !s.halted (.core c) h

/-- Cycles for which the native steps of a block occupy the array at full rate (R191). -/
def HWord.arrayCycles (h : HWord) : Nat :=
  if profA h.w.param = 0x06 then max 1 (3 * h.da.cols) else max 1 ((h.da.cols + gang h.w.param - 1) / gang h.w.param)

/-- The tile unit of core `c` has an array step ready (R331). -/
def State.stepReady (s : State) (c : Nat) : Bool :=
  match s.leafNext c with
  | some h => h.op == 1 && !(h.stages && (s.core c).bs.any (·.2.busy))
  | none => false

/-- The first address that a block reaches whose page the translation cache does not hold (R316). -/
def State.unitMiss (s : State) (d : Nat) (w : Bool) (l : List (Nat × Nat)) : Option Nat :=
  l.findSome? fun r => (vpages r.1 r.2).findSome? fun p =>
    if (s.tlbFind d w (p * 0x4000 % 2 ^ 58)).isNone then some (max r.1 (p * 0x4000)) else none

/-- A leaf word ends with the fault of its block, or with the fault of a walk. -/
def State.leafFault (s : State) (c : Nat) (h : HWord) (cause : Nat) (f : Word) : State :=
  let (k, f) := (s.blockFail c h (h.blockAt h.pos)).getD (cause, f)
  s.modWord (.core c) h.num fun h =>
    { h with ended := true, fail := some { cause := k, nfault := 1, bot := 1, faddr := f } }

/-- A page that a block of a leaf word reaches is not cached: the tile unit joins the page's walk and stalls, and a walk that
has faulted ends the word (R316). -/
def State.leafMiss (s : State) (c : Nat) (h : HWord) (va : Nat) : State :=
  let vpn := va % 2 ^ 58 / 0x4000
  match (s.die (c / 64)).tuFault h.world vpn with
  | some (_, cause) => s.leafFault c h cause (BitVec.ofNat 64 va)
  | none => (s.joinWalk (c / 64) h.world vpn (.unit c h.num va)).1

/-- The array may take a step now: no throttle of the core's region forbids it (R333). -/
def State.mayStep (s : State) (c : Nat) : Bool :=
  let g := s.regionAt (c / 64)
  !g.crit && (!g.slowed || decide ((s.core c).stepFree ≤ s.now))

/-- LEAF_WORK: the tile unit of core `c` runs one block of its first leaf word (R253): array steps only of an active core
and at the rate that its region allows (R331, R333), once every page is translated (R316) and no word lies partly in the
store buffer (R268). -/
def State.leafWork (s : State) (c : Nat) : State :=
  match s.leafNext c with
  | none => s
  | some h =>
    let b := h.blockAt h.pos
    if h.op = 1 && !(s.core c).active then s.modCore c fun k => { k with wants := true }
    else if (h.op == 1 && !s.mayStep c) || (h.stages && (s.core c).bs.any (·.2.busy)) then s
    else if let some (k, f) := h.walk then s.leafFault c h k f
    else if let some va := s.unitMiss (c / 64) h.world (h.touches b) then s.leafMiss c h va
    else if s.torn (c / 8) (s.unitPages (c / 64) h.world (h.reads b)) (h.reads b) then s
    else
      let (s, g) := s.leafBlock c h
      let steps := max 1 ((h.da.cols + 32 * gang h.w.param - 1) / (32 * gang h.w.param))
      let s := if h.op = 1 then (s.countCore c 3 steps h.world).modCore c fun k =>
          { k with lastWork := s.now, stepFree := s.now + 2 * h.arrayCycles }
        else s
      s.modWord (.core c) h.num fun _ => g

/-! ## Children complete (R241, R259) -/

/-- A word leaves its unit, and a waiting one may take its place. -/
def State.dropWord (s : State) (u : UnitId) (n : Nat) : State :=
  (s.mapWords u fun l => l.filter (·.num != n)).admitSend u

/-- A copy command that a run of a context issued has not completed. -/
def State.copiesOf (s : State) (c life : Nat) : Bool :=
  (List.range 4).any fun k => (spGet {} (s.core c).cq k).cmds.any fun m => m.life == life

/-- A `tcall` child has stopped, its stores have performed, and its copy commands have completed (R241). -/
def State.callOver (s : State) (c : Nat) (h : HWord) (i : Nat) : Option ChildEnd :=
  (s.core c).ends.find? fun e => e.word == h.num && e.child == i && !(e.waits.any s.pend.contains) && !s.copiesOf c e.life

/-- CHILD_COMPLETE: the status of child `i` of word `n` returns to its parent. -/
def State.childComplete (s : State) (u : UnitId) (n i : Nat) : State :=
  match (s.words u)[n]? with
  | none => s
  | some h =>
    match h.live.find? (·.idx == i) with
    | none => s
    | some k =>
      match u with
      | .core c =>
        match s.callOver c h i with
        | none => s
        | some e =>
          let s := s.modCore c fun q => { q with ends := q.ends.filter fun e => !(e.word == h.num && e.child == i) }
          s.noteChild u h.num i (if e.cause = 0 then {} else
            { cause := e.cause, nfault := 1, bot := 1, lc := e.ctx, faddr := e.faddr }) none
      | u =>
        let v := childUnit u k.unit
        match (s.words v).find? fun g => g.parent == some (h.num, i) && g.ended with
        | none => s
        | some g =>
          (s.dropWord v g.num).noteChild u h.num i (g.status (unitNum v)) (if h.adds && unitLevel u != 4 then some g.own else none)

/-! ## `tsend` (R211, R256, R257) -/

/-- `tsend`: the checks of R150 come first, in their order, then that of the kind of memory. -/
def tileSend (hn : Nat) (off : Nat) (flag : Nat) (s : State) : Res :=
  let x := s.x
  let c := coreOf x
  let h := s.me.hreg hn
  let p : Piece := { off := off, len := 64 }
  failOn (s.accessCheck x h [p] 64 false) <|
  if !sramHandle (cluOf x) h p then .trap cSramRange (outsideVa (cluOf x) h off 64)
  else
    let w := decodeTile (leVal (s.pieceBytes h { off := off, len := 32 }))
    trapIf (w.spec && !s.me.tagV) cSpecTagState <|
    let level := if w.level = 3 then 3 else 2
    let tag := if w.spec then some s.me.tag else none
    let bad := w.level != 2 && w.level != 3
    let k : HWord :=
      { num := s.nextId, w := w, va := h.va + off, src := .sent c level, stream := s.me.stream, prio := s.me.prio,
        world := s.me.world, top := level, level := level, sentBy := some (x, h.pa off, flag, tag), who := some x, open_ := bad, ended := bad,
        fail := if bad then some { cause := if !tileKnown w.op.toNat || w.rsv then cTileWordIllegal else cTileLevel, nfault := 1, bot := 2, faddr := BitVec.ofNat 64 (h.va + off) } else none }
    let s := { s with nextId := s.nextId + 1 }
    let s := match tag with
      | some t => s.modInfl c s.me.stream.toNat t.toNat (· + 1)
      | none => s
    .ok ((s.modCore c fun e => { e with sends := e.sends ++ [k] }).admitSend
      (if level = 3 then .die (c / 64) else .clu (c / 8)))

/-- TSEND_COMPLETION: a sent word is over: its record, then the add to the sender's flag (R257). No row of R280's table names
the source of that add; that it comes by input 8 is the model's choice (log 87). -/
def State.sentOver (s : State) (u : UnitId) (n : Nat) : State :=
  match (s.words u)[n]? with
  | none => s
  | some h =>
    match h.sentBy with
    | none => s
    | some (x, pa, flag, tag) =>
      if !h.ended then s
      else
        let c := coreOf x
        let t := h.status (unitNum u)
        let s := s.writeBytes (pa + 32) (leBytes 8 t.word.toNat ++ leBytes 8 t.faddr.toNat)
        let s := match tag with
          | some g =>
            let s := if t.cause = 0 then s else s.deferFault c h.stream.toNat g.toNat t.cause t.faddr t.nfault [1]
            s.modInfl c h.stream.toNat g.toNat (· - 1)
          | none =>
            if t.cause = 0 then s
            else s.deliver (c / 64) { cause := cChildFault, orig := t.cause, src := 3, fl := 2 * b2n h.world,
                                      who := cidOf c + 64 * h.stream.toNat, faddr := t.faddr, path := t.word,
                                      clk := s.clk (c / 64), world := h.world }
        let a := s.nextId
        let s := { s with nextId := a + 1, pend := s.pend ++ [a] }
        let s := s.modCore c
          (·.flagArrives { input := 8, cycle := s.now, n := flag, op := .add 1, id := a, x := x, scope := 3, covered := [] })
        s.dropWord u h.num

/-! ## Instructions and events -/


/-- TSEND (R256): Sends a tile word from cluster SRAM to the cluster or die sequencer. -/
def execTsend (t : BitVec 4) (a : BitVec 5) (b : BitVec 5) (s : State) : Host.Outcome State Fault Refusal :=
  slotOp 2 (.tsend t a b) s fun s => tileSend t.toNat (s.sr a).toNat b.toNat s

/-- STAGING_RESERVE (R251): A waiting word's staging reservation fits and its children may start. -/
def execStagingReserve (unit : UnitId) (n : Nat) (s : State) : Host.Outcome State Fault Refusal :=
  .next (s.stagingReserve unit n)

/-- CHILD_START (R259): A unit starts or aborts a child word when the child unit is free. -/
def execChildStart (unit : UnitId) (n : Nat) (child : Nat) (s : State) : Host.Outcome State Fault Refusal :=
  .next (s.childStart unit n child)

/-- PULL_TICKET (R249): A free child unit takes the next ticket of a pull split. -/
def execPullTicket (unit : UnitId) (n : Nat) (child : Nat) (s : State) : Host.Outcome State Fault Refusal :=
  .next (s.pullTicket unit n child)

/-- LEAF_WORK (R253): A core's tile unit runs a native step or element work of a leaf word. -/
def execLeafWork (core : Nat) (s : State) : Host.Outcome State Fault Refusal :=
  .next (s.leafWork core)

/-- CHILD_COMPLETE (R259): A child's status returns and is aggregated into its parent. -/
def execChildComplete (unit : UnitId) (n : Nat) (child : Nat) (s : State) : Host.Outcome State Fault Refusal :=
  .next (s.childComplete unit n child)

/-- TSEND_COMPLETION (R257): A sent word completes, writing its record and adding to the sender's flag. -/
def execTsendCompletion (unit : UnitId) (n : Nat) (s : State) : Host.Outcome State Fault Refusal :=
  .next (s.sentOver unit n)

end Sys2Proof.Machine
end

