-- ==== Sys2Proof/Machine/Pour.lean ====
section
/-! DEFINITION. The Pour: fetching and dispatching the words of its streams, the words it keeps, completion, and the traps of
a stream (R233, R242, R244, R245, R261, R302 to R309, R332). -/

namespace Sys2Proof.Machine

/-! ## Stream traps (R309) -/

/-- A frame with SRC 2 of stream `k` on its conductor die (R309, R311). -/
def State.strFrame (s : State) (p k cause orig : Nat) (faddr path : Word) (va : Nat) : State :=
  let d := s.conductor p
  s.deliver d { cause := cause, orig := orig, src := 2, fl := 2 * b2n (s.strWorld p k), who := 64 * k, faddr := faddr,
                path := path, aux := BitVec.ofNat 64 va, clk := s.clk d, world := s.strWorld p k }

/-- A stream-level trap: STRSTAT, then STRPC, then the frame, then the host's vector (R309). -/
def State.strTrap (s : State) (p k cause orig pc : Nat) (faddr path : Word) (va : Nat) : State :=
  let s := ((s.setStrCause p k cause orig).setStr p k 0x08 (BitVec.ofNat 64 pc)).modStrm p k fun t => { t with fetched := none }
  (s.strFrame p k cause orig faddr path va).setStrState p k 5

/-- The trap store of the conductor die has room for a stream trap; else the Pour holds it back (R312). -/
def State.trapRoom (s : State) (p : Nat) : Bool := (s.die (s.conductor p)).room

/-- STRPC of a stream. -/
def State.strPc (s : State) (p k : Nat) : Nat := wfld (s.str p k 0x08) 0 58

/-! ## Words that end at the Pour (R244, R261, R302, R304, R308) -/

/-- `tsig` posts its signal to the host (R308, R347). -/
def State.postSig (s : State) (p k v : Nat) : State :=
  (s.setStr p k 0x80 (BitVec.ofNat 64 (2 ^ 63 + v))).raise (64 * p) k

/-- A word is taken off the stream's list. -/
def State.endFlight (s : State) (p k n : Nat) : State :=
  s.modStrm p k fun t => { t with flight := t.flight.filter (·.num != n), lastDone := s.now }

/-- `tsig` words at the head of the stream's list are done (R244); `n` bounds their number. -/
def State.doneHeads (s : State) (p k : Nat) : Nat → State
  | 0 => s
  | n + 1 =>
    match (s.strm p k).flight with
    | h :: _ =>
      if h.op = 0x15 then ((s.postSig p k h.param).endFlight p k h.num).doneHeads p k n
      else s
    | [] => s

/-- What a stream does once earlier words have completed: `tsig`, FINISHED after `tend`, and a waiting ABORT. -/
def State.pourSettle (s : State) (p k : Nat) : State :=
  let s := s.doneHeads p k (s.strm p k).flight.length
  let t := s.strm p k
  if !t.flight.isEmpty then s
  else if t.ended ∧ s.strState p k = 1 then s.setStrState p k 6
  else if t.aborting ∧ s.strState p k = 5 then (s.modStrm p k fun _ => {}).setStrState p k 0
  else s

/-- WORD_COMPLETE_AT_POUR: word `n` of stream `k` has completed at every die (R261, R309). -/
def State.pourDone (s : State) (p k n : Nat) : State :=
  match (s.strm p k).flight[n]? with
  | none => s
  | some h =>
    let st := s.strState p k
    let t := h.status 0
    if !h.ended || s.halted (.pour p) h || (t.cause != 0 && !s.trapRoom p) then s
    else
      let s := s.endFlight p k h.num
      let s := if t.cause = 0 then s
        else if st = 5 then s.strFrame p k cChildFault t.cause t.faddr t.word h.va
        else s.strTrap p k cChildFault t.cause (s.strPc p k) t.faddr t.word h.va
      s.pourSettle p k

/-- WATCHDOG_EXPIRE: no word of the stream has completed for LIMIT µs (R308). -/
def State.watchdog (s : State) (p k : Nat) : State :=
  let lim := wfld (s.str p k 0x30) 0 32
  let st := s.strState p k
  let t := s.strm p k
  if lim = 0 ∨ (st ≠ 1 ∧ st ≠ 2) ∨ t.flight.isEmpty ∨ s.now < t.lastDone + lim * 3000 ∨ !s.trapRoom p then s
  else s.strTrap p k cWatchdog 0 (s.strPc p k) 0 0 (s.strPc p k)

/-! ## Fetch and dispatch (R305, R306, R309) -/

/-- POUR_WORD_FETCH: the next word of a stream is read, through the conductor die (R309). -/
def State.pourFetch (s : State) (p k : Nat) : State :=
  let t := s.strm p k
  let va := s.strPc p k
  let d := s.conductor p
  let w := s.strWorld p k
  if !s.pourEnabled p || s.strState p k != 1 || t.fetched.isSome then s
  else if t.ended then s.pourSettle p k
  else match s.unitFail d w [(va, 32)] false with
    | some _ =>
      if s.trapRoom p then s.strTrap p k cStreamFetch 0 va (BitVec.ofNat 64 va) 0 va else s
    | none =>
      let n := leVal (s.pageBytes (s.unitPages d w [(va, 32)]) va 32)
      (s.countTouch d w [(va, 32)] false).modStrm p k fun t => { t with fetched := some (decodeTile n), met := false }

/-- Fetch goes on at `va` once the word is dispatched. -/
def State.strNext (s : State) (p k va : Nat) : State :=
  (s.setStr p k 0x08 (BitVec.ofNat 64 (va % 2 ^ 58))).modStrm p k fun t => { t with fetched := none }

/-- A word joins the stream's list; the watchdog counts from a dispatch onto an empty one. -/
def State.inFlightWord (s : State) (p k : Nat) (h : HWord) : State :=
  { s.modStrm p k fun t => { t with lastDone := if t.flight.isEmpty then s.now else t.lastDone, flight := t.flight ++ [h] }
    with nextId := s.nextId + 1 }

/-- A word of a stream as the Pour lists it. -/
def State.pourWord (s : State) (p k va : Nat) (w : TileWord) : HWord :=
  { num := s.nextId, w := w, va := va, src := .stream p k, stream := BitVec.ofNat 2 k,
    prio := BitVec.ofNat 2 (wfld (s.str p k 0) 0 2), world := s.strWorld p k, top := w.level.toNat, level := 4, open_ := true }

/-- A word goes to the dies that it selects, with the stagger that is pending (R245, R332); one that selects none
completes at once (R67). -/
def State.toDies (s : State) (p k va : Nat) (w : TileWord) : State :=
  let dies := s.selection p k w
  let s := s.strNext p k (va + 32)
  match dies with
  | [] => s.modStrm p k fun t => { t with lastDone := s.now }
  | _ =>
    let n := dies.length
    let stag := (s.strm p k).stagger
    let h := { s.pourWord p k va w with live := dies.zipIdx.map fun q => { idx := q.2, unit := q.1, lo := 0, len := 0 } }
    let s := (s.inFlightWord p k h).modStrm p k fun t => { t with stagger := 0 }
    let s := dies.zipIdx.foldl (fun (s : State) q =>
      let d := 64 * p + q.1
      let c := { h.child (s.nextId + q.2) q.2 with deal := (q.2, n), hold := regionOf d * stag * 600 }
      (s.mapWords (.die d) (· ++ [c])).modDie d fun e => { e with seqLast := 0 }) s
    dies.foldl (fun (s : State) i => s.admitSend (.die (64 * p + i))) { s with nextId := s.nextId + n }

/-- One 32-bit half of a 64-bit word set; `h` 0 is the low one. -/
def setHalf (w : Word) (h v : Nat) : Word := putFld w (32 * h) 32 v

/-- `tloop` (R244). -/
def State.loopWord (s : State) (p k va : Nat) (w : TileWord) : State :=
  let c := w.func.toNat % 4
  let o := 0x20 + 8 * (c / 2)
  let old := wfld (s.str p k o) (32 * (c % 2)) 32
  let n := (if old = 0 then max w.param.toNat 1 else old) - 1
  (s.setStr p k o (setHalf (s.str p k o) (c % 2) n)).strNext p k (if n = 0 then va + 32 else w.da.toNat)

/-- The Pour-only words act at dispatch (R244, R308). -/
def State.pourOnly (s : State) (p k va : Nat) (w : TileWord) : State :=
  let s := s.modStrm p k fun t => { t with lastDone := s.now }
  match w.op.toNat with
  | 0x10 => s.strNext p k w.da.toNat
  | 0x11 => s.loopWord p k va w
  | 0x12 => ((s.strNext p k (va + 32)).modStrm p k fun t => { t with ended := true }).pourSettle p k
  | 0x13 =>
    let o := 0x40 + 8 * (w.func.toNat % 8)
    (s.setStr p k o (setHalf (s.str p k o) (w.func.toNat / 8 % 2) w.param.toNat)).strNext p k (va + 32)
  | 0x14 => (s.strNext p k (va + 32)).modStrm p k fun t => { t with stagger := w.param.toNat % 256 }
  | _ => ((s.strNext p k (va + 32)).inFlightWord p k (s.pourWord p k va w)).pourSettle p k

/-- The trap of the Pour's read of a level-4 `twait` (R309). -/
def State.waitTrap (s : State) (p k cause : Nat) (w : TileWord) : State :=
  if s.trapRoom p then s.strTrap p k cause 0 (s.strPc p k) w.da 0 (s.strPc p k) else s

/-- A level-4 `twait` reads: with ORD, only once every earlier word of the stream has completed (R254). -/
def Stream.mayRead (t : Stream) (w : TileWord) : Bool := !w.ord || t.flight.isEmpty

/-- A level-4 `tsync` or `twait`: the Pour dispatches it once it waits no more, and it is then over (R242, R306). -/
def State.pourWait (s : State) (p k va : Nat) (w : TileWord) : State :=
  let t := s.strm p k
  let go := (s.modStrm p k fun t => { t with lastDone := s.now }).strNext p k (va + 32)
  if w.op = 9 then (if t.flight.isEmpty then go else s)
  else if t.met then go
  else if !t.mayRead w then s
  else match s.twaitRead (.pour p) (s.pourWord p k va w) with
    | .inl true => go
    | .inl false => s
    | .inr (c, _) => s.waitTrap p k c w

/-- The Pour dispatches tile word `w` of the stream that its latch names: the checks of R67 and R236, then its effect; a
word that some selected die has no room for waits (R262). -/
def State.pourExec (s : State) (w : TileWord) : State :=
  let p := s.iss.pan
  let k := s.iss.strm
  let va := s.strPc p k
  let at_ := BitVec.ofNat 64 va
  let count := fun (s : State) => s.countDie (s.conductor p) 18 0 1 (s.strWorld p k)
  match tileCheck true w with
  | some c => s.strTrap p k c 0 va at_ 0 va
  | none =>
    if 0x10 ≤ w.op.toNat then (count s).pourOnly p k va w
    else if pourKeeps w then
      if w.op = 0x0B ∧ w.da = 0 then s.strTrap p k cTileWordIllegal 0 va at_ 0 va
      else
        let t := s.pourWait p k va w
        if t.strPc p k = va then t else count t
    else if (s.selection p k w).all fun i => s.seqRoom (.die (64 * p + i)) then (count s).toDies p k va w
    else s

/-- The stream that dispatches next, and whether its turn begins (R305). -/
def State.pourPick (s : State) (p : Nat) : Option (Nat × Bool) :=
  let q := s.pan p
  if q.spent < q.width ∧ s.streamReady p q.turn then some (q.turn, false)
  else
    let base := if q.width = 0 then q.turn else q.turn + 1
    (([0, 1, 2, 3].map fun i => (base + i) % 4).find? (s.streamReady p)).map fun k => (k, true)

/-- One dispatch of the Pour of panel `p` (R305). -/
def State.pourTurn (s : State) (p : Nat) : State :=
  match s.pourPick p with
  | none => s.modPan p fun q => { q with turn := if q.width = 0 then q.turn else (q.turn + 1) % 4, spent := 0, width := 0 }
  | some (k, new) =>
    match (s.strm p k).fetched with
    | none => s
    | some w =>
      let s := s.modPan p fun q =>
        if new then { q with turn := k, spent := 1, width := 2 ^ (wfld (s.str p k 0) 0 2 + 1) } else { q with spent := q.spent + 1 }
      State.pourExec { s with iss := { pan := p, strm := k } } w

/-- The Pour reads the word of the level-4 `twait` that its stream waits in once more (R242, R309). -/
def State.pourPoll (s : State) (p k : Nat) : State :=
  match (s.strm p k).fetched with
  | none => s
  | some w =>
    if s.strState p k != 1 || !s.pourEnabled p || w.op != 0x0B || !pourKeeps w || (tileCheck true w).isSome || w.da == 0 ||
        (s.strm p k).met || !(s.strm p k).mayRead w then s
    else match s.twaitRead (.pour p) (s.pourWord p k (s.strPc p k) w) with
      | .inl true => s.modStrm p k fun t => { t with met := true }
      | .inl false => s
      | .inr (c, _) => s.waitTrap p k c w

/-- TWAIT_POLL: the readers of a stream's `twait` words read once more: the Pour at level 4, and each die at level 3
(R242, R309). -/
def State.twaitPoll (s : State) (p k : Nat) : State :=
  let s := s.pourPoll p k
  (List.range 64).foldl (fun (s : State) i =>
    let u := UnitId.die (64 * p + i)
    match (s.words u).find? fun h => h.src == .stream p k && h.op == 0x0B && h.open_ && !h.ended with
    | some h => s.barrierStep u h
    | none => s) s

/-- STAGGER_HOLD_END: the first word of die `d` whose stagger hold is over starts (R332). -/
def State.holdEnd (s : State) (d : Nat) : State :=
  match (s.words (.die d)).find? fun h => h.hold != 0 && s.mayOpen (.die d) h with
  | some h => s.openWord (.die d) h
  | none => s

/-! ## Tile words and events -/


/-- TMM (R237): Tile matrix multiply, split down the hierarchy. -/
def execTmm (w : TileWord) (s : State) : Host.Outcome State Fault Refusal :=
  .next (s.pourExec { w with op := 0x01 })

/-- TEW (R238): Tile elementwise binary operation. -/
def execTew (w : TileWord) (s : State) : Host.Outcome State Fault Refusal :=
  .next (s.pourExec { w with op := 0x02 })

/-- TEU (R238): Tile elementwise unary operation. -/
def execTeu (w : TileWord) (s : State) : Host.Outcome State Fault Refusal :=
  .next (s.pourExec { w with op := 0x03 })

/-- TCVT (R238): Tile format conversion. -/
def execTcvt (w : TileWord) (s : State) : Host.Outcome State Fault Refusal :=
  .next (s.pourExec { w with op := 0x04 })

/-- TCOPY (R238): Tile copy, plain or transposed. -/
def execTcopy (w : TileWord) (s : State) : Host.Outcome State Fault Refusal :=
  .next (s.pourExec { w with op := 0x05 })

/-- TRED (R239): Tile reduction along one axis. -/
def execTred (w : TileWord) (s : State) : Host.Outcome State Fault Refusal :=
  .next (s.pourExec { w with op := 0x06 })

/-- TTOPK (R240): Ranks the k best entries of each row of a tile. -/
def execTtopk (w : TileWord) (s : State) : Host.Outcome State Fault Refusal :=
  .next (s.pourExec { w with op := 0x07 })

/-- TCALL (R241): Starts kernel children on cores with sub-descriptors. -/
def execTcall (w : TileWord) (s : State) : Host.Outcome State Fault Refusal :=
  .next (s.pourExec { w with op := 0x08 })

/-- TSYNC (R242): Holds later words until earlier words complete everywhere below. -/
def execTsync (w : TileWord) (s : State) : Host.Outcome State Fault Refusal :=
  .next (s.pourExec { w with op := 0x09 })

/-- TFENCE (R242): Holds later words at each die until its earlier words complete. -/
def execTfence (w : TileWord) (s : State) : Host.Outcome State Fault Refusal :=
  .next (s.pourExec { w with op := 0x0A })

/-- TWAIT (R242): Waits until a memory word meets a condition, then acquires. -/
def execTwait (w : TileWord) (s : State) : Host.Outcome State Fault Refusal :=
  .next (s.pourExec { w with op := 0x0B })

/-- TCOLL (R243): Runs a collective on each selected die at level 5. -/
def execTcoll (w : TileWord) (s : State) : Host.Outcome State Fault Refusal :=
  .next (s.pourExec { w with op := 0x0C })

/-- TJMP (R244): Sets the stream's next word address. -/
def execTjmp (w : TileWord) (s : State) : Host.Outcome State Fault Refusal :=
  .next (s.pourExec { w with op := 0x10 })

/-- TLOOP (R244): Counts a stream loop counter and branches back. -/
def execTloop (w : TileWord) (s : State) : Host.Outcome State Fault Refusal :=
  .next (s.pourExec { w with op := 0x11 })

/-- TEND (R244): Ends fetch of the stream; it finishes once earlier words complete. -/
def execTend (w : TileWord) (s : State) : Host.Outcome State Fault Refusal :=
  .next (s.pourExec { w with op := 0x12 })

/-- TDMSET (R244): Writes half of a stream die-mask register. -/
def execTdmset (w : TileWord) (s : State) : Host.Outcome State Fault Refusal :=
  .next (s.pourExec { w with op := 0x13 })

/-- TSTAG (R244): Leaves a per-region stagger pending for the next word sent to dies. -/
def execTstag (w : TileWord) (s : State) : Host.Outcome State Fault Refusal :=
  .next (s.pourExec { w with op := 0x14 })

/-- TSIG (R244): Posts a signal to the host once earlier words complete. -/
def execTsig (w : TileWord) (s : State) : Host.Outcome State Fault Refusal :=
  .next (s.pourExec { w with op := 0x15 })

/-- POUR_WORD_FETCH (R309): A stream's tile-word fetch returns, or faults with STREAM_FETCH. -/
def execPourWordFetch (pan : Nat) (k : Nat) (s : State) : Host.Outcome State Fault Refusal :=
  .next (s.pourFetch pan k)

/-- POUR_DISPATCH (R305): The Pour dispatches one word of the stream whose turn it is. -/
def execPourDispatch (pan : Nat) (s : State) : Host.Outcome State Fault Refusal :=
  .next (s.pourTurn pan)

/-- WORD_COMPLETE_AT_POUR (R261): A word completes at the Pour; a fault traps the stream. -/
def execWordCompleteAtPour (pan : Nat) (k : Nat) (n : Nat) (s : State) : Host.Outcome State Fault Refusal :=
  .next (s.pourDone pan k n)

/-- TWAIT_POLL (R242): A twait reader re-reads its word within 256 cycles. -/
def execTwaitPoll (pan : Nat) (k : Nat) (s : State) : Host.Outcome State Fault Refusal :=
  .next (s.twaitPoll pan k)

/-- WATCHDOG_EXPIRE (R308): No word of the stream completes for LIMIT microseconds and the stream traps. -/
def execWatchdogExpire (pan : Nat) (k : Nat) (s : State) : Host.Outcome State Fault Refusal :=
  .next (s.watchdog pan k)

/-- STAGGER_HOLD_END (R332): A staggered word's hold ends at a die and the word starts. -/
def execStaggerHoldEnd (die : Nat) (s : State) : Host.Outcome State Fault Refusal :=
  .next (s.holdEnd die)

end Sys2Proof.Machine
end

