-- ==== Sys2Proof/Machine/Spec.lean ====
section
/-! DEFINITION. Speculation tags, the predictor, resolve and misses, and the residency table (R209 to R225). -/

namespace Sys2Proof.Machine

/-! ## Tags (R209 to R213) -/

/-- Tag `t` of core `c`. -/
def State.tagOf (s : State) (c t : Nat) : Tag := spGet {} (s.core c).tags t

/-- The tag that an operand names. -/
def tagField (w : Word) : Nat := wfld w 0 8

/-- The word of a tag (R213). -/
def Tag.word (t : Tag) : Word :=
  if t.live then
    BitVec.ofNat 64 (2 ^ 63 + b2n t.df * 2 ^ 62 + t.count * 2 ^ 48 + t.cause * 2 ^ 40 + t.infl % 2 ^ 16)
  else 0

/-- The accumulator is tentative under tag `t`. -/
def Acc.under (a : Acc) (t : Nat) : Bool := a.tv && a.tag.toNat == t

/-- Every accumulator tentative under tag `t` changed by `f`. -/
def State.overTag (s : State) (c t : Nat) (f : Acc → Acc) : State :=
  s.modCore c fun k => { k with acc := (List.range 16).foldl (fun m i =>
    if (spGet {} m i : Acc).under t then spMod {} i f m else m) k.acc }

/-- Tag `t` is freed: it is current in no context of the core any more (R212). -/
def State.freeTag (s : State) (c t : Nat) : State :=
  let s := (List.range 4).foldl (fun (s : State) i => s.modCtx (4 * c + i) fun x =>
    if x.tagV && x.tag.toNat == t then { x with tagV := false } else x) s
  s.modCore c fun k => { k with tags := spDel t k.tags }

/-- `xspec`. -/
def specAlloc (d : BitVec 5) (s : State) : Res :=
  let c := coreOf s.x
  match firstBelow 256 fun t => !(s.tagOf c t).live with
  | none => .trap cSpecTagExhausted 0
  | some t =>
    let s := s.modCore c fun k => { k with tags := spPut t { live := true } k.tags }
    .ok ((s.later 2 1 (.sreg 0x0B (BitVec.ofNat 64 (256 + t)))).later 2 1 (.s d.toNat (BitVec.ofNat 64 t)))

/-- `xcfm`. -/
def specConfirm (a : BitVec 5) (s : State) : Res :=
  let c := coreOf s.x
  let t := tagField (s.sr a)
  let g := s.tagOf c t
  if !g.live then .trap cSpecTagState 0
  else if g.df then .trap cSpecFaultConfirmed g.faddr g.cause
  else .ok ((s.overTag c t fun a => { a with tv := false }).freeTag c t)

/-- `xsq`. -/
def specSquash (a : BitVec 5) (s : State) : Res :=
  let c := coreOf s.x
  let t := tagField (s.sr a)
  let g := s.tagOf c t
  if !g.live then .trap cSpecTagState 0
  else
    let s := s.overTag c t fun a => { a with data := [], tv := false }
    .ok ((s.countCore c 9 g.count s.me.world).freeTag c t)

/-! ## The predictor (R214 to R217) -/

/-- The four positions of an entry: id and confidence. -/
def State.predEntry (s : State) (c i : Nat) : List (Nat × Nat) :=
  let l := spGet [] (s.core c).pred i
  tab 4 fun q => l.getD q (0, 0)

/-- The entry index of a token (R215). -/
def predIndex (layer : Nat) (w : Word) : Nat :=
  let h := wfld w 32 32
  let fold := nfld h 0 10 ^^^ nfld h 10 10 ^^^ nfld h 20 10 ^^^ nfld h 30 2
  let e2 := wfld w 16 10
  let rot := e2 * 32 % 1024 + e2 / 32
  layer % 1024 ^^^ wfld w 0 10 ^^^ rot ^^^ fold

/-- Non-empty positions by confidence, higher first, ties to the lower position. -/
def predRank (l : List (Nat × Nat)) : List (Nat × Nat) :=
  (List.range 7).flatMap fun k => l.filter fun p => p.2 == 7 - k

/-- The lane that `xpred` writes (R216). -/
def predLane (index k : Nat) (l : List (Nat × Nat)) : Word :=
  let r := (predRank l).take k
  BitVec.ofNat 64 (2 ^ 62 + index * 2 ^ 52 + (List.range 4).foldl (fun a j =>
    let (id, cf) := r.getD j (0, 0)
    a + (id + cf * 1024) * 2 ^ (13 * j)) 0)

/-- `xpred`. -/
def predict (t : BitVec 4) (d a b : BitVec 5) (k : Nat) (s : State) : Res :=
  let on := s.pr t.toNat
  .ok (s.later 2 8 (.v d.toNat (tab 128 fun i =>
    if i < 32 ∧ on.getLsbD i then
      let n := predIndex (wfld (s.sr b) 0 10) (s.vr a i)
      (BitVec.allOnes 64, predLane n k (s.predEntry (coreOf s.x) n))
    else (0, 0))))

/-- A route of a token: number, expert and gate. -/
structure Route where
  num : Nat
  id : Nat
  gate : Nat

/-- The valid routes of token `i`; of several that name one id, the lowest (R219). -/
def State.routes (s : State) (b : BitVec 5) (i : Nat) : List Route :=
  let all := (List.range 4).filterMap fun j =>
    let h := wfld (s.vr b (i + 32 * (j / 2))) (32 * (j % 2)) 32
    if h.testBit 15 then some (⟨j, h % 1024, h / 65536⟩ : Route) else none
  all.filter fun r => !(all.any fun q => q.id == r.id && q.num < r.num)

/-- A new id placed in an entry (R217): positions taken by an id of this token are marked. -/
def placeId (l : List (Nat × Nat × Bool)) (x : Nat) : List (Nat × Nat × Bool) :=
  let free := (List.range 4).filter fun q => !(l.getD q (0, 0, true)).2.2
  let best := free.foldl (fun (o : Option Nat) q => match o with
    | none => some q
    | some p => if (l.getD q (0, 0, true)).2.1 < (l.getD p (0, 0, true)).2.1 then some q else some p) none
  match best with
  | some q => tab 4 fun i => if i = q then (x, 1, true) else l.getD i (0, 0, true)
  | none => l

/-- An entry trained with the true ids of one token (R217). -/
def trainEntry (e : List (Nat × Nat)) (ids : List Nat) : List (Nat × Nat) :=
  let present := (e.filter fun p => p.2 != 0).map (·.1)
  let adj := e.map fun p =>
    (p.1, (if p.2 = 0 then 0 else if ids.contains p.1 then min (p.2 + 1) 7 else p.2 - 1), false)
  ((ids.filter fun x => !present.contains x).foldl placeId adj).map fun p => (p.1, p.2.1)

/-- An on lane of a prediction vector lacks its mark (R217, R221). -/
def State.badPrediction (s : State) (t : BitVec 4) (a : BitVec 5) : Bool :=
  (List.range 32).any fun i => (s.pr t.toNat).getLsbD i && wfld (s.vr a i) 62 2 != 1

/-- `xtrain`. -/
def train (t : BitVec 4) (a b : BitVec 5) (s : State) : Res :=
  trapIf (s.badPrediction t a) cPredictorIndex <|
  .ok ((List.range 32).foldl (fun (q : State) i =>
    if (s.pr t.toNat).getLsbD i then
      let n := wfld (s.vr a i) 52 10
      let e := trainEntry (q.predEntry (coreOf s.x) n) ((s.routes b i).map (·.id))
      q.modCore (coreOf s.x) fun k => { k with pred := spPut n e k.pred }
    else q) s)

/-! ## Resolve and misses (R220, R221) -/

/-- The route that confirms row `m` for expert `e`. -/
def State.confirms (s : State) (g b : BitVec 5) (e m : Nat) : Option Route :=
  if (s.pr g.toNat).getLsbD m then (s.routes b m).find? fun r => r.id == e else none

/-- `xres`. -/
def resolve (t : BitVec 4) (d a b : BitVec 5) (pd g : BitVec 3) (s : State) : Res :=
  let c := coreOf s.x
  let at_ := s.acc c t.toNat
  let ac := s.acc c d.toNat
  let e := wfld (s.sr a) 0 10
  let conf := fun m => s.confirms (g.zeroExtend 5) b e m
  let any := (List.range 32).any fun m => (conf m).isSome
  let tag := s.tagOf c at_.tag.toNat
  if !at_.tv then .trap cSpecTagState 0
  else if ac.tv then .trap cAccTagConflict 0
  else if at_.kind != 0 || ac.kind != 0 then .trap cFormatProfile 0
  else if any && tag.df then .trap cSpecFaultConfirmed tag.faddr tag.cause
  else
    let el := fun m n => match conf m with
      | none => (ac.el m n, (0 : Fl))
      | some r =>
        let (g, f0) := widenBf r.gate
        let (p, f1) := mulF32 g (at_.el m n)
        let (v, f2) := addF32 (ac.el m n) p
        (v, f0 ||| f1 ||| f2)
    let res := s.accElems el
    let s := s.modCore c fun k => { k with acc := spMod {} t.toNat (fun a => { a with tv := false }) k.acc }
    let rows := ((List.range 32).filter fun m => (conf m).isSome).length
    let s := (s.countCore c 10 rows s.me.world).countCore c 11 (popBelow (s.pr g.toNat).toNat 32 - rows) s.me.world
    .ok ((s.accWrite d.toNat 0 none res).later 2 6
      (.p pd.toNat (BitVec.ofNat 128 ((List.range 32).foldl (fun v m => if (conf m).isSome then v + 2 ^ m else v) 0))))

/-- `xmiss`. -/
def misses (t : BitVec 4) (d a b : BitVec 5) (s : State) : Res :=
  trapIf (s.badPrediction t a) cPredictorIndex <|
  let ids := fun i => (List.range 4).filterMap fun j =>
    let f := wfld (s.vr a i) (13 * j) 13
    if f / 1024 = 0 then none else some (f % 1024)
  let pairs := (List.range 32).flatMap fun i =>
    if (s.pr t.toNat).getLsbD i then
      ((s.routes b i).filter fun r => !(ids i).contains r.id).map fun r =>
        BitVec.ofNat 64 (r.gate * 2 ^ 32 + r.id * 2 ^ 16 + r.num * 2 ^ 8 + i)
    else []
  .ok (s.later 2 6 (.v d.toNat (tab 128 fun l => (BitVec.allOnes 64, pairs.getD l (BitVec.allOnes 64)))))

/-! ## The residency table (R223 to R225) -/

/-- Entry `i` of core `c`'s residency table. -/
def State.rdtAt (s : State) (c i : Nat) : RdtEnt := spGet {} (s.core c).rdt i

/-- The word of an entry (R223). -/
def RdtEnt.word (e : RdtEnt) : Word :=
  BitVec.ofNat 64 (b2n e.v * 2 ^ 63 + b2n e.pin * 2 ^ 62 + e.age * 2 ^ 54 + e.slot * 2 ^ 48 + e.tag.toNat)

/-- `xlook` (R224). -/
def lookup (d a : BitVec 5) (s : State) : Res :=
  let c := coreOf s.x
  let key : Half := (s.sr a).truncate 32
  match firstBelow 32 fun i => (s.rdtAt c i).v && (s.rdtAt c i).tag == key with
  | some i =>
    let aged := fun (j : Nat) (e : RdtEnt) => { e with age := if j = i then 0 else min (e.age + 1) 255 }
    let s' := s.modCore c fun k => { k with rdt := (List.range 32).foldl (fun m j =>
      if (s.rdtAt c j).v then spMod {} j (aged j) m else m) k.rdt }
    .ok ((s'.countCore c 12 1 s.me.world).later 2 2 (.s d.toNat (BitVec.ofNat 64 (i * 256 + (s.rdtAt c i).slot))))
  | none => .ok ((s.countCore c 13 1 s.me.world).later 2 2 (.s d.toNat (BitVec.allOnes 64)))

/-- A member of the table group: its index checked, then `k` for the entry. -/
def withEntry (a : BitVec 5) (k : Nat → Res) (s : State) : Res :=
  if (s.sr a).toNat < 32 then k (s.sr a).toNat else .trap cResidencyIndex 0

/-- Entry `i` of the issuing core's table set. -/
def State.setRdt (s : State) (i : Nat) (e : RdtEnt) : State :=
  s.modCore (coreOf s.x) fun k => { k with rdt := spPut i e k.rdt }

/-- `xins`. -/
def insertEntry (a b : BitVec 5) (s : State) : Res :=
  withEntry a (fun i =>
    let c := coreOf s.x
    let w := s.sr b
    let key : Half := w.truncate 32
    trapIf ((s.rdtAt c i).pin || decide (47 < wfld w 32 6) || wfld w 38 26 != 0 ||
      (List.range 32).any fun j => j != i && (s.rdtAt c j).v && (s.rdtAt c j).tag == key) cResidencyIndex <|
    .ok (s.setRdt i { v := true, slot := wfld w 32 6, tag := key })) s

/-! ## Instructions -/

/-- XSPEC (R212): Allocates the lowest free speculation tag and makes it current. -/
def execXspec (d : BitVec 5) (s : State) : Host.Outcome State Fault Refusal :=
  slotOp 2 (.xspec d) s (specAlloc d)

/-- XCFM (R212): Confirms a tag once its work is done, clearing tentative marks. -/
def execXcfm (a : BitVec 5) (s : State) : Host.Outcome State Fault Refusal :=
  slotOp 2 (.xcfm a) s (specConfirm a)

/-- XSQ (R212): Squashes a tag, zeroing its tentative accumulators and discarding its faults. -/
def execXsq (a : BitVec 5) (s : State) : Host.Outcome State Fault Refusal :=
  slotOp 2 (.xsq a) s (specSquash a)

/-- XTAGQ (R212): Reads a tag's state word or stored FADDR. -/
def execXtagq (d : BitVec 5) (a : BitVec 5) (f : BitVec 1) (s : State) : Host.Outcome State Fault Refusal :=
  slotOp 2 (.xtagq d a f) s fun s =>
    let g := s.tagOf (coreOf s.x) (tagField (s.sr a))
    .ok (s.later 2 1 (.s d.toNat (if f = 1 then (if g.live && g.df then g.faddr else 0) else g.word)))

/-- XPRED (R216): Reads predictor entries for up to 32 tokens. -/
def execXpred (t : BitVec 4) (d : BitVec 5) (a : BitVec 5) (b : BitVec 5) (k : BitVec 2) (s : State) : Host.Outcome State Fault Refusal :=
  slotOp 2 (.xpred t d a b k) s (predict t d a b (k.toNat + 1))

/-- XTRAIN (R217): Trains predictor entries with the true routes. -/
def execXtrain (t : BitVec 4) (a : BitVec 5) (b : BitVec 5) (s : State) : Host.Outcome State Fault Refusal :=
  slotOp 2 (.xtrain t a b) s (train t a b)

/-- XRES (R220): Resolves one expert's tentative rows into a commit accumulator. -/
def execXres (t : BitVec 4) (d : BitVec 5) (a : BitVec 5) (b : BitVec 5) (f : BitVec 3) (g : BitVec 3) (s : State) : Host.Outcome State Fault Refusal :=
  slotOp 2 (.xres t d a b f g) s (resolve t d a b f g)

/-- XMISS (R221): Lists true but unpredicted token-expert pairs. -/
def execXmiss (t : BitVec 4) (d : BitVec 5) (a : BitVec 5) (b : BitVec 5) (s : State) : Host.Outcome State Fault Refusal :=
  slotOp 2 (.xmiss t d a b) s (misses t d a b)

/-- XLOOK (R224): Looks up an expert key in the residency table and ages entries. -/
def execXlook (d : BitVec 5) (a : BitVec 5) (s : State) : Host.Outcome State Fault Refusal :=
  slotOp 2 (.xlook d a) s (lookup d a)

/-- XINS (R225): Inserts a residency entry. -/
def execXins (a : BitVec 5) (b : BitVec 5) (s : State) : Host.Outcome State Fault Refusal :=
  slotOp 2 (.xins a b) s (insertEntry a b)

/-- XINV (R225): Invalidates a residency entry. -/
def execXinv (a : BitVec 5) (s : State) : Host.Outcome State Fault Refusal :=
  slotOp 2 (.xinv a) s fun s => withEntry a (fun i =>
    trapIf (s.rdtAt (coreOf s.x) i).pin cResidencyIndex <|
    .ok (s.setRdt i { s.rdtAt (coreOf s.x) i with v := false, pin := false })) s

/-- XRDT (R225): Reads a residency entry word. -/
def execXrdt (d : BitVec 5) (a : BitVec 5) (s : State) : Host.Outcome State Fault Refusal :=
  slotOp 2 (.xrdt d a) s fun s => withEntry a (fun i => .ok (s.later 2 2 (.s d.toNat (s.rdtAt (coreOf s.x) i).word))) s

/-- XPIN (R225): Sets or clears a residency entry's PIN. -/
def execXpin (a : BitVec 5) (b : BitVec 5) (s : State) : Host.Outcome State Fault Refusal :=
  slotOp 2 (.xpin a b) s fun s => withEntry a (fun i =>
    trapIf (!(s.rdtAt (coreOf s.x) i).v) cResidencyIndex <|
    .ok (s.setRdt i { s.rdtAt (coreOf s.x) i with pin := (s.sr b).getLsbD 0 })) s

end Sys2Proof.Machine
end

