-- ==== Sys2Proof/Machine/Save.lean ====
section
/-! DEFINITION. Saving and restoring contexts, cores, clusters and streams (R151, R175, R204, R229, R264, R318 to R329).
Fields whose place R322 to R325 leave open stand where log 16 says. -/

namespace Sys2Proof.Machine

/-- Eight bytes of a number. -/
def w8 (n : Nat) : List Byte := leBytes 8 n

/-- A run of bytes with its offset in a block. -/
abbrev Run := Nat × List Byte

/-- `n` items of a fixed size, one after the other. -/
def runOf (off n : Nat) (f : Nat → List Byte) : Run := (off, (List.range n).flatMap f)

/-! ## Context blocks (R324) -/

/-- The number of a context state in a header (R113). -/
def CtxSt.code : CtxSt → Nat
  | .dormant => 0
  | .ready => 1
  | .selected => 2
  | .blocked => 3
  | .frozen => 4

/-- The state of a code; a selected context comes back ready (R328). -/
def CtxSt.of : Nat → CtxSt
  | 1 => .ready
  | 2 => .ready
  | 3 => .blocked
  | 4 => .frozen
  | _ => .dormant

/-- The word of a loop entry. -/
def LoopEnt.num (e : LoopEnt) : Nat := e.first + b2n e.carry * 2 ^ 15 + e.last * 2 ^ 16 + e.count * 2 ^ 32

/-- The loop entry of a word. -/
def LoopEnt.of (n : Nat) : LoopEnt :=
  { first := nfld n 0 13, last := nfld n 16 13, count := nfld n 32 32, carry := n.testBit 15 }

/-- The header of a context block. -/
def State.ctxHeader (s : State) (c : Ctx) : List Byte :=
  w8 c.st.code ++ w8 c.pc ++ w8 c.count ++ w8 c.modeWord.toNat ++ w8 c.flags.toNat ++ w8 (fel0Word c.fel).toNat ++
    w8 (fel1Word c.fel).toNat ++ w8 (b2n c.tagV * 256 + c.tag.toNat) ++ w8 c.child.toNat ++
    w8 (c.prio.toNat * 4 + c.stream.toNat) ++ w8 c.disc.toNat ++ w8 c.loops.length ++
    ((List.range 4).flatMap fun i => w8 ((c.loops[i]?).map LoopEnt.num |>.getD 0)) ++
    ((List.range 16).flatMap fun i => match c.tokens.find? (·.1 == i) with
      | some (_, t) => w8 (2 ^ 63 + b2n (t.waits.any s.pend.contains) * 2 ^ 62 + t.mask.toNat)
      | none => w8 0)

/-- The register file and number that a result writes, as a snapshot entry names them: R311's codes, then 8 special
registers, 9 result queues, 10 none. -/
def Dest.place : Dest → Nat × Nat
  | .s n _ => (0, n)
  | .v n _ => (1, n)
  | .p n _ => (2, n)
  | .h n _ => (3, n)
  | .td n _ _ => (4, n)
  | .xs n _ _ => (5, n)
  | .fm n _ => (6, n)
  | .vm n _ => (7, n)
  | .sreg n _ => (8, n)
  | .rq n _ => (9, n)
  | .none => (10, 0)

/-- The registers that an interlocked operation writes. -/
def LongDest.places : LongDest → List (Nat × Nat)
  | .s n _ => [(0, n)]
  | .v n _ => [(1, n)]
  | .sw n => [(0, n)]
  | .vm k => [(7, k)]
  | .vms k n => [(7, k), (0, n)]
  | .none => []

/-- The pending bits of register file `f`. -/
def Ctx.pendBits (c : Ctx) (f : Nat) : Nat :=
  let l := ((c.snaps.map fun n => n.dest.place) ++ c.longs.flatMap fun o => o.dest.places).filter (·.1 == f)
  ((l.map (·.2)).eraseDups.map (2 ^ ·)).sum

/-- The long load that register `n` of file `f` waits on, with its place among the context's. -/
def Ctx.loadOf (c : Ctx) (f n : Nat) : Option (LongOp × Nat) :=
  c.longs.zipIdx.find? fun o => o.1.isLoad && o.1.dest.places.contains (f, n)

/-- The size code of the load that fills a register. -/
def LongDest.size : LongDest → Nat
  | .s _ z => z
  | .v _ z => z
  | _ => 0

/-- Handle number and offset of the long load that a register waits on, with what issues it again (R151). -/
def Ctx.loadWords (c : Ctx) (f n : Nat) : List Byte :=
  match c.loadOf f n with
  | some (o, i) =>
    let acq := match o.kind with
      | .load (some sc) => 8 + sc
      | _ => 0
    w8 (2 ^ 63 + acq * 2 ^ 56 + min i 63 * 2 ^ 50 + o.bank % 2 * 2 ^ 48 + o.baddr % 2 ^ 16 * 2 ^ 32 + o.cls * 2 ^ 24 +
      o.dest.size * 2 ^ 16 + o.handle) ++ w8 o.off
  | none => w8 0 ++ w8 0

/-- The registers that wait on a long load, of the 32 scalars and the 32 vectors, with the load. -/
def Ctx.loadRegs (c : Ctx) : List (Nat × LongOp) :=
  (List.range 64).filterMap fun i => (c.loadOf (i / 32) (i % 32)).map fun o => (i, o.1)

/-- The offset in its page of each lane of a vector load. -/
def LongOp.laneOffs (o : LongOp) : List Byte :=
  (List.range 128).flatMap fun l => match o.parts.find? (·.lane == l) with
    | some p => w8 (2 ^ 63 + (p.va.toNat - o.page.va))
    | none => w8 0

/-- What of a context stands in spare bytes of its block: the issue count and K block of the logged event, how it was
started, why it is frozen, and the number of its start. -/
def Ctx.spare (c : Ctx) : List Nat :=
  wrOpt (fun (e : LogEv) => [e.count, e.kblock]) c.fel ++ wrOpt Origin.nums c.origin ++
  (match c.why with
    | none => [0, 0, 0, 0, 0]
    | some (.trap k f) => [1, k, f.toNat, 0, 0]
    | some (.miss e va slot bank) => [2, e, va, slot, bank]
    | some .missWait => [3, 0, 0, 0, 0]) ++ [c.life]

/-- A handle in 32 bytes: its word, its VA and its base. -/
def Handle.block (h : Handle) : List Byte := w8 h.info.toNat ++ w8 h.va ++ w8 h.frame ++ w8 0

/-- What of long loads stands in spare bytes: the handle of each as it was at issue, and the lane offsets of a vector load. -/
def Ctx.loadRuns (c : Ctx) : List Run :=
  c.loadRegs.flatMap fun q => (0x59000 + 32 * q.1, q.2.page.block) ::
    (if q.1 < 32 then [] else [(0x60000 + 1024 * (q.1 - 32), q.2.laneOffs)])

/-- What else is in flight of a context, in spare bytes behind their count. -/
def Ctx.flightBytes (c : Ctx) : List Byte :=
  let l := numsBytes c.flight
  w8 l.length ++ l

/-- Valid bits and value bytes of a result. -/
def Dest.value : Dest → Nat × List Byte
  | .s _ q => (1, w8 q.toNat)
  | .sreg _ q => (1, w8 q.toNat)
  | .v _ ws => (((ws.zipIdx.filter fun e => e.1.1 != 0).map fun e => 2 ^ e.2).sum, ws.flatMap fun e => w8 (e.1 &&& e.2).toNat)
  | .p _ q => (1, leBytes 16 q.toNat)
  | .h _ q => (1, q.block)
  | .td _ m q => ((((List.range 32).filter fun i => nfld m.toNat (8 * i) 8 != 0).map (2 ^ ·)).sum, leBytes 32 (m &&& q).toNat)
  | .xs _ lo l => (2 ^ lo * (2 ^ l.length - 1), List.replicate (4 * lo) 0 ++ l.flatMap fun e => leBytes 4 e.toNat)
  | .fm _ q => (1, leBytes 4 q.toNat)
  | .vm _ q => (1, leBytes 32 q.toNat)
  | .rq .. => (0, [])
  | .none => (0, [])

/-- The words of a queue entry: 1,024 data bytes and 16 of valid bits. -/
def VEntry.block (e : VEntry) : List Byte := ((List.range 128).flatMap fun l => w8 (e.data.getD l 0).toNat) ++ leBytes 16 e.valid.toNat

/-- The events and the log candidate of a result. -/
def Snap.events (n : Snap) : Nat :=
  n.flags.toNat + match n.ev with
    | some e => 2 ^ 63 + e.kind * 2 ^ 56 + e.row * 2 ^ 32 + e.lane * 2 ^ 16 + e.elem * 2 ^ 8
    | none => 0

/-- What of a result stands in the spare bytes of its entry: where it was issued, the lane bits that it writes, and its
event and trap in full. -/
def Snap.spare (n : Snap) : List Nat :=
  [n.issued, n.slot, n.baddr, n.bank,
    match n.dest with
    | .v _ ws => ((ws.find? fun e => e.1 != 0).map (·.1.toNat)).getD 0
    | _ => 0] ++
  wrOpt (fun (e : LogEv) => [e.count, e.slot, e.kblock, e.row, e.lane, e.elem, e.kind, e.baddr, e.bank]) n.ev ++
  wrOpt (fun (t : Nat × Word) => [t.1, t.2.toNat]) n.trap

/-- The entries of a snapshot register: a drain has one for each queue entry (R197). -/
def Snap.blocks (n : Snap) (count : Nat) : List (List Byte) :=
  let head := w8 (2 ^ 63 + n.dest.place.1 * 2 ^ 56 + n.dest.place.2 * 2 ^ 48 + (n.due - count) * 2 ^ 16) ++ w8 n.events
  let full := fun (valid : Nat) (v : List Byte) =>
    head ++ leBytes 16 valid ++ v ++ List.replicate (1024 - v.length) 0 ++ numsBytes n.spare
  match n.dest with
  | .rq _ l => l.map fun e => full e.valid.toNat ((List.range 128).flatMap fun i => w8 (e.data.getD i 0).toNat)
  | d => [full d.value.1 d.value.2]

/-- The block of context `x`, whose state is `c` (R324). -/
def State.ctxRuns (s : State) (x : Nat) (c : Ctx) : List Run :=
  let snaps := c.snaps.flatMap fun n => n.blocks c.count
  [(0x0, s.ctxHeader c),
   runOf 0x100 32 fun r => w8 (c.sreg r).toNat,
   runOf 0x200 8 fun f => w8 (c.pendBits f),
   runOf 0x240 32 fun r => c.loadWords 0 r,
   runOf 0x440 32 fun r => c.loadWords 1 r,
   (0x640, numsBytes c.spare),
   runOf 0x1000 8 fun r => leBytes 16 (c.preg r).toNat,
   runOf 0x1100 4 fun r => leBytes 4 (c.fmreg r).toNat,
   runOf 0x1200 8 fun r => leBytes 32 (c.vmreg r).toNat,
   runOf 0x1400 16 fun r => (c.hreg r).block,
   runOf 0x1800 16 fun r => leBytes 32 (c.tdreg r).toNat,
   runOf 0x2000 8 fun r => (List.range 64).flatMap fun j => leBytes 4 (c.xsel r j).toNat,
   runOf 0x8000 32 fun r => (List.range 128).flatMap fun l => w8 (c.lane r l).toNat,
   (0x5A000, c.flightBytes)] ++ c.loadRuns ++
  (snaps.zipIdx.map fun e => (0x10000 + 0x480 * e.2, e.1)) ++
  (((List.range 256).drop snaps.length).map fun i => (0x10000 + 0x480 * i, w8 0)) ++
  [runOf 0x58000 16 fun i => match c.regions.find? (·.1 == i) with
    | some (_, (a, n)) => w8 (a - sramPa (cluOf x) 0 + n * 2 ^ 32)
    | none => w8 0]

/-- What a restore reads of a context block: offsets and lengths. -/
def ctxParts : List (Nat × Nat) :=
  [(0, 0x1000), (0x1000, 0x80), (0x1100, 16), (0x1200, 0x100), (0x1400, 0x200), (0x1800, 0x200), (0x2000, 0x800),
   (0x8000, 0x50080), (0x59000, 0x800), (0x5A000, 0x6000), (0x60000, 0x8000)]

/-- A handle walked again: valid only if the walk reaches an entry of the same GEN (R149). -/
def State.rewalk (s : State) (d : Nat) (w : Bool) (info va : Nat) : Handle :=
  if info.testBit 63 then
    match s.pageWalk d w va with
    | .page h => if h.gen.toNat = nfld info 40 14 then h else {}
    | .fault _ => {}
  else {}

/-- The event, trap and place of issue that the spare bytes of a snapshot entry hold: issue count, slot, bundle address,
bank, lane bits, event and trap. -/
def rdSpare : Rd ((Nat × Nat × Nat × Nat × Nat) × Option LogEv × Option (Nat × Word)) := do
  let at_ := (← rdNat, ← rdNat, ← rdNat, ← rdNat, ← rdNat)
  let ev ← rdOpt do
    return { count := ← rdNat, slot := ← rdNat, kblock := ← rdNat, row := ← rdNat, lane := ← rdNat, elem := ← rdNat,
             kind := ← rdNat, baddr := ← rdNat, bank := ← rdNat }
  return (at_, ev, ← rdOpt (rdPair rdNat (rdBv 64)))

/-- The result that the snapshot entry at `o` of a block gives: `rd off n` is the number in `n` bytes of the block. -/
def State.snapFrom (s : State) (d : Nat) (w : Bool) (count : Nat) (rd : Nat → Nat → Nat) (o : Nat) : Option Snap :=
  let e := rd o 8
  if !e.testBit 63 then none
  else
    let n := nfld e 48 8
    let valid := rd (o + 16) 16
    let val := fun (i k : Nat) => rd (o + 32 + i) k
    let (((issued, slot, baddr, bank, mask), ev, trap), _) := rdSpare (numsOf 32 (leBytes 96 (rd (o + 1056) 96)))
    let word := BitVec.ofNat 64 (val 0 8)
    let dest : Dest := match nfld e 56 6 with
      | 0 => .s n word
      | 1 => .v n (tab 128 fun l => if valid.testBit l then (BitVec.ofNat 64 mask, BitVec.ofNat 64 (val (8 * l) 8)) else (0, 0))
      | 2 => .p n (BitVec.ofNat 128 (val 0 16))
      | 3 => .h n (s.rewalk d w (val 0 8) (val 8 8))
      | 4 => .td n (BitVec.ofNat 256 (((List.range 32).filter valid.testBit).map fun i => 255 * 2 ^ (8 * i)).sum)
          (BitVec.ofNat 256 (val 0 32))
      | 5 =>
        let l := (List.range 64).filter valid.testBit
        .xs n (l.headD 0) (l.map fun j => BitVec.ofNat 32 (val (4 * j) 4))
      | 6 => .fm n (BitVec.ofNat 32 (val 0 4))
      | 7 => .vm n (BitVec.ofNat 256 (val 0 32))
      | 8 => .sreg n word
      | 9 => .rq n [{ data := tab 128 fun l => BitVec.ofNat 64 (val (8 * l) 8), valid := BitVec.ofNat 128 valid }]
      | _ => .none
    some { due := count + nfld e 16 16, issued := issued, slot := slot, baddr := baddr, bank := bank, dest := dest,
           flags := BitVec.ofNat 7 (rd (o + 8) 8), ev := ev, trap := trap }

/-- The spare bytes of a block read: issue count and K block of the logged event, origin, cause of a freeze, number of the
start. -/
def rdCtx : Rd (Option (Nat × Nat) × Option Origin × Option Freeze × Nat) := do
  let fel ← rdOpt (rdPair rdNat rdNat)
  let origin ← rdOpt rdOrigin
  let k ← rdNat
  let (a, b, c, d) := (← rdNat, ← rdNat, ← rdNat, ← rdNat)
  let why := match k with
    | 1 => some (.trap a (BitVec.ofNat 64 b))
    | 2 => some (.miss a b c d)
    | 3 => some .missWait
    | _ => none
  return (fel, origin, why, ← rdNat)

/-- The logged event of FEL0, FEL1, issue count and K block (R48). -/
def felOf (a b : Nat) (q : Nat × Nat) : Option LogEv :=
  if a.testBit 63 then
    some { count := q.1, kblock := q.2, bank := nfld a 18 1, slot := nfld a 16 2, baddr := nfld a 0 16, row := nfld b 19 45,
           lane := nfld b 12 7, elem := nfld b 9 3, kind := nfld b 0 9 }
  else none

/-- The long loads of a block, the oldest first: each with its pieces, its acquire scope, and the word and VA of its handle
(R151). -/
def loadsFrom (c : Ctx) (rd : Nat → Nat → Nat) : List (LongOp × List Piece × Option Nat × Nat × Nat) :=
  let l := (List.range 64).filterMap fun i =>
    let (f, n) := (i / 32, i % 32)
    let w := rd (0x240 + 0x200 * f + 16 * n) 8
    if !w.testBit 63 then none
    else
      let z := nfld w 16 8
      let acq := if w.testBit 59 then some (nfld w 56 3) else none
      let ps : List Piece := if f = 0 then [{ off := rd (0x248 + 16 * n) 8, len := szBytes z }]
        else (List.range 128).filterMap fun l =>
          let v := rd (0x60000 + 1024 * n + 8 * l) 8
          if v.testBit 63 then some { off := v % 2 ^ 63, len := szBytes z, lane := l } else none
      some (nfld w 50 6, ({ id := 0, issued := c.count, slot := 3, baddr := nfld w 32 16, bank := nfld w 48 1, cls := nfld w 24 8,
                            kind := .load acq, dest := if f = 0 then .s n z else .v n z, handle := nfld w 0 4,
                            secure := c.world }, ps, acq, rd (0x59000 + 32 * i) 8, rd (0x59008 + 32 * i) 8))
  (sortBy Prod.fst l).map (·.2)

/-- What is in flight of a context beside its loads, as its block gives it. -/
def flightFrom (rd : Nat → Nat → Nat) : Ctx :=
  let n := min (rd 0x5A000 8) 0x5FF8
  (rdFlight (numsOf n (leBytes n (rd 0x5A008 n)))).1

/-- A context as its block gives it; `base` holds what of its accesses is still in flight (log 16). -/
def State.ctxFrom (s : State) (x : Nat) (base : Ctx) (rd : Nat → Nat → Nat) : Ctx :=
  let mode := rd 0x18 8
  let count := rd 0x10 8
  let world := mode.testBit 3
  let ((fel, origin, why, life), _) := rdCtx (numsOf 64 (leBytes 0x9C0 (rd 0x640 0x9C0)))
  { base with
    st := CtxSt.of (rd 0 8)
    pc := nfld (rd 0x8 8) 0 16
    count := count
    rm := BitVec.ofNat 2 mode
    pchk := mode.testBit 2
    world := world
    priv := mode.testBit 4
    flags := BitVec.ofNat 7 (rd 0x20 8)
    fel := felOf (rd 0x28 8) (rd 0x30 8) (fel.getD (0, 0))
    tagV := (rd 0x38 8).testBit 8
    tag := BitVec.ofNat 8 (rd 0x38 8)
    child := BitVec.ofNat 32 (rd 0x40 8)
    stream := BitVec.ofNat 2 (rd 0x48 8)
    prio := BitVec.ofNat 2 (rd 0x48 8 / 4)
    disc := BitVec.ofNat 16 (rd 0x50 8)
    loops := tab (min 4 (rd 0x58 8 % 8)) fun i => LoopEnt.of (rd (0x60 + 8 * i) 8)
    tokens := (List.range 16).filterMap fun i =>
      let t := rd (0x80 + 8 * i) 8
      if t.testBit 63 then
        some (i, { mask := BitVec.ofNat 16 t, waits := if t.testBit 62 then ((base.tokens.find? (·.1 == i)).map (·.2.waits)).getD [] else [] })
      else none
    s := tab 32 fun r => (r, BitVec.ofNat 64 (rd (0x100 + 8 * r) 8))
    p := tab 8 fun r => (r, BitVec.ofNat 128 (rd (0x1000 + 16 * r) 16))
    fm := tab 4 fun r => (r, BitVec.ofNat 32 (rd (0x1100 + 4 * r) 4))
    vm := tab 8 fun r => (r, BitVec.ofNat 256 (rd (0x1200 + 32 * r) 32))
    h := tab 16 fun r => (r, s.rewalk (dieOf x) world (rd (0x1400 + 32 * r) 8) (rd (0x1408 + 32 * r) 8))
    td := tab 16 fun r => (r, BitVec.ofNat 256 (rd (0x1800 + 32 * r) 32))
    xs := tab 8 fun r => (r, tab 64 fun j => BitVec.ofNat 32 (rd (0x2000 + 256 * r + 4 * j) 4))
    v := tab 32 fun r => (r, tab 128 fun l => BitVec.ofNat 64 (rd (0x8000 + 1024 * r + 8 * l) 8))
    snaps := (List.range 256).filterMap fun i => s.snapFrom (dieOf x) world count rd (0x10000 + 0x480 * i)
    regions := (List.range 16).filterMap fun i =>
      let w := rd (0x58000 + 8 * i) 8
      if nfld w 32 22 = 0 then Option.none else some (i, (sramPa (cluOf x) (nfld w 0 22), nfld w 32 22))
    longs := base.longs.filter fun o => !o.isLoad && (o.num == 0 || s.pend.contains o.num || o.logged.isSome)
    origin := origin
    why := why
    life := life
    watch := none }

/-! ## Blocks in memory -/

/-- Runs of bytes written into a block at a virtual address, up to the first that faults: the VA of the fault. -/
def State.putRuns (s : State) (d : Nat) (w : Bool) (va : Nat) : List Run → State × Option Nat
  | [] => (s, none)
  | (o, l) :: t =>
    match s.unitFail d w [(va + o, l.length)] true with
    | some (_, f) => (s, some f.toNat)
    | none => (((s.countTouch d w [(va + o, l.length)] true).xwrite d w (va + o) l).1).putRuns d w va t

/-- The VA at which parts of a block cannot be read. -/
def State.partsFail (s : State) (d : Nat) (w : Bool) (va : Nat) (l : List (Nat × Nat)) : Option Nat :=
  (s.unitFail d w (l.map fun p => (va + p.1, p.2)) false).map fun f => f.2.toNat

/-- The number in `n` bytes at an offset of a readable block. -/
def State.blockNum (s : State) (d : Nat) (w : Bool) (va off n : Nat) : Nat :=
  match s.xfetch d w (va + off) n with
  | .inl l => leVal l
  | .inr _ => 0

/-! ## Long loads of a restored context (R151) -/

/-- A long load issued again through the handle that it was issued through, walked again, under a new access number; one whose
handle comes back invalid traps. -/
def State.reload (s : State) (x : Nat) (q : LongOp × List Piece × Option Nat × Nat × Nat) : State :=
  let (o, ps, acq, info, va) := q
  let h := s.rewalk (dieOf x) (s.ctx x).world info va
  if h.valid then s.loadStart x (ownSram (cluOf x) h ps) h ps acq o
  else
    let o := { o with id := (s.ctx x).nextLong, off := ((ps.head?.map Piece.off).getD 0).toNat }
    (s.modCtx x fun c => { c with longs := c.longs ++ [o], nextLong := c.nextLong + 1 }).longTrap x o cHandleInvalid 0

/-- Long loads of a restored context are issued again (R151). -/
def State.relong (s : State) (x : Nat) (l : List (LongOp × List Piece × Option Nat × Nat × Nat)) : State :=
  l.foldl (fun (s : State) q => s.reload x q) s

/-- A `flwait` that a restored context is blocked in waits at the flag port again (R113, R283). -/
def State.rewatch (s : State) (x : Nat) : State :=
  let pc := (s.ctx x).pc
  if (s.ctx x).st = .blocked ∧ pc ≤ 0x11FF then
    let l := slotsOf (s.bundleAt (coreOf x) pc)
    { State.armWatch { s with iss := { x := x, hdr := headerOf l } } ((instrs l).map Prod.snd) with iss := s.iss }
  else s

/-- A restored context whose walk is no longer in flight presents its bundle again. -/
def State.rewait (s : State) (x : Nat) : State :=
  match (s.ctx x).why with
  | some (.miss e _ _ _) =>
    if (s.die (dieOf x)).tu.any fun t => t.1 == e && t.2.waiters.contains (.ctx x) then s else s.thaw x
  | some .missWait => s.thaw x
  | _ => s

/-! ## `sys.save` and `sys.rest` (R175) -/

/-- `sys.save`. -/
def sysSave (a b : Word) (s : State) : Res :=
  let x := 4 * coreOf s.x + wfld a 0 2
  let c := s.ctx x
  let va := wfld b 0 58
  let d := dieOf s.x
  let w := s.me.world
  if x = s.x ∨ (c.st ≠ .dormant ∧ c.st ≠ .frozen) then .trap cContextExhausted 0
  else match s.putRuns d w va (s.ctxRuns x c) with
    | (_, some f) => .trap cSaveAreaFault (BitVec.ofNat 64 f)
    | (t, none) => .ok t

/-- `sys.rest`. -/
def sysRest (a b : Word) (s : State) : Res :=
  let x := 4 * coreOf s.x + wfld a 0 2
  let c := s.ctx x
  let va := wfld b 0 58
  let d := dieOf s.x
  let w := s.me.world
  if x = s.x ∨ (c.st ≠ .dormant ∧ c.st ≠ .frozen) then .trap cContextExhausted 0
  else match s.partsFail d w va ctxParts with
    | some f => .trap cSaveAreaFault (BitVec.ofNat 64 f)
    | none =>
      let rd := s.blockNum d w va
      let base := flightFrom rd
      let e := s.ctxFrom x base rd
      let l := loadsFrom e rd
      let s := (s.countTouch d w (ctxParts.map fun p => (va + p.1, p.2)) false).unwait x
      let s := { s with pend := s.pend.filter fun i => !c.longs.any fun o => o.num == i && o.isLoad }
      let s := s.modCtx x fun _ => { e with nextLong := max c.nextLong base.nextLong, held := false }
      .ok ((s.relong x l).rewait x)

/-! ## Core blocks (R323) -/

/-- A queue: its count, then its entries, oldest first. -/
def queueBlock (l : List VEntry) : List Byte := w8 l.length ++ l.flatMap VEntry.block

/-- The core-wide state of core `c` as runs in its block; `valid` are the contexts whose blocks it holds. -/
def State.coreRuns (s : State) (c : Nat) (valid : List Nat) : List Run :=
  let k := s.core c
  let bs := fun (n : Nat) => spGet ({} : Staging) k.bs n
  let cq := fun (n : Nat) => spGet ({} : CopyQ) k.cq n
  let bind := fun (n : Nat) => match k.bind.find? (·.1 == n) with
    | some (_, b) => w8 (2 ^ 63 + b.tq * 64 + b.tcid)
    | none => w8 0
  [runOf 0x200000 16 fun t => (List.range 2048).flatMap fun e => leBytes 4 ((s.acc c t).data.getD e 0).toNat,
   runOf 0x220000 16 fun t => w8 ((s.acc c t).kind * 2 ^ 16 + b2n (s.acc c t).tv * 256 + (s.acc c t).tag.toNat),
   runOf 0x221000 2 fun n => leBytes 4096 (packNum (bs n).bits (bs n).elems),
   runOf 0x223000 2 fun n => leBytes 4 (bs n).fmt ++ leBytes 4 (bs n).rows ++ leBytes 4 (bs n).cols ++ leBytes 4 (b2n (bs n).scaled)] ++
  (tab 4 fun q => (0x230000 + 0x9000 * q, queueBlock (spGet [] k.rq q))) ++
  (tab 8 fun q => (0x260000 + 0x4800 * q, queueBlock (spGet [] k.sendQ q))) ++
  (tab 8 fun q => (0x262400 + 0x4800 * q, queueBlock (spGet [] k.recvQ q))) ++
  [runOf 0x290000 512 fun a => leBytes 16 (spGet 0 k.ipad a),
   runOf 0x292000 4096 fun i => leBytes 16 (spGet 0 k.ipad (0x2200 + i)),
   runOf 0x2A2000 4096 fun i => leBytes 16 (spGet 0 k.ipad (0x4200 + i)),
   runOf 0x2C0000 128 fun n => tab 128 fun l => (spGet [] k.pats n).getD l 0,
   runOf 0x2C4000 256 fun n =>
     let t := spGet ({} : Tag) k.tags n
     w8 t.word.toNat ++ w8 t.faddr.toNat ++ w8 t.cause ++ w8 t.infl,
   runOf 0x2C6000 1024 fun n => w8 (packNum 16 ((spGet [] k.pred n).map fun e => e.1 % 1024 + e.2 * 1024)),
   runOf 0x2C8000 32 fun n => w8 (spGet ({} : RdtEnt) k.rdt n).word.toNat,
   (0x2C9000, w8 k.ibank ++ w8 k.patBank ++
     leBytes 16 (((List.range 128).filter k.patOk.contains).map (2 ^ ·)).sum ++
     ((List.range 4).flatMap fun n => w8 (cq n).tl) ++ ((List.range 4).flatMap fun n => w8 (cq n).next) ++
     bind 6 ++ bind 7 ++ w8 (valid.map (2 ^ ·)).sum)]

/-- What a restore reads of a core block beside its context blocks. -/
def coreParts : List (Nat × Nat) :=
  [(0x200000, 0x23020), (0x230000, 0x24000), (0x260000, 0x24000), (0x290000, 0x22000), (0x2C0000, 0x9000), (0x2C9000, 0x78)]

/-- The entries of a queue in a block. -/
def queueFrom (rd : Nat → Nat → Nat) (off cap : Nat) : List VEntry :=
  tab (min cap (rd off 8)) fun i =>
    let o := off + 8 + 1040 * i
    { data := tab 128 fun l => BitVec.ofNat 64 (rd (o + 8 * l) 8), valid := BitVec.ofNat 128 (rd (o + 1024) 16) }

/-- The core-wide state of a block over core `k`; the copy queues run on, and keep their numbers. -/
def Core.from (k : Core) (rd : Nat → Nat → Nat) : Core :=
  let bit := fun (w i : Nat) => w.testBit i
  { k with
    acc := tab 16 fun t =>
      let w := rd (0x220000 + 8 * t) 8
      (t, { data := tab 2048 fun e => BitVec.ofNat 32 (rd (0x200000 + 8192 * t + 4 * e) 4), kind := b2n (bit w 16),
            tv := bit w 8, tag := BitVec.ofNat 8 w })
    bs := tab 2 fun n =>
      let o := 0x223000 + 16 * n
      let fmt := rd o 4
      let (rows, cols) := (rd (o + 4) 4, rd (o + 8) 4)
      let all := rd (0x221000 + 4096 * n) 4096
      let g : Staging := { fmt := fmt, rows := rows, cols := cols, scaled := bit (rd (o + 12) 4) 0 }
      (n, { g with elems := tab (if fmt = 0 then 4096 else rows * cols) fun e => nfld all (g.bits * e) g.bits })
    rq := tab 4 fun q => (q, queueFrom rd (0x230000 + 0x9000 * q) 32)
    sendQ := tab 8 fun q => (q, queueFrom rd (0x260000 + 0x4800 * q) 8)
    recvQ := tab 8 fun q => (q, queueFrom rd (0x262400 + 0x4800 * q) 8)
    ipad := (tab 512 fun a => (a, rd (0x290000 + 16 * a) 16)) ++ (tab 4096 fun i => (0x2200 + i, rd (0x292000 + 16 * i) 16)) ++
      tab 4096 fun i => (0x4200 + i, rd (0x2A2000 + 16 * i) 16)
    pats := tab 128 fun n => (n, tab 128 fun l => BitVec.ofNat 8 (rd (0x2C0000 + 128 * n + l) 1))
    patOk := (List.range 128).filter fun n => bit (rd 0x2C9010 16) n
    tags := tab 256 fun n =>
      let o := 0x2C4000 + 32 * n
      let w := rd o 8
      (n, { live := bit w 63, df := bit w 62, count := nfld w 48 8, faddr := BitVec.ofNat 64 (rd (o + 8) 8),
            cause := rd (o + 16) 8, infl := rd (o + 24) 8 })
    pred := tab 1024 fun n => (n, tab 4 fun q => (nfld (rd (0x2C6000 + 8 * n) 8) (16 * q) 10, nfld (rd (0x2C6000 + 8 * n) 8) (16 * q + 10) 3))
    rdt := tab 32 fun n =>
      let w := rd (0x2C8000 + 8 * n) 8
      (n, { v := bit w 63, pin := bit w 62, age := nfld w 54 8, slot := nfld w 48 6, tag := BitVec.ofNat 32 w })
    ibank := rd 0x2C9000 8 % 2
    patBank := rd 0x2C9008 8 % 2
    bind := [6, 7].filterMap fun q =>
      let w := rd (0x2C9060 + 8 * (q - 6)) 8
      if bit w 63 then some (q, { tq := nfld w 6 3, tcid := nfld w 0 6 }) else Option.none
    olds := []
    landed := [] }

/-! ## What a save takes (R318, R320, R325) -/

/-- Core `c` holds a started context of stream `k`. -/
def State.runsStr (s : State) (c k : Nat) : Bool :=
  (List.range 4).any fun i => (s.ctx (4 * c + i)).st != .dormant && (s.ctx (4 * c + i)).stream.toNat == k

/-- The cores of panel `p` whose core-wide state belongs to stream `k` (R318). -/
def State.coresOf (s : State) (p k : Nat) : List Nat :=
  (List.range 4096).map (4096 * p + ·) |>.filter fun c => s.runsStr c k || (s.core c).owner == some (BitVec.ofNat 2 k)

/-- The contexts of core `c` that are work of stream `k`. -/
def State.ctxsOf (s : State) (c k : Nat) : List Nat :=
  (List.range 4).filter fun i => (s.ctx (4 * c + i)).stream.toNat == k && (s.ctx (4 * c + i)).origin.isSome

/-- What a save of core `c` waits for is over (R204). -/
def State.coreStill (s : State) (c : Nat) : Bool :=
  let k := s.core c
  k.accq.isEmpty && k.bs.all (fun b => !b.2.busy) && decide (k.grindUntil ≤ s.now) &&
    (List.range 4).all fun i => (s.ctx (4 * c + i)).longs.all fun o => match o.kind with
      | .scan _ _ => false
      | _ => true

/-- The clusters of die `d` in which the stream has an allocation. -/
def State.clusOf (s : State) (d k : Nat) : List Nat := (List.range 8).filter fun i => 0 < (s.window (8 * d + i) k).2

/-- The 64-byte blocks of a window, by offset, outside the discardable regions `l`. -/
def windowBlocks (u : Nat) (win : Nat × Nat) (l : List (Nat × Nat)) : List Nat :=
  ((List.range (win.2 / 64)).map fun i => win.1 + 64 * i).filter fun o =>
    !l.any fun r => r.1 ≤ sramPa u o && sramPa u o < r.1 + r.2

/-- The discardable regions of the started contexts of stream `k` on die `d`. -/
def State.discards (s : State) (d k : Nat) : List (Nat × Nat) :=
  (List.range 256).flatMap fun i =>
    let c := s.ctx (256 * d + i)
    if c.st != .dormant && c.stream.toNat == k then c.regions.map (·.2) else []

/-- The header of die `d`'s block (R322). -/
def State.dieHeader (s : State) (p k d : Nat) : List Byte :=
  let t := s.strm p k
  let cores := ((s.coresOf p k).filter fun c => c / 64 == d).map fun c => 2 ^ (c % 64)
  w8 0x5A56534156450001 ++ leBytes 1 0x10 ++ leBytes 1 0xA1 ++ leBytes 1 k ++
    leBytes 1 (b2n t.hard + 2 * b2n t.esc + 4 * b2n (s.strWorld p k)) ++ leBytes 12 0 ++
    w8 (t.savedAt - (s.die d).clk0) ++ w8 cores.sum ++ leBytes 1 ((s.clusOf d k).map (2 ^ ·)).sum ++ leBytes 1 t.back ++
    List.replicate 4054 0

/-- The stream record (R321): zero but on the conductor die. -/
def State.strRecord (s : State) (p k d : Nat) : List Byte :=
  if d = s.conductor p then
    let l := ([0x00, 0x08, 0x10, 0x18, 0x20, 0x28, 0x30] : List Nat).flatMap fun o => w8 (s.str p k o).toNat
    let l := l ++ ((List.range 8).flatMap fun i => w8 (s.strDm p k i).toNat) ++ w8 (s.str p k 0x80).toNat ++ w8 (s.strm p k).stagger
    l ++ List.replicate (4096 - l.length) 0
  else List.replicate 4096 0

/-- A word of stream `k` that the save takes from its unit; a collective that has started runs on at its die. -/
def HWord.taken (h : HWord) (k : Nat) : Bool := h.stream.toNat == k && !(h.op == 0x0C && h.open_ && !h.ended)

/-- The units of panel `p` that hold words. -/
def State.unitsOf (s : State) (p : Nat) : List UnitId :=
  (s.dies.filter fun q => q.1 / 64 == p).map (fun q => UnitId.die q.1) ++
    (s.clus.filter fun q => q.1 / 512 == p).map (fun q => UnitId.clu q.1) ++
    (s.cores.filter fun q => q.1 / 4096 == p).map fun q => UnitId.core q.1

/-- A waiting start of stream `k` that the save takes. -/
def Waiting.taken (w : Waiting) (k : Nat) : Bool := w.req.stream.toNat == k && w.req.origin != .trapHandler

/-- What the sequencers and tile units of die `d` hold of stream `k` (R320, R321). -/
def State.seqImage (s : State) (p k d : Nat) : SeqImage :=
  let words := ((s.unitsOf p).filter fun u => s.unitDie u == d).flatMap fun u =>
    ((s.words u).filter (·.taken k)).map fun h => (u, h)
  let mine := fun (n : Nat) => words.any fun q => q.2.num == n
  let cores := s.cores.filter fun q => q.1 / 64 == d
  { words := words
    starts := cores.flatMap fun q => (q.2.starts.filter (·.taken k)).map fun w => (q.1, w)
    ends := cores.flatMap fun q => (q.2.ends.filter fun e => mine e.word).map fun e => (q.1, e)
    sends := cores.flatMap fun q => (q.2.sends.filter fun h => h.stream.toNat == k).map fun h => (q.1, h) }

/-- Everything that a save writes into die `d`'s block (R321). -/
def State.dieRuns (s : State) (p k d : Nat) : List Run :=
  let shift := fun (o : Nat) (l : List Run) => l.map fun r => (r.1 + o, r.2)
  let cores := (s.coresOf p k).filter fun c => c / 64 == d
  (cores.flatMap fun c =>
    let at_ := 0x1000000 + c % 64 * 0x400000
    ((s.ctxsOf c k).flatMap fun i => shift (at_ + i * 0x80000) (s.ctxRuns (4 * c + i) (s.ctx (4 * c + i)))) ++
      shift at_ (s.coreRuns c (s.ctxsOf c k))) ++
  ((s.clusOf d k).flatMap fun i =>
    (windowBlocks (8 * d + i) (s.window (8 * d + i) k) (s.discards d k)).map fun o =>
      (0x11000000 + i * 0x400000 + o, tab 64 fun j => s.raw (sramPa (8 * d + i) (o + j)))) ++
  [(0x100000, (s.seqImage p k d).bytes), (0xA000, s.strRecord p k d), (0, s.dieHeader p k d)]

/-- The blocks of every die written, up to the first fault. -/
def State.putDies (s : State) (p k : Nat) : List Nat → State × Option Nat
  | [] => (s, none)
  | d :: t =>
    match s.putRuns d (s.strWorld p k) (s.saveBlock p k (d % 64)) (s.dieRuns p k d) with
    | (s, some f) => (s, some f)
    | (s, none) => s.putDies p k t

/-- The write-combining buffers of the clusters whose images are stored are flushed (R293, R320). -/
def State.flushAll (s : State) (p k : Nat) : State :=
  (s.panelDies p).foldl (fun (s : State) d => (s.clusOf d k).foldl (fun (s : State) i =>
    (s.clu (8 * d + i)).wcb.foldl (fun (s : State) w => s.flushWcb (8 * d + i) w) s) s) s

/-! ## The state leaves the units (R320, R321, R326) -/

/-- A context whose state the save holds: the slot is dormant, and its loads are given up. -/
def State.takeCtx (s : State) (p k x : Nat) : State :=
  let c := s.ctx x
  let s := s.modStrm p k fun t => { t with vctx := spPut x c t.vctx }
  let s := { s with pend := s.pend.filter fun i => !c.longs.any fun o => o.num == i && o.isLoad }
  let s := if (s.core (coreOf x)).sel = some (x % 4) then s.leaveStage x false else s
  (s.modCtx x fun c => { c with st := .dormant, snaps := [], longs := [], why := none, watch := none, shoot := none,
                                held := false, origin := none, regions := [], tokens := [] }).modDie (dieOf x) fun d =>
    { d with tu := d.tu.map fun (t : Nat × TuEnt) =>
        (t.1, { t.2 with waiters := t.2.waiters.map fun q => if q = .ctx x then .saved k x else q }) }

/-- A core whose state the save holds: its queues and tags are empty until another start fills them (log 16). -/
def State.takeCore (s : State) (p k c : Nat) : State :=
  let s := (s.ctxsOf c k).foldl (fun (s : State) i => s.takeCtx p k (4 * c + i)) s
  let s := s.modStrm p k fun t => { t with vcore := spPut c { tags := (s.core c).tags } t.vcore }
  s.modCore c fun e => { e with rq := [], sendQ := [], recvQ := [], tags := [], saved := e.saved ++ [k] }

/-- The words of stream `k` leave their units with what waits around them; what a save has written of them is in the SEQ
regions (R320). -/
def State.takeWords (s : State) (p k : Nat) : State :=
  let l : List (UnitId × HWord) := (s.unitsOf p).flatMap fun u => ((s.words u).filter (·.taken k)).map fun h => (u, h)
  let mine := fun (n : Nat) => l.any fun q => q.2.num == n
  let cores := s.cores.filter fun q => q.1 / 4096 == p
  let s := cores.foldl (fun (s : State) q => s.modCore q.1 fun e =>
    { e with starts := e.starts.filter fun w => !w.taken k, ends := e.ends.filter fun v => !mine v.word,
             sends := e.sends.filter fun h => h.stream.toNat != k }) s
  l.foldl (fun (s : State) q => s.dropWord q.1 q.2.num) s

/-- The `istore` writes in flight of the cores that are saved reach their banks (R172, R323). -/
def State.landStores (s : State) (p k : Nat) : State :=
  (s.coresOf p k).foldl (fun (s : State) c => (s.core c).istores.foldl (fun (s : State) _ => s.istoreArrives c) s) s

/-- SAVE_COMPLETE: once what it waits for is over, the stream's state is written into its save area, and the stream is
SAVED; a fault stops the save (R204, R319, R320, R329). -/
def State.saveComplete (s : State) (p k : Nat) : State :=
  if s.strState p k ≠ 3 ∨ !(s.coresOf p k).all s.coreStill then s
  else
    let s := (s.landStores p k).flushAll p k
    match s.putDies p k (s.panelDies p) with
    | (t, some va) =>
      if !s.trapRoom p then s
      else (t.strTrap p k cSaveAreaFault 0 (t.strPc p k) (BitVec.ofNat 64 va) 0 0).modStrm p k fun e => { e with stuck := true }
    | (t, none) =>
      let q := t.strm p k
      let t := ((t.coresOf p k).foldl (fun (t : State) c => t.takeCore p k c) t).takeWords p k
      let st := t.str p k 0x18
      let w := putFld (putFld (putFld st 8 1 (b2n q.hard)) 9 1 (if q.grace then b2n q.esc else wfld st 9 1)) 10 1 0
      (((t.setStr p k 0x18 w).setStrCause p k (if q.esc then cPreemptEscalated else cPreempt) 0).modStrm p k fun e =>
        { e with drops := [] }).setStrState p k 4

/-- DRAIN_COMPLETE: every dispatched word has completed and every context of the stream is dormant (R319). -/
def State.drainComplete (s : State) (p k : Nat) : State :=
  if s.strState p k = 2 ∧ (s.strm p k).flight.isEmpty ∧ (s.strCtxs p k).isEmpty then
    (s.modStrm p k fun t => { t with savedAt := s.now }).setStrState p k 3
  else s

/-- GRACEFUL_ESCALATE: 200 µs after the doorbell (R319). -/
def State.escalate (s : State) (p k : Nat) : State :=
  let t := s.strm p k
  let st := s.strState p k
  if (st = 2 ∨ (st = 3 ∧ !t.hard)) ∧ t.graceAt + 600000 ≤ s.now then s.strHard p k true else s

/-! ## Restore (R328, R329) -/

/-- A fault ends a restore: the stream is SAVED with the cause, and its cores take starts again. -/
def State.restoreFails (s : State) (p k : Nat) : State :=
  let l := (s.strm p k).restoring
  let s := l.foldl (fun (s : State) c => s.modCore c fun e => { e with awaits := false }) s
  ((s.modStrm p k fun t => { t with restoring := [] }).setStrCause p k cSaveAreaFault 0).setStrState p k 4

/-- Core `c` holds no started context beside those that an earlier restore of the stream brought back. -/
def State.coreFree (s : State) (c k : Nat) : Bool :=
  (List.range 4).all fun i =>
    let e := s.ctx (4 * c + i)
    e.st == .dormant || (e.held && e.stream.toNat == k)

/-- A context comes back from its block, and stays at its bundle boundary until the restore ends. -/
def State.restoreCtx (s : State) (p k x : Nat) (rd : Nat → Nat → Nat) : State :=
  let base := spGet ({} : Ctx) (s.strm p k).vctx x
  let e := s.ctxFrom x base rd
  s.modCtx x fun c => { e with nextLong := max c.nextLong base.nextLong, held := true }

/-- Core-wide state and valid context blocks of core `c` are written back, and its owner becomes the stream (R328,
step 2). -/
def State.restoreCore (s : State) (p k c : Nat) : State :=
  let d := c / 64
  let w := s.strWorld p k
  let va := s.saveBlock p k (d % 64) + 0x1000000 + c % 64 * 0x400000
  match s.partsFail d w va coreParts with
  | some _ => s.restoreFails p k
  | none =>
    let rd := s.blockNum d w va
    let valid := (List.range 4).filter (rd 0x2C9070 8).testBit
    match valid.findSome? fun i => s.partsFail d w (va + i * 0x80000) ctxParts with
    | some _ => s.restoreFails p k
    | none =>
      let parts : List (Nat × Nat) := coreParts ++ valid.flatMap fun i => ctxParts.map fun q => (i * 0x80000 + q.1, q.2)
      let s := s.countTouch d w (parts.map fun q => (va + q.1, q.2)) false
      let s := s.modCore c fun e => { e.from rd with owner := some (BitVec.ofNat 2 k), awaits := false }
      let s := valid.foldl (fun (s : State) i => s.restoreCtx p k (4 * c + i) (s.blockNum d w (va + i * 0x80000))) s
      s.modStrm p k fun t => { t with restoring := t.restoring.filter (· != c) }

/-- The discardable regions of the contexts that the restore brings back, with the context and the region's number. -/
def State.restoredRegions (s : State) (p k d : Nat) : List (Nat × Nat × Nat × Nat) :=
  (((s.strm p k).vctx.map (·.1)).filter fun x => dieOf x == d && (s.ctx x).st != .dormant).flatMap fun x =>
    (s.ctx x).regions.map fun r => (x, r.1, r.2.1, r.2.2)

/-- The images of die `d`'s clusters are written back; discardable regions read as zero, and their DISC bits are set
(R325). -/
def State.restoreImages (s : State) (p k d : Nat) : State × Bool :=
  let w := s.strWorld p k
  let va := s.saveBlock p k (d % 64)
  let regs := s.restoredRegions p k d
  let mask := s.saveNum p k d 40 1
  let rd := s.blockNum d w va
  let l := ((s.clusOf d k).filter (mask.getD 0).testBit).flatMap fun i =>
    (windowBlocks (8 * d + i) (s.window (8 * d + i) k) (regs.map fun r => (r.2.2.1, r.2.2.2))).map fun o => (i, o)
  match mask, s.partsFail d w va (l.map fun q => (0x11000000 + q.1 * 0x400000 + q.2, 64)) with
  | none, _ => (s, false)
  | some _, some _ => (s, false)
  | some _, none =>
    let s := s.countTouch d w (l.map fun q => (va + 0x11000000 + q.1 * 0x400000 + q.2, 64)) false
    let put := fun (s : State) (pa : Nat) (v : Byte) => { s with mem := cellSet s.mem pa v }
    let s := l.foldl (fun (s : State) q =>
      (List.range 64).foldl (fun (s : State) j =>
        put s (sramPa (8 * d + q.1) (q.2 + j))
          (BitVec.ofNat 8 (rd (0x11000000 + q.1 * 0x400000 + q.2 + j) 1))) s) s
    let s := regs.foldl (fun (s : State) r =>
      ((List.range r.2.2.2).foldl (fun (s : State) j => put s (r.2.2.1 + j) 0) s).modCtx r.1 fun c =>
        { c with disc := c.disc ||| BitVec.ofNat 16 (2 ^ r.2.1) }) s
    (s, true)

/-- The operation of a restored context that an entry of the log answers, the `n`-th of its log: a board reply by the
registers that it names, a refusal by its entry (R287, R327). -/
def Ctx.logged (c : Ctx) (n : Nat) (e : LogEntry) : Option LongOp :=
  c.longs.find? fun o => if e.kind = 4 then o.logged == some n else match o.kind with
    | .board .. => o.dest.logRegs == (e.reg, e.regv)
    | _ => false

/-- A logged board reply or refusal reaches the restored context. -/
def State.replayBoard (s : State) (n : Nat) (x : Nat) (e : LogEntry) : State :=
  match (s.ctx x).logged n e with
  | none => s
  | some l =>
    if e.kind = 4 then s.refusal x l e.cause e.word
    else
      let s := s.modCtx x fun c => l.dest.boardPut { c with longs := c.longs.filter (·.id != l.id) } e.vm e.word
      match l.kind with
      | .board d b (some sc) => s.acquire x sc (.board d b)
      | _ => s

/-- One entry of the reply log of die `d` replayed (R328, step 5). -/
def State.replay (s : State) (d n : Nat) (e : LogEntry) : State :=
  let c := 64 * d + e.cid % 64
  match e.kind with
  | 1 => s.replayBoard n (4 * c + e.ctx) e
  | 4 => s.replayBoard n (4 * c + e.ctx) e
  | 3 => s.modCtx (4 * c + e.ctx) fun q => if q.priv && q.st == .frozen then { q with why := some (.trap e.cause e.word) } else q
  | 2 => s.modCore c fun q => { q with tags := spMod {} e.reg (fun g => if g.live then g.addFault e.cause e.word 1 s.now [] else g) q.tags }
  | _ => s

/-- A dropped reply takes effect (R327). -/
def State.replayDrop (s : State) (e : Nat × Nat × Nat × Word) : State :=
  let (kind, x, ref, _) := e
  match kind with
  | 2 => s.modCore (coreOf x) fun q => { q with tags := spMod {} ref (fun g => if g.live then g.addFault cFaultLogOverflow 0 1 s.now [] else g) q.tags }
  | 3 => (s.unwait x).thaw x
  | _ => match (s.ctx x).longs.find? (·.id == ref) with
    | some l => s.refusal x l cFaultLogOverflow (BitVec.ofNat 64 l.off)
    | none => s

/-- The reply log of die `d`; none where its read faults (R329). -/
def State.logRead (s : State) (p k d : Nat) : Option (List LogEntry) :=
  (s.saveNum p k d 12 4).bind fun n => (s.saveRead p k d 0x1000 (64 * min 512 n)).map fun l =>
    (List.range (min 512 n)).map fun i => LogEntry.of ((l.drop (64 * i)).take 64)

/-- The SEQ region of die `d`'s block; none where its read faults (R321, R328, step 6). -/
def State.seqRead (s : State) (p k d : Nat) : Option SeqImage :=
  (s.saveNum p k d 0x100000 8).bind fun n => (s.saveRead p k d 0x100008 (min n 0xEFFFF8)).map fun l => SeqImage.of (numsOf l.length l)

/-- The reply logs of the panel's dies replayed in entry order, then the dropped replies. -/
def State.replayAll (s : State) (p k : Nat) (logs : List (Nat × List LogEntry)) : State :=
  let s := logs.foldl (fun (s : State) q => q.2.zipIdx.foldl (fun (s : State) e => s.replay q.1 e.2 e.1) s) s
  (s.strm p k).drops.foldl State.replayDrop s

/-- The words of an image and what waits around them return to their units (R328, step 6). -/
def State.returnWords (s : State) (t : SeqImage) : State :=
  let us := (t.words.map (·.1)).eraseDups
  let s := us.foldl (fun (s : State) u =>
    s.mapWords u fun l => ((t.words.filter fun q => q.1 == u).map (·.2)) ++ l) s
  let s := t.starts.foldl (fun (s : State) q => s.modCore q.1 fun e => { e with starts := insertStart q.2 e.starts }) s
  let s := t.ends.foldl (fun (s : State) q => s.modCore q.1 fun e => { e with ends := e.ends ++ [q.2] }) s
  t.sends.foldl (fun (s : State) q => s.modCore q.1 fun e => { e with sends := e.sends ++ [q.2] }) s

/-- The address of a context's block in the save area. -/
def State.ctxBlock (s : State) (p k x : Nat) : Nat :=
  s.saveBlock p k (dieOf x % 64) + 0x1000000 + coreOf x % 64 * 0x400000 + x % 4 * 0x80000

/-- The contexts and cores of the save are live again: handles have been walked, long loads are issued again, tags count
what is still in flight, and queues take what has waited for them (R326, R328). -/
def State.wakeSaved (s : State) (p k : Nat) (loads : List (Nat × List (LongOp × List Piece × Option Nat × Nat × Nat))) : State :=
  let t := s.strm p k
  let s := loads.foldl (fun (s : State) q => s.relong q.1 q.2) s
  let s := t.vcore.foldl (fun (s : State) q => s.modCore q.1 fun e =>
    { e with saved := e.saved.filter (· != k)
             tags := e.tags.map fun (g : Nat × Tag) => (g.1, { g.2 with infl := (spGet ({} : Tag) q.2.tags g.1).infl }) }) s
  let s := { s with dies := s.dies.map fun (q : Nat × Die) =>
      if q.1 / 64 = p then (q.1, { q.2 with tu := q.2.tu.map fun (e : Nat × TuEnt) =>
        (e.1, { e.2 with waiters := e.2.waiters.map fun w => match w with
                           | .saved j x => if j = k then .ctx x else w
                           | w => w }) })
      else q }
  t.vcore.foldl (fun (s : State) q => s.pumpCore q.1) s

/-- Images, replay, and the stream's return to the state that the conductor's header names (R328); a part of the save area
that cannot be read ends the restore (R329). -/
def State.restoreEnd (s : State) (p k : Nat) : State :=
  let dies := s.panelDies p
  let logs := dies.filterMap fun d => (s.logRead p k d).map fun l => (d, l)
  let seqs := dies.filterMap (s.seqRead p k)
  let w := s.strWorld p k
  let xs := (s.strm p k).vctx.map (·.1)
  let whole := xs.all fun x => (s.partsFail (dieOf x) w (s.ctxBlock p k x) ctxParts).isNone
  let loads := xs.map fun x => (x, loadsFrom (s.ctx x) (s.blockNum (dieOf x) w (s.ctxBlock p k x)))
  let (t, ok) := dies.foldl (fun (a : State × Bool) d => if a.2 then a.1.restoreImages p k d else a) (s, true)
  match s.saveNum p k (s.conductor p) 41 1 with
  | none => s.restoreFails p k
  | some back =>
    if !ok || !whole || logs.length != dies.length || seqs.length != dies.length then t.restoreFails p k
    else
      let s := t
      let s := (s.wakeSaved p k loads).replayAll p k logs
      let s := xs.foldl (fun (s : State) x => (s.rewait x).rewatch x) s
      let s := seqs.foldl State.returnWords s
      let s := (s.strm p k).late.foldl (fun (s : State) q => s.modCore q.1 fun e => { e with starts := insertStart q.2 e.starts }) s
      let s := xs.foldl (fun (s : State) x => s.modCtx x fun c => { c with held := false }) s
      (s.modStrm p k fun t => { t with vctx := [], vcore := [], late := [], drops := [], lastDone := s.now }).setStrState p k
        (if back = 5 then 5 else 1)

/-- RESTORE_CORE: core `c` comes back once it is free; after the last one the restore ends. -/
def State.restoreStep (s : State) (c : Nat) : State :=
  let p := c / 4096
  match (List.range 4).find? fun k => s.strState p k == 7 &&
      ((s.strm p k).restoring.isEmpty || ((s.strm p k).restoring.contains c && s.coreFree c k)) with
  | none => s
  | some k =>
    let s := if (s.strm p k).restoring.contains c then s.restoreCore p k c else s
    if s.strState p k = 7 ∧ (s.strm p k).restoring.isEmpty then s.restoreEnd p k else s

/-! ## Instructions and events -/


/-- SYS_SAVE (R175): Saves a dormant or frozen context of the core to a save area. -/
def execSysSave (a : BitVec 5) (b : BitVec 5) (s : State) : Host.Outcome State Fault Refusal :=
  slotOp 3 (.sysSave a b) s fun s => sysSave (s.sr a) (s.sr b) s

/-- SYS_REST (R175): Restores a context of the core from a save area. -/
def execSysRest (a : BitVec 5) (b : BitVec 5) (s : State) : Host.Outcome State Fault Refusal :=
  slotOp 3 (.sysRest a b) s fun s => sysRest (s.sr a) (s.sr b) s

/-- DRAIN_COMPLETE (R319): A draining stream's words and contexts finish, and it is saved. -/
def execDrainComplete (pan : Nat) (k : Nat) (s : State) : Host.Outcome State Fault Refusal :=
  .next (s.drainComplete pan k)

/-- GRACEFUL_ESCALATE (R319): A graceful pre-emption not done within 200 us escalates to a hard save. -/
def execGracefulEscalate (pan : Nat) (k : Nat) (s : State) : Host.Outcome State Fault Refusal :=
  .next (s.escalate pan k)

/-- SAVE_COMPLETE (R320): The stream's state is written to its save area and it becomes SAVED. -/
def execSaveComplete (pan : Nat) (k : Nat) (s : State) : Host.Outcome State Fault Refusal :=
  .next (s.saveComplete pan k)

/-- RESTORE_CORE (R328): A core is restored once it holds no started context, and the reply log is replayed. -/
def execRestoreCore (core : Nat) (s : State) : Host.Outcome State Fault Refusal :=
  .next (s.restoreStep core)

end Sys2Proof.Machine
end

