-- ==== Sys2Proof/Machine/Power.lean ====
section
/-! DEFINITION. Power regions: admission, droop and heat, and their events (R17, R330 to R334). -/

namespace Sys2Proof.Machine

/-- Region `r` of panel `p` changed. -/
def State.modRegion (s : State) (p r : Nat) (f : Region → Region) : State :=
  s.modPan p fun q => { q with regions := spMod {} r f q.regions }

/-- Region `r` of panel `p`. -/
def State.region (s : State) (p r : Nat) : Region := spGet {} (s.pan p).regions r

/-- A region with other throttles; the cycles of a throttle that ends are added up. -/
def Region.throttle (g : Region) (now : Nat) (f : Region → Region) : Region :=
  let h := f g
  if g.slowed && !h.slowed then { h with slow := g.slow + (now - g.since) }
  else if !g.slowed && h.slowed then { h with since := now }
  else h

/-- A region event (R334): the host's vector, and at most one frame for each cause in a step. -/
def State.regionEvent (s : State) (p r cause : Nat) : State :=
  let h := regionHome p r
  let cfg := s.reg h 0x4000020
  let s := s.raise h 11
  if cfg.getLsbD 0 && !(s.region p r).told.contains cause then
    (s.dieEvent h cause (BitVec.ofNat 64 r) (cfg.getLsbD 1)).modRegion p r fun g => { g with told := g.told ++ [cause] }
  else s

/-- CORE_QUIET: 3,000 cycles without a bundle or an array step (R331). -/
def State.coreQuiet (s : State) (c : Nat) : State :=
  let k := s.core c
  if k.active ∧ k.lastWork + 3000 ≤ s.now then s.modCore c fun e => { e with active := false } else s

/-- A quiet core has asked to become active, or has a bundle or an array step ready (R331). -/
def State.waits (s : State) (c : Nat) : Bool :=
  !(s.core c).active && ((s.core c).wants || (s.stageOf c).isSome || s.stepReady c)

/-- The cores of a region that wait to become active, in ascending DID and CID. -/
def State.waiters (s : State) (p r : Nat) : List Nat :=
  ((regionDies p r).flatMap fun d => (List.range 64).map (64 * d + ·)).filter s.waits

/-- Active cores of a region. -/
def State.actives (s : State) (p r : Nat) : Nat :=
  (((regionDies p r).flatMap fun d => (List.range 64).map (64 * d + ·)).filter fun c => (s.core c).active).length

/-- ADMISSION_STEP: a step boundary of region `r`: limits written since take effect, and ⌊10·LIM / 6⌋ waiting cores are
admitted; in the cycle of the boundary itself, cores that become ready then follow, as far as that number allows (R330,
R331, R349). -/
def State.admission (s : State) (p r : Nat) : State :=
  let b := s.now / 600 * 600
  let fresh := decide ((s.region p r).boundary < b)
  if !fresh && s.now != b then s
  else
    let h := regionHome p r
    let lim := if fresh then (s.reg h 0x4000000).toNat else (s.region p r).lim
    let th := s.reg h 0x4000010
    let before := if fresh then 0 else (s.region p r).admitted
    let adm := (s.waiters p r).take (10 * lim / 6 - before)
    let s := adm.foldl (fun (s : State) c => s.modCore c fun e => { e with active := true, wants := false, lastWork := s.now }) s
    let n := s.actives p r
    s.modRegion p r fun g => if !fresh then { g with admitted := before + adm.length, cur := 6 * n } else
      { g with admitted := adm.length, lim := lim, hold := wfld (s.reg h 0x4000008) 0 16, thi := wfld th 8 8, tlo := wfld th 0 8,
               boundary := b, told := [], cur := 6 * n }

/-- DROOP_TRIP: DTHR for HOLD × 100 ns from now (R333); event source 14 (R343). -/
def State.droopTrip (s : State) (p r : Nat) : State :=
  let s := (regionDies p r).foldl (fun (s : State) d => s.countDie d 14 r 1 false) s
  (s.modRegion p r fun g => g.throttle s.now fun g => { g with dthr := some (s.now + 300 * g.hold) }).regionEvent p r cDroopAlarm

/-- DROOP_HOLD_EXPIRE: the throttle time is over. -/
def State.droopEnd (s : State) (p r : Nat) : State :=
  s.modRegion p r fun g => g.throttle s.now fun g => match g.dthr with
    | some t => if t ≤ s.now then { g with dthr := Option.none } else g
    | Option.none => g

/-- THERMAL_THRESHOLD: the highest die temperature of the region is `temp` °C (R333, R334). At 110 °C or above CRIT is set
whatever TLO is, and it clears only below that, at TLO. -/
def State.thermal (s : State) (p r temp : Nat) : State :=
  let g := s.region p r
  let hot := decide (g.thi ≤ temp)
  let crit := decide (110 ≤ temp)
  let cool := !hot && decide (temp ≤ g.tlo)
  let s := s.modRegion p r fun g => g.throttle s.now fun g =>
    { g with temp := temp, tthr := (g.tthr || hot) && !cool, crit := crit || (g.crit && !cool) }
  let s := if hot && !g.tthr then s.regionEvent p r cThermal else s
  if crit && !g.crit then s.regionEvent p r cThermal else s

/-- POWER_STEP_LIMIT: a rise of more than 10·LIM + 100 A over one step from units that are not gated (R334). -/
def State.powerStep (s : State) (p r rise : Nat) : State :=
  if 10 * (s.region p r).lim + 100 < rise then s.regionEvent p r cPowerStepLimit else s

/-! ## Events -/


/-- CORE_QUIET (R331): A core idle for 3,000 cycles becomes quiet. -/
def execCoreQuiet (core : Nat) (s : State) : Host.Outcome State Fault Refusal :=
  .next (s.coreQuiet core)

/-- ADMISSION_STEP (R331): At each 200 ns step boundary the region admits waiting cores up to its limit. -/
def execAdmissionStep (pan : Nat) (region : Nat) (s : State) : Host.Outcome State Fault Refusal :=
  .next (s.admission pan region)

/-- DROOP_TRIP (R333): A droop trips the monitor and sets DTHR. -/
def execDroopTrip (pan : Nat) (region : Nat) (_mv : Nat) (s : State) : Host.Outcome State Fault Refusal :=
  .next (s.droopTrip pan region)

/-- DROOP_HOLD_EXPIRE (R333): DTHR clears after its hold time. -/
def execDroopHoldExpire (pan : Nat) (region : Nat) (s : State) : Host.Outcome State Fault Refusal :=
  .next (s.droopEnd pan region)

/-- THERMAL_THRESHOLD (R333): Region temperature crosses THI, 110 C or TLO and sets or clears the thermal throttle. -/
def execThermalThreshold (pan : Nat) (region : Nat) (temp : Nat) (s : State) : Host.Outcome State Fault Refusal :=
  .next (s.thermal pan region temp)

/-- POWER_STEP_LIMIT (R334): A measured current rise from ungated units exceeds the step limit. -/
def execPowerStepLimit (pan : Nat) (region : Nat) (rise : Nat) (s : State) : Host.Outcome State Fault Refusal :=
  .next (s.powerStep pan region rise)

end Sys2Proof.Machine
end

