-- ==== Sys2Proof/Machine/Boot.lean ====
section
/-! DEFINITION. Die reset, boot, measurement and attestation, the host and the board controller, page migration, and
uncorrectable soft errors (R16, R76, R115, R302, R312, R315, R337 to R342, R344 to R348, R361, R362, R377, R378). -/

namespace Sys2Proof.Machine

/-! ## Die reset (R76, R302, R339, R361, R362) -/

/-- Numbers of the accesses that die `d` has in flight. -/
def State.accessesOf (s : State) (d : Nat) : List Nat :=
  ((s.ctxs.filter fun q => dieOf q.1 == d).flatMap fun q => q.2.mine.map (·.1) ++ q.2.longs.map (·.num)) ++
    (s.clus.filter fun q => q.1 / 8 == d).flatMap fun q => (q.2.sb ++ q.2.late).map (·.id) ++ q.2.outs.map (·.id)

/-- The dies that may have sent requests to die `d`. -/
def State.sourcesOf (s : State) (d : Nat) : List Nat :=
  let e := s.die d
  (s.dies.filter fun q => spHas d q.2.seqTo || spHas q.1 e.filter || spHas q.1 e.expect || e.lost.contains q.1).map (·.1)

/-- Every collective in flight at die `d` ends at every other member with REMOTE_RESET, at once where the member has issued it
and else as it issues it (R361). -/
def State.endColls (s : State) (d : Nat) : State :=
  let l : List (Nat × Nat × Nat × Nat) := (s.die d).groups.flatMap fun q => q.2.colls.flatMap fun c =>
    (q.2.members.filter (· != d)).map fun e => (e, q.1, q.2.gen, c.cnum)
  l.foldl (fun (s : State) e =>
    match s.groupOf e.1 (e.2.1 + 256 * e.2.2.1) with
    | none => s
    | some g =>
      let m := g.memberOf d
      if g.future e.2.2.2 then s.modGroup e.1 e.2.1 fun g => { g with doomed := g.doomed ++ [(e.2.2.2, m)] }
      else s.collEnd e.1 e.2.1 e.2.2.2 (some (m, cRemoteReset))) s

/-- The streams of a Pour that is reset are IDLE, and their words are gone (R302). -/
def State.resetPour (s : State) (p : Nat) : State :=
  let s := s.modPan p fun q => { q with strs := [], pourOn := false, turn := 0, spent := 0, width := 0 }
  (s.unitsOf p).foldl (fun (s : State) u => s.mapWords u fun l => l.filter fun h => match h.src with
    | .stream _ _ => false
    | .sent _ _ => true) s

/-- An address of a flag word of die `d` (R122, R280). -/
def flagByte (d a : Nat) : Bool := paDie a == d && paKind a == 1 && decide (flagBase ≤ paOff a % 0x400000)

/-- Every flag word of die `d` is 0 (R280). -/
def State.clearFlags (s : State) (d : Nat) : State := { s with mem := s.mem.filter fun c => !flagByte d c.1 }

/-- A tagged copy command that a die reset stops: its core, queue and number, its descriptor, its events, and whether it has
met a fault. -/
structure Orphan where
  core : Nat
  queue : Nat
  num : Nat
  pa : Nat
  evt : Nat
  fault : Bool
  deriving DecidableEq, Repr

/-- The tagged copy commands that die `d` has in flight. -/
def State.orphans (s : State) (d : Nat) : List Orphan :=
  (s.cores.filter fun q => q.1 / 64 == d).flatMap fun q => q.2.cq.flatMap fun k =>
    (k.2.cmds.filter (·.tag.isSome)).map fun m =>
      let r := m.run.getD {}
      { core := q.1, queue := k.1, num := m.num, pa := m.pa, evt := r.evt.toNat, fault := r.fault.isSome }

/-- A tagged copy command that a die reset stops is over: it writes STAT with CAUSE 0, its timeline advances, and its fault is
counted and no more (R228). -/
def State.endOrphan (s : State) (o : Orphan) : State :=
  let s := s.writeBytes (o.pa + 56) (leBytes 8 o.evt)
  let s := s.modCore o.core fun e => { e with cq := spMod {} o.queue (·.complete o.num) e.cq }
  if o.fault then s.countCore o.core 9 1 (s.core o.core).world else s

/-- Faults that a speculative tile word of core `c` has met at the unit `u` which holds it: its status, and the calls of its
own that have ended with one. -/
def State.metFaults (s : State) (u : UnitId) (h : HWord) : Nat :=
  (h.status 0).nfault + match u with
    | .core c => ((s.core c).ends.filter fun e => e.word == h.num && e.cause != 0).length
    | _ => 0

/-- The speculative tile words that die `d` has in flight, and those not yet taken by a sequencer: the core that sent each, and
the faults met. -/
def State.specWords (s : State) (d : Nat) : List (Nat × Nat) :=
  let mine := fun (u : UnitId) (h : HWord) => match h.src with
    | .sent c _ => if h.w.spec then some (c, s.metFaults u h) else none
    | .stream _ _ => none
  let unit := fun (u : UnitId) => (s.words u).filterMap (mine u)
  unit (.die d) ++ ((s.clus.filter fun q => q.1 / 8 == d).flatMap fun q => unit (.clu q.1)) ++
    (s.cores.filter fun q => q.1 / 64 == d).flatMap fun q => unit (.core q.1) ++ q.2.sends.filterMap (mine (.clu (q.1 / 8)))

/-- The monitors and limits of a region whose home die `d` is are at their reset values; its steps run on (R330, log 86). -/
def State.resetRegion (s : State) (d : Nat) : State :=
  let r := regionOf d
  if d = regionHome (d / 64) r then
    s.modRegion (d / 64) r fun g => g.throttle s.now fun g =>
      { ({} : Region) with boundary := g.boundary, admitted := g.admitted, slow := g.slow, since := g.since }
  else s

/-- The neighbours' send FIFOs move into the stores that the reset of die `d` has emptied (R358, R361). -/
def State.pumpInto (s : State) (d : Nat) : State :=
  (List.range 6).foldl (fun (s : State) p => s.pumpPort (s.neighbour d p) (facing p)) s

/-- DIE_RESET: contexts are dormant, and the die's registers hold their reset values and its flags 0; routers and links run
on, and the rest of memory keeps its bytes. The registers and monitors that a region's four dies share are reset with the
region's home die alone: the rules name no die for them, and the choice is the model's (R5, R330, log 86). The timeline of a
tagged command advances before the queue's numbering starts anew (R162, R228). -/
def State.dieReset (s : State) (d : Nat) : State :=
  let s := (s.endColls d).clearFlags d
  let s := (s.orphans d).foldl State.endOrphan s
  let s := (s.specWords d).foldl (fun (s : State) o => s.countCore o.1 9 o.2 (s.core o.1).world) s
  let s := if d = s.conductor (d / 64) then s.resetPour (d / 64) else s
  let old := s.die d
  let lost := s.sourcesOf d
  let gone := s.accessesOf d
  let s := { s with
    ctxs := s.ctxs.map fun (q : Nat × Ctx) => if dieOf q.1 = d then (q.1, { nextLong := q.2.nextLong }) else q
    cores := s.cores.filter fun q => q.1 / 64 != d
    clus := s.clus.filter fun q => q.1 / 8 != d
    ctl := s.ctl.filter fun q => paDie q.1 != d
    pend := s.pend.filter fun i => !gone.contains i
    tally := s.tally.filter fun q => q.1 / 131072 != d && !(2 ^ 20 ≤ q.1 / 131072 && (q.1 / 131072 - 2 ^ 20) / 64 == d)
    evBase := s.evBase.filter fun q => paDie q.1 != d
    evNew := s.evNew.filter fun q => (if q.1 then q.2.1 / 64 else q.2.1) != d }
  let s := s.modDie d fun _ =>
    { clk0 := s.now, inReset := true, lost := lost, linksUp := old.linksUp, cfg := old.cfg, tries := old.tries }
  ((s.resetRegion d).pumpOuts).pumpInto d

/-! ## Boot (R337 to R341) -/

/-- `n` bytes of DID 0's HBM of panel `p` as a number. -/
def State.bootNum (s : State) (p off n : Nat) : Nat := s.mval (mkPa (64 * p) 0 off) n

/-- The bytes of a boot image: header and body (R340). -/
def State.bootImage (s : State) (p off : Nat) : List Byte :=
  s.bytes (mkPa (64 * p) 0 off) (192 + s.bootNum p (off + 12) 4)

/-- What signature and measurement cover: bytes 0 to 127, then the body. -/
def signedPart (l : List Byte) : List Byte := l.take 128 ++ l.drop 192

/-- The first check of an image that fails; 0 where all pass (R340). -/
def State.imageCheck (s : State) (p off stage : Nat) : Nat :=
  let f := fun o n => s.bootNum p (off + o) n
  let len := f 12 4
  if f 0 4 ≠ 0x5A564249 ∨ f 4 1 ≠ stage ∨ f 5 3 ≠ 0 ∨ f 28 36 ≠ 0 ∨ len ≤ f 24 4 then 1
  else if len % 16 ≠ 0 ∨ len < 16 ∨ 2 ^ 20 < len ∨ 0x12A05F2000 < off + 192 + len then 2
  else if !Config.imageSigned (s.bootImage p off) then 3
  else
    let dg := Config.sm3 (s.bytes (mkPa (64 * p) 0 (off + 64)) 64)
    if (List.range 32).all fun i => dg i == Config.vendorDigest i then 0 else 4

/-- BOOTSTAT of a die (R339). -/
def bootWord (done fail : Bool) (stage check : Nat) : Word :=
  BitVec.ofNat 64 (b2n done * 2 ^ 63 + b2n fail * 2 ^ 62 + b2n fail * 0x54 * 2 ^ 48 + stage * 2 ^ 8 + check)

/-- The image of a stage fails a check: the die stays in the ROM (R338). -/
def State.bootFails (s : State) (d stage check : Nat) : State := (s.setReg d 0x5000008 (bootWord false true stage check)).raise d 9

/-- An image extended into its slot (R337). -/
def State.measure (s : State) (d j : Nat) (l : List Byte) : State :=
  s.extend d j (tab 32 (Config.sm3 (signedPart l)))

/-- BOOT_ROM_RUN: once GO of DID 0 is set, the ROM of die `d` brings up its links, and loads and checks both stages. -/
def State.bootRom (s : State) (d : Nat) : State :=
  let p := d / 64
  if !(s.reg (64 * p) 0x5000000).getLsbD 63 || s.reg d 0x5000008 != 0 then s
  else
    let s := (s.modDie d fun e => { e with inReset := false, linksUp := true }).extend d 3 (tab 32 (Config.fuseDigest d))
    match s.imageCheck p 0 1 with
    | 0 =>
      let one := s.bootImage p 0
      let at_ := s.bootNum p 16 8
      let s := (s.measure d 0 one).modDie d fun e => { e with ver1 := s.bootNum p 8 4 }
      match s.imageCheck p at_ 2 with
      | 0 =>
        let two := s.bootImage p at_
        let s := (s.measure d 1 two).modDie d fun e => { e with ver2 := s.bootNum p (at_ + 8) 4 }
        s.setReg d 0x5000008 (bootWord false false 2 0)
      | c => s.bootFails d 2 c
    | c => s.bootFails d 1 c

/-- The dies of a panel whose boot is done. -/
def State.booted (s : State) (p : Nat) : List Nat :=
  (List.range 64).filter fun i => (s.reg (64 * p + i) 0x5000008).getLsbD 63 && !(s.reg (64 * p + i) 0x5000008).getLsbD 62

/-- BOOT_COMPLETION: stage 2 of the conductor writes the mask of the dies that are done to each of them, and enables the
Pour; never after a failure on DID 0 or on the conductor (R337, R338). -/
def State.bootDone (s : State) (p : Nat) : State :=
  let l := s.booted p
  let c := s.conductor p % 64
  let mask := BitVec.ofNat 64 (l.map (2 ^ ·)).sum
  if !(s.domcfg (64 * p + c)).getLsbD 63 || !l.contains c || !l.contains 0 || (s.pan p).pourOn then s
  else (l.foldl (fun (s : State) i => s.presset (64 * p + i) { data := mask, secure := true, who := .firmware (s.conductor p) 2 }) s).modPan p fun q => { q with pourOn := true }

/-! ## Attestation (R342) -/

/-- Bytes 0 to 391 of a report. -/
def State.reportBody (s : State) (d : Nat) : List Byte :=
  let e := s.die d
  leBytes 4 0x5A564154 ++ leBytes 4 456 ++ tab 32 (fun i => e.nonce.getD i 0) ++
    tab 12 (Config.serial (d / 64)) ++ leBytes 1 (d % 64) ++ leBytes 3 0 ++ leBytes 1 0x10 ++ leBytes 1 0xA1 ++
    tab 2 (Config.romVersion d) ++ leBytes 4 e.ver1 ++ leBytes 4 e.ver2 ++ leBytes 4 0 ++
    ((List.range 32).flatMap fun i => leBytes 8 (s.reg d (0x5000800 + 8 * i)).toNat) ++ tab 64 (Config.deviceKey d)

/-- ATTEST_REPORT_DONE: the report lies in ATTBUF. -/
def State.reportDone (s : State) (d : Nat) : State :=
  let w := s.reg d 0x5000300
  if !w.getLsbD 0 then s
  else
    let l := s.reportBody d
    let l := l ++ tab 64 (Config.signature d s.free l)
    let s := (List.range 57).foldl (fun (s : State) i =>
      s.setReg d (0x5000340 + 8 * i) (BitVec.ofNat 64 (leVal ((l.drop (8 * i)).take 8)))) s
    { s.setReg d 0x5000300 ((w &&& ~~~1) ||| 2) with free := s.free + 1 }.raise d 12

/-- MANAGEMENT: packet `n` asks die `d` for a report over its nonce (R342, R357). -/
def State.managed (s : State) (d n : Nat) : State :=
  match s.pktAt d n with
  | some p =>
    match p.body with
    | .mgmt l =>
      if p.dst ≠ d || s.beforePkt d p then s
      else
        let s := s.dropPkt n
        if (s.die d).inReset then s
        else
          let s := (List.range 4).foldl (fun (s : State) i => s.setReg d (0x5000308 + 8 * i) (l.getD i 0)) s
          s.attctl d (BitVec.ofNat 64 (2 ^ 63))
    | _ => s
  | none => s

/-! ## The host and the board controller (R344 to R346, R348) -/

/-- Bit `i` of HPERR of the port of die `d`. -/
def State.hostError (s : State) (d i : Nat) : State := s.setReg d 0x7000010 (s.reg d 0x7000010 ||| BitVec.ofNat 64 (2 ^ i))

/-- Where an access of the host goes: through CXL.mem the panel's HBM die after die in ascending DID (R344); BAR0 shows the control blocks of the panel's dies, BAR2 the physical addresses from
HWIN on; none beyond the BAR (R345). -/
def State.hostPa (s : State) (d : Nat) (q : HostReq) : Option Nat :=
  if q.hdm then
    if q.offset + q.size ≤ 64 * 0x12A05F2000 then
      some (mkPa (64 * (d / 64) + q.offset / 0x12A05F2000) 0 (q.offset % 0x12A05F2000)) else none
  else if q.window then
    if q.offset + q.size ≤ 2 ^ 36 then some (wfld (s.reg d 0x7000000) 36 21 * 2 ^ 36 + q.offset) else none
  else if q.offset + q.size ≤ 2 ^ 33 then some (ctlPa (64 * (d / 64) + q.offset / 2 ^ 27) (q.offset % 2 ^ 27)) else none

/-- What the host reads. -/
def State.hostGot (s : State) (d : Nat) (l : List Byte) : State := s.modDie d fun e => { e with hostRead := l }

/-- An access of the host that is not performed: a read returns all ones. -/
def State.hostOnes (s : State) (d : Nat) (q : HostReq) : State :=
  if q.wdata.isNone then s.hostGot d (List.replicate q.size 0xFF) else s

/-- The access is a write to a doorbell of the Pour. -/
def State.ringsPour (s : State) (d : Nat) (q : HostReq) : Bool :=
  q.wdata.isSome && match s.hostPa d q with
    | some pa => paKind pa == 3 && (match creg (paDie pa) (paOff pa) with
      | .stream _ o => o == 0x88
      | _ => false)
    | none => false

/-- An access of the host through the port of die `d` is performed (R346). -/
def State.hostPerform (s : State) (d : Nat) (q : HostReq) : State :=
  match s.hostPa d q with
  | none => s.hostOnes d q
  | some pa =>
      let secure := s.worldAt d ((s.reg d 0x5000100).getLsbD 6) pa
      if q.size = 0 ∨ !s.allPopulated d pa q.size ∨ (s.unreached d pa).isSome then s.hostOnes d q
      else if paKind pa = 3 ∧ (q.size ≠ 8 ∨ pa % 8 ≠ 0) then (s.hostError d 1).hostOnes d q
      else if !secure && s.secureAt pa q.size then (s.hostError d 0).hostOnes d q
      else match q.wdata with
        | none => (s.countHbm pa q.size false secure).hostGot d (s.portRead pa q.size secure)
        | some l =>
          if s.seededPa pa q.size then s
          else ((s.countHbm pa q.size true secure).portWrite pa (tab q.size fun i => l.getD i 0) secure (.host q.window)).1

/-- HOST_ACCESS through the port of die `d`; only corner dies have a port (R344, R346). A doorbell of the Pour waits for the end
of its cycle, and so does what follows it at the same port, but for CXL.mem. -/
def State.hostAccess (s : State) (d : Nat) (q : HostReq) : State :=
  if ! [0, 7, 56, 63].contains (d % 64) then s
  else if !q.hdm && (s.ringsPour d q || (s.pan (d / 64)).bells.any (·.1 == d)) then
    s.modPan (d / 64) fun p => { p with bells := p.bells ++ [(d, q)] }
  else s.hostPerform d q

/-- The doorbells of the cycle that ends act in ascending DID of their ports, those of one port in the order of their arrival
(R346). -/
def State.ringBells (s : State) : State :=
  let l := sortBy Prod.fst (s.pans.flatMap fun q => q.2.bells)
  if l.isEmpty then s
  else l.foldl (fun (s : State) q => s.hostPerform q.1 q.2)
    { s with pans := s.pans.map fun (q : Nat × Panel) => (q.1, { q.2 with bells := [] }) }

/-- The clock goes on by `dt` cycles; what waits for the end of a cycle happens first (R343, R346). -/
def State.clock (s : State) (dt : Nat) : State := if dt = 0 then s else s.ringBells.tick dt

/-- Registers that the board controller reads over I3C (R348). -/
def boardReads (off : Nat) : Bool :=
  off / 2 ^ 24 == 4 || off == 0x8 || off == 0x5000008 || off == 0x5000200 || (0x5000300 ≤ off && off < 0x5000508)

/-- Registers that it writes. -/
def boardWrites (d off : Nat) : Bool :=
  (d % 64 == 0 && off == 0x5000000) || off == 0x5000300 || (0x5000308 ≤ off && off < 0x5000328)

/-- I3C_MANAGEMENT_MESSAGE at the conductor die. -/
def State.boardMessage (s : State) (d : Nat) (q : MgmtReq) : State :=
  let t := paDie q.addr
  let off := paOff q.addr
  if d ≠ s.conductor (d / 64) ∨ t / 64 ≠ d / 64 ∨ paKind q.addr ≠ 3 then s
  else match q.wdata with
    | none =>
      if boardReads off then s.modPan (d / 64) fun p => { p with boardRead := s.ctlRead t (off / 8 * 8) false } else s
    | some v => if boardWrites t off then (s.ctlWrite t off { data := v, secure := false, who := .board }).1 else s

/-! ## Migration (R377, R378) -/

/-- Lines of the page that die `d` migrates. -/
def State.migLines (s : State) (d : Nat) : Nat := if (s.reg d 0x2000108).getLsbD 0 then 2 ^ 19 else 2 ^ 8

/-- One line that the engine copies next: the next one not copied, else a dirty one. -/
def State.migPick (s : State) (d : Nat) : Option Nat :=
  let e := s.die d
  if e.migNext < s.migLines d then some e.migNext else e.migDirty.head?

/-- The world of the page that die `d` migrates (R377). -/
def State.migSide (s : State) (d : Nat) : Bool := (s.reg d 0x2000118).getLsbD 0

/-- A line cannot be read at the old frame or written at the new one; a seeded region takes no line (R203, R336, R378). -/
def State.migFault (s : State) (d src dst : Nat) : Bool :=
  paDie src != d || !s.allPopulated d src 64 || !s.allPopulated d dst 64 || s.badAt src 64 || paKind src == 3 || paKind dst == 3 ||
    (s.unreached d dst).isSome || s.inReserved src 64 || s.inReserved dst 64 || s.seededPa dst 64 ||
    (!s.migSide d && s.secureAt src 64) || (!s.worldAt d (s.migSide d) dst && s.secureAt dst 64)

/-- MIGRATION_LINE_COPY: the old home copies one line; a fault stops the migration. -/
def State.migLine (s : State) (d : Nat) : State :=
  if s.migState d ≠ 1 then s
  else match s.migPick d with
    | none => s
    | some i =>
      let src := wfld (s.reg d 0x2000108) 14 43 * 2 ^ 14 + 64 * i
      let dst := wfld (s.reg d 0x2000110) 14 43 * 2 ^ 14 + 64 * i
      if s.migFault d src dst then s.migStop d
      else
        let s := s.modDie d fun e =>
          if e.migNext = i then { e with migNext := i + 1 } else { e with migDirty := e.migDirty.filter (· != i) }
        ((s.countHbm src 64 false (s.migSide d)).countHbm dst 64 true (s.migSide d)).writeBytes dst (s.bytes src 64)

/-- MIGRATION_SWITCH: with no line left to copy, the old home forwards. -/
def State.migSwitch (s : State) (d : Nat) : State :=
  if s.migState d = 1 ∧ s.migPick d = none then s.setMig d 2 else s

/-! ## Soft errors (R312, R315) -/

/-- UNCORRECTABLE_SOFT_ERROR: one is found at `addr` in state that has no owner; readers of the byte find it too. An address
from 2^57 on names the buffer of a packet that the die holds, whose header then fails its HCRC: the packet is discarded (R356,
log 17). -/
def State.softError (s : State) (d addr : Nat) : State :=
  if 2 ^ 57 ≤ addr then
    (if (s.pktAt d (addr - 2 ^ 57)).isSome then s.dropPkt (addr - 2 ^ 57) else s).machineCheck d 0
  else { s with bad := if s.bad.contains addr then s.bad else s.bad ++ [addr] }.machineCheck d (BitVec.ofNat 64 addr)

/-! ## Events -/


/-- DIE_RESET (R76): A die reset sets contexts dormant, clears state and runs the boot ROM. -/
def execDieReset (die : Nat) (s : State) : Host.Outcome State Fault Refusal :=
  .next (s.dieReset die)

/-- BOOT_ROM_RUN (R337): Each die's ROM brings up links, loads and checks stage images and extends measurements. -/
def execBootRomRun (die : Nat) (s : State) : Host.Outcome State Fault Refusal :=
  .next (s.bootRom die)

/-- BOOT_COMPLETION (R337): Conductor stage 2 gathers BOOTSTAT of every die, writes DPRESSET and enables the Pour. -/
def execBootCompletion (pan : Nat) (s : State) : Host.Outcome State Fault Refusal :=
  .next (s.bootDone pan)

/-- ATTEST_REPORT_DONE (R342): The signed report lands in ATTBUF, BUSY clears, DONE sets and vector 12 is raised. -/
def execAttestReportDone (die : Nat) (s : State) : Host.Outcome State Fault Refusal :=
  .next (s.reportDone die)

/-- HOST_ACCESS (R346): A host read or write through BAR0 or BAR2 with its world, size and ordering rules. -/
def execHostAccess (die : Nat) (q : HostReq) (s : State) : Host.Outcome State Fault Refusal :=
  .next (s.hostAccess die q)

/-- I3C_MANAGEMENT_MESSAGE (R348): A board-controller MCTP message over I3C reads or writes the reachable registers. -/
def execI3cManagementMessage (die : Nat) (q : MgmtReq) (s : State) : Host.Outcome State Fault Refusal :=
  .next (s.boardMessage die q)

/-- MANAGEMENT (R357): A management packet carries an attestation request. -/
def execManagement (die : Nat) (n : Nat) (s : State) : Host.Outcome State Fault Refusal :=
  .next (s.managed die n)

/-- MIGRATION_LINE_COPY (R378): The old home copies one 64-byte line of a migrating page. -/
def execMigrationLineCopy (die : Nat) (s : State) : Host.Outcome State Fault Refusal :=
  .next (s.migLine die)

/-- MIGRATION_SWITCH (R378): With no dirty line left the old home switches to forwarding. -/
def execMigrationSwitch (die : Nat) (s : State) : Host.Outcome State Fault Refusal :=
  .next (s.migSwitch die)

/-- UNCORRECTABLE_SOFT_ERROR (R315): An uncorrectable soft error is found in state that has no owner and is reported to the host as MACHINE_CHECK. -/
def execUncorrectableSoftError (die : Nat) (addr : Nat) (s : State) : Host.Outcome State Fault Refusal :=
  .next (s.softError die addr)

end Sys2Proof.Machine
end

