-- ==== Sys2Proof/Machine/LoadStore.lean ====
section
/-! DEFINITION. Loads, stores, handles, fences and cross-die tokens of the M slot (R146 to R156). -/

namespace Sys2Proof.Machine

/-! ## Loads and stores (R150 to R154) -/

/-- The checks of R150 on the access of a memory instruction. -/
def State.memCheck (s : State) (i : Instr) (h z : Nat) (write : Bool) : Option (Nat × Word) :=
  s.accessCheck s.x (s.me.hreg h) (s.pieces s.x i) (szBytes z) write

/-- A load into scalar or vector register `d`; `acq` is the scope of an acquire. -/
def loadInto (i : Instr) (h z : Nat) (vec : Bool) (d : Nat) (acq : Option Nat) (s : State) : Res :=
  failOn (s.memCheck i h z false) (.ok (s.doLoad i h z vec d acq))

/-- A store of `val`, by lane; `rel` is the scope of a release. -/
def storeFrom (i : Instr) (h z : Nat) (val : Nat → Word) (rel : Option Nat) (s : State) : Res :=
  failOn (s.memCheck i h z true) (.ok (s.doStore i h val rel))

/-! ## Handles (R146 to R148) -/

/-- `trans` on a hit (R146). -/
def translate (d : Nat) (a : Word) (s : State) : Res :=
  match s.tlbFind (dieOf s.x) s.me.world (a.toNat % 2 ^ 58) with
  | some h => .ok (s.later 3 16 (.h d h))
  | none => .ok s

/-! ## Fences and tokens (R155, R156, R273) -/

/-- The classes that a mask names; a bit of 16 or above names none (log 21). -/
def maskNames (m k : Nat) : Bool := decide (k < 16) && m.testBit k

/-- `fence` (R155, R273): what must perform before later accesses of the masked classes. A mask of 0 has no effect. -/
def fenceIssue (m sc : Nat) (s : State) : Res :=
  let m := m % 2 ^ 16
  let before := s.fenceBefore s.x sc (maskNames m)
  let f : FenceRec := { mask := m, scope := sc, before := before }
  .ok (s.modCtx s.x fun c => { c with fences := (c.fences.filter fun g => g.before.any s.pend.contains) ++ [f] })

/-- The stores of context `x` to another die, of the masked classes, that have not been acknowledged (R156). -/
def State.crossStores (s : State) (x m : Nat) : List Nat :=
  let k := s.clu (cluOf x)
  ((k.sb ++ k.late).filter fun e =>
    e.x == x && maskNames m e.cls && e.data.any fun b => paDie b.1 != dieOf x).map (·.id)

/-- `xdfi` (R156). -/
def tokenIssue (d m : Nat) (s : State) : Res :=
  match firstBelow 16 fun t => !spHas t s.me.tokens with
  | none => .trap cFenceToken 0
  | some t =>
    let k : Token := { mask := BitVec.ofNat 16 m, waits := s.crossStores s.x (m % 2 ^ 16) }
    .ok ((s.modCtx s.x fun c => { c with tokens := spPut t k c.tokens }).later 3 1 (.s d (BitVec.ofNat 64 t)))

/-- `xdfw` (R156), once its stores are acknowledged. -/
def tokenWait (w : Word) (s : State) : Res :=
  trapIf (!(decide (w.toNat < 16) && spHas w.toNat s.me.tokens)) cFenceToken <|
  .ok (s.modCtx s.x fun c => { c with tokens := spDel w.toNat c.tokens })

/-! ## Discardable regions (R173) -/

/-- `discard` (R173): a removal, of length 0, has no bytes to lie anywhere. -/
def discardRegion (h : Nat) (w : Word) (i : Nat) (s : State) : Res :=
  let hd := s.me.hreg h
  let off := wfld w 0 22
  let len := wfld w 32 22
  let p : Piece := { off := off, len := len }
  if !hd.valid then .trap cHandleInvalid 0
  else if wfld w 22 10 != 0 || wfld w 54 10 != 0 then .trap cReservedField 0
  else if !(hd.sramOf (cluOf s.x) && (len == 0 || ownSram (cluOf s.x) hd [p])) then .trap cSramRange (outsideVa (cluOf s.x) hd off len)
  else if off % 64 != 0 || len % 64 != 0 then .trap cAlignment (BitVec.ofNat 64 off)
  else if len = 0 then .ok (s.modCtx s.x fun c => { c with regions := spDel i c.regions })
  else if s.runOut s.x (hd.pa off) len then
    .trap cSramRange (BitVec.ofNat 64 (hd.va + off + (firstBelow len fun j => s.byteOut s.x (hd.pa (off + j))).getD 0))
  else .ok (s.modCtx s.x fun c => { c with regions := spPut i (hd.pa off, len) c.regions })

/-! ## Instructions -/

/-- LD (R152): Scalar load at handle base plus scaled offset. -/
def execLd (d : BitVec 5) (h : BitVec 4) (c : BitVec 4) (z : BitVec 3) (o : BitVec 10) (s : State) : Host.Outcome State Fault Refusal :=
  slotOp 3 (.ld d h c z o) s (loadInto (.ld d h c z o) h.toNat z.toNat false d.toNat none)

/-- LDX (R152): Scalar load at handle base plus register offset. -/
def execLdx (d : BitVec 5) (h : BitVec 4) (c : BitVec 4) (z : BitVec 3) (b : BitVec 5) (s : State) : Host.Outcome State Fault Refusal :=
  slotOp 3 (.ldx d h c z b) s (loadInto (.ldx d h c z b) h.toNat z.toNat false d.toNat none)

/-- ST (R152): Scalar store at handle base plus scaled offset. -/
def execSt (d : BitVec 5) (h : BitVec 4) (c : BitVec 4) (z : BitVec 3) (o : BitVec 10) (s : State) : Host.Outcome State Fault Refusal :=
  slotOp 3 (.st d h c z o) s fun s => storeFrom (.st d h c z o) h.toNat z.toNat (fun _ => s.sr d) none s

/-- STX (R152): Scalar store at handle base plus register offset. -/
def execStx (d : BitVec 5) (h : BitVec 4) (c : BitVec 4) (z : BitVec 3) (b : BitVec 5) (s : State) : Host.Outcome State Fault Refusal :=
  slotOp 3 (.stx d h c z b) s fun s => storeFrom (.stx d h c z b) h.toNat z.toNat (fun _ => s.sr d) none s

/-- LDA (R153): Acquire load of a scope. -/
def execLda (d : BitVec 5) (h : BitVec 4) (c : BitVec 4) (z : BitVec 3) (sf : BitVec 3) (o : BitVec 7) (s : State) : Host.Outcome State Fault Refusal :=
  slotOp 3 (.lda d h c z sf o) s (loadInto (.lda d h c z sf o) h.toNat z.toNat false d.toNat (some sf.toNat))

/-- STL (R153): Release store of a scope. -/
def execStl (d : BitVec 5) (h : BitVec 4) (c : BitVec 4) (z : BitVec 3) (sf : BitVec 3) (o : BitVec 7) (s : State) : Host.Outcome State Fault Refusal :=
  slotOp 3 (.stl d h c z sf o) s fun s => storeFrom (.stl d h c z sf o) h.toNat z.toNat (fun _ => s.sr d) (some sf.toNat) s

/-- VLD (R154): Contiguous vector load. -/
def execVld (d : BitVec 5) (h : BitVec 4) (c : BitVec 4) (z : BitVec 3) (o : BitVec 10) (s : State) : Host.Outcome State Fault Refusal :=
  slotOp 3 (.vld d h c z o) s (loadInto (.vld d h c z o) h.toNat z.toNat true d.toNat none)

/-- VLDS (R154): Strided vector load. -/
def execVlds (d : BitVec 5) (h : BitVec 4) (c : BitVec 4) (z : BitVec 3) (b : BitVec 5) (s : State) : Host.Outcome State Fault Refusal :=
  slotOp 3 (.vlds d h c z b) s (loadInto (.vlds d h c z b) h.toNat z.toNat true d.toNat none)

/-- VGATH (R154): Gather load by per-lane offsets. -/
def execVgath (d : BitVec 5) (h : BitVec 4) (c : BitVec 4) (z : BitVec 3) (b : BitVec 5) (s : State) : Host.Outcome State Fault Refusal :=
  slotOp 3 (.vgath d h c z b) s (loadInto (.vgath d h c z b) h.toNat z.toNat true d.toNat none)

/-- VST (R154): Contiguous vector store. -/
def execVst (d : BitVec 5) (h : BitVec 4) (c : BitVec 4) (z : BitVec 3) (o : BitVec 10) (s : State) : Host.Outcome State Fault Refusal :=
  slotOp 3 (.vst d h c z o) s fun s => storeFrom (.vst d h c z o) h.toNat z.toNat (fun l => s.vr d l) none s

/-- VSTS (R154): Strided vector store. -/
def execVsts (d : BitVec 5) (h : BitVec 4) (c : BitVec 4) (z : BitVec 3) (b : BitVec 5) (s : State) : Host.Outcome State Fault Refusal :=
  slotOp 3 (.vsts d h c z b) s fun s => storeFrom (.vsts d h c z b) h.toNat z.toNat (fun l => s.vr d l) none s

/-- VSCAT (R154): Scatter store by per-lane offsets. -/
def execVscat (d : BitVec 5) (h : BitVec 4) (c : BitVec 4) (z : BitVec 3) (b : BitVec 5) (s : State) : Host.Outcome State Fault Refusal :=
  slotOp 3 (.vscat d h c z b) s fun s => storeFrom (.vscat d h c z b) h.toNat z.toNat (fun l => s.vr d l) none s

/-- TRANS (R146): Translates a VA into a handle for its page. -/
def execTrans (d : BitVec 5) (a : BitVec 5) (s : State) : Host.Outcome State Fault Refusal :=
  slotOp 3 (.trans d a) s fun s => translate d.toNat (s.sr a) s

/-- HCHK (R148): Tests whether a handle is valid. -/
def execHchk (d : BitVec 5) (a : BitVec 5) (s : State) : Host.Outcome State Fault Refusal :=
  slotOp 3 (.hchk d a) s fun s => .ok (s.later 3 1 (.s d.toNat (Word.ofBool (s.me.hreg a.toNat).valid)))

/-- HREL (R148): Invalidates a handle. -/
def execHrel (a : BitVec 5) (s : State) : Host.Outcome State Fault Refusal :=
  slotOp 3 (.hrel a) s fun s => .ok (s.later 3 1 (.h a.toNat { s.me.hreg a.toNat with valid := false }))

/-- HMOV (R148): Copies a handle. -/
def execHmov (d : BitVec 5) (a : BitVec 5) (s : State) : Host.Outcome State Fault Refusal :=
  slotOp 3 (.hmov d a) s fun s => .ok (s.later 3 1 (.h d.toNat (s.me.hreg a.toNat)))

/-- HINFO (R148): Reads a handle's description word. -/
def execHinfo (d : BitVec 5) (a : BitVec 5) (s : State) : Host.Outcome State Fault Refusal :=
  slotOp 3 (.hinfo d a) s fun s => .ok (s.later 3 1 (.s d.toNat (s.me.hreg a.toNat).info))

/-- FENCE (R155): Orders later masked-class accesses after earlier ones at a scope. -/
def execFence (sf : BitVec 3) (i : BitVec 16) (s : State) : Host.Outcome State Fault Refusal :=
  slotOp 3 (.fence sf i) s fun s => fenceIssue (s.wide 3 16 i.toNat) sf.toNat s

/-- XDFI (R156): Issues a cross-die fence and returns a token. -/
def execXdfi (d : BitVec 5) (i : BitVec 16) (s : State) : Host.Outcome State Fault Refusal :=
  slotOp 3 (.xdfi d i) s fun s => tokenIssue d.toNat (s.wide 3 16 i.toNat) s

/-- XDFW (R156): Waits until a token's cross-die stores are acknowledged and frees it. -/
def execXdfw (a : BitVec 5) (s : State) : Host.Outcome State Fault Refusal :=
  slotOp 3 (.xdfw a) s fun s => tokenWait (s.sr a) s

/-- DISCARD (R173): Declares or removes a discardable cluster-SRAM region. -/
def execDiscard (a : BitVec 5) (b : BitVec 5) (i : BitVec 4) (s : State) : Host.Outcome State Fault Refusal :=
  slotOp 3 (.discard a b i) s fun s => discardRegion a.toNat (s.sr b) i.toNat s

end Sys2Proof.Machine
end

