-- ==== Sys2Proof/Machine/Scalar.lean ====
section
/-! DEFINITION. Scalar arithmetic of the C slot (R126 to R134). Every result is exposed: 1 bundle, 3 for products, 18 for
quotients (R125). -/

namespace Sys2Proof.Machine

/-! ## Shared operations -/

/-- A scalar result of the issuing bundle's C slot, `lat` bundles later. -/
def scalar (lat : Nat) (d : BitVec 5) (f : State → Word) (s : State) : Res := .ok (s.later 0 lat (.s d.toNat (f s)))
/-- A scalar result from one source, read at issue. -/
def unary (lat : Nat) (d a : BitVec 5) (f : Word → Word) (s : State) : Res := scalar lat d (fun s => f (s.sr a)) s
/-- A scalar result from two sources, read at issue. -/
def binary (lat : Nat) (d a b : BitVec 5) (f : Word → Word → Word) (s : State) : Res :=
  scalar lat d (fun s => f (s.sr a) (s.sr b)) s
/-- A quotient or remainder, with FLAGS.IDZ and its log entry recorded when it lands (R131). -/
def divide (d a b : BitVec 5) (f : Word → Word → Word) (s : State) : Res :=
  if s.sr b = 0 then
    .ok (s.laterEv 0 18 (.s d.toNat (f (s.sr a) 0)) flIDZ (some (s.event 0 0 0 0 0 5)))
  else scalar 18 d (fun s => f (s.sr a) (s.sr b)) s

/-- Signed quotient, truncated (R131). -/
def divS (x y : Word) : Word := if y = 0 then BitVec.allOnes 64 else BitVec.ofInt 64 (x.toInt.tdiv y.toInt)
/-- Unsigned quotient. -/
def divU (x y : Word) : Word := if y = 0 then BitVec.allOnes 64 else BitVec.ofNat 64 (x.toNat / y.toNat)
/-- Signed remainder, with the sign of the dividend. -/
def remS (x y : Word) : Word := if y = 0 then x else BitVec.ofInt 64 (x.toInt.tmod y.toInt)
/-- Unsigned remainder. -/
def remU (x y : Word) : Word := if y = 0 then x else BitVec.ofNat 64 (x.toNat % y.toNat)

/-- The first index from `i` on at which bit `f i` is set, counted as far as `n` (R132). -/
def leadCount (x : Nat) (f : Nat → Nat) (n : Nat) : Nat := ((List.range n).find? fun i => x.testBit (f i)).getD n
/-- Set bits of the `n` low bits. -/
def popCount (x n : Nat) : Nat := ((List.range n).filter fun i => x.testBit i).length

def clz64 (x : Word) : Word := BitVec.ofNat 64 (leadCount x.toNat (fun i => 63 - i) 64)
def ctz64 (x : Word) : Word := BitVec.ofNat 64 (leadCount x.toNat id 64)
def popc64 (x : Word) : Word := BitVec.ofNat 64 (popCount x.toNat 64)
/-- Bit i moved to bit 63 − i. -/
def brev64 (x : Word) : Word := x.reverse
/-- Byte i moved to byte 7 − i. -/
def bytrev64 (x : Word) : Word :=
  BitVec.ofNat 64 ((List.range 8).foldl (fun a i => a + x.toNat / 256 ^ i % 256 * 256 ^ (7 - i)) 0)

/-- `dst` with bits [o+w−1:o] replaced by the low bits of `v`. -/
def insertBits (dst : Word) (o w : Nat) (v : Word) : Word :=
  let m := (BitVec.ofNat 64 (2 ^ w - 1)) <<< o
  (dst &&& ~~~m) ||| ((v <<< o) &&& m)

/-- The field of R133 extracted, sign-extended or zero-extended, clipped at bit 63. -/
def bfExtract (signed : Bool) (x : Word) (o w : Nat) : Word :=
  if 64 ≤ o ∨ w = 0 then 0
  else
    let w' := min w (64 - o)
    let f := x.toNat / 2 ^ o % 2 ^ w'
    if signed then sextNat w' f else BitVec.ofNat 64 f

/-- The insertion of R133. -/
def bfInsert (dst x : Word) (o w : Nat) : Word :=
  if 64 ≤ o ∨ w = 0 then dst else insertBits dst o (min w (64 - o)) x

/-! ## Instructions -/

/-- ADD (R126): s[d] := s[a] + s[b] modulo 2^64. -/
def execAdd (d : BitVec 5) (a : BitVec 5) (b : BitVec 5) (s : State) : Host.Outcome State Fault Refusal :=
  slotOp 0 (.add d a b) s (binary 1 d a b fun x y => x + y)

/-- SUB (R126): s[d] := s[a] - s[b] modulo 2^64. -/
def execSub (d : BitVec 5) (a : BitVec 5) (b : BitVec 5) (s : State) : Host.Outcome State Fault Refusal :=
  slotOp 0 (.sub d a b) s (binary 1 d a b fun x y => x - y)

/-- AND (R126): Bitwise AND of two scalars. -/
def execAnd (d : BitVec 5) (a : BitVec 5) (b : BitVec 5) (s : State) : Host.Outcome State Fault Refusal :=
  slotOp 0 (.and d a b) s (binary 1 d a b fun x y => x &&& y)

/-- OR (R126): Bitwise OR of two scalars. -/
def execOr (d : BitVec 5) (a : BitVec 5) (b : BitVec 5) (s : State) : Host.Outcome State Fault Refusal :=
  slotOp 0 (.or d a b) s (binary 1 d a b fun x y => x ||| y)

/-- XOR (R126): Bitwise XOR of two scalars. -/
def execXor (d : BitVec 5) (a : BitVec 5) (b : BitVec 5) (s : State) : Host.Outcome State Fault Refusal :=
  slotOp 0 (.xor d a b) s (binary 1 d a b fun x y => x ^^^ y)

/-- ANDN (R126): s[a] AND NOT s[b]. -/
def execAndn (d : BitVec 5) (a : BitVec 5) (b : BitVec 5) (s : State) : Host.Outcome State Fault Refusal :=
  slotOp 0 (.andn d a b) s (binary 1 d a b fun x y => x &&& ~~~y)

/-- SHL (R126): Shift left by s[b][5:0]. -/
def execShl (d : BitVec 5) (a : BitVec 5) (b : BitVec 5) (s : State) : Host.Outcome State Fault Refusal :=
  slotOp 0 (.shl d a b) s (binary 1 d a b fun x y => x <<< (y.toNat % 64))

/-- SHR (R126): Logical shift right by s[b][5:0]. -/
def execShr (d : BitVec 5) (a : BitVec 5) (b : BitVec 5) (s : State) : Host.Outcome State Fault Refusal :=
  slotOp 0 (.shr d a b) s (binary 1 d a b fun x y => x >>> (y.toNat % 64))

/-- SAR (R126): Arithmetic shift right by s[b][5:0]. -/
def execSar (d : BitVec 5) (a : BitVec 5) (b : BitVec 5) (s : State) : Host.Outcome State Fault Refusal :=
  slotOp 0 (.sar d a b) s (binary 1 d a b fun x y => x.sshiftRight (y.toNat % 64))

/-- ROL (R126): Rotate left by s[b][5:0]. -/
def execRol (d : BitVec 5) (a : BitVec 5) (b : BitVec 5) (s : State) : Host.Outcome State Fault Refusal :=
  slotOp 0 (.rol d a b) s (binary 1 d a b fun x y => x.rotateLeft (y.toNat % 64))

/-- ROR (R126): Rotate right by s[b][5:0]. -/
def execRor (d : BitVec 5) (a : BitVec 5) (b : BitVec 5) (s : State) : Host.Outcome State Fault Refusal :=
  slotOp 0 (.ror d a b) s (binary 1 d a b fun x y => x.rotateRight (y.toNat % 64))

/-- MIN (R126): Signed minimum of two scalars. -/
def execMin (d : BitVec 5) (a : BitVec 5) (b : BitVec 5) (s : State) : Host.Outcome State Fault Refusal :=
  slotOp 0 (.min d a b) s (binary 1 d a b fun x y => if x.slt y then x else y)

/-- MAX (R126): Signed maximum of two scalars. -/
def execMax (d : BitVec 5) (a : BitVec 5) (b : BitVec 5) (s : State) : Host.Outcome State Fault Refusal :=
  slotOp 0 (.max d a b) s (binary 1 d a b fun x y => if x.slt y then y else x)

/-- MINU (R126): Unsigned minimum of two scalars. -/
def execMinu (d : BitVec 5) (a : BitVec 5) (b : BitVec 5) (s : State) : Host.Outcome State Fault Refusal :=
  slotOp 0 (.minu d a b) s (binary 1 d a b fun x y => if x.ult y then x else y)

/-- MAXU (R126): Unsigned maximum of two scalars. -/
def execMaxu (d : BitVec 5) (a : BitVec 5) (b : BitVec 5) (s : State) : Host.Outcome State Fault Refusal :=
  slotOp 0 (.maxu d a b) s (binary 1 d a b fun x y => if x.ult y then y else x)

/-- SLT (R126): 1 if s[a] < s[b] signed, else 0. -/
def execSlt (d : BitVec 5) (a : BitVec 5) (b : BitVec 5) (s : State) : Host.Outcome State Fault Refusal :=
  slotOp 0 (.slt d a b) s (binary 1 d a b fun x y => Word.ofBool (x.slt y))

/-- SLTU (R126): 1 if s[a] < s[b] unsigned, else 0. -/
def execSltu (d : BitVec 5) (a : BitVec 5) (b : BitVec 5) (s : State) : Host.Outcome State Fault Refusal :=
  slotOp 0 (.sltu d a b) s (binary 1 d a b fun x y => Word.ofBool (x.ult y))

/-- SEQ (R126): 1 if s[a] = s[b], else 0. -/
def execSeq (d : BitVec 5) (a : BitVec 5) (b : BitVec 5) (s : State) : Host.Outcome State Fault Refusal :=
  slotOp 0 (.seq d a b) s (binary 1 d a b fun x y => Word.ofBool (x == y))

/-- SNE (R126): 1 if s[a] differs from s[b], else 0. -/
def execSne (d : BitVec 5) (a : BitVec 5) (b : BitVec 5) (s : State) : Host.Outcome State Fault Refusal :=
  slotOp 0 (.sne d a b) s (binary 1 d a b fun x y => Word.ofBool (x != y))

/-- ADDI (R127): Adds a sign-extended 16-bit immediate. -/
def execAddi (d : BitVec 5) (a : BitVec 5) (i : BitVec 16) (s : State) : Host.Outcome State Fault Refusal :=
  slotOp 0 (.addi d a i) s (unary 1 d a fun x => x + i.signExtend 64)

/-- ANDI (R127): AND with a zero-extended immediate. -/
def execAndi (d : BitVec 5) (a : BitVec 5) (i : BitVec 16) (s : State) : Host.Outcome State Fault Refusal :=
  slotOp 0 (.andi d a i) s (unary 1 d a fun x => x &&& i.zeroExtend 64)

/-- ORI (R127): OR with a zero-extended immediate. -/
def execOri (d : BitVec 5) (a : BitVec 5) (i : BitVec 16) (s : State) : Host.Outcome State Fault Refusal :=
  slotOp 0 (.ori d a i) s (unary 1 d a fun x => x ||| i.zeroExtend 64)

/-- XORI (R127): XOR with a zero-extended immediate. -/
def execXori (d : BitVec 5) (a : BitVec 5) (i : BitVec 16) (s : State) : Host.Outcome State Fault Refusal :=
  slotOp 0 (.xori d a i) s (unary 1 d a fun x => x ^^^ i.zeroExtend 64)

/-- SLTI (R127): Signed compare with a signed immediate. -/
def execSlti (d : BitVec 5) (a : BitVec 5) (i : BitVec 16) (s : State) : Host.Outcome State Fault Refusal :=
  slotOp 0 (.slti d a i) s (unary 1 d a fun x => Word.ofBool (x.slt (i.signExtend 64)))

/-- SLTIU (R127): Unsigned compare with a sign-extended immediate. -/
def execSltiu (d : BitVec 5) (a : BitVec 5) (i : BitVec 16) (s : State) : Host.Outcome State Fault Refusal :=
  slotOp 0 (.sltiu d a i) s (unary 1 d a fun x => Word.ofBool (x.ult (i.signExtend 64)))

/-- SHLI (R128): Shift left by an immediate amount. -/
def execShli (d : BitVec 5) (a : BitVec 5) (c : BitVec 6) (s : State) : Host.Outcome State Fault Refusal :=
  slotOp 0 (.shli d a c) s (unary 1 d a fun x => x <<< c.toNat)

/-- SHRI (R128): Logical shift right by an immediate amount. -/
def execShri (d : BitVec 5) (a : BitVec 5) (c : BitVec 6) (s : State) : Host.Outcome State Fault Refusal :=
  slotOp 0 (.shri d a c) s (unary 1 d a fun x => x >>> c.toNat)

/-- SARI (R128): Arithmetic shift right by an immediate amount. -/
def execSari (d : BitVec 5) (a : BitVec 5) (c : BitVec 6) (s : State) : Host.Outcome State Fault Refusal :=
  slotOp 0 (.sari d a c) s (unary 1 d a fun x => x.sshiftRight c.toNat)

/-- ROLI (R128): Rotate left by an immediate amount. -/
def execRoli (d : BitVec 5) (a : BitVec 5) (c : BitVec 6) (s : State) : Host.Outcome State Fault Refusal :=
  slotOp 0 (.roli d a c) s (unary 1 d a fun x => x.rotateLeft c.toNat)

/-- CLZ (R132): Counts leading zero bits. -/
def execClz (d : BitVec 5) (a : BitVec 5) (s : State) : Host.Outcome State Fault Refusal :=
  slotOp 0 (.clz d a) s (unary 1 d a fun x => clz64 x)

/-- CTZ (R132): Counts trailing zero bits. -/
def execCtz (d : BitVec 5) (a : BitVec 5) (s : State) : Host.Outcome State Fault Refusal :=
  slotOp 0 (.ctz d a) s (unary 1 d a fun x => ctz64 x)

/-- POPC (R132): Counts set bits. -/
def execPopc (d : BitVec 5) (a : BitVec 5) (s : State) : Host.Outcome State Fault Refusal :=
  slotOp 0 (.popc d a) s (unary 1 d a fun x => popc64 x)

/-- BREV (R132): Reverses bit order. -/
def execBrev (d : BitVec 5) (a : BitVec 5) (s : State) : Host.Outcome State Fault Refusal :=
  slotOp 0 (.brev d a) s (unary 1 d a fun x => brev64 x)

/-- BYTREV (R132): Reverses byte order. -/
def execBytrev (d : BitVec 5) (a : BitVec 5) (s : State) : Host.Outcome State Fault Refusal :=
  slotOp 0 (.bytrev d a) s (unary 1 d a fun x => bytrev64 x)

/-- BFXI (R133): Extracts a sign-extended bit field with immediate offset and width. -/
def execBfxi (d : BitVec 5) (a : BitVec 5) (w : BitVec 7) (o : BitVec 6) (s : State) : Host.Outcome State Fault Refusal :=
  slotOp 0 (.bfxi d a w o) s (unary 1 d a fun x => bfExtract true x o.toNat w.toNat)

/-- MOVI (R129): Writes a sign-extended 21-bit immediate. -/
def execMovi (d : BitVec 5) (i : BitVec 21) (s : State) : Host.Outcome State Fault Refusal :=
  slotOp 0 (.movi d i) s (scalar 1 d fun _ => i.signExtend 64)

/-- MOVK (R129): Replaces one 16-bit field of s[d] with an immediate. -/
def execMovk (d : BitVec 5) (p : BitVec 2) (i : BitVec 16) (s : State) : Host.Outcome State Fault Refusal :=
  slotOp 0 (.movk d p i) s (scalar 1 d fun s => insertBits (s.sr d) (16 * p.toNat) 16 (i.zeroExtend 64))

/-- MUL (R130): Low 64 bits of the product, latency 3. -/
def execMul (d : BitVec 5) (a : BitVec 5) (b : BitVec 5) (s : State) : Host.Outcome State Fault Refusal :=
  slotOp 0 (.mul d a b) s (binary 3 d a b fun x y => BitVec.ofInt 64 (x.toInt * y.toInt))

/-- MULH (R130): High 64 bits of the signed product. -/
def execMulh (d : BitVec 5) (a : BitVec 5) (b : BitVec 5) (s : State) : Host.Outcome State Fault Refusal :=
  slotOp 0 (.mulh d a b) s (binary 3 d a b fun x y => BitVec.ofInt 64 (x.toInt * y.toInt / 2 ^ 64))

/-- MULHU (R130): High 64 bits of the unsigned product. -/
def execMulhu (d : BitVec 5) (a : BitVec 5) (b : BitVec 5) (s : State) : Host.Outcome State Fault Refusal :=
  slotOp 0 (.mulhu d a b) s (binary 3 d a b fun x y => BitVec.ofNat 64 (x.toNat * y.toNat / 2 ^ 64))

/-- MULHSU (R130): High 64 bits of signed by unsigned product. -/
def execMulhsu (d : BitVec 5) (a : BitVec 5) (b : BitVec 5) (s : State) : Host.Outcome State Fault Refusal :=
  slotOp 0 (.mulhsu d a b) s (binary 3 d a b fun x y => BitVec.ofInt 64 (x.toInt * y.toNat / 2 ^ 64))

/-- DIV (R131): Signed truncating division, latency 18, IDZ on zero divisor. -/
def execDiv (d : BitVec 5) (a : BitVec 5) (b : BitVec 5) (s : State) : Host.Outcome State Fault Refusal :=
  slotOp 0 (.div d a b) s (divide d a b divS)

/-- DIVU (R131): Unsigned division. -/
def execDivu (d : BitVec 5) (a : BitVec 5) (b : BitVec 5) (s : State) : Host.Outcome State Fault Refusal :=
  slotOp 0 (.divu d a b) s (divide d a b divU)

/-- REM (R131): Signed remainder. -/
def execRem (d : BitVec 5) (a : BitVec 5) (b : BitVec 5) (s : State) : Host.Outcome State Fault Refusal :=
  slotOp 0 (.rem d a b) s (divide d a b remS)

/-- REMU (R131): Unsigned remainder. -/
def execRemu (d : BitVec 5) (a : BitVec 5) (b : BitVec 5) (s : State) : Host.Outcome State Fault Refusal :=
  slotOp 0 (.remu d a b) s (divide d a b remU)

/-- BFX (R133): Extracts a sign-extended bit field given by a control register. -/
def execBfx (d : BitVec 5) (a : BitVec 5) (b : BitVec 5) (s : State) : Host.Outcome State Fault Refusal :=
  slotOp 0 (.bfx d a b) s (binary 1 d a b fun x y => bfExtract true x (wfld y 0 8) (wfld y 8 8))

/-- BFXZ (R133): Extracts a zero-extended bit field given by a control register. -/
def execBfxz (d : BitVec 5) (a : BitVec 5) (b : BitVec 5) (s : State) : Host.Outcome State Fault Refusal :=
  slotOp 0 (.bfxz d a b) s (binary 1 d a b fun x y => bfExtract false x (wfld y 0 8) (wfld y 8 8))

/-- BFI (R133): Inserts a bit field given by a control register. -/
def execBfi (d : BitVec 5) (a : BitVec 5) (b : BitVec 5) (s : State) : Host.Outcome State Fault Refusal :=
  slotOp 0 (.bfi d a b) s (binary 1 d a b fun x y => bfInsert (s.sr d) x (wfld y 0 8) (wfld y 8 8))

/-- BFII (R133): Inserts a bit field with immediate offset and width. -/
def execBfii (d : BitVec 5) (a : BitVec 5) (w : BitVec 7) (o : BitVec 6) (s : State) : Host.Outcome State Fault Refusal :=
  slotOp 0 (.bfii d a w o) s (unary 1 d a fun x => bfInsert (s.sr d) x o.toNat w.toNat)

/-- SEL (R134): Selects s[a] or s[b] by whether s[c] is nonzero. -/
def execSel (d : BitVec 5) (a : BitVec 5) (b : BitVec 5) (c : BitVec 5) (s : State) : Host.Outcome State Fault Refusal :=
  slotOp 0 (.sel d a b c) s (scalar 1 d fun s => if s.sr c ≠ 0 then s.sr a else s.sr b)

end Sys2Proof.Machine
end

