-- ==== Sys2Proof/Machine/Vector.lean ====
section
/-! DEFINITION. The instructions of the V slot (R86 to R111). -/

namespace Sys2Proof.Machine

/-- VADD (R86): Lane-wise add. -/
def execVadd (d : BitVec 5) (a : BitVec 5) (b : BitVec 5) (p : BitVec 3) (t : BitVec 3) (s : State) : Host.Outcome State Fault Refusal :=
  slotOp 1 (.vadd d a b p t) s fun s => lane2 (arithLat t) d a b p t (fun t x y => elArith 0 t s.rm x y) s

/-- VSUB (R86): Lane-wise subtract. -/
def execVsub (d : BitVec 5) (a : BitVec 5) (b : BitVec 5) (p : BitVec 3) (t : BitVec 3) (s : State) : Host.Outcome State Fault Refusal :=
  slotOp 1 (.vsub d a b p t) s fun s => lane2 (arithLat t) d a b p t (fun t x y => elArith 1 t s.rm x y) s

/-- VMUL (R86): Lane-wise multiply. -/
def execVmul (d : BitVec 5) (a : BitVec 5) (b : BitVec 5) (p : BitVec 3) (t : BitVec 3) (s : State) : Host.Outcome State Fault Refusal :=
  slotOp 1 (.vmul d a b p t) s fun s => lane2 (arithLat t) d a b p t (fun t x y => elArith 2 t s.rm x y) s

/-- VFMA (R86): Fused multiply-add into vd. -/
def execVfma (d : BitVec 5) (a : BitVec 5) (b : BitVec 5) (p : BitVec 3) (t : BitVec 3) (s : State) : Host.Outcome State Fault Refusal :=
  slotOp 1 (.vfma d a b p t) s (lanewise (arithLat t) d p t fun s l e =>
    elFused false false t.toNat s.rm (s.el t.toNat a l e) (s.el t.toNat b l e) (s.el t.toNat d l e))

/-- VFMS (R86): Fused multiply-subtract. -/
def execVfms (d : BitVec 5) (a : BitVec 5) (b : BitVec 5) (p : BitVec 3) (t : BitVec 3) (s : State) : Host.Outcome State Fault Refusal :=
  slotOp 1 (.vfms d a b p t) s (lanewise (arithLat t) d p t fun s l e =>
    elFused false true t.toNat s.rm (s.el t.toNat a l e) (s.el t.toNat b l e) (s.el t.toNat d l e))

/-- VFNMA (R86): Negated fused multiply-add. -/
def execVfnma (d : BitVec 5) (a : BitVec 5) (b : BitVec 5) (p : BitVec 3) (t : BitVec 3) (s : State) : Host.Outcome State Fault Refusal :=
  slotOp 1 (.vfnma d a b p t) s (lanewise (arithLat t) d p t fun s l e =>
    elFused true false t.toNat s.rm (s.el t.toNat a l e) (s.el t.toNat b l e) (s.el t.toNat d l e))

/-- VMIN (R87): Lane-wise minimum. -/
def execVmin (d : BitVec 5) (a : BitVec 5) (b : BitVec 5) (p : BitVec 3) (t : BitVec 3) (s : State) : Host.Outcome State Fault Refusal :=
  slotOp 1 (.vmin d a b p t) s (lane2 (arithLat t) d a b p t (elMinMax false))

/-- VMAX (R87): Lane-wise maximum. -/
def execVmax (d : BitVec 5) (a : BitVec 5) (b : BitVec 5) (p : BitVec 3) (t : BitVec 3) (s : State) : Host.Outcome State Fault Refusal :=
  slotOp 1 (.vmax d a b p t) s (lane2 (arithLat t) d a b p t (elMinMax true))

/-- VDIV (R88): Lane-wise division. -/
def execVdiv (d : BitVec 5) (a : BitVec 5) (b : BitVec 5) (p : BitVec 3) (t : BitVec 3) (s : State) : Host.Outcome State Fault Refusal :=
  slotOp 1 (.vdiv d a b p t) s fun s => lane2 16 d a b p t (fun t x y => elDiv t s.rm x y) s

/-- VSQRT (R88): Lane-wise square root. -/
def execVsqrt (d : BitVec 5) (a : BitVec 5) (p : BitVec 3) (t : BitVec 3) (s : State) : Host.Outcome State Fault Refusal :=
  slotOp 1 (.vsqrt d a p t) s fun s => lane1 16 d a p t (fun t x => (ffmtOf t).sqrt s.rm x) s

/-- VRCP (R89): Faithful reciprocal. -/
def execVrcp (d : BitVec 5) (a : BitVec 5) (p : BitVec 3) (t : BitVec 3) (s : State) : Host.Outcome State Fault Refusal :=
  slotOp 1 (.vrcp d a p t) s (special1 0 d a p t)

/-- VRSQ (R89): Faithful reciprocal square root. -/
def execVrsq (d : BitVec 5) (a : BitVec 5) (p : BitVec 3) (t : BitVec 3) (s : State) : Host.Outcome State Fault Refusal :=
  slotOp 1 (.vrsq d a p t) s (special1 1 d a p t)

/-- VEXP2 (R89): Faithful power of two. -/
def execVexp2 (d : BitVec 5) (a : BitVec 5) (p : BitVec 3) (t : BitVec 3) (s : State) : Host.Outcome State Fault Refusal :=
  slotOp 1 (.vexp2 d a p t) s (special1 2 d a p t)

/-- VLOG2 (R89): Faithful base-2 logarithm. -/
def execVlog2 (d : BitVec 5) (a : BitVec 5) (p : BitVec 3) (t : BitVec 3) (s : State) : Host.Outcome State Fault Refusal :=
  slotOp 1 (.vlog2 d a p t) s (special1 3 d a p t)

/-- VTANH (R89): Faithful hyperbolic tangent. -/
def execVtanh (d : BitVec 5) (a : BitVec 5) (p : BitVec 3) (t : BitVec 3) (s : State) : Host.Outcome State Fault Refusal :=
  slotOp 1 (.vtanh d a p t) s (special1 4 d a p t)

/-- VCVT (R91): Converts element type with a static rounding mode and part number. -/
def execVcvt (d : BitVec 5) (a : BitVec 5) (k : BitVec 5) (p : BitVec 3) (t : BitVec 3) (u : BitVec 3) (r : BitVec 2) (s : State) : Host.Outcome State Fault Refusal :=
  slotOp 1 (.vcvt d a k p t u r) s (convert d a k p t u r)

/-- VCMP_EQ (R92): Writes a predicate of lanes whose elements are equal. -/
def execVcmpEq (q : BitVec 3) (a : BitVec 5) (b : BitVec 5) (p : BitVec 3) (t : BitVec 3) (s : State) : Host.Outcome State Fault Refusal :=
  slotOp 1 (.vcmpEq q a b p t) s (compareV 0 q a b p t)

/-- VCMP_NE (R92): Predicate of not-equal lanes. -/
def execVcmpNe (q : BitVec 3) (a : BitVec 5) (b : BitVec 5) (p : BitVec 3) (t : BitVec 3) (s : State) : Host.Outcome State Fault Refusal :=
  slotOp 1 (.vcmpNe q a b p t) s (compareV 1 q a b p t)

/-- VCMP_LT (R92): Predicate of less-than lanes. -/
def execVcmpLt (q : BitVec 3) (a : BitVec 5) (b : BitVec 5) (p : BitVec 3) (t : BitVec 3) (s : State) : Host.Outcome State Fault Refusal :=
  slotOp 1 (.vcmpLt q a b p t) s (compareV 2 q a b p t)

/-- VCMP_LE (R92): Predicate of less-or-equal lanes. -/
def execVcmpLe (q : BitVec 3) (a : BitVec 5) (b : BitVec 5) (p : BitVec 3) (t : BitVec 3) (s : State) : Host.Outcome State Fault Refusal :=
  slotOp 1 (.vcmpLe q a b p t) s (compareV 3 q a b p t)

/-- VCMP_GT (R92): Predicate of greater-than lanes. -/
def execVcmpGt (q : BitVec 3) (a : BitVec 5) (b : BitVec 5) (p : BitVec 3) (t : BitVec 3) (s : State) : Host.Outcome State Fault Refusal :=
  slotOp 1 (.vcmpGt q a b p t) s (compareV 4 q a b p t)

/-- VCMP_GE (R92): Predicate of greater-or-equal lanes. -/
def execVcmpGe (q : BitVec 3) (a : BitVec 5) (b : BitVec 5) (p : BitVec 3) (t : BitVec 3) (s : State) : Host.Outcome State Fault Refusal :=
  slotOp 1 (.vcmpGe q a b p t) s (compareV 5 q a b p t)

/-- VCMP_UNORD (R92): Predicate of lanes with a NaN operand. -/
def execVcmpUnord (q : BitVec 3) (a : BitVec 5) (b : BitVec 5) (p : BitVec 3) (t : BitVec 3) (s : State) : Host.Outcome State Fault Refusal :=
  slotOp 1 (.vcmpUnord q a b p t) s (compareV 6 q a b p t)

/-- VCMP_ORD (R92): Predicate of lanes without a NaN operand. -/
def execVcmpOrd (q : BitVec 3) (a : BitVec 5) (b : BitVec 5) (p : BitVec 3) (t : BitVec 3) (s : State) : Host.Outcome State Fault Refusal :=
  slotOp 1 (.vcmpOrd q a b p t) s (compareV 7 q a b p t)

/-- VSEL (R93): Selects each lane from va or vb by a predicate. -/
def execVsel (d : BitVec 5) (a : BitVec 5) (b : BitVec 5) (p : BitVec 3) (s : State) : Host.Outcome State Fault Refusal :=
  slotOp 1 (.vsel d a b p) s (wholeLanes 2 d fun s l => some (if (s.pr p.toNat).getLsbD l then s.vr a l else s.vr b l))

/-- VAND (R94): Bitwise AND of lanes. -/
def execVand (d : BitVec 5) (a : BitVec 5) (b : BitVec 5) (p : BitVec 3) (s : State) : Host.Outcome State Fault Refusal :=
  slotOp 1 (.vand d a b p) s (onWhole 2 d p fun s l => s.vr a l &&& s.vr b l)

/-- VOR (R94): Bitwise OR of lanes. -/
def execVor (d : BitVec 5) (a : BitVec 5) (b : BitVec 5) (p : BitVec 3) (s : State) : Host.Outcome State Fault Refusal :=
  slotOp 1 (.vor d a b p) s (onWhole 2 d p fun s l => s.vr a l ||| s.vr b l)

/-- VXOR (R94): Bitwise XOR of lanes. -/
def execVxor (d : BitVec 5) (a : BitVec 5) (b : BitVec 5) (p : BitVec 3) (s : State) : Host.Outcome State Fault Refusal :=
  slotOp 1 (.vxor d a b p) s (onWhole 2 d p fun s l => s.vr a l ^^^ s.vr b l)

/-- VANDN (R94): va AND NOT vb. -/
def execVandn (d : BitVec 5) (a : BitVec 5) (b : BitVec 5) (p : BitVec 3) (s : State) : Host.Outcome State Fault Refusal :=
  slotOp 1 (.vandn d a b p) s (onWhole 2 d p fun s l => s.vr a l &&& ~~~s.vr b l)

/-- VNOT (R94): Bitwise NOT of lanes. -/
def execVnot (d : BitVec 5) (a : BitVec 5) (p : BitVec 3) (s : State) : Host.Outcome State Fault Refusal :=
  slotOp 1 (.vnot d a p) s (onWhole 2 d p fun s l => ~~~s.vr a l)

/-- VMOV (R98): Copies on lanes of va into vd. -/
def execVmov (d : BitVec 5) (a : BitVec 5) (p : BitVec 3) (s : State) : Host.Outcome State Fault Refusal :=
  slotOp 1 (.vmov d a p) s (onWhole 2 d p fun s l => s.vr a l)

/-- VSHL (R95): Per-element shift left by register amounts. -/
def execVshl (d : BitVec 5) (a : BitVec 5) (b : BitVec 5) (p : BitVec 3) (t : BitVec 3) (s : State) : Host.Outcome State Fault Refusal :=
  slotOp 1 (.vshl d a b p t) s (lane2 2 d a b p t (elShift 0))

/-- VSHR (R95): Per-element logical shift right by register amounts. -/
def execVshr (d : BitVec 5) (a : BitVec 5) (b : BitVec 5) (p : BitVec 3) (t : BitVec 3) (s : State) : Host.Outcome State Fault Refusal :=
  slotOp 1 (.vshr d a b p t) s (lane2 2 d a b p t (elShift 1))

/-- VSAR (R95): Per-element arithmetic shift right by register amounts. -/
def execVsar (d : BitVec 5) (a : BitVec 5) (b : BitVec 5) (p : BitVec 3) (t : BitVec 3) (s : State) : Host.Outcome State Fault Refusal :=
  slotOp 1 (.vsar d a b p t) s (lane2 2 d a b p t (elShift 2))

/-- VSHLI (R95): Shift left by an immediate, unpredicated. -/
def execVshli (d : BitVec 5) (a : BitVec 5) (c : BitVec 6) (t : BitVec 3) (s : State) : Host.Outcome State Fault Refusal :=
  slotOp 1 (.vshli d a c t) s (lane1 2 d a 0 t fun t x => elShift 0 t x c.toNat)

/-- VSHRI (R95): Logical shift right by an immediate. -/
def execVshri (d : BitVec 5) (a : BitVec 5) (c : BitVec 6) (t : BitVec 3) (s : State) : Host.Outcome State Fault Refusal :=
  slotOp 1 (.vshri d a c t) s (lane1 2 d a 0 t fun t x => elShift 1 t x c.toNat)

/-- VSARI (R95): Arithmetic shift right by an immediate. -/
def execVsari (d : BitVec 5) (a : BitVec 5) (c : BitVec 6) (t : BitVec 3) (s : State) : Host.Outcome State Fault Refusal :=
  slotOp 1 (.vsari d a c t) s (lane1 2 d a 0 t fun t x => elShift 2 t x c.toNat)

/-- VADDS (R96): Saturating add. -/
def execVadds (d : BitVec 5) (a : BitVec 5) (b : BitVec 5) (p : BitVec 3) (t : BitVec 3) (s : State) : Host.Outcome State Fault Refusal :=
  slotOp 1 (.vadds d a b p t) s (lane2 2 d a b p t (elSat false))

/-- VSUBS (R96): Saturating subtract. -/
def execVsubs (d : BitVec 5) (a : BitVec 5) (b : BitVec 5) (p : BitVec 3) (t : BitVec 3) (s : State) : Host.Outcome State Fault Refusal :=
  slotOp 1 (.vsubs d a b p t) s (lane2 2 d a b p t (elSat true))

/-- VABS (R97): Absolute value. -/
def execVabs (d : BitVec 5) (a : BitVec 5) (p : BitVec 3) (t : BitVec 3) (s : State) : Host.Outcome State Fault Refusal :=
  slotOp 1 (.vabs d a p t) s (lane1 2 d a p t (elSign false))

/-- VNEG (R97): Negation. -/
def execVneg (d : BitVec 5) (a : BitVec 5) (p : BitVec 3) (t : BitVec 3) (s : State) : Host.Outcome State Fault Refusal :=
  slotOp 1 (.vneg d a p t) s (lane1 2 d a p t (elSign true))

/-- VCLZ (R97): Leading zero count per element. -/
def execVclz (d : BitVec 5) (a : BitVec 5) (p : BitVec 3) (t : BitVec 3) (s : State) : Host.Outcome State Fault Refusal :=
  slotOp 1 (.vclz d a p t) s (lane1 2 d a p t elClz)

/-- VPOPC (R97): Set-bit count per element. -/
def execVpopc (d : BitVec 5) (a : BitVec 5) (p : BitVec 3) (t : BitVec 3) (s : State) : Host.Outcome State Fault Refusal :=
  slotOp 1 (.vpopc d a p t) s (lane1 2 d a p t elPopc)

/-- VBCAST (R99): Broadcasts a scalar into every element of the on lanes. -/
def execVbcast (d : BitVec 5) (sf : BitVec 5) (p : BitVec 3) (t : BitVec 3) (s : State) : Host.Outcome State Fault Refusal :=
  slotOp 1 (.vbcast d sf p t) s (lanewise 2 d p t fun s _ _ => (nfld (s.sr sf).toNat 0 (elemW t.toNat), 0))

/-- VEXT (R100): Extracts one element into a scalar. -/
def execVext (d : BitVec 5) (a : BitVec 5) (b : BitVec 5) (t : BitVec 3) (s : State) : Host.Outcome State Fault Refusal :=
  slotOp 1 (.vext d a b t) s fun s =>
    let (l, e) := elemIndex t.toNat (s.sr b)
    let v := s.el t.toNat a l e
    .ok (s.later 1 3 (.s d.toNat (if t = 2 ∨ t = 7 then sextNat (elemW t.toNat) v else BitVec.ofNat 64 v)))

/-- VINS (R100): Inserts a scalar into one element. -/
def execVins (d : BitVec 5) (sf : BitVec 5) (b : BitVec 5) (p : BitVec 3) (t : BitVec 3) (s : State) : Host.Outcome State Fault Refusal :=
  slotOp 1 (.vins d sf b p t) s fun s =>
    let (l, e) := elemIndex t.toNat (s.sr b)
    .ok (s.later 1 2 (.v d.toNat (tab 128 fun i =>
      if i = l ∧ (s.pr p.toNat).getLsbD l then elemPut t.toNat e (nfld (s.sr sf).toNat 0 (elemW t.toNat)) else (0, 0))))

/-- VIMM (R101): Writes an immediate constant into every element of every lane. -/
def execVimm (d : BitVec 5) (i : BitVec 8) (t : BitVec 3) (s : State) : Host.Outcome State Fault Refusal :=
  slotOp 1 (.vimm d i t) s fun s => lanewise 2 d 0 t (fun s _ _ => (immElem t.toNat s.iss.hdr.isSome (s.wide 1 8 i.toNat), 0)) s

/-- VRED_ADD (R102): Fixed-tree sum over a lane cluster or the core. -/
def execVredAdd (d : BitVec 5) (a : BitVec 5) (p : BitVec 3) (t : BitVec 3) (sf : BitVec 1) (s : State) : Host.Outcome State Fault Refusal :=
  slotOp 1 (.vredAdd d a p t sf) s (reduceV 0 d a p t (sf == 1))

/-- VRED_MIN (R102): Fixed-tree minimum reduction. -/
def execVredMin (d : BitVec 5) (a : BitVec 5) (p : BitVec 3) (t : BitVec 3) (sf : BitVec 1) (s : State) : Host.Outcome State Fault Refusal :=
  slotOp 1 (.vredMin d a p t sf) s (reduceV 1 d a p t (sf == 1))

/-- VRED_MAX (R102): Fixed-tree maximum reduction. -/
def execVredMax (d : BitVec 5) (a : BitVec 5) (p : BitVec 3) (t : BitVec 3) (sf : BitVec 1) (s : State) : Host.Outcome State Fault Refusal :=
  slotOp 1 (.vredMax d a p t sf) s (reduceV 2 d a p t (sf == 1))

/-- VSHUF (R103): Permutes whole lanes across the core by an index vector. -/
def execVshuf (d : BitVec 5) (a : BitVec 5) (b : BitVec 5) (p : BitVec 3) (s : State) : Host.Outcome State Fault Refusal :=
  slotOp 1 (.vshuf d a b p) s (onWhole 3 d p fun s l => s.pick a ((s.vr b l).toNat % 256))

/-- VPAT (R105): Applies a stored pattern, optionally swapping pattern banks first. -/
def execVpat (d : BitVec 5) (a : BitVec 5) (n : BitVec 5) (p : BitVec 3) (w : BitVec 1) (h : BitVec 1) (s : State) : Host.Outcome State Fault Refusal :=
  slotOp 1 (.vpat d a n p w h) s (patternV d a (n.toNat + 32 * h.toNat) p (w == 1))

/-- XCOPY (R106): Copies one lane cluster's lanes into the lane clusters of a mask. -/
def execXcopy (d : BitVec 5) (a : BitVec 5) (b : BitVec 5) (p : BitVec 3) (c : BitVec 3) (s : State) : Host.Outcome State Fault Refusal :=
  slotOp 1 (.xcopy d a b p c) s (crossCopy d a b p c.toNat)

/-- VTOPK (R107): Ranks the k best values of a group with their indices. -/
def execVtopk (d : BitVec 5) (a : BitVec 5) (p : BitVec 3) (t : BitVec 3) (sf : BitVec 1) (k : BitVec 3) (s : State) : Host.Outcome State Fault Refusal :=
  slotOp 1 (.vtopk d a p t sf k) s (topk d a p t (sf == 1) (k.toNat + 1))

/-- VIOTA (R108): Writes each on lane's number. -/
def execViota (d : BitVec 5) (p : BitVec 3) (t : BitVec 3) (s : State) : Host.Outcome State Fault Refusal :=
  slotOp 1 (.viota d p t) s (lanewise 2 d p t fun _ l _ => (l, 0))

/-- VIOTA_CNT (R108): Writes the count of set predicate bits below each lane. -/
def execViotaCnt (d : BitVec 5) (p : BitVec 3) (t : BitVec 3) (s : State) : Host.Outcome State Fault Refusal :=
  slotOp 1 (.viotaCnt d p t) s (lanewise 2 d 0 t fun s l _ => (popBelow (s.pr p.toNat).toNat l, 0))

/-- PAND (R109): Predicate AND. -/
def execPand (d : BitVec 5) (a : BitVec 5) (b : BitVec 5) (s : State) : Host.Outcome State Fault Refusal :=
  slotOp 1 (.pand d a b) s fun s => .ok (s.later 1 1 (.p d.toNat (s.pr a.toNat &&& s.pr b.toNat)))

/-- POR (R109): Predicate OR. -/
def execPor (d : BitVec 5) (a : BitVec 5) (b : BitVec 5) (s : State) : Host.Outcome State Fault Refusal :=
  slotOp 1 (.por d a b) s fun s => .ok (s.later 1 1 (.p d.toNat (s.pr a.toNat ||| s.pr b.toNat)))

/-- PXOR (R109): Predicate XOR. -/
def execPxor (d : BitVec 5) (a : BitVec 5) (b : BitVec 5) (s : State) : Host.Outcome State Fault Refusal :=
  slotOp 1 (.pxor d a b) s fun s => .ok (s.later 1 1 (.p d.toNat (s.pr a.toNat ^^^ s.pr b.toNat)))

/-- PNOT (R109): Predicate NOT. -/
def execPnot (d : BitVec 5) (a : BitVec 5) (s : State) : Host.Outcome State Fault Refusal :=
  slotOp 1 (.pnot d a) s fun s => .ok (s.later 1 1 (.p d.toNat (~~~s.pr a.toNat)))

/-- PMOV (R109): Predicate copy. -/
def execPmov (d : BitVec 5) (a : BitVec 5) (s : State) : Host.Outcome State Fault Refusal :=
  slotOp 1 (.pmov d a) s fun s => .ok (s.later 1 1 (.p d.toNat (s.pr a.toNat)))

/-- PCNT (R110): Counts set bits of a masked predicate into a scalar. -/
def execPcnt (d : BitVec 5) (a : BitVec 5) (p : BitVec 3) (s : State) : Host.Outcome State Fault Refusal :=
  slotOp 1 (.pcnt d a p) s fun s => .ok (s.later 1 2 (.s d.toNat (BitVec.ofNat 64 (popBelow (s.pr a.toNat &&& s.pr p.toNat).toNat 128))))

/-- PFIRST (R110): Finds the lowest set bit of a masked predicate. -/
def execPfirst (d : BitVec 5) (a : BitVec 5) (p : BitVec 3) (s : State) : Host.Outcome State Fault Refusal :=
  slotOp 1 (.pfirst d a p) s fun s => .ok (s.later 1 2 (.s d.toNat (BitVec.ofNat 64 ((firstBelow 128 fun l => (s.pr a.toNat &&& s.pr p.toNat).getLsbD l).getD 128))))

/-- RQPOP (R111): Pops the oldest result-queue entry into a vector, optionally its valid bits into a predicate. -/
def execRqpop (d : BitVec 5) (a : BitVec 5) (p : BitVec 3) (f : BitVec 1) (k : BitVec 3) (s : State) : Host.Outcome State Fault Refusal :=
  slotOp 1 (.rqpop d a p f k) s (popResult d a.toNat p (if f = 1 then some k.toNat else none))

end Sys2Proof.Machine
end

