-- ==== Sys2Proof/Machine/Dispatch.lean ====
section
/-! DEFINITION. The meaning of every instruction, one arm for each constructor of `Instr`. -/

namespace Sys2Proof.Machine

def exec (i : Instr) (s : State) : Host.Outcome State Fault Refusal :=
  match i with
  | .nop => Sys2Proof.Machine.execNop s
  | .xhdr e f g => Sys2Proof.Machine.execXhdr e f g s
  | .add d a b => Sys2Proof.Machine.execAdd d a b s
  | .sub d a b => Sys2Proof.Machine.execSub d a b s
  | .and d a b => Sys2Proof.Machine.execAnd d a b s
  | .or d a b => Sys2Proof.Machine.execOr d a b s
  | .xor d a b => Sys2Proof.Machine.execXor d a b s
  | .andn d a b => Sys2Proof.Machine.execAndn d a b s
  | .shl d a b => Sys2Proof.Machine.execShl d a b s
  | .shr d a b => Sys2Proof.Machine.execShr d a b s
  | .sar d a b => Sys2Proof.Machine.execSar d a b s
  | .rol d a b => Sys2Proof.Machine.execRol d a b s
  | .ror d a b => Sys2Proof.Machine.execRor d a b s
  | .min d a b => Sys2Proof.Machine.execMin d a b s
  | .max d a b => Sys2Proof.Machine.execMax d a b s
  | .minu d a b => Sys2Proof.Machine.execMinu d a b s
  | .maxu d a b => Sys2Proof.Machine.execMaxu d a b s
  | .slt d a b => Sys2Proof.Machine.execSlt d a b s
  | .sltu d a b => Sys2Proof.Machine.execSltu d a b s
  | .seq d a b => Sys2Proof.Machine.execSeq d a b s
  | .sne d a b => Sys2Proof.Machine.execSne d a b s
  | .addi d a imm => Sys2Proof.Machine.execAddi d a imm s
  | .andi d a imm => Sys2Proof.Machine.execAndi d a imm s
  | .ori d a imm => Sys2Proof.Machine.execOri d a imm s
  | .xori d a imm => Sys2Proof.Machine.execXori d a imm s
  | .slti d a imm => Sys2Proof.Machine.execSlti d a imm s
  | .sltiu d a imm => Sys2Proof.Machine.execSltiu d a imm s
  | .shli d a c => Sys2Proof.Machine.execShli d a c s
  | .shri d a c => Sys2Proof.Machine.execShri d a c s
  | .sari d a c => Sys2Proof.Machine.execSari d a c s
  | .roli d a c => Sys2Proof.Machine.execRoli d a c s
  | .movi d imm => Sys2Proof.Machine.execMovi d imm s
  | .movk d p imm => Sys2Proof.Machine.execMovk d p imm s
  | .mul d a b => Sys2Proof.Machine.execMul d a b s
  | .mulh d a b => Sys2Proof.Machine.execMulh d a b s
  | .mulhu d a b => Sys2Proof.Machine.execMulhu d a b s
  | .mulhsu d a b => Sys2Proof.Machine.execMulhsu d a b s
  | .div d a b => Sys2Proof.Machine.execDiv d a b s
  | .divu d a b => Sys2Proof.Machine.execDivu d a b s
  | .rem d a b => Sys2Proof.Machine.execRem d a b s
  | .remu d a b => Sys2Proof.Machine.execRemu d a b s
  | .clz d a => Sys2Proof.Machine.execClz d a s
  | .ctz d a => Sys2Proof.Machine.execCtz d a s
  | .popc d a => Sys2Proof.Machine.execPopc d a s
  | .brev d a => Sys2Proof.Machine.execBrev d a s
  | .bytrev d a => Sys2Proof.Machine.execBytrev d a s
  | .bfx d a b => Sys2Proof.Machine.execBfx d a b s
  | .bfxz d a b => Sys2Proof.Machine.execBfxz d a b s
  | .bfxi d a w o => Sys2Proof.Machine.execBfxi d a w o s
  | .bfi d a b => Sys2Proof.Machine.execBfi d a b s
  | .bfii d a w o => Sys2Proof.Machine.execBfii d a w o s
  | .sel d a b c => Sys2Proof.Machine.execSel d a b c s
  | .beq a b o => Sys2Proof.Machine.execBeq a b o s
  | .bne a b o => Sys2Proof.Machine.execBne a b o s
  | .blt a b o => Sys2Proof.Machine.execBlt a b o s
  | .bge a b o => Sys2Proof.Machine.execBge a b o s
  | .bltu a b o => Sys2Proof.Machine.execBltu a b o s
  | .bgeu a b o => Sys2Proof.Machine.execBgeu a b o s
  | .j o => Sys2Proof.Machine.execJ o s
  | .jal o => Sys2Proof.Machine.execJal o s
  | .jr d a => Sys2Proof.Machine.execJr d a s
  | .loop a o => Sys2Proof.Machine.execLoop a o s
  | .loopi n o => Sys2Proof.Machine.execLoopi n o s
  | .jbank d imm => Sys2Proof.Machine.execJbank d imm s
  | .mfs d imm => Sys2Proof.Machine.execMfs d imm s
  | .mts a imm => Sys2Proof.Machine.execMts a imm s
  | .stop => Sys2Proof.Machine.execStop s
  | .yield => Sys2Proof.Machine.execYield s
  | .brk => Sys2Proof.Machine.execBrk s
  | .trap a => Sys2Proof.Machine.execTrap a s
  | .ecall imm => Sys2Proof.Machine.execEcall imm s
  | .vadd d a b p t => Sys2Proof.Machine.execVadd d a b p t s
  | .vsub d a b p t => Sys2Proof.Machine.execVsub d a b p t s
  | .vmul d a b p t => Sys2Proof.Machine.execVmul d a b p t s
  | .vfma d a b p t => Sys2Proof.Machine.execVfma d a b p t s
  | .vfms d a b p t => Sys2Proof.Machine.execVfms d a b p t s
  | .vfnma d a b p t => Sys2Proof.Machine.execVfnma d a b p t s
  | .vmin d a b p t => Sys2Proof.Machine.execVmin d a b p t s
  | .vmax d a b p t => Sys2Proof.Machine.execVmax d a b p t s
  | .vdiv d a b p t => Sys2Proof.Machine.execVdiv d a b p t s
  | .vsqrt d a p t => Sys2Proof.Machine.execVsqrt d a p t s
  | .vrcp d a p t => Sys2Proof.Machine.execVrcp d a p t s
  | .vrsq d a p t => Sys2Proof.Machine.execVrsq d a p t s
  | .vexp2 d a p t => Sys2Proof.Machine.execVexp2 d a p t s
  | .vlog2 d a p t => Sys2Proof.Machine.execVlog2 d a p t s
  | .vtanh d a p t => Sys2Proof.Machine.execVtanh d a p t s
  | .vcvt d a k p t u r => Sys2Proof.Machine.execVcvt d a k p t u r s
  | .vcmpEq q a b p t => Sys2Proof.Machine.execVcmpEq q a b p t s
  | .vcmpNe q a b p t => Sys2Proof.Machine.execVcmpNe q a b p t s
  | .vcmpLt q a b p t => Sys2Proof.Machine.execVcmpLt q a b p t s
  | .vcmpLe q a b p t => Sys2Proof.Machine.execVcmpLe q a b p t s
  | .vcmpGt q a b p t => Sys2Proof.Machine.execVcmpGt q a b p t s
  | .vcmpGe q a b p t => Sys2Proof.Machine.execVcmpGe q a b p t s
  | .vcmpUnord q a b p t => Sys2Proof.Machine.execVcmpUnord q a b p t s
  | .vcmpOrd q a b p t => Sys2Proof.Machine.execVcmpOrd q a b p t s
  | .vsel d a b p => Sys2Proof.Machine.execVsel d a b p s
  | .vand d a b p => Sys2Proof.Machine.execVand d a b p s
  | .vor d a b p => Sys2Proof.Machine.execVor d a b p s
  | .vxor d a b p => Sys2Proof.Machine.execVxor d a b p s
  | .vandn d a b p => Sys2Proof.Machine.execVandn d a b p s
  | .vnot d a p => Sys2Proof.Machine.execVnot d a p s
  | .vshl d a b p t => Sys2Proof.Machine.execVshl d a b p t s
  | .vshr d a b p t => Sys2Proof.Machine.execVshr d a b p t s
  | .vsar d a b p t => Sys2Proof.Machine.execVsar d a b p t s
  | .vshli d a c t => Sys2Proof.Machine.execVshli d a c t s
  | .vshri d a c t => Sys2Proof.Machine.execVshri d a c t s
  | .vsari d a c t => Sys2Proof.Machine.execVsari d a c t s
  | .vadds d a b p t => Sys2Proof.Machine.execVadds d a b p t s
  | .vsubs d a b p t => Sys2Proof.Machine.execVsubs d a b p t s
  | .vabs d a p t => Sys2Proof.Machine.execVabs d a p t s
  | .vneg d a p t => Sys2Proof.Machine.execVneg d a p t s
  | .vclz d a p t => Sys2Proof.Machine.execVclz d a p t s
  | .vpopc d a p t => Sys2Proof.Machine.execVpopc d a p t s
  | .vmov d a p => Sys2Proof.Machine.execVmov d a p s
  | .vbcast d sf p t => Sys2Proof.Machine.execVbcast d sf p t s
  | .vext d a b t => Sys2Proof.Machine.execVext d a b t s
  | .vins d sf b p t => Sys2Proof.Machine.execVins d sf b p t s
  | .vimm d imm t => Sys2Proof.Machine.execVimm d imm t s
  | .vredAdd d a p t sf => Sys2Proof.Machine.execVredAdd d a p t sf s
  | .vredMin d a p t sf => Sys2Proof.Machine.execVredMin d a p t sf s
  | .vredMax d a p t sf => Sys2Proof.Machine.execVredMax d a p t sf s
  | .vshuf d a b p => Sys2Proof.Machine.execVshuf d a b p s
  | .vpat d a n p w h => Sys2Proof.Machine.execVpat d a n p w h s
  | .xcopy d a b p c => Sys2Proof.Machine.execXcopy d a b p c s
  | .vtopk d a p t sf k => Sys2Proof.Machine.execVtopk d a p t sf k s
  | .viota d p t => Sys2Proof.Machine.execViota d p t s
  | .viotaCnt d p t => Sys2Proof.Machine.execViotaCnt d p t s
  | .pand d a b => Sys2Proof.Machine.execPand d a b s
  | .por d a b => Sys2Proof.Machine.execPor d a b s
  | .pxor d a b => Sys2Proof.Machine.execPxor d a b s
  | .pnot d a => Sys2Proof.Machine.execPnot d a s
  | .pmov d a => Sys2Proof.Machine.execPmov d a s
  | .pcnt d a p => Sys2Proof.Machine.execPcnt d a p s
  | .pfirst d a p => Sys2Proof.Machine.execPfirst d a p s
  | .rqpop d a p f k => Sys2Proof.Machine.execRqpop d a p f k s
  | .tmmaWs t a b f z sf => Sys2Proof.Machine.execTmmaWs t a b f z sf s
  | .tmmaGr t a b f z sf => Sys2Proof.Machine.execTmmaGr t a b f z sf s
  | .tmmaCs t a b f z sf => Sys2Proof.Machine.execTmmaCs t a b f z sf s
  | .tzero t k sf => Sys2Proof.Machine.execTzero t k sf s
  | .tldc t d sf => Sys2Proof.Machine.execTldc t d sf s
  | .tstc t d => Sys2Proof.Machine.execTstc t d s
  | .tdrainF t d a r b => Sys2Proof.Machine.execTdrainF t d a r b s
  | .tdrainBf t d a r b => Sys2Proof.Machine.execTdrainBf t d a r b s
  | .tdrainRaw t d => Sys2Proof.Machine.execTdrainRaw t d s
  | .tsclA t d k g h => Sys2Proof.Machine.execTsclA t d k g h s
  | .tsclB t d k g => Sys2Proof.Machine.execTsclB t d k g s
  | .tldb t d => Sys2Proof.Machine.execTldb t d s
  | .setfmt t a => Sys2Proof.Machine.execSetfmt t a s
  | .tdld t d imm => Sys2Proof.Machine.execTdld t d imm s
  | .tdsetBase t a => Sys2Proof.Machine.execTdsetBase t a s
  | .tdsetShape t a => Sys2Proof.Machine.execTdsetShape t a s
  | .tdsetLayout t a => Sys2Proof.Machine.execTdsetLayout t a s
  | .tdsetSbase t a => Sys2Proof.Machine.execTdsetSbase t a s
  | .tdsetSub t d a => Sys2Proof.Machine.execTdsetSub t d a s
  | .tdsetMov t d => Sys2Proof.Machine.execTdsetMov t d s
  | .tsend t a b => Sys2Proof.Machine.execTsend t a b s
  | .xspec d => Sys2Proof.Machine.execXspec d s
  | .xcfm a => Sys2Proof.Machine.execXcfm a s
  | .xsq a => Sys2Proof.Machine.execXsq a s
  | .xtagq d a f => Sys2Proof.Machine.execXtagq d a f s
  | .xpred t d a b k => Sys2Proof.Machine.execXpred t d a b k s
  | .xtrain t a b => Sys2Proof.Machine.execXtrain t a b s
  | .xres t d a b f g => Sys2Proof.Machine.execXres t d a b f g s
  | .xmiss t d a b => Sys2Proof.Machine.execXmiss t d a b s
  | .xlook d a => Sys2Proof.Machine.execXlook d a s
  | .xins a b => Sys2Proof.Machine.execXins a b s
  | .xinv a => Sys2Proof.Machine.execXinv a s
  | .xrdt d a => Sys2Proof.Machine.execXrdt d a s
  | .xpin a b => Sys2Proof.Machine.execXpin a b s
  | .seedscan t d a b => Sys2Proof.Machine.execSeedscan t d a b s
  | .grx t d => Sys2Proof.Machine.execGrx t d s
  | .tmov t d => Sys2Proof.Machine.execTmov t d s
  | .tacc t d sf => Sys2Proof.Machine.execTacc t d sf s
  | .ld d h c z o => Sys2Proof.Machine.execLd d h c z o s
  | .st d h c z o => Sys2Proof.Machine.execSt d h c z o s
  | .ldx d h c z b => Sys2Proof.Machine.execLdx d h c z b s
  | .stx d h c z b => Sys2Proof.Machine.execStx d h c z b s
  | .lda d h c z sf o => Sys2Proof.Machine.execLda d h c z sf o s
  | .stl d h c z sf o => Sys2Proof.Machine.execStl d h c z sf o s
  | .vld d h c z o => Sys2Proof.Machine.execVld d h c z o s
  | .vst d h c z o => Sys2Proof.Machine.execVst d h c z o s
  | .vlds d h c z b => Sys2Proof.Machine.execVlds d h c z b s
  | .vsts d h c z b => Sys2Proof.Machine.execVsts d h c z b s
  | .vgath d h c z b => Sys2Proof.Machine.execVgath d h c z b s
  | .vscat d h c z b => Sys2Proof.Machine.execVscat d h c z b s
  | .trans d a => Sys2Proof.Machine.execTrans d a s
  | .hchk d a => Sys2Proof.Machine.execHchk d a s
  | .hrel a => Sys2Proof.Machine.execHrel a s
  | .hmov d a => Sys2Proof.Machine.execHmov d a s
  | .hinfo d a => Sys2Proof.Machine.execHinfo d a s
  | .fence sf imm => Sys2Proof.Machine.execFence sf imm s
  | .xdfi d imm => Sys2Proof.Machine.execXdfi d imm s
  | .xdfw a => Sys2Proof.Machine.execXdfw a s
  | .qpush n a => Sys2Proof.Machine.execQpush n a s
  | .qpop d n => Sys2Proof.Machine.execQpop d n s
  | .vqpush n a k f => Sys2Proof.Machine.execVqpush n a k f s
  | .vqpop d n k f => Sys2Proof.Machine.execVqpop d n k f s
  | .qstat d n => Sys2Proof.Machine.execQstat d n s
  | .qcfg n a => Sys2Proof.Machine.execQcfg n a s
  | .strq n h b v z => Sys2Proof.Machine.execStrq n h b v z s
  | .qrq m n => Sys2Proof.Machine.execQrq m n s
  | .cpy d a b n => Sys2Proof.Machine.execCpy d a b n s
  | .cpya d a b n => Sys2Proof.Machine.execCpya d a b n s
  | .tlwait a n => Sys2Proof.Machine.execTlwait a n s
  | .tlrd d n => Sys2Proof.Machine.execTlrd d n s
  | .fladdArr a sf => Sys2Proof.Machine.execFladdArr a sf s
  | .fladdDrop a sf => Sys2Proof.Machine.execFladdDrop a sf s
  | .fladdAdd a b sf => Sys2Proof.Machine.execFladdAdd a b sf s
  | .flset d a b sf n => Sys2Proof.Machine.execFlset d a b sf n s
  | .flwaitEq d a b sf => Sys2Proof.Machine.execFlwaitEq d a b sf s
  | .flwaitGe d a b sf => Sys2Proof.Machine.execFlwaitGe d a b sf s
  | .flwaitBar d a sf => Sys2Proof.Machine.execFlwaitBar d a sf s
  | .nbpv d a b sf k => Sys2Proof.Machine.execNbpv d a b sf k s
  | .nbrd d a sf => Sys2Proof.Machine.execNbrd d a sf s
  | .nbrdSt d a sf => Sys2Proof.Machine.execNbrdSt d a sf s
  | .nbrdMask k a sf => Sys2Proof.Machine.execNbrdMask k a sf s
  | .nbrdVm d k q => Sys2Proof.Machine.execNbrdVm d k q s
  | .nbclr a => Sys2Proof.Machine.execNbclr a s
  | .istore a b => Sys2Proof.Machine.execIstore a b s
  | .ifence => Sys2Proof.Machine.execIfence s
  | .collAr d a b w o => Sys2Proof.Machine.execCollAr d a b w o s
  | .collRs d a b w o => Sys2Proof.Machine.execCollRs d a b w o s
  | .collAg d a b => Sys2Proof.Machine.execCollAg d a b s
  | .collBc d a b => Sys2Proof.Machine.execCollBc d a b s
  | .collA2a d a b => Sys2Proof.Machine.execCollA2a d a b s
  | .grpMk d a b => Sys2Proof.Machine.execGrpMk d a b s
  | .grpFree a => Sys2Proof.Machine.execGrpFree a s
  | .grpQ d a => Sys2Proof.Machine.execGrpQ d a s
  | .discard a b imm => Sys2Proof.Machine.execDiscard a b imm s
  | .evrd d a => Sys2Proof.Machine.execEvrd d a s
  | .sysSave a b => Sys2Proof.Machine.execSysSave a b s
  | .sysRest a b => Sys2Proof.Machine.execSysRest a b s
  | .sysWorld a => Sys2Proof.Machine.execSysWorld a s
  | .sysShoot a => Sys2Proof.Machine.execSysShoot a s
  | .tmm w => Sys2Proof.Machine.execTmm w s
  | .tew w => Sys2Proof.Machine.execTew w s
  | .teu w => Sys2Proof.Machine.execTeu w s
  | .tcvt w => Sys2Proof.Machine.execTcvt w s
  | .tcopy w => Sys2Proof.Machine.execTcopy w s
  | .tred w => Sys2Proof.Machine.execTred w s
  | .ttopk w => Sys2Proof.Machine.execTtopk w s
  | .tcall w => Sys2Proof.Machine.execTcall w s
  | .tsync w => Sys2Proof.Machine.execTsync w s
  | .tfence w => Sys2Proof.Machine.execTfence w s
  | .twait w => Sys2Proof.Machine.execTwait w s
  | .tcoll w => Sys2Proof.Machine.execTcoll w s
  | .tjmp w => Sys2Proof.Machine.execTjmp w s
  | .tloop w => Sys2Proof.Machine.execTloop w s
  | .tend w => Sys2Proof.Machine.execTend w s
  | .tdmset w => Sys2Proof.Machine.execTdmset w s
  | .tstag w => Sys2Proof.Machine.execTstag w s
  | .tsig w => Sys2Proof.Machine.execTsig w s
  | .dieReset die => Sys2Proof.Machine.execDieReset die s
  | .bootctlGo die w => Sys2Proof.Machine.execBootctlGo die w s
  | .bootRomRun die => Sys2Proof.Machine.execBootRomRun die s
  | .bootCompletion pan => Sys2Proof.Machine.execBootCompletion pan s
  | .dpressetWrite die w => Sys2Proof.Machine.execDpressetWrite die w s
  | .domcfgWrite die w => Sys2Proof.Machine.execDomcfgWrite die w s
  | .msextExtend die j w => Sys2Proof.Machine.execMsextExtend die j w s
  | .wrlockWrite die w => Sys2Proof.Machine.execWrlockWrite die w s
  | .attctlGo die w => Sys2Proof.Machine.execAttctlGo die w s
  | .attestReportDone die => Sys2Proof.Machine.execAttestReportDone die s
  | .hpostWrite die w => Sys2Proof.Machine.execHpostWrite die w s
  | .hostAccess die q => Sys2Proof.Machine.execHostAccess die q s
  | .i3cManagementMessage die q => Sys2Proof.Machine.execI3cManagementMessage die q s
  | .registerWrite addr w => Sys2Proof.Machine.execRegisterWrite addr w s
  | .strdbStart pan k w => Sys2Proof.Machine.execStrdbStart pan k w s
  | .strdbGraceful pan k w => Sys2Proof.Machine.execStrdbGraceful pan k w s
  | .strdbHard pan k w => Sys2Proof.Machine.execStrdbHard pan k w s
  | .strdbResume pan k w => Sys2Proof.Machine.execStrdbResume pan k w s
  | .strdbAbort pan k w => Sys2Proof.Machine.execStrdbAbort pan k w s
  | .cxcmdResume core w => Sys2Proof.Machine.execCxcmdResume core w s
  | .cxcmdRetire core w => Sys2Proof.Machine.execCxcmdRetire core w s
  | .cxcmdResumeAt core w => Sys2Proof.Machine.execCxcmdResumeAt core w s
  | .turetry die w => Sys2Proof.Machine.execTuretry die w s
  | .migctlGo die w => Sys2Proof.Machine.execMigctlGo die w s
  | .migctlAbort die w => Sys2Proof.Machine.execMigctlAbort die w s
  | .migctlFin die w => Sys2Proof.Machine.execMigctlFin die w s
  | .nbcfgWrite die b w => Sys2Proof.Machine.execNbcfgWrite die b w s
  | .trringWrite die world w => Sys2Proof.Machine.execTrringWrite die world w s
  | .issueStageSelect core => Sys2Proof.Machine.execIssueStageSelect core s
  | .blockClear ctx => Sys2Proof.Machine.execBlockClear ctx s
  | .contextStart core => Sys2Proof.Machine.execContextStart core s
  | .exposedResultLand ctx => Sys2Proof.Machine.execExposedResultLand ctx s
  | .longLoadData ctx n => Sys2Proof.Machine.execLongLoadData ctx n s
  | .translationWalkDone die n => Sys2Proof.Machine.execTranslationWalkDone die n s
  | .shootdownComplete n => Sys2Proof.Machine.execShootdownComplete n s
  | .storeBufferDrain clu cls => Sys2Proof.Machine.execStoreBufferDrain clu cls s
  | .wcbFlushTimeout clu n => Sys2Proof.Machine.execWcbFlushTimeout clu n s
  | .istoreLand core => Sys2Proof.Machine.execIstoreLand core s
  | .accWriteComplete core n => Sys2Proof.Machine.execAccWriteComplete core n s
  | .stagingBufferReady core b => Sys2Proof.Machine.execStagingBufferReady core b s
  | .seedscanResult core => Sys2Proof.Machine.execSeedscanResult core s
  | .copyCommandStart core k => Sys2Proof.Machine.execCopyCommandStart core k s
  | .copyTransfer clu k => Sys2Proof.Machine.execCopyTransfer clu k s
  | .copyCommandComplete core k n => Sys2Proof.Machine.execCopyCommandComplete core k n s
  | .trapFrameWrite die => Sys2Proof.Machine.execTrapFrameWrite die s
  | .coreQuiet core => Sys2Proof.Machine.execCoreQuiet core s
  | .admissionStep pan region => Sys2Proof.Machine.execAdmissionStep pan region s
  | .staggerHoldEnd die => Sys2Proof.Machine.execStaggerHoldEnd die s
  | .droopTrip pan region mv => Sys2Proof.Machine.execDroopTrip pan region mv s
  | .droopHoldExpire pan region => Sys2Proof.Machine.execDroopHoldExpire pan region s
  | .thermalThreshold pan region temp => Sys2Proof.Machine.execThermalThreshold pan region temp s
  | .powerStepLimit pan region rise => Sys2Proof.Machine.execPowerStepLimit pan region rise s
  | .pourWordFetch pan k => Sys2Proof.Machine.execPourWordFetch pan k s
  | .pourDispatch pan => Sys2Proof.Machine.execPourDispatch pan s
  | .stagingReserve unit n => Sys2Proof.Machine.execStagingReserve unit n s
  | .childStart unit n child => Sys2Proof.Machine.execChildStart unit n child s
  | .pullTicket unit n child => Sys2Proof.Machine.execPullTicket unit n child s
  | .leafWork core => Sys2Proof.Machine.execLeafWork core s
  | .childComplete unit n child => Sys2Proof.Machine.execChildComplete unit n child s
  | .wordCompleteAtPour pan k n => Sys2Proof.Machine.execWordCompleteAtPour pan k n s
  | .tsendCompletion unit n => Sys2Proof.Machine.execTsendCompletion unit n s
  | .twaitPoll pan k => Sys2Proof.Machine.execTwaitPoll pan k s
  | .watchdogExpire pan k => Sys2Proof.Machine.execWatchdogExpire pan k s
  | .drainComplete pan k => Sys2Proof.Machine.execDrainComplete pan k s
  | .gracefulEscalate pan k => Sys2Proof.Machine.execGracefulEscalate pan k s
  | .saveComplete pan k => Sys2Proof.Machine.execSaveComplete pan k s
  | .restoreCore core => Sys2Proof.Machine.execRestoreCore core s
  | .flagApply core => Sys2Proof.Machine.execFlagApply core s
  | .boardOpApply die => Sys2Proof.Machine.execBoardOpApply die s
  | .collTokenPass die g => Sys2Proof.Machine.execCollTokenPass die g s
  | .packetForward die n => Sys2Proof.Machine.execPacketForward die n s
  | .flitCrcFail die at_ => Sys2Proof.Machine.execFlitCrcFail die at_ s
  | .loadRequest die n => Sys2Proof.Machine.execLoadRequest die n s
  | .storeRequest die n => Sys2Proof.Machine.execStoreRequest die n s
  | .atomicRequest die n => Sys2Proof.Machine.execAtomicRequest die n s
  | .readReply die n => Sys2Proof.Machine.execReadReply die n s
  | .acknowledgement die n => Sys2Proof.Machine.execAcknowledgement die n s
  | .nak die n => Sys2Proof.Machine.execNak die n s
  | .queueEntryHalf die n => Sys2Proof.Machine.execQueueEntryHalf die n s
  | .collectiveChunk die n => Sys2Proof.Machine.execCollectiveChunk die n s
  | .selfDescribing die n => Sys2Proof.Machine.execSelfDescribing die n s
  | .flagOperation die n => Sys2Proof.Machine.execFlagOperation die n s
  | .boardOperation die n => Sys2Proof.Machine.execBoardOperation die n s
  | .boardReply die n => Sys2Proof.Machine.execBoardReply die n s
  | .management die n => Sys2Proof.Machine.execManagement die n s
  | .creditGrant die n => Sys2Proof.Machine.execCreditGrant die n s
  | .resetNotice die n => Sys2Proof.Machine.execResetNotice die n s
  | .requestResendTimeout die n => Sys2Proof.Machine.execRequestResendTimeout die n s
  | .remoteTimeout die n => Sys2Proof.Machine.execRemoteTimeout die n s
  | .resetNoticeResend die peer => Sys2Proof.Machine.execResetNoticeResend die peer s
  | .migrationLineCopy die => Sys2Proof.Machine.execMigrationLineCopy die s
  | .migrationSwitch die => Sys2Proof.Machine.execMigrationSwitch die s
  | .uncorrectableSoftError die addr => Sys2Proof.Machine.execUncorrectableSoftError die addr s

end Sys2Proof.Machine
end

