-- ==== Sys2Proof/Machine/Fetch.lean ====
section
/-! DEFINITION. Fetching a bundle from the instruction scratchpad and issuing it (R51 to R54, R61, R116, R119, R123,
R385). -/

namespace Sys2Proof.Machine

/-- C-slot instructions that take effect after the other slots of their bundle (R120, R142, R143). -/
def lastInBundle : Instr → Bool
  | .stop => true
  | .yield => true
  | .brk => true
  | .trap _ => true
  | .ecall _ => true
  | _ => false

/-- The instructions of a bundle in the order in which the model runs them: in slot order, a stop or trap of slot 0
last. -/
def runOrder (l : List (Nat × Instr)) : List (Nat × Instr) :=
  let first := l.filter fun p => p.1 == 0 && !lastInBundle p.2
  let last := l.filter fun p => p.1 == 0 && lastInBundle p.2
  let at_ := fun k => l.filter fun (p : Nat × Instr) => p.1 == k
  first ++ at_ 1 ++ at_ 2 ++ at_ 3 ++ last

/-- The slots of the bundle run one after another, until one of them stops the bundle. -/
def runSlots (s : State) : List (Nat × Instr) → Host.Outcome State Fault Refusal
  | [] => .next s
  | (k, i) :: t =>
    match exec i { s with iss := { s.iss with slot := k } } with
    | .next s' => if s'.iss.out = .run then runSlots s' t else .next s'
    | .fault r => .fault r
    | .refused r => .refused r

/-- The bytes of a range of physical addresses. -/
def bytesFrom (a n : Nat) : List Nat := (List.range n).map (a + ·)

/-- The bytes of the own cluster's SRAM that an M-slot instruction of context `x` reads or writes at issue (R53, R162,
R364). -/
def State.sramBytesM (s : State) (x : Nat) (i : Instr) : List Nat :=
  let at_ := fun (a b : BitVec 5) =>
    let h := (s.ctx x).hreg a.toNat
    let p : Piece := { off := ((s.ctx x).sreg b.toNat).toNat, len := 64 }
    if h.valid && ownSram (cluOf x) h [p] then (h.spans p.off.toNat p.len).flatMap fun q => bytesFrom q.1 q.2 else []
  match i with
  | .cpy _ a b _ => at_ a b
  | .cpya _ a b _ => at_ a b
  | .grpMk _ a b => at_ a b
  | i =>
    if s.isOwn x i then
      let h := (s.ctx x).hreg ((handleOf i).getD 0)
      (s.pieces x i).flatMap fun p => (h.spans p.off.toNat p.len).flatMap fun q => bytesFrom q.1 q.2
    else []

/-- The own cluster-SRAM bytes that slot 3 of a bundle reaches, where slot 2 makes cluster-SRAM accesses as well (R53). -/
def State.bothSram (s : State) (l : List (Nat × Instr)) : List Nat :=
  if l.any fun p => p.1 == 2 && touchesSramT p.2 then
    (l.filter (·.1 == 3)).flatMap fun p => s.sramBytesM s.x p.2 else []

/-- The byte at `a` as it stands in `t`, with its soft error, if it has one. -/
def State.takeByte (s t : State) (a : Nat) : State :=
  let h := s.homeOf a
  let s := if s.byte a == t.byte a then s else s.putByte a (t.byte a)
  { s with bad := if t.bad.contains h then (if s.bad.contains h then s.bad else s.bad ++ [h]) else s.bad.filter (· != h) }

/-- The bytes of `l` in words where slot 3 comes before slot 2 take the values that they have in `t` (R53). -/
def State.mixWords (s t : State) (draw : Nat) : List Nat → State
  | [] => s
  | a :: l => (if Config.tFirst draw (a / 8) then s else s.takeByte t a).mixWords t draw l

/-- What a run of slots leaves; the state before it where it stops the bundle for good. -/
def afterSlots (s : State) (l : List (Nat × Instr)) : State :=
  match runSlots s l with
  | .next t => if t.iss.out = .run then t else s
  | _ => s

/-- A bundle whose slots 2 and 3 both reach the own cluster's SRAM, in the bytes `w` (R53): each aligned word that they
share is accessed by slot 2 first, or by slot 3, as a free draw decides. Slot 2 sees the words that slot 3 reached first
as slot 3 leaves them, and slot 3 the others as slot 2 leaves them. -/
def State.runMixed (s : State) (l : List (Nat × Instr)) (w : List Nat) : Host.Outcome State Fault Refusal :=
  let ord := runOrder l
  let draw := s.free
  let at_ := fun k => ord.filter fun (p : Nat × Instr) => p.1 == k
  match runSlots s (ord.takeWhile fun p => p.1 < 2) with
  | .next a =>
    if a.iss.out ≠ .run then .next a
    else
      match runSlots (a.mixWords (afterSlots a (at_ 3)) draw w) (at_ 2) with
      | .next b =>
        if b.iss.out ≠ .run then .next b
        else
          match runSlots (b.mixWords a draw w) (at_ 3) with
          | .next c =>
            if c.iss.out ≠ .run then .next c
            else runSlots { c.mixWords b draw w with free := draw + 1 } (ord.filter fun p => p.1 == 0 && lastInBundle p.2)
          | r => r
      | r => r
  | r => r

/-- Bundles count, for the quiet rule and event source 2, padding bundles among them (R50, R331, R343). -/
def State.issued (s : State) (x : Nat) : State :=
  (s.modCore (coreOf x) fun k => { k with lastWork := s.now, lastIssue := s.now }).countCore (coreOf x) 2 1 (s.ctx x).world

/-- The bundle has issued: the next address, the issue count, and what then lands (R119, R138, R139). -/
def State.retire (s : State) : State :=
  let x := s.x
  let own := s.own
  let s := s.modCtx x fun c => match s.iss.target with
    | some t => { c with pc := t }
    | none =>
      let (l, next) := inSequence c.loops own
      { c with pc := next, loops := l }
  (s.issued x).countUp x

/-- A bundle that passed every check of R385 but the state-dependent ones runs: a trap found in a slot leaves the state
before the bundle, with the trap taken (R53). -/
def State.runBundle (s : State) (l : List (Nat × Instr)) : Host.Outcome State Fault Refusal :=
  let w := s.bothSram l
  match (if w.isEmpty then runSlots s (runOrder l) else s.runMixed l w) with
  | .next t =>
    match t.iss.out with
    | .trap c f o => .next (s.trapAtIssue t.iss.slot c f o)
    | .run => .next t.retire
    | _ => .next t
  | r => r

/-- The selected context `x` presents its bundle (R116, R385). -/
def State.issueBundle (s : State) (x : Nat) : Host.Outcome State Fault Refusal :=
  let s := { s with iss := { x := x, bank := (s.core (coreOf x)).ibank } }
  if 0x11FF < s.me.pc then .next (s.trapAtIssue 0 cIbankRange (addrWord s.me.pc))
  else
    let l := slotsOf (s.bundleAt (coreOf x) s.me.pc)
    let s := { s with iss := { s.iss with hdr := headerOf l } }
    if (s.staticFail l).isNone && (instrs l).any fun p => s.padDue x p.2 then .next ((s.issued x).countUp x)
    else match s.present l with
      | (k, .trap c f o) => .next (s.trapAtIssue k c f o)
      | (_, .block) => .next (s.armWatch ((instrs l).map (·.2))).blockIssue
      | (k, .miss va) => .next (s.missIssue k va)
      | (_, .run) => State.runBundle { s with iss := { s.iss with gated := true } } (instrs l)

/-- The core may issue now: it is active, and no throttle of its region holds it back (R331, R333). -/
def State.mayIssue (s : State) (c : Nat) : Bool :=
  let g := s.regionAt (c / 64)
  (s.core c).active && !g.crit && (!g.slowed || decide ((s.core c).lastIssue + 2 ≤ s.now))

/-- One turn of the issue stage of core `c`, `dt` cycles after the last (R116, log 6); a quiet core asks for admission
and issues nothing (R331). -/
def State.issueTurn (s : State) (c dt : Nat) : Host.Outcome State Fault Refusal :=
  if 2048 * 64 ≤ c then .fault .noSuchUnit
  else
    let s := { s.clock dt with iss := {} }
    match s.stageOf c with
    | some j =>
      let s := s.select c j
      if s.mayIssue c then s.issueBundle (4 * c + j)
      else .next (s.modCore c fun k => { k with wants := !k.active })
    | none => .next s

/-- The word of an instruction stored at the next bundle of the focus core's selected context, in the slot that its
class names, and the issue stage's turn put next (logs 9, 10). -/
def State.placeWord (s : State) (_nbits w : Nat) : State :=
  let c := s.focus
  let j := ((s.core c).sel).getD 0
  let a := (s.ctx (4 * c + j)).pc % 0x1200
  let k := match firstClass (w % 2 ^ 32) with
    | some (k, _) => k
    | none => 0
  let s := s.modCore c fun e => { e with ipad := spPut (ipadKey e.ibank a) (bundleOf k w) e.ipad }
  let s := s.modCtx (4 * c + j) fun e => { e with pc := a }
  let s := s.modCore c fun e => { e with active := true }
  { s.select c j with agenda := .issue c 1 :: s.agenda }

end Sys2Proof.Machine
end

