-- ==== Sys2Proof/Machine/Step.lean ====
section
/-! DEFINITION. One step of the part: the next turn of the agenda (log 6), and the bundle that an issue turn issues
(R53, R116, R119, R385). -/

namespace Sys2Proof.Machine

/-- One step: an event of the agenda, or a turn of the issue stage of a core (R116, log 6). -/
def step (s : State) : Host.Outcome State Fault Refusal :=
  match s.agenda with
  | .event i :: t => exec i { s with agenda := t, iss := {} }
  | .issue c dt :: t => State.issueTurn { s with agenda := t } c dt
  | .pour p dt :: t => .next (({ s with agenda := t } : State).clock dt |>.pourTurn p)
  | [] => s.issueTurn s.focus 1

/-- The state with an instruction placed where the next step issues it (log 10). -/
def State.withFetchWord (s : State) (nbits w : Nat) : State := s.placeWord nbits w

end Sys2Proof.Machine
end

