-- ==== Sys2Proof/Safety.lean ====
section
/-! DEFINITION. What counts as a safe run, and the words in which claims are made: an instruction that passes the
conditions of its bundle, a result that it leaves, several bundles issued one after another. -/

namespace Sys2Proof.Machine

/-- Memory lists its bytes in rising order, and none that an unlisted address reads as. -/
def State.wf (s : State) : Prop := memWf s.mem = true

/-- The conditions of R385 that come before a slot's own checks let `i` run in slot `k`: no static check of R61 fails, no
register that it reads awaits a result, nothing blocks it, and its pages are in the translation cache. -/
def State.passes (s : State) (k : Nat) (i : Instr) : Prop := s.gate k i = .run

/-- Where its bundle passes, `i` answers a state in which one result is due `lat` bundles later, and nothing else has
changed (R119). -/
def Leaves (k lat : Nat) (i : Instr) (s : State) (d : Dest) : Prop := s.passes k i → exec i s = .next (s.later k lat d)

/-- Where its bundle passes, `i` traps at issue with `cause` and `f`: the state before the bundle with the trap taken
(R53, R61). -/
def Traps (k : Nat) (i : Instr) (s : State) (cause : Nat) (f : Word) : Prop :=
  s.passes k i → exec i s = .next (s.trapAtIssue k cause f)

/-- Where its bundle passes, `i` leaves one result for vector register `d` of type code `t`, due `lat` bundles later.
When it lands, element `e` of lane `l` holds the value `f l e`, completed over the lane (R32), or keeps its bits where
`f l e` is none (R78, R81). With it land the flags of all the elements together, and an event exactly where some
element has one that the log records (R47, R85). -/
def WritesElems (lat d t : Nat) (i : Instr) (s : State) (f : Nat → Nat → Option Elem) : Prop :=
  s.passes 1 i → ∃ w fl ev, exec i s = .next (s.laterEv 1 lat (.v d w) fl ev) ∧
    (∀ (c : Ctx) (l e : Nat), l < 128 → e < elemsOf t →
      let b := (c.put (.v d w)).lane d l
      (f l e = none → elemOf t b e = elemOf t (c.lane d l) e ∧ (elemsOf t = 1 → b = c.lane d l)) ∧
      (∀ r, f l e = some r → elemOf t b e = r.1 % 2 ^ elemW t ∧ (t = 4 → b.toNat < 2 ^ 32) ∧
        (t = 2 → b = BitVec.ofInt 64 (sgnN 32 (r.1 % 2 ^ 32))))) ∧
    (∀ j, fl.getLsbD j = true ↔ ∃ l e r, l < 128 ∧ e < elemsOf t ∧ f l e = some r ∧ r.2.getLsbD j = true) ∧
    (ev.isSome = true ↔ ∃ l e r, l < 128 ∧ e < elemsOf t ∧ f l e = some r ∧ kindOf r.2 ≠ 0)

/-- The same for a result of whole lanes, without flags: lane `l` becomes `f l`, or keeps its bits where that is none. -/
def WritesLanes (slot lat d : Nat) (i : Instr) (s : State) (f : Nat → Option Word) : Prop :=
  s.passes slot i → ∃ w, exec i s = .next (s.later slot lat (.v d w)) ∧
    ∀ (c : Ctx) (l : Nat), l < 128 → (c.put (.v d w)).lane d l = (f l).getD (c.lane d l)

/-- The value of node `i` of level `n` of the fixed tree over inputs `x`, where an empty input drops out (R102). -/
def treeNode (comb : Nat → Nat → Nat) (x : Nat → Option Nat) : Nat → Nat → Option Nat
  | 0, i => x i
  | n + 1, i => match treeNode comb x n (2 * i), treeNode comb x n (2 * i + 1) with
    | some a, some b => some (comb a b)
    | some a, none => some a
    | none, b => b

/-! ## Exact rounding (R28, R30, R31) -/

/-- A finite pattern as a multiple of the format's least positive value. -/
def FFmt.units (f : FFmt) (w : Nat) : Int :=
  let m := w % 2 ^ f.fb
  let e := w / 2 ^ f.fb % 2 ^ f.eb
  sgnInt (w.testBit (f.eb + f.fb)) (if e = 0 then m else (2 ^ f.fb + m) * 2 ^ (e - 1))

/-- A pattern of the format that is neither an infinity nor a NaN. -/
def FFmt.finite (f : FFmt) (w : Nat) : Prop := w < 2 ^ f.width ∧ w / 2 ^ f.fb % 2 ^ f.eb < 2 ^ f.eb - 1

/-- The least positive values in 1.0. -/
def FFmt.one (f : FFmt) : Nat := 2 ^ (f.bias + f.fb - 1)

/-- `r` is the nonzero value of `v / k` least positive values rounded in mode `rm`, with the flags of R31: overflow and
tininess are judged on the value rounded with an exponent of any size. -/
def FFmt.Rounds (f : FFmt) (rm : Nat) (v : Int) (k : Nat) (r : Nat × Fl) : Prop :=
  let big := (2 ^ (f.fb + 1) - 1) * 2 ^ (2 ^ f.eb - 3)
  let ulp := 2 ^ (2 ^ f.eb - 3)
  let least := 2 ^ f.fb
  let a := v.natAbs
  let neg := decide (v < 0)
  let away := rm = 2 ∧ neg = false ∨ rm = 3 ∧ neg = true
  let high := if rm = 0 then (2 * big + ulp) * k ≤ 2 * a else if away then big * k < a else (big + ulp) * k ≤ a
  let tiny := if rm = 0 then 4 * a < (4 * least - 1) * k else if away then 2 * a ≤ (2 * least - 1) * k else a < least * k
  let dist := fun w => (f.units w * k - v).natAbs
  (high → r = ((if neg then f.signBit else 0) + (if rm = 0 ∨ away then f.infBits else f.infBits - 1), flOF ||| flNX)) ∧
  (¬high → f.finite r.1 ∧ r.1.testBit (f.eb + f.fb) = neg ∧
    (rm = 0 → ∀ w, f.finite w → dist r.1 ≤ dist w ∧ (dist r.1 = dist w → f.units w ≠ f.units r.1 → r.1 % 2 = 0)) ∧
    (rm = 1 → (f.units r.1).natAbs * k ≤ a ∧
      ∀ w, f.finite w → (f.units w).natAbs * k ≤ a → (f.units w).natAbs ≤ (f.units r.1).natAbs) ∧
    (rm = 2 → v ≤ f.units r.1 * k ∧ ∀ w, f.finite w → v ≤ f.units w * k → f.units r.1 ≤ f.units w) ∧
    (rm = 3 → f.units r.1 * k ≤ v ∧ ∀ w, f.finite w → f.units w * k ≤ v → f.units w ≤ f.units r.1) ∧
    r.2 = if f.units r.1 * k = v then 0 else if tiny then flNX ||| flUF else flNX)

/-- The integral value of `a` least positive values in mode `rm` (R30). -/
def FFmt.whole (f : FFmt) (rm : Nat) (a : Int) : Int :=
  let one : Int := f.one
  let below := a / one
  let twice := 2 * (a % one)
  if rm = 1 then a.tdiv one
  else if rm = 2 then -(-a / one)
  else if rm = 3 then below
  else if twice < one ∨ (twice = one ∧ below % 2 = 0) then below else below + 1

/-- `r` is a faithful result of R89 of a magnitude that `g` tells: `g` of a number of least positive values is negative,
zero or positive as that number lies below, at or above the exact magnitude. The exact one is delivered, or one of its two
neighbours with NX, and UF where it is tiny; past the largest finite value, what R31 delivers on overflow. -/
def FFmt.Faithful (f : FFmt) (rm : Nat) (neg : Bool) (g : Int → Int) (r : Nat × Fl) : Prop :=
  let out := fun w => ((if neg then f.signBit else 0) + w, if w < 2 ^ f.fb then flNX ||| flUF else flNX)
  let most := ((if neg then f.signBit else 0) +
    (if rm = 0 ∨ rm = 2 ∧ neg = false ∨ rm = 3 ∧ neg = true then f.infBits else f.infBits - 1), flOF ||| flNX)
  (g (2 ^ (f.fb + 2 ^ f.eb - 2)) ≤ 0 → r = most) ∧
  ∃ lo < f.infBits, g (f.units lo) ≤ 0 ∧ (lo + 1 < f.infBits → 0 < g (f.units (lo + 1))) ∧
    (g (f.units lo) = 0 → r = ((if neg then f.signBit else 0) + lo, 0)) ∧
    (g (f.units lo) < 0 → r = out lo ∨ (lo + 1 < f.infBits ∧ r = out (lo + 1)) ∨ (lo + 1 = f.infBits ∧ r = most))

/-- No compressed region of cluster SRAM is enabled (R291). -/
def State.noRegions (s : State) : Prop := ∀ u i, i < 8 → s.czr u i = none

/-- The bytes `cells` have been stored in order, and nothing else: every address outside them reads as before, and each
byte that no later one of them replaces reads back. An address of a page that its old home forwards is that of the new
frame (R378). -/
def Stored (s t : State) (cells : List (Nat × Byte)) : Prop :=
  (∀ a, (∀ c ∈ cells, s.homeOf c.1 ≠ s.homeOf a) → t.byte a = s.byte a) ∧
  ∀ (before after : List (Nat × Byte)) (a : Nat) (b : Byte), cells = before ++ (a, b) :: after →
    (∀ c ∈ after, s.homeOf c.1 ≠ s.homeOf a) → t.byte a = b

/-- Context `x` has issued `n` more bundles that write nothing of their own (R119). -/
def State.countUps (s : State) (x : Nat) : Nat → State
  | 0 => s
  | n + 1 => (s.countUps x n).countUp x

/-- Every byte of memory reads in `t` as it does in `s`. -/
def SameMemory (s t : State) : Prop := ∀ a, t.byte a = s.byte a

/-- The registers that an instruction of context `x` may read hold in `t` what they hold in `s` (R78). -/
def SameRegisters (s t : State) (x : Nat) : Prop :=
  (∀ r, (t.ctx x).sreg r = (s.ctx x).sreg r) ∧ (∀ r l, (t.ctx x).lane r l = (s.ctx x).lane r l) ∧
  (∀ r, (t.ctx x).preg r = (s.ctx x).preg r) ∧ (∀ r, (t.ctx x).hreg r = (s.ctx x).hreg r) ∧
  (∀ r, (t.ctx x).tdreg r = (s.ctx x).tdreg r) ∧ (∀ r j, (t.ctx x).xsel r j = (s.ctx x).xsel r j) ∧
  (∀ r, (t.ctx x).fmreg r = (s.ctx x).fmreg r) ∧ (∀ r, (t.ctx x).vmreg r = (s.ctx x).vmreg r)

end Sys2Proof.Machine
end

