-- ==== Sys2Proof/Certificates/Slice0/Obligations.lean ====
section
/-! DEFINITION. The statements for the provers, from the numbered rules of the spec. -/

open Sys2Proof Sys2Proof.Machine

/-! ## Decoding and the step (R51 to R59, R66, R116, R119, R385) -/

/-- Words written out in the rules decode to the instructions that they stand for, each in its slot. -/
def Obligations.DecodeWords : Prop :=  decodeSlot 0 0x08A50001 = .ok (.addi 5 5 1) ∧ decodeSlot 0 0x2085004C = .ok (.shri 4 5 12) ∧
  decodeSlot 0 0x24FFFFFB = .ok (.movi 7 0x1FFFFB) ∧ decodeSlot 0 0x28E2BEEF = .ok (.movk 7 2 0xBEEF) ∧
  decodeSlot 0 0x2C221802 = .ok (.mulhu 1 2 3) ∧ decodeSlot 0 0x30C74000 = .ok (.div 6 7 8) ∧
  decodeSlot 0 0x3C220108 = .ok (.bfxi 1 2 4 8) ∧ decodeSlot 0 0x48221900 = .ok (.sel 1 2 3 4) ∧
  decodeSlot 0 0x4C220005 = .ok (.beq 1 2 5) ∧ decodeSlot 0 0x600C8002 = .ok (.loopi 100 2) ∧
  decodeSlot 0 0x67E00200 = .ok (.jbank 31 0x200) ∧ decodeSlot 0 0x70050003 = .ok (.trap 5) ∧
  decodeSlot 1 0x84410000 = .ok (.rqpop 2 1 0 0 0) ∧ decodeSlot 1 0x04853280 = .ok (.vadd 4 5 6 2 4) ∧
  decodeSlot 1 0x50430100 = .ok (.vmov 2 3 1) ∧ decodeSlot 2 0x04486800 = .ok (.tmmaCs 1 2 1 2 0 0) ∧
  decodeSlot 2 0x44109000 = .ok (.xlook 8 9) ∧ decodeSlot 3 0x48260000 = .ok (.qpush 1 6) ∧
  decodeSlot 3 0x89260040 = .ok (.nbrd 9 6 4) ∧ decodeSlot 3 0x8C060000 = .ok (.nbclr 6) ∧
  decodeSlot 0 0 = .ok .nop ∧ decodeSlot 1 0 = .ok .nop ∧ decodeSlot 2 0 = .ok .nop ∧ decodeSlot 3 0 = .ok .nop

/-- Decoding undoes encoding: for every slot instruction its word, in its slot, reads back as the instruction with every
operand, and the word has 32 bits; for every tile word its 256 bits do. -/
def Obligations.EncodeDecode : Prop :=  (∀ (i : Instr) (k : Nat), slotOf i = some k → decodeSlot k (encode i) = .ok i ∧ encode i < 2 ^ 32) ∧
  (∀ t : TileWord, decodeTile (encodeTile t) = t ∧ encodeTile t < 2 ^ 256) ∧
  (∀ (i j : Instr) (k : Nat), slotOf i = some k → slotOf j = some k → encode i = encode j → i = j)

/-- A turn of the issue stage of core `c` presents the next bundle of the context that the stage has selected. A bundle
with one instruction that passes runs exactly it: where exec answers `t` and the bundle goes on, the step answers `t` with
the bundle retired: the next address and the issue count. The agenda of turns (log 6) and the part's 2048 · 64 cores
(log 76), and the turn that the focus core takes one cycle later where the agenda is empty (log 6), are the model's
choice. The clock goes on by the cycles that the turn names; event counters written in the cycle that ends, and doorbells
that wait for its end (log 6), are the only other things that this moves. -/
def Obligations.StepRunsBundle : Prop :=  (∀ (s : State) (c dt j : Nat) (rest : List Turn), s.agenda = .issue c dt :: rest → c < 2048 * 64 →
    let u := { ({ s with agenda := rest } : State).clock dt with iss := {} }
    u.stageOf c = some j → (u.select c j).mayIssue c = true →
    step s = State.issueBundle (u.select c j) (4 * c + j)) ∧
  (∀ s : State, s.agenda = [] → step s = s.issueTurn s.focus 1) ∧
  (∀ (s : State) (dt : Nat), s.evNew = [] → (∀ q ∈ s.pans, q.2.bells = []) → s.clock dt = { s with now := s.now + dt }) ∧
  (∀ (s t : State) (x k w : Nat) (i : Instr),
    k < 4 → w < 2 ^ 32 → decodeSlot k w = .ok i → i ≠ .nop → (∀ e f g, i ≠ .xhdr e f g) →
    (s.ctx x).pc ≤ 0x11FF → s.bundleAt (coreOf x) (s.ctx x).pc = bundleOf k w →
    let b := (s.core (coreOf x)).ibank
    (State.present { s with iss := { x := x, bank := b } } (slotsOf (bundleOf k w))).2 = .run → s.padDue x i = false →
    exec i { s with iss := { x := x, bank := b, gated := true, slot := k } } = .next t → t.iss.out = .run →
    t.iss.gated = true → ∃ n, s.issueBundle x = .next ({ t with iss := { t.iss with slot := n } } : State).retire) ∧
  (∀ (s : State), let own := s.own
    (s.me.snaps = [] → s.iss.target = none → s.me.loops = [] →
      (s.retire.ctx s.x).pc = own + 1 ∧ (s.retire.ctx s.x).count = s.me.count + 1) ∧
    (s.me.snaps = [] → ∀ a, s.iss.target = some a →
      (s.retire.ctx s.x).pc = a ∧ (s.retire.ctx s.x).count = s.me.count + 1))

/-- A step whose next turn is an event is that event's meaning. A turn of the Pour dispatches the word that the chosen
stream has fetched, and it is the meaning of the tile instruction that the word holds. The turns of the agenda (log 6),
the word that a tile instruction's meaning takes, the next one of the stream that the Pour has latched (log 60), and the
reading of PRIO at the start of a turn (log 66) are the model's choice. -/
def Obligations.StepTakesTurns : Prop :=
  (∀ (s : State) (i : Instr) (rest : List Turn), s.agenda = .event i :: rest →
    step s = exec i { s with agenda := rest, iss := {} }) ∧
  ((∀ (w : TileWord) (i : Instr) (s : State), tileDecodes w i = true → exec i s = .next (s.pourExec w)) ∧
  (∀ (s : State) (p dt k : Nat) (new : Bool) (w : TileWord) (i : Instr) (rest : List Turn),
    s.agenda = .pour p dt :: rest →
    let u := ({ s with agenda := rest } : State).clock dt
    u.pourPick p = some (k, new) → (u.strm p k).fetched = some w → tileDecodes w i = true →
    step s = exec i { u.modPan p fun q => if new then
        { q with turn := k, spent := 1, width := 2 ^ (wfld (u.str p k 0) 0 2 + 1) } else { q with spent := q.spent + 1 }
      with iss := { pan := p, strm := k } }))

/-- What reset leaves, as the spec states it: every context dormant (R113), vector and predicate registers, scale
registers and accumulators zero (R76), result queues empty, bank 0 active, every flag and tag clear (R228, R280), CLK 0,
the queues numbered from 1 (R162), the power and staging registers at their reset columns; memory is canonical. -/
def Obligations.ResetLeaves : Prop :=  let s := State.reset
  (∀ x, (s.ctx x).st = .dormant) ∧
  (∀ x r l, (s.ctx x).lane r l = 0) ∧ (∀ x r, 0 < r → (s.ctx x).preg r = 0) ∧ (∀ x r j, (s.ctx x).xsel r j = 0) ∧
  (∀ c q, spGet [] (s.core c).rq q = []) ∧ (∀ c, (s.core c).ibank = 0) ∧
  (∀ c n, s.flagWord c n = 0) ∧ (∀ c t, s.tagLive c t = false) ∧ (∀ x, (s.ctx x).tagV = false) ∧
  (∀ d, s.clk d = 0) ∧ (∀ c q, (spGet {} (s.core c).cq q).next = 1 ∧ (spGet {} (s.core c).cq q).tl = 0) ∧
  (∀ d, s.reg d 0x4000000 = 15 ∧ s.reg d 0x4000008 = 20) ∧ (∀ c, (s.core c).active = false) ∧ s.wf

/-- Memory keeps its canonical form: whatever a step does, to states that no run reaches as well. A byte that nothing has
written reads 0 (log 1), which is what the canonical form leaves out: the model's choice. -/
def Obligations.StepKeepsMemory : Prop := ∀ s t : State, s.wf → step s = .next t → t.wf

/-! ## Exposed results and registers (R60, R78, R119) -/

/-- R60, R78: s0 and p0: what they read, and that a result for them writes nothing. What landing a result changes: only
the register that it names, beside the sticky flags and the first-event log. -/
def Obligations.LandingFrame : Prop :=
  (∀ (c : Ctx) (v : Word) (p : BitVec 128),
    c.sreg 0 = 0 ∧ c.preg 0 = BitVec.allOnes 128 ∧ c.put (.s 0 v) = c ∧ c.put (.p 0 p) = c) ∧
  (∀ (c : Ctx) (n : Snap), n.trap = none →
    let e := c.landOne n
    ((∀ m v, n.dest ≠ .sreg m v) → e.flags = c.flags ||| n.flags ∧ e.rm = c.rm ∧ e.tag = c.tag ∧ e.disc = c.disc) ∧
    (∀ r, (∀ v, n.dest ≠ .s r v) → e.sreg r = c.sreg r) ∧ (∀ r l, (∀ w, n.dest ≠ .v r w) → e.lane r l = c.lane r l) ∧
    (∀ r, (∀ v, n.dest ≠ .p r v) → e.preg r = c.preg r) ∧ (∀ r, (∀ v, n.dest ≠ .h r v) → e.hreg r = c.hreg r) ∧
    (∀ r, (∀ m v, n.dest ≠ .td r m v) → e.tdreg r = c.tdreg r) ∧
    (∀ r j, (∀ o v, n.dest ≠ .xs r o v) → e.xsel r j = c.xsel r j) ∧
    (∀ r, (∀ v, n.dest ≠ .fm r v) → e.fmreg r = c.fmreg r) ∧ (∀ r, (∀ v, n.dest ≠ .vm r v) → e.vmreg r = c.vmreg r) ∧
    e.st = c.st ∧ e.pc = c.pc ∧ e.count = c.count ∧ e.loops = c.loops ∧ e.tokens = c.tokens ∧ e.longs = c.longs)

/-- A result that an instruction leaves with latency `lat` at count n is read by bundles at count n + lat and later, and
bundles before that read the old value; no other register of the context changes with it. An instruction whose only
effect is a result that lands later leaves every byte of memory, every unit but its own context, every control register
and every register of its own context unchanged. -/
def Obligations.ExposedResults : Prop :=
  (∀ (s : State) (k lat : Nat) (r : Nat) (v : Word), s.me.snaps = [] → 0 < lat →
    let t := s.later k lat (.s r v)
    (∀ n < lat, SameRegisters s (t.countUps s.x n) s.x ∧ ((t.countUps s.x n).ctx s.x).count = s.me.count + n) ∧
    (∀ n, lat ≤ n → ((t.countUps s.x n).ctx s.x).sreg r = (if r = 0 then 0 else v) ∧
      (∀ q, q ≠ r → ((t.countUps s.x n).ctx s.x).sreg q = s.me.sreg q) ∧
      ((t.countUps s.x n).ctx s.x).flags = s.me.flags ∧ ((t.countUps s.x n).ctx s.x).snaps = [])) ∧
  (∀ (s : State) (k lat : Nat) (d : Dest),
    let t := s.later k lat d
    SameMemory s t ∧ SameRegisters s t s.x ∧ (∀ x, x ≠ s.x → t.ctx x = s.ctx x) ∧
    (∀ c, t.core c = s.core c) ∧ (∀ u, t.clu u = s.clu u) ∧ (∀ e, t.die e = s.die e) ∧ (∀ p, t.pan p = s.pan p) ∧
    (∀ e o, t.reg e o = s.reg e o) ∧ (t.ctx s.x).flags = s.me.flags ∧ (t.ctx s.x).fel = s.me.fel ∧
    (t.ctx s.x).st = s.me.st ∧ (t.ctx s.x).pc = s.me.pc ∧ (t.ctx s.x).loops = s.me.loops ∧
    (t.ctx s.x).rm = s.me.rm ∧ (t.ctx s.x).tag = s.me.tag ∧ (t.ctx s.x).tokens = s.me.tokens ∧ t.pend = s.pend)

/-- A bundle with a pending source does not issue: a register that waits for a long load blocks an instruction that
reads it, the context is blocked, and no register and no byte changes (R116, R117). With no result in flight, no
interlocked operation and MODE.PCHK clear, the conditions of the bundle let every plain scalar operation run. -/
def Obligations.Interlocks : Prop :=
  (∀ (s : State) (d a b : BitVec 5), s.iss.gated = false → s.me.interlocked (.s a.toNat) = true → s.me.pchk = false →
    ∃ t : State, exec (.add d a b) s = .next t ∧ t.iss.out = .block ∧ SameMemory s t ∧ SameRegisters s t s.x ∧
      (t.ctx s.x).count = s.me.count ∧ (t.ctx s.x).snaps = s.me.snaps ∧
      ((t.ctx s.x).st = .blocked ∨ (t.ctx s.x).st = .selected)) ∧
  (∀ (s : State) (d a b : BitVec 5) (i : BitVec 16), s.me.pchk = false → s.me.longs = [] →
    s.passes 0 (.add d a b) ∧ s.passes 0 (.sub d a b) ∧ s.passes 0 (.mul d a b) ∧ s.passes 0 (.div d a b) ∧
    s.passes 0 (.addi d a i) ∧ s.passes 0 (.beq a b (i.truncate 13)) ∧ s.passes 0 (.clz d a) ∧ s.passes 0 .nop)

/-! ## Scalar arithmetic (R125 to R134) -/

/-- R126: the nineteen operations of the ALU group, and fn values from 19 up. -/
def Obligations.ScalarAlu : Prop :=  (∀ (s : State) (d a b : BitVec 5),
    let x := s.sr a
    let y := s.sr b
    let n := y.toNat % 64
    let w := fun i v => Leaves 0 1 i s (.s d.toNat v)
    w (.add d a b) (BitVec.ofNat 64 (x.toNat + y.toNat)) ∧ w (.sub d a b) (BitVec.ofInt 64 (x.toNat - y.toNat)) ∧
    w (.and d a b) (x &&& y) ∧ w (.or d a b) (x ||| y) ∧ w (.xor d a b) (x ^^^ y) ∧ w (.andn d a b) (x &&& ~~~y) ∧
    w (.shl d a b) (BitVec.ofNat 64 (x.toNat * 2 ^ n)) ∧ w (.shr d a b) (BitVec.ofNat 64 (x.toNat / 2 ^ n)) ∧
    w (.sar d a b) (BitVec.ofInt 64 (x.toInt / 2 ^ n)) ∧
    w (.rol d a b) (BitVec.ofNat 64 (x.toNat * 2 ^ n + x.toNat * 2 ^ n / 2 ^ 64)) ∧
    w (.ror d a b) (BitVec.ofNat 64 (x.toNat / 2 ^ n + x.toNat * 2 ^ (64 - n))) ∧
    w (.min d a b) (if x.toInt ≤ y.toInt then x else y) ∧ w (.max d a b) (if x.toInt ≤ y.toInt then y else x) ∧
    w (.minu d a b) (if x.toNat ≤ y.toNat then x else y) ∧ w (.maxu d a b) (if x.toNat ≤ y.toNat then y else x) ∧
    w (.slt d a b) (if x.toInt < y.toInt then 1 else 0) ∧ w (.sltu d a b) (if x.toNat < y.toNat then 1 else 0) ∧
    w (.seq d a b) (if x = y then 1 else 0) ∧ w (.sne d a b) (if x = y then 0 else 1)) ∧
  (∀ w : Nat, w < 2 ^ 32 → w / 2 ^ 26 = 0x01 → 19 ≤ w % 2 ^ 11 → decodeSlot 0 w = .bad .reservedField) ∧
  (∀ d a b : BitVec 5, ∀ q ∈ [(0, Instr.add d a b), (1, .sub d a b), (2, .and d a b), (3, .or d a b), (4, .xor d a b),
      (5, .andn d a b), (6, .shl d a b), (7, .shr d a b), (8, .sar d a b), (9, .rol d a b), (10, .ror d a b),
      (11, .min d a b), (12, .max d a b), (13, .minu d a b), (14, .maxu d a b), (15, .slt d a b), (16, .sltu d a b),
      (17, .seq d a b), (18, .sne d a b)],
    decodeSlot 0 (0x04000000 + d.toNat * 2 ^ 21 + a.toNat * 2 ^ 16 + b.toNat * 2 ^ 11 + q.1) = .ok q.2)

/-- R127, R128: the immediate forms and the shifts by an immediate. -/
def Obligations.ScalarImmediate : Prop :=  (∀ (s : State) (d a : BitVec 5) (i : BitVec 16),
    let x := s.sr a
    let w := fun j v => Leaves 0 1 j s (.s d.toNat v)
    w (.addi d a i) (BitVec.ofInt 64 (x.toNat + i.toInt)) ∧ w (.andi d a i) (x &&& BitVec.ofNat 64 i.toNat) ∧
    w (.ori d a i) (x ||| BitVec.ofNat 64 i.toNat) ∧ w (.xori d a i) (x ^^^ BitVec.ofNat 64 i.toNat) ∧
    w (.slti d a i) (if x.toInt < i.toInt then 1 else 0) ∧
    w (.sltiu d a i) (if x.toNat < (BitVec.ofInt 64 i.toInt).toNat then 1 else 0)) ∧
  (∀ (s : State) (d a : BitVec 5) (c : BitVec 6),
    let x := s.sr a
    let n := c.toNat
    let w := fun j v => Leaves 0 1 j s (.s d.toNat v)
    w (.shli d a c) (BitVec.ofNat 64 (x.toNat * 2 ^ n)) ∧ w (.shri d a c) (BitVec.ofNat 64 (x.toNat / 2 ^ n)) ∧
    w (.sari d a c) (BitVec.ofInt 64 (x.toInt / 2 ^ n)) ∧
    w (.roli d a c) (BitVec.ofNat 64 (x.toNat * 2 ^ n + x.toNat * 2 ^ n / 2 ^ 64))) ∧
  (∀ w : Nat, w < 2 ^ 32 → w / 2 ^ 26 = 0x08 → w / 2 ^ 8 % 2 ^ 8 ≠ 0 → decodeSlot 0 w = .bad .reservedField) ∧
  (∀ (d a : BitVec 5) (i : BitVec 16), ∀ q ∈ [(2, Instr.addi d a i), (3, .andi d a i), (4, .ori d a i), (5, .xori d a i),
      (6, .slti d a i), (7, .sltiu d a i)],
    decodeSlot 0 (q.1 * 2 ^ 26 + d.toNat * 2 ^ 21 + a.toNat * 2 ^ 16 + i.toNat) = .ok q.2) ∧
  (∀ (d a : BitVec 5) (c : BitVec 6), ∀ q ∈ [(0, Instr.shli d a c), (1, .shri d a c), (2, .sari d a c), (3, .roli d a c)],
    decodeSlot 0 (0x20000000 + d.toNat * 2 ^ 21 + a.toNat * 2 ^ 16 + q.1 * 2 ^ 6 + c.toNat) = .ok q.2)

/-- R129, R132, R133, R134: constants, bit fields, selection and the bit-count group. -/
def Obligations.ScalarFields : Prop :=
  (∀ (s : State) (d a b c : BitVec 5),
    let x := s.sr a
    let y := s.sr b
    let w := fun i v => Leaves 0 1 i s (.s d.toNat v)
    let cut := fun (signed : Bool) (o n : Nat) =>
      if 64 ≤ o ∨ n = 0 then (0 : Word)
      else
        let k := min n (64 - o)
        let f := x.toNat / 2 ^ o % 2 ^ k
        if signed && f.testBit (k - 1) then BitVec.ofInt 64 ((f : Int) - 2 ^ k) else BitVec.ofNat 64 f
    let put := fun (o n : Nat) (j : Nat) =>
      if o ≤ j ∧ j < o + n then x.getLsbD (j - o) else (s.sr d).getLsbD j
    (∀ i : BitVec 21, w (.movi d i) (BitVec.ofInt 64 i.toInt)) ∧
    (∀ (p : BitVec 2) (i : BitVec 16), ∃ v, w (.movk d p i) v ∧ ∀ j < 64, v.getLsbD j =
      if 16 * p.toNat ≤ j ∧ j < 16 * p.toNat + 16 then i.getLsbD (j - 16 * p.toNat) else (s.sr d).getLsbD j) ∧
    w (.bfx d a b) (cut true (y.toNat % 256) (y.toNat / 256 % 256)) ∧
    w (.bfxz d a b) (cut false (y.toNat % 256) (y.toNat / 256 % 256)) ∧
    (∃ v, w (.bfi d a b) v ∧ ∀ j < 64, v.getLsbD j = put (y.toNat % 256) (y.toNat / 256 % 256) j) ∧
    (∀ (n : BitVec 7) (o : BitVec 6), w (.bfxi d a n o) (cut true o.toNat n.toNat)) ∧
    (∀ (n : BitVec 7) (o : BitVec 6), ∃ v, w (.bfii d a n o) v ∧ ∀ j < 64, v.getLsbD j = put o.toNat n.toNat j) ∧
    w (.sel d a b c) (if s.sr c ≠ 0 then x else y)) ∧
  (∀ (s : State) (d a : BitVec 5),
    let x := s.sr a
    let w := fun i v => Leaves 0 1 i s (.s d.toNat v)
    (∃ n ≤ 64, w (.clz d a) (BitVec.ofNat 64 n) ∧ (∀ j < n, x.getLsbD (63 - j) = false) ∧
      (n < 64 → x.getLsbD (63 - n) = true)) ∧
    (∃ n ≤ 64, w (.ctz d a) (BitVec.ofNat 64 n) ∧ (∀ j < n, x.getLsbD j = false) ∧ (n < 64 → x.getLsbD n = true)) ∧
    w (.popc d a) (BitVec.ofNat 64 ((List.range 64).countP fun j => x.getLsbD j)) ∧
    (∃ v, w (.brev d a) v ∧ ∀ j < 64, v.getLsbD (63 - j) = x.getLsbD j) ∧
    (∃ v, w (.bytrev d a) v ∧ ∀ j < 8, v.toNat / 256 ^ (7 - j) % 256 = x.toNat / 256 ^ j % 256)) ∧
  (∀ w : Nat, w < 2 ^ 32 → w / 2 ^ 26 = 0x0D → (w / 2 ^ 11 % 2 ^ 5 ≠ 0 ∨ 5 ≤ w % 2 ^ 11) →
    decodeSlot 0 w = .bad .reservedField) ∧
  (∀ d a : BitVec 5, ∀ q ∈ [(0, Instr.clz d a), (1, .ctz d a), (2, .popc d a), (3, .brev d a), (4, .bytrev d a)],
    decodeSlot 0 (0x34000000 + d.toNat * 2 ^ 21 + a.toNat * 2 ^ 16 + q.1) = .ok q.2)

/-- R130, R131: products and quotients; a zero divisor records FLAGS.IDZ with the result. -/
def Obligations.ScalarProducts : Prop :=  (∀ (s : State) (d a b : BitVec 5),
    let x := s.sr a
    let y := s.sr b
    let w := fun i v => Leaves 0 3 i s (.s d.toNat v)
    let q := fun i v => y ≠ 0 → Leaves 0 18 i s (.s d.toNat v)
    let z := fun i v => y = 0 → s.passes 0 i →
      exec i s = .next (s.laterEv 0 18 (.s d.toNat v) flIDZ (some (s.event 0 0 0 0 0 5)))
    w (.mul d a b) (BitVec.ofNat 64 (x.toNat * y.toNat)) ∧
    w (.mulh d a b) (BitVec.ofInt 64 (x.toInt * y.toInt / 2 ^ 64)) ∧
    w (.mulhu d a b) (BitVec.ofNat 64 (x.toNat * y.toNat / 2 ^ 64)) ∧
    w (.mulhsu d a b) (BitVec.ofInt 64 (x.toInt * y.toNat / 2 ^ 64)) ∧
    q (.div d a b) (BitVec.ofInt 64 (x.toInt.tdiv y.toInt)) ∧
    q (.rem d a b) (BitVec.ofInt 64 (x.toInt - x.toInt.tdiv y.toInt * y.toInt)) ∧
    q (.divu d a b) (BitVec.ofNat 64 (x.toNat / y.toNat)) ∧
    q (.remu d a b) (BitVec.ofNat 64 (x.toNat - x.toNat / y.toNat * y.toNat)) ∧
    z (.div d a b) (BitVec.allOnes 64) ∧ z (.divu d a b) (BitVec.allOnes 64) ∧ z (.rem d a b) x ∧ z (.remu d a b) x ∧
    (x = BitVec.ofInt 64 (-(2 ^ 63)) → y = BitVec.ofInt 64 (-1) →
      Leaves 0 18 (.div d a b) s (.s d.toNat x) ∧ Leaves 0 18 (.rem d a b) s (.s d.toNat 0))) ∧
  (∀ w : Nat, w < 2 ^ 32 → w / 2 ^ 26 = 0x0B ∨ w / 2 ^ 26 = 0x0C → 4 ≤ w % 2 ^ 11 → decodeSlot 0 w = .bad .reservedField) ∧
  (∀ d a b : BitVec 5, ∀ q ∈ [(0x2C000000, Instr.mul d a b), (0x2C000001, .mulh d a b), (0x2C000002, .mulhu d a b),
      (0x2C000003, .mulhsu d a b), (0x30000000, .div d a b), (0x30000001, .divu d a b), (0x30000002, .rem d a b),
      (0x30000003, .remu d a b)],
    decodeSlot 0 (q.1 + d.toNat * 2 ^ 21 + a.toNat * 2 ^ 16 + b.toNat * 2 ^ 11) = .ok q.2)

/-! ## Control transfers, loops and the stop group (R114, R120, R135 to R143) -/

/-- R136: the conditional branches. A taken branch goes to its own address plus the offset, leaves the loops that R139
names, and traps IBANK_RANGE outside 0 to 0x11FF; one that is not taken changes nothing and never traps on its target.
R139: what a transfer that pops leaves of the loop stack: the entries from the innermost out that its bundle lies in and
its target does not are gone, up to the first of which that does not hold. -/
def Obligations.Branches : Prop :=  (∀ (s : State) (a b : BitVec 5) (o : BitVec 13),
    let x := s.sr a
    let y := s.sr b
    let goal : Int := (s.own : Int) + o.toInt
    let br := fun (i : Instr) (taken : Prop) =>
      (s.passes 0 i → ¬taken → exec i s = .next s) ∧
      (s.passes 0 i → taken → 0 ≤ goal → goal ≤ 0x11FF → exec i s = .next ((s.modCtx s.x fun c =>
        { c with loops := popLoops c.pc goal.toNat c.loops }).goto goal.toNat)) ∧
      (taken → (goal < 0 ∨ 0x11FF < goal) → Traps 0 i s 0x06 (BitVec.ofInt 64 goal))
    br (.beq a b o) (x = y) ∧ br (.bne a b o) (x ≠ y) ∧ br (.blt a b o) (x.toInt < y.toInt) ∧
    br (.bge a b o) (y.toInt ≤ x.toInt) ∧ br (.bltu a b o) (x.toNat < y.toNat) ∧ br (.bgeu a b o) (y.toNat ≤ x.toNat)) ∧
  (∀ w : Nat, w < 2 ^ 32 → w / 2 ^ 26 = 0x13 → 6 ≤ w / 2 ^ 13 % 2 ^ 3 → decodeSlot 0 w = .bad .reservedField) ∧
  (∀ (a b : BitVec 5) (o : BitVec 13), ∀ q ∈ [(0, Instr.beq a b o), (1, .bne a b o), (2, .blt a b o), (3, .bge a b o),
      (4, .bltu a b o), (5, .bgeu a b o)],
    decodeSlot 0 (0x4C000000 + a.toNat * 2 ^ 21 + b.toNat * 2 ^ 16 + q.1 * 2 ^ 13 + o.toNat) = .ok q.2) ∧
  (∀ (own target : Nat) (l : List LoopEnt),
    let left := fun e : LoopEnt => (e.first ≤ own ∧ own ≤ e.last) ∧ ¬(e.first ≤ target ∧ target ≤ e.last)
    ∃ n ≤ l.length, popLoops own target l = l.drop n ∧ (∀ e ∈ l.take n, left e) ∧ ∀ e, l[n]? = some e → ¬left e)

/-- R137, R140: the unconditional transfers: target, link, and the overlay banks that `jbank` swaps for the whole core.
What `jbank` drops beside (`Core.swapped`) is the model's record of bundles that no `istore` in flight holds back (log 77). -/
def Obligations.Jumps : Prop :=  ∀ (s : State) (d a : BitVec 5) (o : BitVec 26) (i : BitVec 21),
    let link := fun (t : State) (r : Nat) => t.later 0 1 (.s r (BitVec.ofNat 64 (s.own + 1)))
    let goal : Int := (s.own : Int) + o.toInt
    let ok := 0 ≤ goal ∧ goal ≤ 0x11FF
    (s.passes 0 (.j o) → ok → exec (.j o) s = .next ((s.modCtx s.x fun c =>
      { c with loops := popLoops c.pc goal.toNat c.loops }).goto goal.toNat)) ∧
    (¬ok → Traps 0 (.j o) s 0x06 (BitVec.ofInt 64 goal) ∧ Traps 0 (.jal o) s 0x06 (BitVec.ofInt 64 goal)) ∧
    (s.passes 0 (.jal o) → ok → exec (.jal o) s = .next (link ((s.modCtx s.x id).goto goal.toNat) 31)) ∧
    (s.passes 0 (.jr d a) → (s.sr a).toNat ≤ 0x11FF → exec (.jr d a) s = .next (link ((s.modCtx s.x fun c =>
      { c with loops := popLoops c.pc (s.sr a).toNat c.loops }).goto (s.sr a).toNat) d.toNat)) ∧
    (0x11FF < (s.sr a).toNat → Traps 0 (.jr d a) s 0x06 (s.sr a)) ∧
    (s.passes 0 (.jbank d i) → 0x200 ≤ i.toInt → i.toInt ≤ 0x11FF → exec (.jbank d i) s = .next (link
      (((s.modCore (coreOf s.x) Core.swapped).modCtx s.x fun c => { c with loops := [] }).goto i.toNat) d.toNat)) ∧
    (i.toInt < 0x200 ∨ 0x11FF < i.toInt → Traps 0 (.jbank d i) s 0x06 (BitVec.ofInt 64 i.toInt)) ∧
    (∀ k : Core, k.swapped.ibank = 1 - k.ibank ∧ k.swapped.ipad = k.ipad)

/-- R138: `loop` and `loopi` in every case of their rule, with the loop-back of an enclosing loop that ends at the loop
instruction; the next address in sequence; and the loop-back itself, which an entry that pops makes in its turn for the
enclosing loop that it carries. -/
def Obligations.Loops : Prop :=  (∀ (s : State) (a : BitVec 5) (n o : BitVec 13),
    let last : Int := (s.own : Int) + o.toInt
    let atLast := match s.me.loops with
      | [] => false
      | e :: _ => e.last == s.own
    let rule := fun (i : Instr) (count : Nat) =>
      (o.toInt ≤ 0 → exec i s = .next (s.trapAtIssue 0 0x02 0)) ∧
      (0 < o.toInt → 0x11FF < last → Traps 0 i s 0x06 (BitVec.ofInt 64 last)) ∧
      (0 < o.toInt → last ≤ 0x11FF → count = 0 → s.passes 0 i →
        (atLast = false → exec i s = .next ((s.modCtx s.x fun c => { c with loops := s.me.loops }).goto (last.toNat + 1))) ∧
        (atLast = true → exec i s = .next ((s.modCtx s.x fun c =>
          { c with loops := (loopBack s.me.loops (last.toNat + 1)).1 }).goto (loopBack s.me.loops (last.toNat + 1)).2))) ∧
      (0 < o.toInt → last ≤ 0x11FF → 0 < count → 4 ≤ s.me.loops.length → Traps 0 i s 0x0D 0) ∧
      (0 < o.toInt → last ≤ 0x11FF → 0 < count → s.me.loops.length < 4 → s.passes 0 i →
        exec i s = .next ((s.modCtx s.x fun c =>
          { c with loops := { first := s.own + 1, last := last.toNat, count := count, carry := atLast } :: c.loops }).goto
            (s.own + 1)))
    rule (.loop a o) ((s.sr a).toNat % 2 ^ 32) ∧ rule (.loopi n o) n.toNat) ∧
  (∀ (e : LoopEnt) (l : List LoopEnt) (own : Nat), e.last = own →
    (1 < e.count → inSequence (e :: l) own = ({ e with count := e.count - 1 } :: l, e.first)) ∧
    (e.count ≤ 1 → e.carry = false → inSequence (e :: l) own = (l, own + 1)) ∧
    (e.count ≤ 1 → e.carry = true → inSequence (e :: l) own = loopBack l (own + 1))) ∧
  (∀ (e : LoopEnt) (l : List LoopEnt) (fall : Nat), loopBack [] fall = ([], fall) ∧
    (1 < e.count → loopBack (e :: l) fall = ({ e with count := e.count - 1 } :: l, e.first)) ∧
    (e.count ≤ 1 → e.carry = false → loopBack (e :: l) fall = (l, fall)) ∧
    (e.count ≤ 1 → e.carry = true → loopBack (e :: l) fall = loopBack l fall)) ∧
  (∀ (e : LoopEnt) (l : List LoopEnt) (own : Nat), inSequence [] own = ([], own + 1) ∧
    (e.last ≠ own → inSequence (e :: l) own = (e :: l, own + 1)))

/-- R52, R54, R120, R142: `nop` and the header have no effect of their own; `stop` leaves its context dormant with no
result in flight; `yield` gives the stage to the first ready context after its own, and without one changes nothing. That
results which the stop bundle itself brings to their count land first is the model's choice (log 22). -/
def Obligations.StopGroup : Prop :=  ∀ (s : State) (e f g : BitVec 8),
    (∀ k, s.passes 0 .nop → k = 0 → exec .nop s = .next s) ∧
    (s.passes 0 (.xhdr e f g) → exec (.xhdr e f g) s = .next s) ∧
    (s.passes 0 .stop → ∃ t : State, exec .stop s = .next t ∧ (t.ctx s.x).st = .dormant ∧ (t.ctx s.x).snaps = [] ∧
      (t.ctx s.x).longs = [] ∧ (t.ctx s.x).pc = s.me.pc ∧ t.mem = s.mem) ∧
    (s.passes 0 .yield → s.readyAfter (coreOf s.x) (s.x % 4) = none → exec .yield s = .next s) ∧
    (∀ j, s.passes 0 .yield → s.readyAfter (coreOf s.x) (s.x % 4) = some j → j ≠ s.x % 4 →
      (s.core (coreOf s.x)).sel = some (s.x % 4) →
      ∃ t : State, exec .yield s = .next t ∧ (t.ctx s.x).st = .ready ∧ (t.core (coreOf s.x)).sel = some j ∧
        (t.ctx (4 * coreOf s.x + j)).st = .selected ∧ t.mem = s.mem)

/-- R142, R143, R311, R313: `brk`, `trap` and `ecall` in an unprivileged context that is no `tcall` child freeze it with
their cause and FADDR and deliver the frame of the trap, taken after issue, to the trap store of the die. R61, R260, R313:
a privileged instruction in a context that is not privileged traps PRIV_INSTR at issue: the context is frozen with that
cause, and no register, no byte of memory and no result in flight changes. Frame fields that have no meaning for the
source are 0 (log 46), the model's choice. -/
def Obligations.TrapEntry : Prop :=
  (∀ (s : State) (a : BitVec 5) (i : BitVec 16), s.me.priv = false → (∀ w n p, s.me.origin ≠ some (.tcall w n p)) →
    s.me.st = .selected →
    let takes := fun (j : Instr) (cause : Nat) (f : Word) => s.passes 0 j →
      ∃ t : State, exec j s = .next t ∧ (t.ctx s.x).st = .frozen ∧ (t.ctx s.x).why = some (.trap cause f) ∧ t.mem = s.mem ∧
        SameRegisters s t s.x ∧ (t.ctx s.x).snaps = s.me.snaps ∧ (t.ctx s.x).pc = s.me.pc ∧
        ((s.die (dieOf s.x)).room = true → ∃ (fr : Frame), (t.die (dieOf s.x)).store = (s.die (dieOf s.x)).store ++ [fr] ∧
          fr.cause = cause ∧ fr.src = 0 ∧ fr.fl % 2 = 1 ∧ fr.fl / 4 % 2 = 1 ∧ fr.fl / 2 % 2 = b2n s.me.world ∧
          fr.baddr = s.me.pc ∧ fr.faddr = f ∧ fr.world = s.me.world)
    takes .brk 0x09 0 ∧ takes (.trap a) 0x0A (s.sr a) ∧ takes (.ecall i) 0x58 (BitVec.ofNat 64 i.toNat)) ∧
  (∀ (s : State) (a b : BitVec 5), s.me.priv = false → (∀ w n p, s.me.origin ≠ some (.tcall w n p)) →
    s.iss.gated = false → s.me.st = .selected →
    ∀ i : Instr, i = .sysSave a b ∨ i = .sysRest a b ∨ i = .sysWorld a ∨ i = .sysShoot a →
      ∃ t : State, exec i s = .next t ∧ (t.ctx s.x).st = .frozen ∧ (t.ctx s.x).why = some (.trap 0x04 0) ∧ t.mem = s.mem ∧
        SameRegisters s t s.x ∧ (t.ctx s.x).snaps = s.me.snaps ∧ (t.ctx s.x).count = s.me.count)

/-- R114, R121, R122, R141: reading every special register of a context, core, cluster and die, and `mts` to each. MODE,
FLAGS, FEL0, CSTAG, DISC and WCBWAIT take their fields one bundle later, every other number below START keeps what it
holds, and of the WCBWAIT writes of one cycle the highest core's stands; START starts the lowest dormant context with
the entry and argument in s[a], and traps CONTEXT_EXHAUSTED where a start waits or no context is dormant. The order of
CONTEXT_EXHAUSTED before KERNEL_ENTRY, and that an `mts` of CSTAG beside an `xcfm` names the tag that its bundle finds
(log 34), are the model's choice; FEL0.BANK is the bank in which the bundle issued (log 77). -/
def Obligations.SpecialRegisters : Prop :=
  (∀ (s : State) (d : BitVec 5),
    let x := s.x
    let die := x / 256
    let dom := (s.reg die 0x5000200).toNat
    let pan := if dom / 2 ^ 63 % 2 = 1 then 8 * (dom / 2 ^ 21 % 4) + 4 * (dom / 2 ^ 20 % 2) + dom / 2 ^ 18 % 4 else die / 64
    let dx := die % 8
    let dy := die % 64 / 8
    let rd := fun (n : BitVec 16) (v : Nat) => Leaves 0 1 (.mfs d n) s (.s d.toNat (BitVec.ofNat 64 v))
    let log := fun (f : LogEv → Nat) => match s.me.fel with
      | none => 0
      | some e => f e
    rd 0x00 (x % 4) ∧ rd 0x01 (x / 4 % 64) ∧ rd 0x02 (x / 4 % 64 / 8) ∧ rd 0x03 (die % 64) ∧
    rd 0x04 (pan / 8 * 2 ^ 32 + (8 * (pan / 4 % 2) + dy) * 2 ^ 24 + (8 * (pan % 4) + dx) * 2 ^ 16 + dy * 8 + dx) ∧
    rd 0x05 pan ∧ rd 0x06 (s.now - (s.die die).clk0) ∧
    rd 0x07 (b2n s.me.priv * 16 + b2n s.me.world * 8 + b2n s.me.pchk * 4 + s.me.rm.toNat) ∧
    rd 0x08 s.me.flags.toNat ∧ rd 0x09 (log fun e => 2 ^ 63 + e.bank * 2 ^ 18 + e.slot * 2 ^ 16 + e.baddr) ∧
    rd 0x0A (log fun e => e.row * 2 ^ 19 + e.lane * 2 ^ 12 + e.elem * 2 ^ 9 + e.kind) ∧
    rd 0x0B (b2n s.me.tagV * 256 + s.me.tag.toNat) ∧ rd 0x0C s.me.child.toNat ∧
    rd 0x0D (s.me.prio.toNat * 4 + s.me.stream.toNat) ∧ rd 0x0E s.me.disc.toNat ∧ rd 0x0F 0x3FF000 ∧
    rd 0x10 (s.clu (x / 32)).wcbwait.toNat ∧ rd 0x11 (s.core (coreOf x)).ibank ∧ rd 0x12 s.me.loops.length ∧ rd 0x13 0 ∧
    (∀ n : BitVec 16, 0x14 ≤ n.toNat → exec (.mfs d n) s = .next (s.trapAtIssue 0 0x02 0))) ∧
  (∀ (s : State) (a : BitVec 5),
    let v := s.sr a
    (∀ n : BitVec 16, n.toNat < 0x13 → n ≠ 0x0B → Leaves 0 1 (.mts a n) s (.sreg n.toNat v)) ∧
    (v.getLsbD 8 = true → s.tagLive (coreOf s.x) (v.toNat % 256) = false → Traps 0 (.mts a 0x0B) s 0x32 0) ∧
    (v.getLsbD 8 = false ∨ s.tagLive (coreOf s.x) (v.toNat % 256) = true → Leaves 0 1 (.mts a 0x0B) s (.sreg 0x0B v)) ∧
    ((s.core (coreOf s.x)).starts ≠ [] ∨ s.dormantOf (coreOf s.x) = none → Traps 0 (.mts a 0x13) s 0x39 0) ∧
    (∀ j, (s.core (coreOf s.x)).starts = [] → s.dormantOf (coreOf s.x) = some j → 0x11FF < v.toNat % 2 ^ 16 →
      Traps 0 (.mts a 0x13) s 0x38 0) ∧
    (∀ j, s.passes 0 (.mts a 0x13) → v.toNat % 2 ^ 16 ≤ 0x11FF → (s.core (coreOf s.x)).starts = [] →
      s.dormantOf (coreOf s.x) = some j → ∃ t : State, exec (.mts a 0x13) s = .next t ∧ SameMemory s t ∧
        (∀ x, x ≠ 4 * coreOf s.x + j → t.ctx x = s.ctx x) ∧
        let c := t.ctx (4 * coreOf s.x + j)
        c.st = .ready ∧ c.pc = v.toNat % 2 ^ 16 ∧ c.sreg 1 = BitVec.ofNat 64 (v.toNat / 2 ^ 32) ∧
        c.sreg 2 = BitVec.ofNat 64 (s.x % 4) ∧ (∀ r, 2 < r → c.sreg r = 0) ∧ (∀ r l, c.lane r l = 0) ∧
        (∀ r, 0 < r → c.preg r = 0) ∧ c.count = 0 ∧ c.snaps = [] ∧ c.loops = [] ∧ c.priv = false ∧
        c.world = (s.core (coreOf s.x)).nextWorld ∧ c.flags = 0 ∧ c.fel = none ∧ c.tagV = false ∧ c.child = 0 ∧
        c.stream = s.me.stream ∧ c.prio = s.me.prio) ∧
    (∀ n : BitVec 16, 0x14 ≤ n.toNat → exec (.mts a n) s = .next (s.trapAtIssue 0 0x02 0)) ∧
    (∀ c : Ctx,
      c.put (.sreg 0x07 v) = { c with rm := BitVec.ofNat 2 v.toNat, pchk := v.getLsbD 2 } ∧
      c.put (.sreg 0x08 v) = { c with flags := c.flags &&& ~~~(BitVec.ofNat 7 v.toNat) } ∧
      c.put (.sreg 0x09 v) = { c with fel := if v.getLsbD 63 then none else c.fel } ∧
      c.put (.sreg 0x0B v) = { c with tagV := v.getLsbD 8, tag := BitVec.ofNat 8 v.toNat } ∧
      c.put (.sreg 0x0E v) = { c with disc := c.disc &&& ~~~(BitVec.ofNat 16 v.toNat) } ∧
      (∀ n, n ≠ 0x07 → n ≠ 0x08 → n ≠ 0x09 → n ≠ 0x0B → n ≠ 0x0E → c.put (.sreg n v) = c)) ∧
    (s.me.snaps = [] → ∀ lat, 0 < lat → let u := cluOf s.x
      let t := (s.later 0 1 (.sreg 0x10 v)).countUps s.x lat
      (∀ w, w ≠ u → t.clu w = s.clu w) ∧
      ((∀ p, (s.clu u).wcbBy = some p → p.1 = s.now → p.2 ≤ coreOf s.x) →
        (t.clu u).wcbwait = BitVec.ofNat 12 v.toNat) ∧
      (∀ k, (s.clu u).wcbBy = some (s.now, k) → coreOf s.x < k → (t.clu u).wcbwait = (s.clu u).wcbwait)))

/-! ## Vectors and predicates (R77, R81, R86 to R111) -/

/-- R28, R30, R31, R33: correct rounding. In every mode a sum, difference, product, fused form or quotient of finite
values, and a conversion from another format or from an integer, is its exact value rounded once, with the flags of R31;
an exact zero sum is −0 only where both terms are −0, or the mode is RDN and the terms are not zeros of one sign (R86);
a square root is the root of its exact value rounded once. R29, R88: a NaN operand gives the canonical NaN, and a
signalling one sets NV; the invalid operations give it with NV; infinities, and a finite nonzero value over zero, which
sets DZ, give what IEEE 754 gives. -/
def Obligations.CorrectRounding : Prop :=
  (∀ f ∈ [fp16, bf16, fp32, fp64], ∀ rm < 4, ∀ x y z : Nat,
    f.finite x → f.finite y → f.finite z →
    let u := f.units
    let neg := fun w => w.testBit (f.eb + f.fb)
    let zero := fun (b : Bool) => ((if b then f.signBit else 0, 0) : Nat × Fl)
    let signed := fun (b : Bool) (v : Int) => if b then -v else v
    let sum := fun (m n : Bool) => zero (if u x = 0 ∧ u y = 0 ∧ m = n then m else rm == 3)
    (u x + u y ≠ 0 → f.Rounds rm (u x + u y) 1 (f.add rm x y)) ∧
    (u x + u y = 0 → f.add rm x y = sum (neg x) (neg y)) ∧
    (u x - u y ≠ 0 → f.Rounds rm (u x - u y) 1 (f.sub rm x y)) ∧
    (u x - u y = 0 → f.sub rm x y = sum (neg x) (!neg y)) ∧
    (u x * u y ≠ 0 → f.Rounds rm (u x * u y) f.one (f.mul rm x y)) ∧
    (u x * u y = 0 → f.mul rm x y = zero (neg x != neg y)) ∧
    (∀ p q : Bool, let v := signed p (u x * u y) + signed q (u z * f.one)
      (v ≠ 0 → f.Rounds rm v f.one (f.fma rm x y z p q)) ∧
      (v = 0 → f.fma rm x y z p q = zero (if u x * u y = 0 ∧ u z = 0 ∧ ((neg x != neg y) != p) = (neg z != q)
        then neg z != q else rm == 3))) ∧
    (u y ≠ 0 → u x ≠ 0 → f.Rounds rm (u x * (u y).sign * f.one) (u y).natAbs (f.div rm x y)) ∧
    (u y ≠ 0 → u x = 0 → f.div rm x y = zero (neg x != neg y)) ∧
    (0 < u x → let r := f.sqrt rm x
      let n := u x * f.one
      0 < u r.1 ∧ f.finite r.1 ∧ r.2 = (if u r.1 * u r.1 = n then 0 else flNX) ∧
      (rm = 0 → ∀ w, f.finite w → (u r.1 < u w → 4 * n ≤ (u r.1 + u w) * (u r.1 + u w)) ∧
        (0 ≤ u w → u w < u r.1 → (u r.1 + u w) * (u r.1 + u w) ≤ 4 * n)) ∧
      (rm = 1 ∨ rm = 3 → u r.1 * u r.1 ≤ n ∧ ∀ w, f.finite w → 0 ≤ u w → u w * u w ≤ n → u w ≤ u r.1) ∧
      (rm = 2 → n ≤ u r.1 * u r.1 ∧ ∀ w, f.finite w → 0 ≤ u w → n ≤ u w * u w → u r.1 ≤ u w)) ∧
    (∀ g ∈ [fp16, bf16, fp32, fp64], g ≠ f → (u x ≠ 0 → g.Rounds rm (u x * g.one) f.one (cvtFF f g rm x)) ∧
      (u x = 0 → cvtFF f g rm x = (if neg x then g.signBit else 0, 0))) ∧
    (∀ n : Int, (n ≠ 0 → f.Rounds rm (n * f.one) 1 (cvtIF f rm n)) ∧ (n = 0 → cvtIF f rm n = (0, 0)))) ∧
  (∀ f ∈ [fp16, bf16, fp32, fp64], ∀ rm < 4, ∀ x y z : Nat, x < 2 ^ f.width → y < 2 ^ f.width → z < 2 ^ f.width →
    let neg := fun w => w.testBit (f.eb + f.fb)
    let nan := fun w => f.infBits < w % f.signBit
    let quiet := fun (p : Prop) [Decidable p] => ((f.nanBits, if p then flNV else 0) : Nat × Fl)
    let snan := fun w => f.infBits < w % f.signBit ∧ w % 2 ^ f.fb < 2 ^ (f.fb - 1)
    let bad := ((f.nanBits, flNV) : Nat × Fl)
    let inf := fun w => w % f.signBit = f.infBits
    let zero := fun w => w % f.signBit = 0
    let at' := fun (b : Bool) (v : Nat) (fl : Fl) => (((if b then f.signBit else 0) + v, fl) : Nat × Fl)
    let undef := (inf x ∧ zero y) ∨ (zero x ∧ inf y)
    (nan x ∨ nan y → ∀ r ∈ [f.add rm x y, f.sub rm x y, f.mul rm x y, f.div rm x y], r = quiet (snan x ∨ snan y)) ∧
    (nan x → f.sqrt rm x = quiet (snan x) ∧
      ∀ g ∈ [fp16, bf16, fp32, fp64], cvtFF f g rm x = (g.nanBits, if snan x then flNV else 0)) ∧
    (¬nan x → ¬nan y →
      (∀ q ∈ [(f.add rm x y, neg y), (f.sub rm x y, !neg y)],
        (inf x → inf y → neg x ≠ q.2 → q.1 = bad) ∧ (inf x → (inf y → neg x = q.2) → q.1 = at' (neg x) f.infBits 0) ∧
        (¬inf x → inf y → q.1 = at' q.2 f.infBits 0)) ∧
      (undef → f.mul rm x y = bad) ∧
      (inf x ∨ inf y → ¬undef → f.mul rm x y = at' (neg x != neg y) f.infBits 0) ∧
      (inf x ∧ inf y ∨ zero x ∧ zero y → f.div rm x y = bad) ∧
      (inf x → ¬inf y → f.div rm x y = at' (neg x != neg y) f.infBits 0) ∧
      (¬inf x → inf y → f.div rm x y = at' (neg x != neg y) 0 0) ∧
      (¬inf x → ¬zero x → zero y → f.div rm x y = at' (neg x != neg y) f.infBits flDZ)) ∧
    (¬nan x → (zero x → f.sqrt rm x = (x, 0)) ∧ (neg x = true → ¬zero x → f.sqrt rm x = bad) ∧
      (neg x = false → inf x → f.sqrt rm x = (x, 0)) ∧
      (inf x → ∀ g ∈ [fp16, bf16, fp32, fp64], cvtFF f g rm x = ((if neg x then g.signBit else 0) + g.infBits, 0))) ∧
    ∀ p q : Bool,
      let r := f.fma rm x y z p q
      let m := (neg x != neg y) != p
      let n := neg z != q
      (undef → r = bad) ∧ (nan x ∨ nan y → r = quiet (snan x ∨ snan y ∨ snan z)) ∧
      (¬nan x → ¬nan y → ¬undef → nan z → r = quiet (snan z)) ∧
      (¬nan x → ¬nan y → ¬nan z → ¬undef → (inf x ∨ inf y → inf z → m ≠ n → r = bad) ∧
        (inf x ∨ inf y → (inf z → m = n) → r = at' m f.infBits 0) ∧ (¬inf x → ¬inf y → inf z → r = at' n f.infBits 0)))

/-- R86, R87: sums, products, fused forms and minima: FP types by the arithmetic of the format in MODE.RM, integer types
modulo the width; latency 4 on FP types and 2 on integer types. What the smaller and the larger of two FP values are:
minimumNumber and maximumNumber, with −0 below +0, and NV for a signalling NaN; and the order of two FP values. -/
def Obligations.VectorArithmetic : Prop :=
  (∀ (s : State) (d a b : BitVec 5) (p t : BitVec 3),
    let n := t.toNat
    let f := ffmtOf n
    let x := fun l e => elemOf n (s.me.lane a.toNat l) e
    let y := fun l e => elemOf n (s.me.lane b.toNat l) e
    let z := fun l e => elemOf n (s.me.lane d.toNat l) e
    let int := fun v : Nat => if n = 1 then (v : Int) else sgnN (elemW n) v
    let fp := 3 ≤ n ∧ n ≤ 6
    let w := fun (i : Instr) (real : Nat → Nat → Elem) (whole : Nat → Nat → Int) =>
      WritesElems (if fp then 4 else 2) d.toNat n i s fun l e =>
        if (s.me.preg p.toNat).getLsbD l then
          some (if fp then real l e else ((whole l e % (2 ^ elemW n : Nat)).toNat, 0))
        else none
    w (.vadd d a b p t) (fun l e => f.add s.rm (x l e) (y l e)) (fun l e => int (x l e) + int (y l e)) ∧
    w (.vsub d a b p t) (fun l e => f.sub s.rm (x l e) (y l e)) (fun l e => int (x l e) - int (y l e)) ∧
    w (.vmul d a b p t) (fun l e => f.mul s.rm (x l e) (y l e)) (fun l e => int (x l e) * int (y l e)) ∧
    w (.vfma d a b p t) (fun l e => f.fma s.rm (x l e) (y l e) (z l e) false false)
      (fun l e => int (x l e) * int (y l e) + int (z l e)) ∧
    w (.vfms d a b p t) (fun l e => f.fma s.rm (x l e) (y l e) (z l e) false true)
      (fun l e => int (x l e) * int (y l e) - int (z l e)) ∧
    w (.vfnma d a b p t) (fun l e => f.fma s.rm (x l e) (y l e) (z l e) true false)
      (fun l e => int (z l e) - int (x l e) * int (y l e)) ∧
    w (.vmin d a b p t) (fun l e => f.minmax false (x l e) (y l e)) (fun l e => min (int (x l e)) (int (y l e))) ∧
    w (.vmax d a b p t) (fun l e => f.minmax true (x l e) (y l e)) (fun l e => max (int (x l e)) (int (y l e)))) ∧
  (∀ f ∈ [fp16, bf16, fp32, fp64], ∀ x y : Nat, x < 2 ^ f.width → y < 2 ^ f.width →
    let neg := fun w => w.testBit (f.eb + f.fb)
    let nan := fun w => f.infBits < w % f.signBit
    let snan := fun w => nan w ∧ w % 2 ^ f.fb < 2 ^ (f.fb - 1)
    let size := fun w : Nat => if neg w then -((w % f.signBit : Nat) : Int) else (w % f.signBit : Nat)
    let below := size x < size y ∨ (size x = size y ∧ neg x = true)
    (f.val x = .nan ↔ nan x) ∧ (f.snan x = true ↔ snan x) ∧
    (∀ big, ((f.minmax big x y).2 = flNV ↔ snan x ∨ snan y) ∧ (¬snan x → ¬snan y → (f.minmax big x y).2 = 0) ∧
      (nan x → nan y → (f.minmax big x y).1 = f.nanBits) ∧ (nan x → ¬nan y → (f.minmax big x y).1 = y) ∧
      (¬nan x → nan y → (f.minmax big x y).1 = x)) ∧
    (¬nan x → ¬nan y → (f.val x).cmp (f.val y) = compare (size x) (size y) ∧
      (below → (f.minmax false x y).1 = x ∧ (f.minmax true x y).1 = y) ∧
      (¬below → (f.minmax false x y).1 = y ∧ (f.minmax true x y).1 = x)))

/-- R88 to R90: division, square root and the special functions, with their latencies; a zero divisor of an integer type
gives all ones with IDZ. R91: conversion, part by part, in the rounding mode of the instruction, and what R33 gives for
each pair of types. R89: every finite `vrcp` and `vrsq` is faithful; `vexp2` of an integer and `vlog2` of a power of two are
exact where representable; other values of these two lie between those of the neighbouring integers and powers, and `vtanh`
keeps its sign and lies within ±1, next to a tiny argument; with the flags of each. Which neighbour of an inexact special
function is delivered is a free value (log 14). -/
def Obligations.VectorFunctions : Prop :=
  ((∀ (s : State) (d a b : BitVec 5) (p t : BitVec 3),
    let n := t.toNat
    let f := ffmtOf n
    let x := fun l e => elemOf n (s.me.lane a.toNat l) e
    let y := fun l e => elemOf n (s.me.lane b.toNat l) e
    let int := fun v : Nat => if n = 1 then (v : Int) else sgnN (elemW n) v
    let w := fun (lat : Nat) (i : Instr) (g : Nat → Nat → Elem) => WritesElems lat d.toNat n i s fun l e =>
      if (s.me.preg p.toNat).getLsbD l then some (g l e) else none
    w 16 (.vdiv d a b p t) (fun l e =>
      if 3 ≤ n ∧ n ≤ 6 then f.div s.rm (x l e) (y l e)
      else if y l e = 0 then (2 ^ elemW n - 1, flIDZ)
      else (((int (x l e)).tdiv (int (y l e)) % (2 ^ elemW n : Nat)).toNat, 0)) ∧
    w 16 (.vsqrt d a p t) (fun l e => f.sqrt s.rm (x l e)) ∧
    w 8 (.vrcp d a p t) (fun l e => f.sfu n 0 s.rm (x l e)) ∧ w 8 (.vrsq d a p t) (fun l e => f.sfu n 1 s.rm (x l e)) ∧
    w 8 (.vexp2 d a p t) (fun l e => f.sfu n 2 s.rm (x l e)) ∧ w 8 (.vlog2 d a p t) (fun l e => f.sfu n 3 s.rm (x l e)) ∧
    w 8 (.vtanh d a p t) (fun l e => f.sfu n 4 s.rm (x l e))) ∧
  (∀ (t rm : Nat), 3 ≤ t → t ≤ 6 →
    let f := ffmtOf t
    let inf := f.infBits
    let neg := f.signBit
    let one := f.bias * 2 ^ f.fb
    let nan := f.nanBits
    let at' := fun fn x => f.sfu t fn rm x
    at' 0 0 = (inf, flDZ) ∧ at' 0 neg = (neg + inf, flDZ) ∧ at' 0 inf = (0, 0) ∧ at' 0 (neg + inf) = (neg, 0) ∧
    at' 1 0 = (inf, flDZ) ∧ at' 1 neg = (neg + inf, flDZ) ∧ at' 1 inf = (0, 0) ∧ at' 1 (neg + inf) = (nan, flNV) ∧
    at' 1 (neg + one) = (nan, flNV) ∧ at' 2 0 = (one, 0) ∧ at' 2 neg = (one, 0) ∧ at' 2 inf = (inf, 0) ∧
    at' 2 (neg + inf) = (0, 0) ∧ at' 3 0 = (neg + inf, flDZ) ∧ at' 3 neg = (neg + inf, flDZ) ∧ at' 3 inf = (inf, 0) ∧
    at' 3 (neg + inf) = (nan, flNV) ∧ at' 3 (neg + one) = (nan, flNV) ∧ at' 3 one = (0, 0) ∧ at' 4 0 = (0, 0) ∧
    at' 4 neg = (neg, 0) ∧ at' 4 inf = (one, 0) ∧ at' 4 (neg + inf) = (neg + one, 0) ∧
    (∀ fn, at' fn nan = (nan, 0) ∧ at' fn (inf + 1) = (nan, flNV)))) ∧
  (∀ (t rm x : Nat), 3 ≤ t → t ≤ 6 → rm < 4 →
    let f := ffmtOf t
    let u := f.units
    let at' := fun fn => f.sfu t fn rm x
    let a := (u x).natAbs
    let one : Int := f.one
    let neg := x.testBit (f.eb + f.fb)
    let low : Int := f.bias + f.fb - 1
    let most := (if rm = 0 ∨ rm = 2 then f.infBits else f.infBits - 1, flOF ||| flNX)
    let inexact := fun r : Nat × Fl => r.2 = if r.1 % f.signBit < 2 ^ f.fb then flNX ||| flUF else flNX
    f.finite x → u x ≠ 0 →
      f.Faithful rm neg (fun w => w * a - one * one) (at' 0) ∧
      (neg = false → f.Faithful rm false (fun w => w * w * a - one * one * one) (at' 1)) ∧
      (let n := u x / one
       (u x % one = 0 → -low ≤ n → n ≤ f.bias → f.finite (at' 2).1 ∧ u (at' 2).1 = 2 ^ (n + low).toNat ∧ (at' 2).2 = 0) ∧
       (u x % one ≠ 0 → -low ≤ n → n < f.bias → f.finite (at' 2).1 ∧ 2 ^ (n + low).toNat ≤ u (at' 2).1 ∧
         u (at' 2).1 ≤ 2 ^ (n + 1 + low).toNat ∧ inexact (at' 2)) ∧
       (u x % one ≠ 0 → n = f.bias → at' 2 = most ∨
         (f.finite (at' 2).1 ∧ 2 ^ (n + low).toNat ≤ u (at' 2).1 ∧ (at' 2).2 = flNX)) ∧
       (f.bias < n → at' 2 = most) ∧ (n < -low → ((at' 2).1 = 0 ∨ (at' 2).1 = 1) ∧ (at' 2).2 = flNX ||| flUF)) ∧
      (neg = false → ∀ j : Nat, let k := (j : Int) - low
        (a = 2 ^ j → f.finite (at' 3).1 ∧ u (at' 3).1 = k * one ∧ (at' 3).1.testBit (f.eb + f.fb) = decide (k < 0) ∧
          (at' 3).2 = 0) ∧
        (2 ^ j < a → a < 2 ^ (j + 1) → f.finite (at' 3).1 ∧ k * one ≤ u (at' 3).1 ∧ u (at' 3).1 ≤ (k + 1) * one ∧
          (at' 3).2 = flNX)) ∧
      f.finite (at' 4).1 ∧ (at' 4).1.testBit (f.eb + f.fb) = neg ∧ (u (at' 4).1).natAbs ≤ one ∧ inexact (at' 4) ∧
      (a * a * 2 ^ (f.fb + 5) < one * one →
        (at' 4).1 % f.signBit = x % f.signBit ∨ (at' 4).1 % f.signBit + 1 = x % f.signBit)) ∧
  (∀ (t u rm x : Nat), t < 8 → u < 8 → rm < 4 → x < 2 ^ elemW t →
    let f := ffmtOf t
    let g := ffmtOf u
    let real := fun c => 3 ≤ c ∧ c ≤ 6
    let r := elCvt t u rm x
    let lo : Int := if u = 1 then 0 else -((2 : Int) ^ (elemW u - 1))
    let hi : Int := if u = 1 then 2 ^ 64 - 1 else 2 ^ (elemW u - 1) - 1
    let n : Int := if t = 1 then x else sgnN (elemW t) x
    let bits := fun v : Int => (v % (2 ^ elemW u : Nat)).toNat
    let nan := f.infBits < x % f.signBit
    let inf := x % f.signBit = f.infBits
    let nv := if f.snan x then flNV else (0 : Fl)
    let v := f.whole rm (f.units x)
    let nx := if v * f.one = f.units x then (0 : Fl) else flNX
    (real t → ¬real u → (nan → r = (0, flNV)) ∧
      (inf → r = (bits (if x.testBit (f.eb + f.fb) then lo else hi), flNV)) ∧
      (f.finite x → r = if v < lo then (bits lo, flNV) else if hi < v then (bits hi, flNV) else (bits v, nx))) ∧
    (real t → real u → t ≠ u → r = cvtFF f g rm x) ∧
    (real t → t = u → (nan → r = (f.nanBits, nv)) ∧ (inf → r = (x, 0)) ∧
      (f.finite x → f.finite r.1 ∧ f.units r.1 = v * f.one ∧ r.1.testBit (f.eb + f.fb) = x.testBit (f.eb + f.fb) ∧
        r.2 = nx)) ∧
    (¬real t → real u → r = cvtIF g rm n) ∧ (¬real t → t = u → r = (x, 0)) ∧
    (¬real t → ¬real u → t ≠ u →
      r = if n < lo then (bits lo, flSAT) else if hi < n then (bits hi, flSAT) else (bits n, 0))) ∧
  (∀ (s : State) (d a k : BitVec 5) (p t u : BitVec 3) (r : BitVec 2),
    let ns := elemsOf t.toNat
    let nd := elemsOf u.toNat
    let x := fun l e => elemOf t.toNat (s.me.lane a.toNat l) e
    (k.toNat < max ns nd / min ns nd →
      WritesElems 3 d.toNat u.toNat (.vcvt d a k p t u r) s fun l e =>
        if (s.me.preg p.toNat).getLsbD l then
          if ns = nd then some (elCvt t.toNat u.toNat r.toNat (x l e))
          else if nd < ns then some (elCvt t.toNat u.toNat r.toNat (x l (k.toNat * nd + e)))
          else if k.toNat * ns ≤ e ∧ e < k.toNat * ns + ns then
            some (elCvt t.toNat u.toNat r.toNat (x l (e - k.toNat * ns)))
          else none
        else none) ∧
    (max ns nd / min ns nd ≤ k.toNat → s.iss.gated = false → s.me.priv = true → s.ext 1 = 0 →
      exec (.vcvt d a k p t u r) s = .next (s.trapAtIssue 1 0x02 0)))

/-- R92, R93: comparisons, with the predicate written whole, and selection. -/
def Obligations.VectorCompare : Prop :=  ∀ (s : State) (q : BitVec 3) (d a b : BitVec 5) (p t : BitVec 3),
    let n := t.toNat
    let f := ffmtOf n
    let on := fun l => (s.me.preg p.toNat).getLsbD l
    let x := fun l e => elemOf n (s.me.lane a.toNat l) e
    let y := fun l e => elemOf n (s.me.lane b.toNat l) e
    let fp := 3 ≤ n ∧ n ≤ 6
    let int := fun v : Nat => if n = 1 then (v : Int) else sgnN (elemW n) v
    let nan := fun l e => fp ∧ (f.val (x l e) = .nan ∨ f.val (y l e) = .nan)
    let quiet := fun l e => fp ∧ (f.snan (x l e) = true ∨ f.snan (y l e) = true)
    let lt := fun l e => if fp then (f.val (x l e)).cmp (f.val (y l e)) = .lt else int (x l e) < int (y l e)
    let gt := fun l e => if fp then (f.val (x l e)).cmp (f.val (y l e)) = .gt else int (y l e) < int (x l e)
    let w := fun (i : Instr) (c nv : Nat → Nat → Prop) => s.passes 1 i →
      ∃ v fl ev, exec i s = .next (s.laterEv 1 2 (.p q.toNat v) fl ev) ∧
        (∀ l < 128, v.getLsbD l = true ↔ on l = true ∧ ∀ e < elemsOf n, c l e) ∧
        (fl = 0 ∨ fl = flNV) ∧ (fl = flNV ↔ ∃ l < 128, on l = true ∧ ∃ e < elemsOf n, nv l e) ∧
        (ev.isSome = true ↔ fl = flNV)
    w (.vcmpEq q a b p t) (fun l e => ¬nan l e ∧ ¬lt l e ∧ ¬gt l e) quiet ∧
    w (.vcmpNe q a b p t) (fun l e => nan l e ∨ lt l e ∨ gt l e) quiet ∧
    w (.vcmpLt q a b p t) (fun l e => ¬nan l e ∧ lt l e) nan ∧ w (.vcmpLe q a b p t) (fun l e => ¬nan l e ∧ ¬gt l e) nan ∧
    w (.vcmpGt q a b p t) (fun l e => ¬nan l e ∧ gt l e) nan ∧ w (.vcmpGe q a b p t) (fun l e => ¬nan l e ∧ ¬lt l e) nan ∧
    w (.vcmpUnord q a b p t) (fun l e => nan l e) quiet ∧ w (.vcmpOrd q a b p t) (fun l e => ¬nan l e) quiet ∧
    WritesLanes 1 2 d.toNat (.vsel d a b p) s fun l =>
      some (if on l then s.me.lane a.toNat l else s.me.lane b.toNat l)

/-- R94, R95, R98: bitwise operations, copies and shifts. R96, R97: saturating sums, signs and counts. -/
def Obligations.VectorBits : Prop :=
  (∀ (s : State) (d a b : BitVec 5) (c : BitVec 6) (p t : BitVec 3),
    let n := t.toNat
    let wd := elemW n
    let on := fun l => (s.me.preg p.toNat).getLsbD l
    let va := fun l => s.me.lane a.toNat l
    let vb := fun l => s.me.lane b.toNat l
    let x := fun l e => elemOf n (va l) e
    let y := fun l e => elemOf n (vb l) e
    let whole := fun (i : Instr) (f : Nat → Word) => WritesLanes 1 2 d.toNat i s fun l => if on l then some (f l) else none
    let each := fun (i : Instr) (f : Nat → Nat → Nat) => WritesElems 2 d.toNat n i s fun l e =>
      if on l then some (f l e, 0) else none
    let all := fun (i : Instr) (f : Nat → Nat → Nat) => WritesElems 2 d.toNat n i s fun l e => some (f l e, 0)
    let left := fun v k => if k < wd then v * 2 ^ k % 2 ^ wd else 0
    let right := fun v k => if k < wd then v / 2 ^ k else 0
    let arith := fun v k => (sgnN wd v / 2 ^ (min k wd) % (2 ^ wd : Nat)).toNat
    whole (.vand d a b p) (fun l => va l &&& vb l) ∧ whole (.vor d a b p) (fun l => va l ||| vb l) ∧
    whole (.vxor d a b p) (fun l => va l ^^^ vb l) ∧ whole (.vandn d a b p) (fun l => va l &&& ~~~vb l) ∧
    whole (.vnot d a p) (fun l => ~~~va l) ∧ whole (.vmov d a p) va ∧
    each (.vshl d a b p t) (fun l e => left (x l e) (y l e)) ∧ each (.vshr d a b p t) (fun l e => right (x l e) (y l e)) ∧
    each (.vsar d a b p t) (fun l e => arith (x l e) (y l e)) ∧
    all (.vshli d a c t) (fun l e => left (x l e) c.toNat) ∧ all (.vshri d a c t) (fun l e => right (x l e) c.toNat) ∧
    all (.vsari d a c t) (fun l e => arith (x l e) c.toNat)) ∧
  (∀ (s : State) (d a b : BitVec 5) (p t : BitVec 3),
    let n := t.toNat
    let wd := elemW n
    let f := ffmtOf n
    let x := fun l e => elemOf n (s.me.lane a.toNat l) e
    let y := fun l e => elemOf n (s.me.lane b.toNat l) e
    let int := fun v : Nat => if n = 1 then (v : Int) else sgnN wd v
    let lo : Int := if n = 1 then 0 else -((2 : Int) ^ (wd - 1))
    let hi : Int := if n = 1 then 2 ^ 64 - 1 else 2 ^ (wd - 1) - 1
    let fp := 3 ≤ n ∧ n ≤ 6
    let bits := fun v : Int => (v % (2 ^ wd : Nat)).toNat
    let sat : Int → Elem := fun v => if v < lo then (bits lo, flSAT) else if hi < v then (bits hi, flSAT) else (bits v, 0)
    let w := fun (i : Instr) (g : Nat → Nat → Elem) => WritesElems 2 d.toNat n i s fun l e =>
      if (s.me.preg p.toNat).getLsbD l then some (g l e) else none
    let nanOr := fun (v : Nat) (r : Nat) => if f.val v = .nan then (f.nanBits, if f.snan v then flNV else 0) else ((r, 0) : Elem)
    w (.vadds d a b p t) (fun l e => sat (int (x l e) + int (y l e))) ∧
    w (.vsubs d a b p t) (fun l e => sat (int (x l e) - int (y l e))) ∧
    w (.vabs d a p t) (fun l e => if fp then nanOr (x l e) (x l e % f.signBit) else (bits (int (x l e)).natAbs, 0)) ∧
    w (.vneg d a p t) (fun l e => if fp then nanOr (x l e) (x l e ^^^ f.signBit) else (bits (-int (x l e)), 0)) ∧
    (∃ c : Nat → Nat → Nat, w (.vclz d a p t) (fun l e => (c l e, 0)) ∧ ∀ l e, c l e ≤ wd ∧
      (∀ j < c l e, (x l e).testBit (wd - 1 - j) = false) ∧ (c l e < wd → (x l e).testBit (wd - 1 - c l e) = true)) ∧
    w (.vpopc d a p t) (fun l e => ((List.range wd).countP fun j => (x l e).testBit j, 0)))

/-- R99 to R101, R108: constants and single elements. R103, R105, R106: permutations, patterns with the bank swap, and
lane clusters copied under a mask. -/
def Obligations.VectorMoves : Prop :=
  (∀ (s : State) (d a b : BitVec 5) (i : BitVec 8) (p t : BitVec 3),
    let n := t.toNat
    let wd := elemW n
    let on := fun l => (s.me.preg p.toNat).getLsbD l
    let lane := (s.me.sreg b.toNat).toNat % 128
    let elem := (s.me.sreg b.toNat).toNat / 128 % 8 % elemsOf n
    let pick := elemOf n (s.me.lane a.toNat lane) elem
    WritesElems 2 d.toNat n (.vbcast d a p t) s (fun l _ => if on l then some ((s.me.sreg a.toNat).toNat % 2 ^ wd, 0) else none) ∧
    Leaves 1 3 (.vext d a b t) s (.s d.toNat
      (if n = 2 ∨ n = 7 then BitVec.ofInt 64 (sgnN wd pick) else BitVec.ofNat 64 pick)) ∧
    (s.passes 1 (.vins d a b p t) → ∃ w, exec (.vins d a b p t) s = .next (s.later 1 2 (.v d.toNat w)) ∧
      ∀ (c : Ctx) (l e : Nat), l < 128 → e < elemsOf n → elemOf n ((c.put (.v d.toNat w)).lane d.toNat l) e =
        if l = lane ∧ e = elem ∧ on l then (s.me.sreg a.toNat).toNat % 2 ^ wd else elemOf n (c.lane d.toNat l) e) ∧
    (∀ v width : Nat, (s.iss.hdr = none ∧ v = i.toNat ∧ width = 8) ∨
        (∃ e f g, s.iss.hdr = some (e, f, g) ∧ v = e * 2 ^ 8 + i.toNat ∧ width = 16) →
      WritesElems 2 d.toNat n (.vimm d i t) s fun _ _ =>
        some (if n = 4 then v * 65536 else if n = 3 then (cvtFF bf16 fp64 0 v).1
          else if n = 1 ∨ n = 5 ∨ n = 6 then v else (sgnN width v % (2 ^ wd : Nat)).toNat, 0)) ∧
    WritesElems 2 d.toNat n (.viota d p t) s (fun l _ => if on l then some (l, 0) else none) ∧
    WritesElems 2 d.toNat n (.viotaCnt d p t) s (fun l _ => some ((List.range l).countP on, 0))) ∧
  (∀ (s : State) (d a b : BitVec 5) (p c : BitVec 3) (w h : BitVec 1),
    let on := fun l => (s.me.preg p.toNat).getLsbD l
    let pick := fun i : Nat => if i / 128 % 2 = 1 then 0 else s.me.lane a.toNat (i % 128)
    let k := s.core (coreOf s.x)
    let bank := if w = 1 then 1 - k.patBank else k.patBank
    let n := 64 * bank + (b.toNat + 32 * h.toNat)
    let i := Instr.vpat d a b p w h
    let mask := s.me.sreg b.toNat
    WritesLanes 1 3 d.toNat (.vshuf d a b p) s (fun l => if on l then some (pick (s.me.lane b.toNat l).toNat) else none) ∧
    (k.patOk.contains n = false → Traps 1 i s 0x16 0) ∧
    (k.patOk.contains n = true → s.passes 1 i → ∃ v,
      exec i s = .next ((s.modCore (coreOf s.x) fun q => { q with patBank := bank }).later 1 3 (.v d.toNat v)) ∧
      ∀ (x : Ctx) (l : Nat), l < 128 → (x.put (.v d.toNat v)).lane d.toNat l =
        if on l then pick ((spGet [] k.pats n).getD l 0).toNat else x.lane d.toNat l) ∧
    (mask.getLsbD c.toNat = true → Traps 1 (.xcopy d a b p c) s 0x15 0) ∧
    (mask.getLsbD c.toNat = false → WritesLanes 1 3 d.toNat (.xcopy d a b p c) s fun l =>
      if mask.getLsbD (l / 16) && on l then some (s.me.lane a.toNat (16 * c.toNat + l % 16)) else none))

/-- R29, R102: the fixed tree over the on lanes of a lane cluster or of the core, every lane of the group written; a NaN
is canonical. R107: each group's candidates ranked: output lane j holds the candidate above which exactly j others rank,
and lanes past the candidates the empty entry. R85: the flags are those of all combining steps, or of the signalling NaN
candidates, and the event is the first by lane, element and kind. That a group with one input leaves a NaN canonical, and
raises NV for a signalling one (log 24), and that of two events of one lane and element the lower kind is kept (log 33),
is the model's choice. -/
def Obligations.VectorReductions : Prop :=
  (∀ (s : State) (d a : BitVec 5) (p t : BitVec 3) (c : BitVec 1),
    let n := t.toNat
    let f := ffmtOf n
    let fp := 3 ≤ n ∧ n ≤ 6
    let int := fun v : Nat => if n = 1 then (v : Int) else sgnN (elemW n) v
    let bits := fun v : Int => (v % (2 ^ elemW n : Nat)).toNat
    let size := if c = 1 then 128 else 16
    let levels := if c = 1 then 7 else 4
    let out := fun v : Nat => if fp ∧ f.val v = .nan then f.nanBits else v
    let on := fun l => (s.me.preg p.toNat).getLsbD l
    let input := fun (g e j : Nat) => if on (size * g + j) then some (elemOf n (s.me.lane a.toNat (size * g + j)) e) else none
    let w := fun (i : Instr) (comb : Nat → Nat → Elem) (idty : Nat) => s.passes 1 i →
      let node := fun g e => treeNode (fun x y => (comb x y).1) (input g e)
      let lowest := fun (g m k l : Nat) => ∃ j, l = size * g + j ∧ k * 2 ^ m ≤ j ∧ j < (k + 1) * 2 ^ m ∧ on l ∧
        ∀ h < j, k * 2 ^ m ≤ h → on (size * g + h) = false
      let raised := fun (l e : Nat) (fl : Fl) => e < elemsOf n ∧ ∃ g < 128 / size,
        (∃ m < levels, ∃ k x y, node g e m (2 * k) = some x ∧ node g e m (2 * k + 1) = some y ∧
          k < 2 ^ (levels - 1 - m) ∧ fl = (comb x y).2 ∧ lowest g (m + 1) k l) ∨
        (∃ x, node g e levels 0 = some x ∧ fp ∧ f.snan x = true ∧ fl = flNV ∧ lowest g levels 0 l)
      ∃ r fl ev, exec i s = .next (s.laterEv 1 (if c = 1 then 10 else 6) (.v d.toNat r) fl ev) ∧
        (∀ (x : Ctx) (l e : Nat), l < 128 → e < elemsOf n → elemOf n ((x.put (.v d.toNat r)).lane d.toNat l) e =
          ((node (l / size) e levels 0).elim idty out) % 2 ^ elemW n) ∧
        (∀ j, fl.getLsbD j = true ↔ ∃ l e q, raised l e q ∧ q.getLsbD j = true) ∧
        (ev.isSome = true ↔ ∃ l e q, raised l e q ∧ kindOf q ≠ 0) ∧
        (∀ v, ev = some v → (∃ q, raised v.lane v.elem q ∧ v.kind = kindOf q) ∧ v.slot = 1 ∧ v.baddr = s.me.pc ∧
          ∀ l e q, raised l e q → kindOf q ≠ 0 → (v.lane * 8 + v.elem) * 8 + v.kind ≤ (l * 8 + e) * 8 + kindOf q)
    w (.vredAdd d a p t c) (fun x y => if fp then f.add s.rm x y else (bits (int x + int y), 0)) 0 ∧
    w (.vredMin d a p t c) (fun x y => if fp then f.minmax false x y else (bits (min (int x) (int y)), 0))
      (if fp then f.infBits else if n = 1 then 2 ^ 64 - 1 else 2 ^ (elemW n - 1) - 1) ∧
    w (.vredMax d a p t c) (fun x y => if fp then f.minmax true x y else (bits (max (int x) (int y)), 0))
      (if fp then f.signBit + f.infBits else if n = 1 then 0 else 2 ^ (elemW n - 1))) ∧
  (∀ (s : State) (d a : BitVec 5) (p t : BitVec 3) (c : BitVec 1) (k : BitVec 3),
    let n := t.toNat
    let f := ffmtOf n
    let size := if c = 1 then 128 else 16
    let m := elemsOf n
    let cand := fun g i => i < size * m ∧ (s.me.preg p.toNat).getLsbD (size * g + i / m) = true
    let val := fun g i => elemOf n (s.me.lane a.toNat (size * g + i / m)) (i % m)
    let higher := fun g i j => f.val (val g i) ≠ .nan ∧
      (f.val (val g j) = .nan ∨ (f.val (val g i)).cmp (f.val (val g j)) = .gt)
    let above := fun g i j => higher g i j ∨ ¬higher g j i ∧ i < j
    let out := fun v => if n = 5 then (cvtFF bf16 fp32 0 v).1 else if f.val v = .nan then f.nanBits else v
    let bad := fun (l e : Nat) => l < 128 ∧ e < m ∧ (s.me.preg p.toNat).getLsbD l = true ∧
      f.snan (elemOf n (s.me.lane a.toNat l) e) = true
    n = 4 ∨ n = 5 → s.passes 1 (.vtopk d a p t c k) →
      ∃ w fl ev, exec (.vtopk d a p t c k) s = .next (s.laterEv 1 6 (.v d.toNat w) fl ev) ∧
        (∀ (x : Ctx) (g j i : Nat), g < 128 / size → j ≤ k.toNat → cand g i →
          (∃ l : List Nat, l.Nodup ∧ l.length = j ∧ ∀ h, h ∈ l ↔ cand g h ∧ h ≠ i ∧ above g h i) → j < size →
          (x.put (.v d.toNat w)).lane d.toNat (size * g + j) = BitVec.ofNat 64 (out (val g i) * 2 ^ 32 + i)) ∧
        (∀ (x : Ctx) (g j : Nat), g < 128 / size → j < size → (k.toNat < j ∨
            (List.range (size * m)).countP (fun i => (s.me.preg p.toNat).getLsbD (size * g + i / m)) ≤ j) →
          (x.put (.v d.toNat w)).lane d.toNat (size * g + j) = 0xFF800000FFFFFFFF) ∧
        (fl = 0 ∨ fl = flNV) ∧ (fl = flNV ↔ ∃ l e, bad l e) ∧ (ev.isSome = true ↔ ∃ l e, bad l e) ∧
        (∀ v, ev = some v → bad v.lane v.elem ∧ v.kind = 1 ∧ ∀ l e, bad l e → v.lane * 8 + v.elem ≤ l * 8 + e))

/-- R109, R110: predicate logic and counts. R82, R111: `rqpop` removes the oldest entry at issue; its lanes and, when
named, its valid bits land two bundles later; an empty queue traps. -/
def Obligations.PredicatesAndResultQueues : Prop :=
  (∀ (s : State) (d a b : BitVec 5) (p : BitVec 3),
    let x := s.me.preg a.toNat
    let y := s.me.preg b.toNat
    let m := fun l => x.getLsbD l && (s.me.preg p.toNat).getLsbD l
    Leaves 1 1 (.pand d a b) s (.p d.toNat (x &&& y)) ∧ Leaves 1 1 (.por d a b) s (.p d.toNat (x ||| y)) ∧
    Leaves 1 1 (.pxor d a b) s (.p d.toNat (x ^^^ y)) ∧ Leaves 1 1 (.pnot d a) s (.p d.toNat (~~~x)) ∧
    Leaves 1 1 (.pmov d a) s (.p d.toNat x) ∧
    Leaves 1 2 (.pcnt d a p) s (.s d.toNat (BitVec.ofNat 64 ((List.range 128).countP m))) ∧
    (∃ n ≤ 128, Leaves 1 2 (.pfirst d a p) s (.s d.toNat (BitVec.ofNat 64 n)) ∧ (∀ l < n, m l = false) ∧
      (n < 128 → m n = true))) ∧
  (∀ (s : State) (d a : BitVec 5) (p : BitVec 3) (f : BitVec 1) (k : BitVec 3),
    let i := Instr.rqpop d a p f k
    let q := spGet [] (s.core (coreOf s.x)).rq a.toNat
    (q = [] → Traps 1 i s 0x11 0) ∧
    (∀ (e : VEntry) (rest : List VEntry), q = e :: rest → s.passes 1 i → ∃ (t : State) (w : _), exec i s = .next t ∧
      (let u := (s.modCore (coreOf s.x) fun c => { c with rq := spPut a.toNat rest c.rq }).later 1 2 (.v d.toNat w)
       t = if f = 1 then u.later 1 2 (.p k.toNat e.valid) else u) ∧
      spGet [] (t.core (coreOf s.x)).rq a.toNat = rest ∧
      ∀ (x : Ctx) (l : Nat), l < 128 → (x.put (.v d.toNat w)).lane d.toNat l =
        if (s.me.preg p.toNat).getLsbD l then e.data.getD l 0 else x.lane d.toNat l))

/-! ## Matrix, descriptors and the Grinder (R176 to R202) -/

/-- R176 to R178, R189, R190: a multiply whose checks pass joins the array queue with the operand A as it stands at
issue and marks its accumulator; an FP32 or INT32 kind follows from the profile. R42 to R44: when the oldest multiply
completes, each element inside A.ROWS and B's columns starts from the old value, or 0 under `.z`, and takes one step a
block of 32 products: BF16 and FP16 products with subnormal factors as zeros are summed exactly with it and rounded once;
integer products are summed exactly and scaled, or added modulo 2^32, or clamped with SAT; every other element keeps its
value, or is 0 under `.z`. That a multiply with an empty operand makes no check of places is the model's choice
(log 28); R45's infinities are left to the steps' own functions. -/
def Obligations.MatrixMultiply : Prop :=  (∀ (s : State) (t a b : BitVec 4) (f : BitVec 2) (z sf : BitVec 1),
    let c := coreOf s.x
    let p := s.me.fmreg f.toNat
    let da := s.desc s.x a.toNat
    let db := s.desc s.x b.toNat
    let g : Staging := spGet {} (s.core c).bs b.toNat
    let kind := (s.acc c t.toNat).kind
    let bv : BView := { fmt := db.fmt, rows := db.rows, cols := db.cols, scaled := db.sbase != 0 }
    let starts := fun (i : Instr) (cols : Nat) (src : BSrc) => s.passes 2 i → ∃ (u : State) (o : AccOp) (q : Mma), exec i s = .next u ∧
      (u.core c).accq = (s.core c).accq ++ [o] ∧ o.dst = t.toNat ∧ o.x = s.x ∧ o.res = .mma q ∧ q.prof = p ∧
      q.m = da.rows ∧ q.n = cols ∧ q.k = da.cols ∧ q.b = src ∧ q.z = (z == 1) ∧ q.xs = s.me.xs ∧
      (∀ m k, m < da.rows → k < da.cols → q.a.getD (da.cols * m + k) 0 = s.tileElem s.x da m k) ∧
      (u.acc c t.toNat).kind = (if z = 1 then (if profAcc p = 0 then 0 else 1) else kind) ∧
      (u.acc c t.toNat).tv = (sf == 1) ∧ (u.acc c t.toNat).data = (s.acc c t.toNat).data ∧
      (∀ r, r ≠ t.toNat → u.acc c r = s.acc c r) ∧ (∀ x, u.ctx x = s.ctx x) ∧ SameMemory s u
    let reads := fun (cols : Nat) (places : Prop) => da.rows = 0 ∨ da.cols = 0 ∨ cols = 0 ∨ s.plainCheck da false = none ∧ places
    s.tagCheck t.toNat (sf == 1) (z == 1) = none →
      (mmaBad p false da bv (db.stor == 0 && db.wsl) (z == 1) kind = false →
        reads db.cols (s.operandCheck s.x (wslRanges db.base (fmtBits db.fmt) db.rows db.cols) db.base
          (db.base % fmtAlign db.fmt != 0 || db.base % 2048 / 32 != 0) false .weights = none) →
        starts (.tmmaWs t a b f z sf) db.cols (.ws db.base)) ∧
      (mmaBad p true da { bv with scaled := false } (db.stor == 3 && !db.wsl) (z == 1) kind = false →
        reads db.cols (s.operandCheck s.x (seedRanges db) db.base (db.base % 64 != 0) false .weights = none ∧
          s.recordBad db = none) →
        starts (.tmmaGr t a b f z sf) db.cols (.gr db.base db.stride)) ∧
      (mmaBad p false da { fmt := g.fmt, rows := g.rows, cols := g.cols, scaled := g.scaled } true (z == 1) kind = false →
        reads g.cols True → starts (.tmmaCs t a b f z sf) g.cols (.cs g.elems))) ∧
  (∀ (s : State) (c : Nat) (o : AccOp) (rest : List AccOp) (q : Mma),
    (s.core c).accq = o :: rest → (∀ v ∈ rest, v.id ≠ o.id) → o.res = .mma q → profValid q.prof = true →
    let fa := profA q.prof
    let fp := fa = 0x05 ∨ fa = 0x06
    let f := if fa = 0x05 then bf16 else fp16
    let start := fun m n => if q.z then 0 else ((s.acc c o.dst).data.getD (64 * m + n) 0).toNat
    let blocks := (q.k + 31) / 32
    let ks := fun b => (List.range (min 32 (q.k - 32 * b))).map fun i => 32 * b + i
    let x := fun m k => q.a.getD (q.k * m + k) 0
    let w := fun n k => s.mmaB q k n
    let normal := fun v => if v / 2 ^ f.fb % 2 ^ f.eb = 0 then 0 else f.units v
    let products := fun m n b => ((ks b).map fun k => normal (x m k) * normal (w n k)).sum
    let dot := fun m n b => ((ks b).map fun k => decInt fa (profASgn q.prof) (profAPol q.prof) (x m k) *
      decInt (profB q.prof) (profBSgn q.prof) (profBPol q.prof) (w n k)).sum
    let sA := fun m b => if q.sa then ((spGet [] q.xs (b / 2)).getD (32 * (b % 2) + m) 0).toNat else 0x3F800000
    let sB := fun n b => if q.sb then ((spGet [] q.xs (4 + b)).getD n 0).toNat else 0x3F800000
    let scaled := fun m n b => (fp32.ofVal 0 ((fp32.val (fp32.mul 0 (sA m b) (sB n b)).1).mul
      (.fin (decide (dot m n b < 0)) (dot m n b).natAbs 0)).1).1
    let lo : Int := -(2 ^ 31)
    let hi : Int := 2 ^ 31 - 1
    ∃ (u : State) (v : Nat → Nat → Nat → Nat), exec (.accWriteComplete c o.id) s = .next u ∧ (u.core c).accq = rest ∧
      SameMemory s u ∧ SameRegisters s u o.x ∧ (∀ y, y ≠ o.x → u.ctx y = s.ctx y) ∧
      (∀ r, r ≠ o.dst → u.acc c r = s.acc c r) ∧ (u.acc c o.dst).kind = (s.acc c o.dst).kind ∧
      (u.acc c o.dst).tv = (s.acc c o.dst).tv ∧
      (∀ m n, m < 32 → n < 64 → v m n 0 = start m n ∧ (u.acc c o.dst).data.getD (64 * m + n) 0 =
        BitVec.ofNat 32 (if m < q.m ∧ n < q.n then v m n blocks else start m n)) ∧
      (∀ m n b, m < q.m → n < q.n → m < 32 → n < 64 → b < blocks →
        (fp → fp32.finite (v m n b) → (∀ k ∈ ks b, f.finite (x m k) ∧ f.finite (w n k)) →
          let k : Nat := if fa = 0x05 then 2 ^ 117 else 1
          let sum : Int := fp32.units (v m n b) * k + products m n b * (if fa = 0x05 then 1 else 2 ^ 101)
          (sum ≠ 0 → ∃ fl, fp32.Rounds 0 sum k (v m n (b + 1), fl)) ∧ (sum = 0 → fp32.units (v m n (b + 1)) = 0)) ∧
        (fp → (fp32.isNan (v m n b) = true ∨ ∃ k ∈ ks b, f.isNan (x m k) = true ∨ f.isNan (w n k) = true) →
          v m n (b + 1) = 0x7FC00000) ∧
        (¬fp → profAcc q.prof = 0 → v m n (b + 1) = (fp32.add 0 (v m n b) (scaled m n b)).1) ∧
        (¬fp → profAcc q.prof = 1 → v m n (b + 1) = ((sgnN 32 (v m n b) + dot m n b) % 2 ^ 32).toNat) ∧
        (¬fp → profAcc q.prof = 2 →
          v m n (b + 1) = ((max lo (min hi (sgnN 32 (v m n b) + dot m n b))) % 2 ^ 32).toNat)) ∧
      (profAcc q.prof = 2 → (s.ctx o.x).life = o.life →
        ((u.ctx o.x).flags.getLsbD 6 = true ↔ (s.ctx o.x).flags.getLsbD 6 = true ∨
          ∃ m n b, m < q.m ∧ n < q.n ∧ m < 32 ∧ n < 64 ∧ b < blocks ∧
            (sgnN 32 (v m n b) + dot m n b < lo ∨ hi < sgnN 32 (v m n b) + dot m n b)))) ∧
  (∀ (s : State) (t a b : BitVec 4) (f : BitVec 2) (z sf : BitVec 1), ∀ k, s.tagCheck t.toNat (sf == 1) (z == 1) = some k →
    Traps 2 (.tmmaWs t a b f z sf) s k 0 ∧ Traps 2 (.tmmaGr t a b f z sf) s k 0 ∧ Traps 2 (.tmmaCs t a b f z sf) s k 0)

/-- R192 to R197: accumulators zeroed, loaded, copied, added, stored and drained, with the flags of every element and the
first event by row and column; a drain that the queue has no room for traps RQ_OVERFLOW. `tstc` and `tldc` looking at no
STOR field is the model's choice (log 30). -/
def Obligations.Accumulators : Prop :=  ∀ (s : State) (t : BitVec 4) (d v : BitVec 5) (k sf r b : BitVec 1),
    let c := coreOf s.x
    let a := s.acc c t.toNat
    let a2 := s.acc c d.toNat
    let e := s.desc s.x d.toNat
    let el := fun (a : Acc) (m n : Nat) => (a.data.getD (64 * m + n) 0).toNat
    let flags := fun (raised : Nat → Nat → Fl) (rows : Nat) (fl : Fl) (ev : Option LogEv) =>
      (∀ j, fl.getLsbD j = true ↔ ∃ m n, m < rows ∧ n < 64 ∧ (raised m n).getLsbD j = true) ∧
      (ev.isSome = true ↔ ∃ m n, m < rows ∧ n < 64 ∧ kindOf (raised m n) ≠ 0) ∧
      (∀ e, ev = some e → e.row < rows ∧ e.lane < 64 ∧ e.kind = kindOf (raised e.row e.lane) ∧ e.kind ≠ 0 ∧ e.slot = 2 ∧
        e.baddr = s.me.pc ∧ ∀ m n, m < rows → n < 64 → kindOf (raised m n) ≠ 0 → 64 * e.row + e.lane ≤ 64 * m + n)
    let writes := fun (i : Instr) (kind : Nat) (sp : Bool) (val : Nat → Nat → Elem) => s.passes 2 i →
      ∃ (u : State) (o : AccOp) (l : List Half) (fl : _) (ev : _), exec i s = .next u ∧ (u.core c).accq = (s.core c).accq ++ [o] ∧ o.dst = t.toNat ∧ o.x = s.x ∧
        o.res = .data l fl ev ∧ (∀ m n, m < 32 → n < 64 → l.getD (64 * m + n) 0 = BitVec.ofNat 32 (val m n).1) ∧
        flags (fun m n => (val m n).2) 32 fl ev ∧
        (u.acc c t.toNat).kind = kind ∧ (u.acc c t.toNat).tv = sp ∧ (sp = true → (u.acc c t.toNat).tag = s.me.tag) ∧
        (u.acc c t.toNat).data = a.data ∧ (∀ r, r ≠ t.toNat → u.acc c r = s.acc c r) ∧ (∀ x, u.ctx x = s.ctx x) ∧
        SameMemory s u
    let held := (spGet [] (s.core c).rq d.toNat).length + s.rqDue c d.toNat
    let drains := fun (i : Instr) (f : Nat → Nat → Word × Fl) =>
      (a.tv = true → Traps 2 i s 0x12 0) ∧ (a.tv = false → 32 < held + 16 → Traps 2 i s 0x10 0) ∧
      (s.passes 2 i → a.tv = false → held + 16 ≤ 32 → ∃ (u : State) (l : List Snap), exec i s = .next u ∧
        (u.ctx s.x).snaps = s.me.snaps ++ l ∧ l.length = 16 ∧ SameMemory s u ∧ SameRegisters s u s.x ∧
        (∀ y, y ≠ s.x → u.ctx y = s.ctx y) ∧ (∀ h, u.core h = s.core h) ∧
        ∀ j, j < 16 → ∃ (n : Snap) (g : VEntry), l[j]? = some n ∧ n.due = s.me.count + 6 + j ∧ n.dest = .rq d.toNat [g] ∧ g.valid = BitVec.allOnes 128 ∧
          (∀ h, h < 128 → g.data.getD h 0 = (f (2 * j + h / 64) (h % 64)).1) ∧
          flags (fun m n => if m / 2 = j then (f m n).2 else 0) 32 n.flags n.ev)
    (s.tagCheck t.toNat (sf == 1) true = none → writes (.tzero t k sf) k.toNat (sf == 1) fun _ _ => (0, 0)) ∧
    (s.tagCheck t.toNat (sf == 1) true = none → e.fmt = 0x07 ∨ e.fmt = 0x03 ∨ e.fmt = 0x05 → e.plain = true → e.rows ≤ 32 →
      e.cols ≤ 64 → s.plainCheck e false = none → writes (.tldc t d sf) (if e.fmt = 0x03 then 1 else 0) (sf == 1) fun m n =>
        if m < e.rows ∧ n < e.cols then
          (if e.fmt = 0x05 then (let v := s.tileElem s.x e m n
             if bf16.isNan v then (0x7FC00000, if bf16.snan v then flNV else 0) else (v * 65536, 0))
           else (s.tileElem s.x e m n, 0)) else (0, 0)) ∧
    (a2.tv = false → s.tagCheck t.toNat false true = none → writes (.tmov t d) a2.kind false fun m n => (el a2 m n, 0)) ∧
    (a2.tv = false → s.tagCheck t.toNat false false = none → a.kind = a2.kind →
      (a.kind = 0 → writes (.tacc t d sf) 0 false fun m n => fp32.add 0 (el a m n) (el a2 m n)) ∧
      (a.kind = 1 → sf = 0 → writes (.tacc t d sf) 1 false fun m n => (el a m n + el a2 m n, 0)) ∧
      (a.kind = 1 → sf = 1 → writes (.tacc t d sf) 1 false fun m n =>
        let v := sgnN 32 (el a m n) + sgnN 32 (el a2 m n)
        if v < -(2 ^ 31) then (2 ^ 31, flSAT) else if 2 ^ 31 - 1 < v then (2 ^ 31 - 1, flSAT)
        else ((v % 2 ^ 32).toNat, 0))) ∧
    (a2.tv = true → Traps 2 (.tmov t d) s 0x12 0 ∧ Traps 2 (.tacc t d sf) s 0x12 0) ∧
    (a2.tv = false → s.tagCheck t.toNat false false = none → a.kind ≠ a2.kind → Traps 2 (.tacc t d sf) s 0x0E 0) ∧
    (a.tv = false → e.fmt = (if a.kind = 0 then 0x07 else 0x03) → e.plain = true → e.rows ≤ 32 → e.cols ≤ 64 →
      s.plainCheck e true = none → s.passes 2 (.tstc t d) → (∀ i, i < 8 → s.czr (cluOf s.x) i = none) → ∃ u : State,
      let addr := fun m n j => s.homeOf (s.vaPa s.x (e.bitPos m n / 8 + j))
      exec (.tstc t d) s = .next u ∧ (∀ x, u.ctx x = s.ctx x) ∧ (∀ h, u.acc c h = s.acc c h) ∧
      (∀ pa, (∀ m n j, m < e.rows → n < e.cols → j < 4 → s.homeOf pa ≠ addr m n j) → u.byte pa = s.byte pa) ∧
      ((∀ m n j m' n' j', m < e.rows → n < e.cols → j < 4 → m' < e.rows → n' < e.cols → j' < 4 →
          addr m n j = addr m' n' j' → m = m' ∧ n = n' ∧ j = j') →
        ∀ m n j, m < e.rows → n < e.cols → j < 4 →
          u.byte (s.vaPa s.x (e.bitPos m n / 8 + j)) = BitVec.ofNat 8 (el a m n / 256 ^ j))) ∧
    (a.kind = 0 → drains (.tdrainRaw t d) fun m n => (BitVec.ofNat 64 (el a m n), 0)) ∧
    (a.kind = 1 → drains (.tdrainRaw t d) fun m n => (BitVec.ofInt 64 (sgnN 32 (el a m n)), 0)) ∧
    (let value := fun (m n : Nat) => if a.kind = 1 then
        FVal.fin (decide (sgnN 32 (el a m n) < 0)) (sgnN 32 (el a m n)).natAbs 0 else fp32.val (el a m n)
     let signalling := fun (m n : Nat) => if a.kind = 1 then (0 : Fl) else fp32.snanFl (el a m n)
     let bias := fun (n : Nat) => (s.me.lane v.toNat n).toNat % 2 ^ 32
     let biased := fun (m n : Nat) => if b = 1 then
         fp32.finish 0 (signalling m n ||| fp32.snanFl (bias n)) ((value m n).add 0 (fp32.val (bias n))) else (0, 0)
     let kf := fun (f : FFmt) (m n : Nat) =>
       let x := if b = 1 then fp32.val (biased m n).1 else value m n
       let y := if r = 1 then (match x with
         | .nan => x
         | .inf neg => if neg then .fin false 0 0 else x
         | .fin neg k _ => if neg ∨ k = 0 then .fin false 0 0 else x) else x
       (BitVec.ofNat 64 (f.ofVal 0 y).1, (if b = 1 then (biased m n).2 else signalling m n) ||| (f.ofVal 0 y).2)
     drains (.tdrainF t d v r b) (kf fp32) ∧ drains (.tdrainBf t d v r b) (kf bf16))

/-- R36, R55, R184 to R188: scales, profiles, descriptors with every form of `tdset.sub`, and staging buffers; the immediates
of `tscl` and `tdld` widened by a header where there is one. R198 to R202: the
Grinder's generator, the seed that `seedscan` finds and its time, and the weights that `grx` writes. The model's choice:
`tdset.mov` checks no format, BASE and SBASE are used modulo 2^58 (log 30), FADDR is 0 for the count of `seedscan`
(log 35), and a target of `seedscan` outside cluster SRAM is judged with the places of the tile (log 83). -/
def Obligations.TileDescriptors : Prop :=
  (∀ (s : State) (t : BitVec 4) (d a g : BitVec 5) (k : BitVec 10) (h : BitVec 1) (i : BitVec 17),
    let e := s.desc s.x d.toNat
    let v := s.me.sreg a.toNat
    let c := coreOf s.x
    let kb := s.ext 2 * 2 ^ 10 + k.toNat
    let part := fun (j : Instr) (lo : Nat) (w : Word) => ∃ D, Leaves 2 1 j s D ∧ ∀ (y : Ctx) (b : Nat), b < 256 →
      ((y.put D).tdreg t.toNat).getLsbD b = if lo ≤ b ∧ b < lo + 64 then w.getLsbD (b - lo) else (y.tdreg t.toNat).getLsbD b
    let scale := fun (row col idx : Nat) => if e.sbase = 0 ∨ e.rows ≤ row ∨ e.cols ≤ col then (0x3F800000 : Half)
      else BitVec.ofNat 32 (leVal (s.vaBytes s.x ((e.sbase + 4 * idx) % 2 ^ 58) 4))
    let scales := fun (j : Instr) (lo n : Nat) (val : Nat → Half) => s.passes 2 j → ∃ l : List Half,
      exec j s = .next (s.later 2 6 (.xs t.toNat lo l)) ∧ l.length = n ∧ ∀ i, i < n → l.getD i 0 = val i
    (fmtKnown e.fmt = true →
      s.operandCheck s.x ((tsclWords e 0 h.toNat g.toNat kb).map fun p => (p.2, 4)) e.sbase (e.sbase % 4 != 0) false .sram
        = none → scales (.tsclA t d k g h) (32 * h.toNat) 32 fun i =>
          scale (32 * g.toNat + i) (32 * kb) ((32 * g.toNat + i) * (e.cols / 32) + kb)) ∧
    (fmtKnown e.fmt = true →
      s.operandCheck s.x ((tsclWords e 1 0 g.toNat kb).map fun p => (p.2, 4)) e.sbase (e.sbase % 4 != 0) false .sram
        = none → scales (.tsclB t d k g) 0 64 fun i =>
          scale (32 * kb) (64 * g.toNat + i) (kb * e.cols + (64 * g.toNat + i))) ∧
    (profValid (v.truncate 32) = true → Leaves 2 3 (.setfmt t a) s (.fm t.toNat (v.truncate 32))) ∧
    (profValid (v.truncate 32) = false → Traps 2 (.setfmt t a) s 0x0E 0) ∧
    (let hn := s.me.hreg d.toNat
     let p : Piece := { off := ((s.ext 2 * 2 ^ 17 + i.toNat) * 32 : Nat), len := 32 }
     s.accessCheck s.x hn [p] 32 false = none → ownSram (cluOf s.x) hn [p] = true →
      s.pieceBad hn p = false → Leaves 2 12 (.tdld t d i) s
        (.td t.toNat (BitVec.allOnes 256) (BitVec.ofNat 256 (leVal (s.pieceBytes hn p))))) ∧
    part (.tdsetBase t a) 0 v ∧ part (.tdsetShape t a) 64 v ∧ part (.tdsetLayout t a) 128 (v &&& 0xFFFFFFFFFFFFFF) ∧
    part (.tdsetSbase t a) 192 v ∧
    (∃ D, Leaves 2 1 (.tdsetMov t d) s D ∧ ∀ y : Ctx, (y.put D).tdreg t.toNat = s.me.tdreg d.toNat) ∧
    (let w := s.me.tdreg d.toNat
     let n := w.toNat
     let row0 := v.toNat % 2 ^ 32
     let col0 := v.toNat / 2 ^ 32
     let fmt := n / 2 ^ 160 % 256
     let bits := fmtBits fmt
     let stride := n / 2 ^ 128 % 2 ^ 32
     let base := n % 2 ^ 64
     let seeded := fmt = 0x20
     let wsl := n.testBit 172 = true
     let cm := n.testBit 169 = true
     let bit := 8 * (base % 32) + row0 * bits
     let cut := fun (whole : Prop) (at_ stride' : Nat) => (¬whole → Traps 2 (.tdsetSub t d a) s 0x0E 0) ∧
       (whole → ∃ D, Leaves 2 1 (.tdsetSub t d a) s D ∧ ∀ y : Ctx, ((y.put D).tdreg t.toNat).toNat =
         at_ % 2 ^ 64 + (n / 2 ^ 64 % 2 ^ 32 - row0) * 2 ^ 64 + (n / 2 ^ 96 % 2 ^ 32 - col0) * 2 ^ 96 +
           stride' % 2 ^ 32 * 2 ^ 128 + n / 2 ^ 160 * 2 ^ 160)
     (fmtKnown fmt = false → Traps 2 (.tdsetSub t d a) s 0x0E 0) ∧
     (fmtKnown fmt = true →
       (seeded → cut (row0 % 32 = 0 ∧ col0 % 64 = 0) (base + 64 * (col0 / 64)) (stride + row0)) ∧
       (¬seeded → wsl → cut (col0 = 0 ∧ row0 * bits % 8 = 0)
         (base / 2048 * 2048 + 2048 * (bit / 256) + bit % 256 / 8) stride) ∧
       (¬seeded → ¬wsl → cm → cut (row0 * bits % 8 = 0) (base + col0 * stride + row0 * bits / 8) stride) ∧
       (¬seeded → ¬wsl → ¬cm → cut (col0 * bits % 8 = 0) (base + row0 * stride + col0 * bits / 8) stride))) ∧
    (e.plain = false ∨ 128 < e.rows ∨ 32768 < e.rows * e.cols * fmtBits e.fmt → Traps 2 (.tldb t d) s 0x0E 0) ∧
    (e.plain = true → e.rows ≤ 128 → e.rows * e.cols * fmtBits e.fmt ≤ 32768 → s.plainCheck e false = none →
      s.passes 2 (.tldb t d) → ∃ u : State, exec (.tldb t d) s = .next u ∧ (∀ x, u.ctx x = s.ctx x) ∧ SameMemory s u ∧
        (let b : Staging := spGet {} (u.core c).bs t.toNat
         b.busy = true ∧ b.fmt = e.fmt ∧ b.rows = e.rows ∧ b.cols = e.cols ∧ b.scaled = (e.sbase != 0) ∧
         ∀ m n, m < e.rows → n < e.cols → b.elems.getD (e.cols * m + n) 0 = s.tileElem s.x e m n) ∧
        ∀ r, r ≠ t.toNat → spGet {} (u.core c).bs r = spGet {} (s.core c).bs r)) ∧
  (∀ (state : Nat → Nat → Nat → Nat) (weight : Nat → Nat → Nat → Nat → Nat),
    (∀ seed n, state seed n 0 =
      if seed ^^^ (0x9E3779B9 * (n + 1) % 2 ^ 32) = 0 then 1 else seed ^^^ (0x9E3779B9 * (n + 1) % 2 ^ 32)) →
    (∀ seed n k, state seed n (k + 1) = state seed n k / 2 ^^^ (if state seed n k % 2 = 1 then 0x80200003 else 0)) →
    let plus := fun (sum : Nat) (seed k n : Nat) (c : FVal) =>
      (fp32.ofVal 0 ((fp32.val sum).add 0 (if state seed n k % 2 = 1 then c else c.negate)).1).1
    (∀ record k n, weight record k n 0 = 0) →
    (∀ record k n j, weight record k n (j + 1) = plus (weight record k n j)
      (record / 2 ^ (8 * (4 + 6 * j)) % 2 ^ 32) k n (bf16.val (record / 2 ^ (8 * (8 + 6 * j)) % 2 ^ 16))) →
    (∀ seed n k, seed < 2 ^ 32 → 0 < state seed n k ∧ state seed n k < 2 ^ 32) ∧
    (∀ (s : State) (t : BitVec 4) (d a b : BitVec 5) (sum : Nat → Nat → Nat),
      let e := s.desc s.x t.toNat
      let n := (s.me.sreg b.toNat).toNat
      let seed := fun i => ((s.me.sreg a.toNat).toNat % 2 ^ 32 + i) % 2 ^ 32
      let i := Instr.seedscan t d a b
      let above := fun i j => fp32.isNan (sum i 2048) = false ∧
        (fp32.isNan (sum j 2048) = true ∨ sum j 2048 % 2 ^ 31 < sum i 2048 % 2 ^ 31)
      let fits := e.fmt = 0x05 ∧ e.plain = true ∧ e.rows = 32 ∧ e.cols = 64
      (∀ i, sum i 0 = 0) →
      (∀ i q, sum i (q + 1) = plus (sum i q) (seed i) (q / 64) (q % 64) (bf16.val (s.tileElem s.x e (q / 64) (q % 64)))) →
      (¬fits → Traps 2 i s 0x0E 0) ∧
      (fits → (n = 0 ∨ 1024 < n) → Traps 2 i s 0x17 0) ∧
      (fits → 0 < n → n ≤ 1024 → s.plainCheck e false = none → s.passes 2 i →
        ∃ (u : State) (o : LongOp) (v : Word) (best : Nat), exec i s = .next u ∧ SameMemory s u ∧ SameRegisters s u s.x ∧
          (u.ctx s.x).longs = s.me.longs ++ [o] ∧ o.dest.regs = [.s d.toNat] ∧ o.kind = .scan [v] (s.now + 32 * n + 20) ∧
          s.now + 32 * n + 20 ≤ (u.core (coreOf s.x)).grindUntil ∧ (u.ctx s.x).flags = s.me.flags ∧
          best < n ∧ (∀ i, i < n → ¬above i best) ∧ (∀ i, i < best → above best i) ∧
          v.toNat = (bf16.ofVal 0 (match fp32.val (sum best 2048) with
            | .fin neg m x => .fin neg m (x - 11)
            | x => x)).1 * 2 ^ 32 + seed best)) ∧
    (∀ (s : State) (t : BitVec 4) (d : BitVec 5),
      let dst := s.desc s.x t.toNat
      let src := s.desc s.x d.toNat
      let e : Desc := { dst with rows := src.rows, cols := src.cols }
      let i := Instr.grx t d
      let fits := src.fmt = 0x20 ∧ src.stor = 3 ∧ src.wsl = false ∧ dst.fmt = 0x05 ∧ dst.stor = 0 ∧ dst.wsl = false ∧
        src.rows ≤ dst.rows ∧ src.cols ≤ dst.cols
      (¬fits → Traps 2 i s 0x0E 0) ∧
      (fits → s.operandCheck s.x (seedRanges src) src.base (src.base % 64 != 0) false .weights = none →
        s.plainCheck e true = none → s.recordBad src = none → s.passes 2 i → (∀ n, n < 8 → s.czr (cluOf s.x) n = none) →
        ∃ u : State, exec i s = .next u ∧ (∀ x, u.ctx x = s.ctx x) ∧
          (u.core (coreOf s.x)).grindUntil =
            max (s.core (coreOf s.x)).grindUntil (s.now + 8 + src.rows * ((src.cols + 63) / 64)) ∧
          (let addr := fun m n j => s.homeOf (s.vaPa s.x (e.bitPos m n / 8 + j))
           let record := fun n => leVal (s.vaBytes s.x (src.base + 64 * (n / 64)) 64)
           let value := fun k n => (bf16.ofVal 0
             (fp32.val (weight (record n) (src.stride + k) (n % 64) (record n % 256)))).1
           (∀ pa, (∀ m n j, m < src.rows → n < src.cols → j < 2 → s.homeOf pa ≠ addr m n j) → u.byte pa = s.byte pa) ∧
           ((∀ m n j m' n' j', m < src.rows → n < src.cols → j < 2 → m' < src.rows → n' < src.cols → j' < 2 →
               addr m n j = addr m' n' j' → m = m' ∧ n = n' ∧ j = j') →
             ∀ m n j, m < src.rows → n < src.cols → j < 2 →
               u.byte (s.vaPa s.x (e.bitPos m n / 8 + j)) = BitVec.ofNat 8 (value m n / 256 ^ j)))))) ∧
  (∀ (s : State) (x : Nat) (c : Nat) (o : LongOp) (v : Word) (when d : Nat), x = 4 * c → (s.ctx x).longs = [o] →
    o.kind = .scan [v] when → o.dest = .sw d → when ≤ s.now → ∃ u : State, exec (.seedscanResult c) s = .next u ∧
      (u.ctx x).longs = [] ∧ (u.ctx x).sreg d = (if d = 0 then 0 else v) ∧ (∀ r, r ≠ d → (u.ctx x).sreg r = (s.ctx x).sreg r) ∧
      SameMemory s u)

/-! ## Speculation, the predictor and the residency table (R209 to R225) -/

/-- R212, R213: allocating, confirming, squashing and reading a tag. A tag freed beside a copy of its bundle follows log
34, the model's choice. -/
def Obligations.SpeculationTags : Prop :=  ∀ (s : State) (d a : BitVec 5) (f : BitVec 1),
    let c := coreOf s.x
    let t := (s.me.sreg a.toNat).toNat % 256
    let g := s.tagOf c t
    let under := fun (i : Nat) => (s.acc c i).tv = true ∧ (s.acc c i).tag.toNat = t
    let frees := fun (i : Instr) (zero : Bool) => s.passes 2 i → ∃ u : State, exec i s = .next u ∧ SameMemory s u ∧
      (u.tagOf c t).live = false ∧ (∀ v, v ≠ t → u.tagOf c v = s.tagOf c v) ∧
      (∀ j, j < 4 → (s.ctx (4 * c + j)).tagV = true → (s.ctx (4 * c + j)).tag.toNat = t → (u.ctx (4 * c + j)).tagV = false) ∧
      (∀ j, j < 4 → (s.ctx (4 * c + j)).tag.toNat ≠ t → u.ctx (4 * c + j) = s.ctx (4 * c + j)) ∧
      (∀ i, i < 16 → under i → (u.acc c i).tv = false ∧ (u.acc c i).kind = (s.acc c i).kind ∧
        ∀ n, (u.acc c i).data.getD n 0 = if zero then 0 else (s.acc c i).data.getD n 0) ∧
      (∀ i, i < 16 → ¬under i → u.acc c i = s.acc c i) ∧ SameRegisters s u s.x
    ((∀ v, v < 256 → (s.tagOf c v).live = true) → Traps 2 (.xspec d) s 0x31 0) ∧
    (∀ v, v < 256 → (s.tagOf c v).live = false → (∀ w, w < v → (s.tagOf c w).live = true) → s.passes 2 (.xspec d) →
      ∃ u : State, exec (.xspec d) s = .next u ∧ u.tagOf c v = { live := true } ∧ (∀ w, w ≠ v → u.tagOf c w = s.tagOf c w) ∧
        (u.ctx s.x).snaps = s.me.snaps ++ [s.snap 2 1 (.sreg 0x0B (BitVec.ofNat 64 (256 + v))),
          s.snap 2 1 (.s d.toNat (BitVec.ofNat 64 v))] ∧ SameMemory s u ∧ SameRegisters s u s.x) ∧
    (g.live = false → Traps 2 (.xcfm a) s 0x32 0 ∧ Traps 2 (.xsq a) s 0x32 0) ∧
    (g.live = true → g.df = true → s.passes 2 (.xcfm a) →
      exec (.xcfm a) s = .next (s.trapAtIssue 2 0x30 g.faddr g.cause)) ∧
    (g.live = true → g.df = false → frees (.xcfm a) false) ∧ (g.live = true → frees (.xsq a) true) ∧
    Leaves 2 1 (.xtagq d a f) s (.s d.toNat
      (if g.live = false then 0
       else if f = 1 then (if g.df then g.faddr else 0)
       else BitVec.ofNat 64 (2 ^ 63 + (if g.df then 2 ^ 62 else 0) + g.count * 2 ^ 48 + g.cause * 2 ^ 40 + g.infl % 2 ^ 16)))

/-- R214 to R221: predictions, ranked by confidence with ties to the lower position; routes, laid out as four halves over
two lanes; training; the resolve of tentative rows, with its traps in their order; and the list of misses. -/
def Obligations.Predictor : Prop :=  ∀ (s : State) (t : BitVec 4) (d a b : BitVec 5) (k : BitVec 2) (f g : BitVec 3),
    let c := coreOf s.x
    let on := fun (i : Nat) => (s.me.preg t.toNat).getLsbD i = true
    let index := fun (i : Nat) =>
      let w := (s.me.lane a.toNat i).toNat
      let h := w / 2 ^ 32
      let e := w / 2 ^ 16 % 1024
      (s.me.sreg b.toNat).toNat % 1024 ^^^ w % 1024 ^^^ (e * 32 % 1024 + e / 32) ^^^
        (h % 1024 ^^^ h / 2 ^ 10 % 1024 ^^^ h / 2 ^ 20 % 1024 ^^^ h / 2 ^ 30 % 4)
    let id := fun (n q : Nat) => ((s.predEntry c n).getD q (0, 0)).1
    let cf := fun (n q : Nat) => ((s.predEntry c n).getD q (0, 0)).2
    let before := fun (n p q : Nat) => decide (cf n p ≠ 0) && (decide (cf n q < cf n p) || (cf n p == cf n q && decide (p < q)))
    let rank := fun (n j : Nat) => if k.toNat < j then 0 else
      match (List.range 4).find? fun q => decide (cf n q ≠ 0) && (List.range 4).countP (fun p => before n p q) == j with
      | some q => id n q + cf n q * 1024
      | none => 0
    let half := fun (i j : Nat) => (s.me.lane b.toNat (i + 32 * (j / 2))).toNat / 2 ^ (32 * (j % 2)) % 2 ^ 32
    let route := fun (i j : Nat) => half i j % 1024
    let counts := fun (i j : Nat) => (half i j).testBit 15 &&
      (List.range j).all fun h => !((half i h).testBit 15 && route i h == route i j)
    let ids := fun (i : Nat) => ((List.range 4).filter (counts i)).map (route i)
    let bad := ∃ i, i < 32 ∧ on i ∧ (s.me.lane a.toNat i).toNat / 2 ^ 62 ≠ 1
    ((∀ n q, cf n q < 8) → WritesLanes 2 8 d.toNat (.xpred t d a b k) s fun i => if i < 32 ∧ on i then
      some (BitVec.ofNat 64 (2 ^ 62 + index i * 2 ^ 52 + rank (index i) 0 + rank (index i) 1 * 2 ^ 13 +
        rank (index i) 2 * 2 ^ 26 + rank (index i) 3 * 2 ^ 39)) else none) ∧
    (bad → Traps 2 (.xtrain t a b) s 0x33 0 ∧ Traps 2 (.xmiss t d a b) s 0x33 0) ∧
    (¬bad → s.passes 2 (.xtrain t a b) → ∃ u : State, exec (.xtrain t a b) s = .next u ∧ (∀ x, u.ctx x = s.ctx x) ∧ SameMemory s u ∧
      ((∀ n q, cf n q < 8) → ∀ n q, ((u.predEntry c n).getD q (0, 0)).2 < 8) ∧
      (∀ n, (∀ i, i < 32 → on i → (s.me.lane a.toNat i).toNat / 2 ^ 52 % 1024 ≠ n) → u.predEntry c n = s.predEntry c n) ∧
      (∀ i n, i < 32 → on i → (∀ j, j < 32 → on j → j ≠ i → (s.me.lane a.toNat j).toNat / 2 ^ 52 % 1024 ≠ n) →
        (s.me.lane a.toNat i).toNat / 2 ^ 52 % 1024 = n →
        let now := fun (q : Nat) => (u.predEntry c n).getD q (0, 0)
        let kept := fun (q : Nat) =>
          if cf n q = 0 then 0 else if id n q ∈ ids i then min (cf n q + 1) 7 else cf n q - 1
        let fresh := (ids i).filter fun v => !((List.range 4).any fun q => decide (cf n q ≠ 0) && id n q == v)
        (fresh = [] → ∀ q, q < 4 → now q = (id n q, kept q)) ∧
        (∀ v, fresh = [v] → ∃ q, q < 4 ∧ (∀ p, p < 4 → kept q ≤ kept p ∧ (p < q → kept q < kept p)) ∧
          ∀ p, p < 4 → now p = if p = q then (v, 1) else (id n p, kept p)) ∧
        (∀ v, v ∈ fresh → ∃ q, q < 4 ∧ now q = (v, 1)))) ∧
    (¬bad → WritesLanes 2 6 d.toNat (.xmiss t d a b) s fun l => some
      (((List.range 32).flatMap fun i =>
        let pred := (s.me.lane a.toNat i).toNat
        let said := fun (v : Nat) => (List.range 4).any fun j => decide (pred / 2 ^ (13 * j + 10) % 8 ≠ 0 ∧ pred / 2 ^ (13 * j) % 1024 = v)
        if on i then ((List.range 4).filter fun j => counts i j && !said (route i j)).map fun j =>
          BitVec.ofNat 64 (half i j / 2 ^ 16 * 2 ^ 32 + route i j * 2 ^ 16 + j * 2 ^ 8 + i) else []).getD l (BitVec.allOnes 64))) ∧
    (let at' := s.acc c t.toNat
     let ac := s.acc c d.toNat
     let e := (s.me.sreg a.toNat).toNat % 1024
     let i := Instr.xres t d a b f g
     let conf := fun (m : Nat) => if (s.me.preg g.toNat).getLsbD m then
       (List.range 4).find? fun j => (half m j).testBit 15 && route m j == e else none
     let some_ := ∃ m, m < 32 ∧ conf m ≠ none
     let tag := s.tagOf c at'.tag.toNat
     let elem := fun (m n : Nat) =>
       let old := (ac.data.getD (64 * m + n) 0).toNat
       match conf m with
       | none => ((old, 0) : Elem)
       | some j =>
         let g := cvtFF bf16 fp32 0 (half m j / 2 ^ 16)
         let p := fp32.mul 0 g.1 (at'.data.getD (64 * m + n) 0).toNat
         ((fp32.add 0 old p.1).1, g.2 ||| p.2 ||| (fp32.add 0 old p.1).2)
     (at'.tv = false → Traps 2 i s 0x32 0) ∧ (at'.tv = true → ac.tv = true → Traps 2 i s 0x12 0) ∧
     (at'.tv = true → ac.tv = false → (at'.kind ≠ 0 ∨ ac.kind ≠ 0) → Traps 2 i s 0x0E 0) ∧
     (at'.tv = true → ac.tv = false → at'.kind = 0 → ac.kind = 0 → some_ → tag.df = true → s.passes 2 i →
       exec i s = .next (s.trapAtIssue 2 0x30 tag.faddr tag.cause)) ∧
     (at'.tv = true → ac.tv = false → at'.kind = 0 → ac.kind = 0 → (¬some_ ∨ tag.df = false) → s.passes 2 i →
       ∃ (u : State) (o : AccOp) (l : _) (fl : _) (ev : _) (p : _), exec i s = .next u ∧ (u.core c).accq = (s.core c).accq ++ [o] ∧ o.dst = d.toNat ∧
         o.res = .data l fl ev ∧ (u.acc c t.toNat).tv = false ∧ (u.ctx s.x).snaps = s.me.snaps ++ [s.snap 2 6 (.p f.toNat p)] ∧
         SameMemory s u ∧ SameRegisters s u s.x ∧
         (∀ j, fl.getLsbD j = true ↔ ∃ m n, m < 32 ∧ n < 64 ∧ (elem m n).2.getLsbD j = true) ∧
         (ev.isSome = true ↔ ∃ m n, m < 32 ∧ n < 64 ∧ kindOf (elem m n).2 ≠ 0) ∧ (∀ m, 32 ≤ m → p.getLsbD m = false) ∧
         ∀ m, m < 32 → (p.getLsbD m = (conf m).isSome) ∧ ∀ n, n < 64 →
           l.getD (64 * m + n) 0 = BitVec.ofNat 32 (elem m n).1))

/-- R223 to R225: the residency table: lookups age it; inserting, invalidating, reading and pinning an entry. -/
def Obligations.ResidencyTable : Prop :=  ∀ (s : State) (d a b : BitVec 5),
    let c := coreOf s.x
    let key := (s.me.sreg a.toNat).toNat % 2 ^ 32
    let hit := fun (i : Nat) => (s.rdtAt c i).v = true ∧ (s.rdtAt c i).tag.toNat = key
    let n := (s.me.sreg a.toNat).toNat
    let e := s.rdtAt c n
    let w := (s.me.sreg b.toNat).toNat
    let sets := fun (i : Instr) (r : RdtEnt) => s.passes 2 i → ∃ u : State, exec i s = .next u ∧ u.rdtAt c n = r ∧
      (∀ j, j ≠ n → u.rdtAt c j = s.rdtAt c j) ∧ (∀ x, u.ctx x = s.ctx x) ∧ SameMemory s u
    let clash := ∃ j, j < 32 ∧ j ≠ n ∧ (s.rdtAt c j).v = true ∧ (s.rdtAt c j).tag.toNat = w % 2 ^ 32
    (∀ i, i < 32 → hit i → (∀ j, j < i → ¬hit j) → s.passes 2 (.xlook d a) → ∃ u : State, exec (.xlook d a) s = .next u ∧
      (u.ctx s.x).snaps = s.me.snaps ++ [s.snap 2 2 (.s d.toNat (BitVec.ofNat 64 (i * 256 + (s.rdtAt c i).slot)))] ∧
      (u.rdtAt c i).age = 0 ∧ SameMemory s u ∧ SameRegisters s u s.x ∧
      ∀ j, j < 32 → j ≠ i → u.rdtAt c j = if (s.rdtAt c j).v then { s.rdtAt c j with age := min ((s.rdtAt c j).age + 1) 255 }
        else s.rdtAt c j) ∧
    ((∀ j, j < 32 → ¬hit j) → s.passes 2 (.xlook d a) → ∃ u : State, exec (.xlook d a) s = .next u ∧ (∀ j, u.rdtAt c j = s.rdtAt c j) ∧
      (u.ctx s.x).snaps = s.me.snaps ++ [s.snap 2 2 (.s d.toNat (BitVec.allOnes 64))] ∧ SameMemory s u ∧ SameRegisters s u s.x) ∧
    (32 ≤ n → Traps 2 (.xins a b) s 0x34 0 ∧ Traps 2 (.xinv a) s 0x34 0 ∧ Traps 2 (.xrdt d a) s 0x34 0 ∧
      Traps 2 (.xpin a b) s 0x34 0) ∧
    (n < 32 → (e.pin = true ∨ 47 < w / 2 ^ 32 % 64 ∨ w / 2 ^ 38 ≠ 0 ∨ clash) → Traps 2 (.xins a b) s 0x34 0) ∧
    (n < 32 → e.pin = false → w / 2 ^ 32 ≤ 47 → ¬clash →
      sets (.xins a b) { v := true, slot := w / 2 ^ 32, tag := BitVec.ofNat 32 w }) ∧
    (n < 32 → e.pin = true → Traps 2 (.xinv a) s 0x34 0) ∧ (n < 32 → e.pin = false → sets (.xinv a) { e with v := false }) ∧
    (n < 32 → e.v = false → Traps 2 (.xpin a b) s 0x34 0) ∧ (n < 32 → e.v = true → sets (.xpin a b) { e with pin := w % 2 == 1 }) ∧
    (n < 32 → Leaves 2 2 (.xrdt d a) s (.s d.toNat (BitVec.ofNat 64
      ((if e.v then 2 ^ 63 else 0) + (if e.pin then 2 ^ 62 else 0) + e.age * 2 ^ 54 + e.slot * 2 ^ 48 + e.tag.toNat))))

/-! ## Loads, stores, handles and fences (R144 to R156, R173, R264 to R276, R291 to R293) -/

/-- R55, R150 to R154: loads. A load whose bytes all lie in the own cluster's SRAM leaves an exposed result of latency 12;
any other load, and every acquire, is an interlocked operation that reads the bytes it names; a failed check traps. R150:
which check of an access fails first, for loads and stores alike, with the secure bytes of R336 and the seeded regions of
R182; R265: when bytes of cluster SRAM lie outside an allocation, where no region is compressed. An immediate takes the
header's byte above its own bits. That an access of control space is one aligned word is R382's. That a
load of own cluster SRAM takes its bytes at issue (log 13), and FADDR of a failed check (log 35), are the model's
choice. -/
def Obligations.Loads : Prop :=
  (∀ (s : State) (d b : BitVec 5) (h c : BitVec 4) (z sf : BitVec 3) (o : BitVec 10) (p : BitVec 7),
    let hd := s.me.hreg h.toNat
    let n := szBytes z.toNat
    let ext := fun v : Nat => if z.toNat < 4 then BitVec.ofInt 64 (sgnN (8 * n) v) else BitVec.ofNat 64 v
    let value := fun (q : Piece) => ext (leVal ((List.range n).map fun i => s.byte (hd.pa (q.off.toNat + i))))
    let fails := fun (i : Instr) (l : List Piece) => ∀ k f, s.accessCheck s.x hd l n false = some (k, f) → Traps 3 i s k f
    let far := fun (i : Instr) (l : List Piece) (r : Reg) => s.passes 3 i → ∃ (u : State) (w : _), exec i s = .next u ∧
      (u.ctx s.x).longs = s.me.longs ++ [w] ∧ w.dest.regs = [r] ∧ w.num ∈ u.pend ∧
      w.parts.map (fun q => (q.addr, q.len, q.lane)) =
        l.flatMap (fun q => (hd.spans q.off.toNat n).map fun v => (v.1, v.2, q.lane)) ∧
      (u.ctx s.x).snaps = s.me.snaps ∧ SameMemory s u ∧ SameRegisters s u s.x ∧ ∀ x, x ≠ s.x → u.ctx x = s.ctx x
    let scalar := fun (i : Instr) (off : Nat) (acquire : Bool) =>
      let q : Piece := { off := off, len := n }
      fails i [q] ∧ (s.accessCheck s.x hd [q] n false = none →
        (ownSram (cluOf s.x) hd [q] = true → acquire = false → s.pieceBad hd q = false →
          Leaves 3 12 i s (.s d.toNat (value q))) ∧
        (ownSram (cluOf s.x) hd [q] = true → acquire = false → s.pieceBad hd q = true → s.passes 3 i → ∃ k,
          exec i s = .next (s.modCtx s.x fun y => y.push k) ∧ k.due = s.me.count + 12 ∧
          k.trap = some (0x27, BitVec.ofNat 64 (hd.va + off))) ∧
        (ownSram (cluOf s.x) hd [q] = false ∨ acquire = true → far i [q] (.s d.toNat)))
    let vector := fun (i : Instr) (off : Nat → Option Int) =>
      let l := (List.range 128).filterMap fun j => (off j).map fun v => ({ off := v, len := n, lane := j } : Piece)
      fails i l ∧ (s.accessCheck s.x hd l n false = none →
        (ownSram (cluOf s.x) hd l = true → (∀ q ∈ l, s.pieceBad hd q = false) →
          WritesLanes 3 12 d.toNat i s fun j => some (match off j with
            | some v => value { off := v, len := n, lane := j }
            | none => 0)) ∧
        (ownSram (cluOf s.x) hd l = false → far i l (.v d.toNat)))
    let base := s.me.sreg b.toNat
    let wide := (s.ext 3 * 2 ^ 10 + o.toNat) * n
    scalar (.ld d h c z o) wide false ∧ scalar (.lda d h c z sf p) ((s.ext 3 * 2 ^ 7 + p.toNat) * n) true ∧
    vector (.vld d h c z o) (fun j => some ((wide + j * n : Nat) : Int)) ∧
    scalar (.ldx d h c z b) base.toNat false ∧
    vector (.vlds d h c z b) (fun j => some ((base.toNat % 2 ^ 32 : Nat) + j * sgnN 32 (base.toNat / 2 ^ 32))) ∧
    vector (.vgath d h c z b) (fun j =>
      if (s.me.lane b.toNat j).getLsbD 63 then none else some ((s.me.lane b.toNat j).toNat : Int)) ∧
    (s.iss.hdr = none → s.ext 1 = 0 ∧ s.ext 2 = 0 ∧ s.ext 3 = 0) ∧
    (∀ e f g, s.iss.hdr = some (e, f, g) → s.ext 1 = e ∧ s.ext 2 = f ∧ s.ext 3 = g)) ∧
  (∀ (s : State) (x : Nat) (h : Handle) (l : List Piece) (size : Nat) (write : Bool),
    let cause := (s.accessCheck x h l size write).map (·.1)
    let spans := fun q : Piece => h.spans q.off.toNat q.len
    let covered := fun a n : Nat => ∃ i < 64,
      let b := (s.reg (paDie a) (0x5001000 + 16 * i)).toNat
      let e := (s.reg (paDie a) (0x5001008 + 16 * i)).toNat / 2 ^ 14 % 2 ^ 30
      let first := b / 2 ^ 14 % 2 ^ 30
      2 ^ 63 ≤ b ∧ b / 2 ^ 60 % 4 = paKind a ∧ first ≤ e ∧ first * 0x4000 < paOff a + n ∧ paOff a < (e + 1) * 0x4000
    let seeded := fun a n : Nat => paKind a = 2 ∧ ∃ i < 48,
      let c := 64 * paDie a + paOff a / 0x200000
      let o := paOff a % 0x200000
      (s.cluReg (c / 8) (0x40000 + 8 * (c % 8))).getLsbD i = true ∧ max o (0x8000 * i) < min (o + n) (0x8000 * i + 0x8000)
    let secure := (s.ctx x).world = false ∧ (h.world = true ∨ ∃ q ∈ l, (q.clip h).len ≠ 0 ∧ ∃ r ∈ spans (q.clip h),
      paDie r.1 = dieOf x ∧ (covered r.1 r.2 ∨ (write = true ∧ h.kind = 3 ∧ s.ctlDenied (dieOf x) (paOff r.1) false = true)))
    let denied := (if write then h.wr else h.rd) = false
    let odd := ∃ q ∈ l, q.off % size ≠ 0 ∨ (h.kind = 3 ∧ (q.len ≠ 8 ∨ q.off % 8 ≠ 0))
    let past := ∃ q ∈ l, q.off < 0 ∨ (h.bytes : Int) < q.off + q.len
    let out := ∃ q ∈ l, ∃ r ∈ spans q, s.runOut x r.1 r.2 = true
    let weights := write = true ∧ ∃ q ∈ l, ∃ r ∈ spans q, seeded r.1 r.2
    (h.valid = false → cause = some 0x22) ∧
    (h.valid = true → (secure → cause = some 0x25) ∧
      (¬secure → (denied → cause = some 0x21) ∧
        (¬denied → (odd → cause = some 0x24) ∧
          (¬odd → (past → cause = some 0x23) ∧
            (¬past → (out → cause = some 0x26) ∧
              (¬out → (weights → cause = some 0x18) ∧ (¬weights → cause = none)))))))) ∧
  (∀ (s : State) (x a n : Nat), s.noRegions →
    let u := cluOf x
    let o := paOff a % 0x400000
    let area := fun w : Word => (w.toNat / 2 ^ 12 % 2 ^ 10 * 4096, w.toNat / 2 ^ 32 % 2 ^ 10 * 4096)
    let meets := fun p q : Nat × Nat => max p.1 q.1 < min (p.1 + p.2) (q.1 + q.2)
    let own := area (s.cluReg u (0x40200 + 8 * (s.ctx x).stream.toNat))
    let flags := (0x3FF000, 4096)
    (inClu u a n = true → (s.runOut x a n = false ↔ own.1 ≤ o ∧ o + n ≤ own.1 + own.2 ∧
      ¬meets own (area (s.cluReg u 0x40100)) ∧ ¬meets own flags ∧ own.1 + own.2 ≤ 0x400000)) ∧
    (inClu u a n = false → (s.runOut x a n = true ↔ ∃ i < n, s.runOut x (a + i) 1 = true)) ∧
    (inClu u a 1 = false → (s.runOut x a 1 = true ↔ paKind a = 1 ∧
      (meets (o, 1) (area (s.cluReg (8 * paDie a + paOff a / 0x400000) 0x40100)) ∨ meets (o, 1) flags))))

/-- R55, R150 to R154, R266, R267: stores, with an immediate that takes the header's byte above its own bits. A store into the own cluster's SRAM writes its bytes at once, and no other byte;
any other store enters the outbound store buffer behind what is there, and no byte changes yet; a failed check traps.
(Bytes of compressed regions: `CompressedRegions`.) That a store to own cluster SRAM writes its bytes at issue (log 13),
and FADDR of a failed check (log 35), are the model's choice. -/
def Obligations.Stores : Prop :=  ∀ (s : State) (d b : BitVec 5) (h c : BitVec 4) (z sf : BitVec 3) (o : BitVec 10) (p : BitVec 7),
    let hd := s.me.hreg h.toNat
    let n := szBytes z.toNat
    let base := s.me.sreg b.toNat
    let store := fun (i : Instr) (l : List Piece) (val : Nat → Word) =>
      let cells := l.flatMap fun q => (List.range n).map fun j =>
        (hd.pa (q.off.toNat + j), BitVec.ofNat 8 ((val q.lane).toNat / 256 ^ j))
      (∀ k f, s.accessCheck s.x hd l n true = some (k, f) → Traps 3 i s k f) ∧
      (s.accessCheck s.x hd l n true = none → s.passes 3 i →
        (ownSram (cluOf s.x) hd l = true → s.noRegions → ∃ u : State, exec i s = .next u ∧ Stored s u cells ∧
          ∀ x, u.ctx x = s.ctx x) ∧
        (ownSram (cluOf s.x) hd l = false → ∃ (u : State) (es ls : List SbEnt), exec i s = .next u ∧ SameMemory s u ∧ SameRegisters s u s.x ∧
          (u.ctx s.x).snaps = s.me.snaps ∧ (∀ x, x ≠ s.x → u.ctx x = s.ctx x) ∧
          (u.clu (cluOf s.x)).sb = (s.clu (cluOf s.x)).sb ++ es ∧ (u.clu (cluOf s.x)).late = (s.clu (cluOf s.x)).late ++ ls ∧
          (es ++ ls).map (·.data) = blocksOf cells ∧
          ∀ e ∈ es ++ ls, e.x = s.x ∧ e.cls = c.toNat ∧ e.secure = s.me.world ∧ e.id ∈ u.pend))
    let one := fun (off : Nat) => [({ off := off, len := n } : Piece)]
    let lanes := fun (off : Nat → Option Int) =>
      (List.range 128).filterMap fun j => (off j).map fun v => ({ off := v, len := n, lane := j } : Piece)
    let whole := fun j => s.me.lane d.toNat j
    let wide := (s.ext 3 * 2 ^ 10 + o.toNat) * n
    store (.st d h c z o) (one wide) (fun _ => s.me.sreg d.toNat) ∧
    store (.stl d h c z sf p) (one ((s.ext 3 * 2 ^ 7 + p.toNat) * n)) (fun _ => s.me.sreg d.toNat) ∧
    store (.vst d h c z o) (lanes fun j => some ((wide + j * n : Nat) : Int)) whole ∧
    store (.stx d h c z b) (one base.toNat) (fun _ => s.me.sreg d.toNat) ∧
    store (.vsts d h c z b) (lanes fun j => some ((base.toNat % 2 ^ 32 : Nat) + j * sgnN 32 (base.toNat / 2 ^ 32))) whole ∧
    store (.vscat d h c z b) (lanes fun j =>
      if (s.me.lane b.toNat j).getLsbD 63 then none else some ((s.me.lane b.toNat j).toNat : Int)) whole

/-- R291 to R293: a byte written into a compressed region reads back, and every other byte of the machine reads as before,
whether the write enters an entry, flushes one, or makes one whole: for a region that lies in its cluster's SRAM and is
the cluster's only one, with entries of its own blocks only. R292, R293: a flush of a write-combining entry changes how
the block is stored, and no byte that a reader sees. Addresses of a region beyond its last block (log 18) are the model's
choice. -/
def Obligations.CompressedRegions : Prop :=
  (∀ (s : State) (a b n : Nat) (v : Byte),
    let h := s.homeOf a
    let u := 8 * paDie h + paOff h / 0x400000
    let o := paOff h % 0x400000
    paKind h = 1 → paOff h < 0x2000000 → s.czrAt u o = some (b, n) → o < b + 128 * n → b + 136 * n ≤ 0x400000 →
    (∀ i r, i < 8 → s.czr u i = some r → r = (b, n)) → (s.clu u).wcb.length ≤ 8 →
    (s.clu u).wcb.Pairwise (fun w w' => w.blk ≠ w'.blk) →
    (∀ w ∈ (s.clu u).wcb, w.base = b ∧ w.blk < n ∧ w.data.length < 128 ∧ (w.data.map (·.1)).Pairwise (· < ·) ∧
      ∀ q ∈ w.data, q.1 < 128) →
    (s.putByte a v).byte a = v ∧ ∀ a', (paKind (s.homeOf a') = 1 → paOff (s.homeOf a') < 0x2000000) → s.homeOf a' ≠ h → (s.putByte a v).byte a' = s.byte a') ∧
  (∀ (s : State) (u n i m : Nat) (w : WcbEnt), i < 8 → (s.clu u).wcb[n]? = some w →
    (s.clu u).wcbwait.toNat ≤ s.now - w.cycle → s.czr u i = some (w.base, m) → (∀ j, j < 8 → j ≠ i → s.czr u j = none) → w.blk < m →
    w.base + 136 * m ≤ 0x400000 → ∃ t : State, exec (.wcbFlushTimeout u n) s = .next t ∧ SameMemory s t ∧
      (t.clu u).wcb = (s.clu u).wcb.filter (fun v => !(v.base == w.base && v.blk == w.blk)) ∧ (∀ x, t.ctx x = s.ctx x))

/-- R55, R146 to R148, R155, R156, R173, R273: handles, fences, cross-die tokens and discardable regions. A fence waits for
the accesses of its classes, the context's own stores and what it has observed, each while it has not performed at the
fence's scope: within the cluster a store has once it is in the cluster's buffer. A removal of a region names no byte. Bits of a
widened fence mask from 16 up name no class (log 21), and FADDR of a failed check follows log 35: the model's choices. -/
def Obligations.Handles : Prop :=  ∀ (s : State) (d a b : BitVec 5) (sf : BitVec 3) (m : BitVec 16) (n : BitVec 4),
    let va := (s.me.sreg a.toNat).toNat % 2 ^ 58
    let h := s.me.hreg a.toNat
    let w := (s.me.sreg a.toNat).toNat
    let v := (s.me.sreg b.toNat).toNat
    let off : Nat := v % 2 ^ 22
    let len : Nat := v / 2 ^ 32 % 2 ^ 22
    let quiet := fun (u : State) => SameMemory s u ∧ SameRegisters s u s.x ∧ ∀ x, x ≠ s.x → u.ctx x = s.ctx x
    (∀ g, s.tlbFind (dieOf s.x) s.me.world va = some g → Leaves 3 16 (.trans d a) s (.h d.toNat g)) ∧
    (s.tlbFind (dieOf s.x) s.me.world va = none → s.iss.gated = false → s.me.pchk = false → s.blocks s.x (.trans d a) = false →
      staticCheck s.me.priv (s.ext 3) (.trans d a) = none → exec (.trans d a) s = .next (s.missIssue 3 va)) ∧
    Leaves 3 1 (.hchk d a) s (.s d.toNat (if h.valid then 1 else 0)) ∧
    Leaves 3 1 (.hrel a) s (.h a.toNat { h with valid := false }) ∧ Leaves 3 1 (.hmov d a) s (.h d.toNat h) ∧
    (h.valid = false → Leaves 3 1 (.hinfo d a) s (.s d.toNat 0)) ∧
    (h.valid = true → ∃ i, Leaves 3 1 (.hinfo d a) s (.s d.toNat i) ∧ (h.size < 4 → h.kind < 4 → h.panel < 32 → h.die < 64 →
      i.getLsbD 63 = true ∧ i.getLsbD 62 = h.world ∧ i.getLsbD 61 = h.rd ∧ i.getLsbD 60 = h.wr ∧ i.getLsbD 59 = h.stripe ∧
      i.getLsbD 58 = h.mig ∧ i.toNat / 2 ^ 56 % 4 = h.size ∧ i.toNat / 2 ^ 54 % 4 = h.kind ∧
      i.toNat / 2 ^ 40 % 2 ^ 14 = h.gen.toNat ∧ i.toNat / 2 ^ 35 % 32 = h.panel ∧ i.toNat / 2 ^ 29 % 64 = h.die ∧
      i.toNat % 2 ^ 29 = 0)) ∧
    (s.passes 3 (.fence sf m) → ∃ (u : State) (f : FenceRec), exec (.fence sf m) s = .next u ∧ quiet u ∧ f ∈ (u.ctx s.x).fences ∧
      f.mask = m.toNat ∧ f.scope = sf.toNat ∧ (u.ctx s.x).snaps = s.me.snaps ∧
      ∀ j, j ∈ f.before ↔ j ∈ s.pend ∧ (3 ≤ sf.toNat ∨ ∀ g ∈ (s.buf (cluOf s.x)).sb, g.id ≠ j) ∧ (j ∈ s.me.seen ∨
        ∃ e ∈ s.me.mine, e.1 = j ∧ (e.2.2 = true ∨ (e.2.1 < 16 ∧ m.toNat.testBit e.2.1 = true)))) ∧
    ((∀ t, t < 16 → spHas t s.me.tokens = true) → Traps 3 (.xdfi d m) s 0x2F 0) ∧
    (∀ t, t < 16 → spHas t s.me.tokens = false → (∀ j, j < t → spHas j s.me.tokens = true) →
      s.passes 3 (.xdfi d m) → ∃ (u : State) (k : Token), exec (.xdfi d m) s = .next u ∧ quiet u ∧ (t, k) ∈ (u.ctx s.x).tokens ∧
        spHas t (u.ctx s.x).tokens = true ∧ k.mask = m ∧ k.waits = s.crossStores s.x m.toNat ∧
        (∀ j, j ≠ t → spHas j (u.ctx s.x).tokens = spHas j s.me.tokens) ∧
        (u.ctx s.x).snaps = s.me.snaps ++ [s.snap 3 1 (.s d.toNat (BitVec.ofNat 64 t))]) ∧
    (16 ≤ w ∨ spHas w s.me.tokens = false → Traps 3 (.xdfw a) s 0x2F 0) ∧
    (w < 16 → spHas w s.me.tokens = true → s.passes 3 (.xdfw a) → ∃ u : State, exec (.xdfw a) s = .next u ∧ quiet u ∧
      (u.ctx s.x).tokens = spDel w s.me.tokens ∧ (u.ctx s.x).snaps = s.me.snaps) ∧
    (let i := Instr.discard a b n
     let p : Piece := { off := off, len := len }
     let lies := h.sramOf (cluOf s.x) = true ∧ (len = 0 ∨ ownSram (cluOf s.x) h [p] = true)
     (h.valid = false → Traps 3 i s 0x22 0) ∧
     (h.valid = true → (v / 2 ^ 22 % 2 ^ 10 ≠ 0 ∨ v / 2 ^ 54 ≠ 0) → Traps 3 i s 0x02 0) ∧
     (h.valid = true → v / 2 ^ 22 % 2 ^ 10 = 0 → v / 2 ^ 54 = 0 →
       (¬lies → Traps 3 i s 0x26 (outsideVa (cluOf s.x) h off len)) ∧
       (lies → (off % 64 ≠ 0 ∨ len % 64 ≠ 0) → Traps 3 i s 0x24 (BitVec.ofNat 64 off))) ∧
     (h.valid = true → v / 2 ^ 22 % 2 ^ 10 = 0 → v / 2 ^ 54 = 0 → lies → off % 64 = 0 →
       len % 64 = 0 → s.passes 3 i →
       (len = 0 → ∃ u : State, exec i s = .next u ∧ quiet u ∧ (u.ctx s.x).regions = spDel n.toNat s.me.regions) ∧
       (len ≠ 0 → s.runOut s.x (h.pa off) len = false → ∃ u : State, exec i s = .next u ∧ quiet u ∧
         (u.ctx s.x).regions = spPut n.toNat (h.pa off, len) s.me.regions)))

/-! ## Queues, the scratchpad and event counters (R112, R157 to R161, R172, R174, R358) -/

/-- R112, R157 to R161, R358: pushes, pops and moves of queue entries. A push onto a bound queue keeps the order of the
entries between the two FIFOs; a push onto a link queue puts the oldest entries on the link, two packets each, as far as
the neighbour's receive store of eight has room. A second half makes an entry of the two where its first half has arrived,
and is discarded where it has not. The order of the checks of a push is the model's choice (log 79). -/
def Obligations.Queues : Prop :=  (∀ (s : State) (n a b k : BitVec 5) (f : BitVec 1),
    let c := coreOf s.x
    let q := n.toNat
    let send := fun (t : State) => spGet [] (t.core c).sendQ q
    let recv := fun (t : State) (h j : Nat) => spGet [] (t.core h).recvQ j
    let mask := if f = 1 then s.me.preg k.toNat else BitVec.allOnes 128
    let rq := spGet [] (s.core c).rq b.toNat
    let still := fun (t : State) => SameMemory s t ∧ SameRegisters s t s.x ∧ ∀ x, x ≠ s.x → t.ctx x = s.ctx x
    let pushed := fun (i : Instr) (e : VEntry) (keeps : State → Prop) =>
      ((s.core c).canSend q = false → Traps 3 i s 0x14 0) ∧
      (q < 6 → s.linkUp (dieOf s.x) q = false → Traps 3 i s 0x40 0) ∧
      (s.passes 3 i → (q < 6 → s.linkUp (dieOf s.x) q = true) → (s.core c).canSend q = true → ∃ u : State, exec i s = .next u ∧
        still u ∧ (u.ctx s.x).snaps = s.me.snaps ∧ keeps u ∧
        (∀ g, 6 ≤ q → (s.core c).bind.find? (fun p => p.1 == q) = some (q, g) →
          let h := c / 64 * 64 + g.tcid
          recv u h g.tq ++ send u = recv s h g.tq ++ send s ++ [e]) ∧
        (q < 6 → let j := min (min 8 ((send s).length + 1)) (8 - s.storeLoad (s.neighbour (dieOf s.x) q) (facing q))
          send u = (send s ++ [e]).drop j ∧ u.pkts.length = s.pkts.length + 2 * j))
    let rqSame := fun (t : State) => ∀ j, spGet [] (t.core c).rq j = spGet [] (s.core c).rq j
    pushed (.qpush n a) { data := [s.me.sreg a.toNat], valid := 1 } rqSame ∧
    pushed (.vqpush n a k f) { data := (List.range 128).map fun l => if mask.getLsbD l then s.me.lane a.toNat l else 0,
                               valid := mask } rqSame ∧
    (∀ e rest, rq = e :: rest → pushed (.qrq n b) e fun t => spGet [] (t.core c).rq b.toNat = rest) ∧
    (rq = [] → (s.core c).canSend q = true → (q < 6 → s.linkUp (dieOf s.x) q = true) → Traps 3 (.qrq n b) s 0x11 0) ∧
    (s.iss.gated = false → s.me.pchk = false → staticCheck s.me.priv (s.ext 3) (.qpush n a) = none →
      (s.core c).canSend q = true → 8 ≤ (send s).length → ∃ u : State, exec (.qpush n a) s = .next u ∧ u.iss.out = .block ∧
        SameMemory s u ∧ SameRegisters s u s.x ∧
        (u.ctx s.x).snaps = s.me.snaps ∧ send u = send s) ∧
    (∀ e rest, recv s c q = e :: rest →
      (s.passes 3 (.qpop a n) → ∃ (u : State) (more : List VEntry), exec (.qpop a n) s = .next u ∧ still u ∧ recv u c q = rest ++ more ∧
        (u.ctx s.x).snaps = s.me.snaps ++ [s.snap 3 2 (.s a.toNat (e.data.getD 0 0))]) ∧
      (s.passes 3 (.vqpop a n k f) → ∃ (u : State) (more : List VEntry) (w : _), exec (.vqpop a n k f) s = .next u ∧ still u ∧ recv u c q = rest ++ more ∧
        (∀ (y : Ctx) (l : Nat), l < 128 → (y.put (.v a.toNat w)).lane a.toNat l = e.data.getD l 0) ∧
        (u.ctx s.x).snaps = s.me.snaps ++ s.snap 3 2 (.v a.toNat w) ::
          (if f = 1 then [s.snap 3 2 (.p k.toNat e.valid)] else []))) ∧
    (Leaves 3 1 (.qstat a n) s (.s a.toNat (BitVec.ofNat 64 ((if q < 6 ∧ s.linkUp (dieOf s.x) q = true then 2 ^ 17 else 0) +
      (if (s.core c).canSend q then 2 ^ 16 else 0) + (recv s c q).length * 2 ^ 8 + (send s).length)))) ∧
    (q < 6 → Traps 3 (.qcfg n a) s 0x02 0) ∧
    (6 ≤ q → s.passes 3 (.qcfg n a) → ∃ u : State, exec (.qcfg n a) s = .next u ∧ still u ∧ (u.ctx s.x).snaps = s.me.snaps ∧
      (u.core c).bind = (let w := s.me.sreg a.toNat
        if w.getLsbD 63 then spPut q { tq := 6 + w.toNat / 64 % 2, tcid := w.toNat % 64 } (s.core c).bind
        else spDel q (s.core c).bind))) ∧
  (∀ (s : State) (n h b : BitVec 5) (v : BitVec 1) (z : BitVec 2),
    let c := coreOf s.x
    let i := Instr.strq n h b v z
    let hd := s.me.hreg h.toNat
    let w := if z = 0 then 8 else if z = 1 then 4 else 2
    let off := (s.me.sreg b.toNat).toNat
    let whole : Piece := { off := off, len := 128 * w }
    (spGet [] (s.core c).rq n.toNat = [] → Traps 3 i s 0x11 0) ∧
    ∀ e rest, spGet [] (s.core c).rq n.toNat = e :: rest →
      (∀ k f, s.accessCheck s.x hd [whole] w true = some (k, f) → Traps 3 i s k f) ∧
      (s.accessCheck s.x hd [whole] w true = none → s.passes 3 i → ∃ u : State, exec i s = .next u ∧
        spGet [] (u.core c).rq n.toNat = rest ∧ (s.isOwn s.x i = false → SameMemory s u) ∧
        (s.isOwn s.x i = true → s.noRegions → (∀ x, u.ctx x = s.ctx x) ∧ Stored s u
          ((List.range 128).flatMap fun l => if v = 1 ∧ e.valid.getLsbD l = false then [] else (List.range w).map fun j =>
            (hd.pa (off + w * l + j), BitVec.ofNat 8 ((e.data.getD l 0).toNat / 256 ^ j)))))) ∧
  (∀ (s : State) (d n : Nat) (p : Pkt) (cid q h : Nat) (l : List Word) (v : Word),
    s.pktAt d n = some p → p.dst = d → p.body = .half cid q h l v → s.overtakes p = false → (s.die d).inReset = false →
    (h = 0 → ∃ u : State, exec (.queueEntryHalf d n) s = .next u ∧ spGet ([], 0) (u.die d).rhalf ((q * 64 + cid) * 8) = (l, v) ∧
      u.pktAt d n = none ∧ ∀ c, u.core c = s.core c) ∧
    (h ≠ 0 → spHas ((q * 64 + cid) * 8) (s.die d).rhalf = false → q < 6 → n < s.nextPkt →
      ∃ u : State, exec (.queueEntryHalf d n) s = .next u ∧ u.pktAt d n = none ∧
        (∀ c, (u.core c).recvQ = (s.core c).recvQ) ∧ (u.die d).rstore = (s.die d).rstore) ∧
    (h = 1 → q < 6 → spHas ((q * 64 + cid) * 8) (s.die d).rhalf = true → s.canTake (64 * d + cid) q = true →
      spGet [] (s.die d).rstore q = [] →
      let first := spGet ([], 0) (s.die d).rhalf ((q * 64 + cid) * 8)
      ∃ u : State, exec (.queueEntryHalf d n) s = .next u ∧ spGet [] (u.core (64 * d + cid)).recvQ q =
        spGet [] (s.core (64 * d + cid)).recvQ q ++
          [{ data := first.1 ++ l, valid := BitVec.ofNat 128 (first.2.toNat + v.toNat * 2 ^ 64) }]))

/-- R123, R124, R172, R174, R343: a slot word on its way into the idle bank and its landing, the fence for it, and the
reading of event counters. A write that lands in a bank that has become active shows only once no other write of its bundle
is in flight, so that a fetch sees the whole old bundle or the whole new one: which of the two is the model's choice, as is
the record that `Core.fenced` trims (log 77). After the fence no old bundle stands for one that only its context wrote. -/
def Obligations.Scratchpad : Prop :=  (∀ (s : State) (a b d : BitVec 5),
    let c := coreOf s.x
    let n := (s.me.sreg a.toNat).toNat
    let t := n % 2 ^ 16
    let i := Instr.istore a b
    (t < 0x200 → Traps 3 i s 0x07 (BitVec.ofNat 64 t)) ∧ (0x11FF < t → Traps 3 i s 0x06 (BitVec.ofNat 64 t)) ∧
    (0x200 ≤ t → t ≤ 0x11FF → s.passes 3 i → ∃ u : State, exec i s = .next u ∧ (∀ x, u.ctx x = s.ctx x) ∧ SameMemory s u ∧
      (u.core c).ipad = (s.core c).ipad ∧ (u.core c).istores = (s.core c).istores ++
        [{ x := s.x, bank := 1 - s.bankNow, baddr := t, slot := n / 2 ^ 16 % 4,
           word := (s.me.sreg b.toNat).toNat % 2 ^ 32 }]) ∧
    (s.passes 3 .ifence → exec .ifence s = .next (s.modCore c (·.fenced s.x))) ∧
    (s.iss.gated = false → s.me.pchk = false → s.me.priv = true → s.ext 3 = 0 → (∃ r ∈ (s.core c).istores, r.x = s.x) →
      ∃ u : State, exec .ifence s = .next u ∧ u.iss.out = .block ∧ (u.core c).istores = (s.core c).istores) ∧
    Leaves 3 1 (.evrd d a) s (.s d.toNat (if n < 16 then s.evCount false (dieOf s.x) n s.me.world
      else if n < 20 then s.evCount true c (n - 16) s.me.world else 0))) ∧
  (∀ (s : State) (c : Nat) (r : IStoreRec) (rest : List IStoreRec), (s.core c).istores = r :: rest → r.slot < 4 →
    0x200 ≤ r.baddr → r.baddr ≤ 0x11FF → r.bank < 2 → r.word < 2 ^ 32 → ∃ u : State, exec (.istoreLand c) s = .next u ∧
      (u.core c).istores = rest ∧ (∀ x, u.ctx x = s.ctx x) ∧ SameMemory s u ∧
      let at' := fun (t : State) (bank a : Nat) => spGet 0 (t.core c).ipad (ipadKey bank a)
      slotWord (at' u r.bank r.baddr) r.slot = r.word ∧
      (∀ k, k < 4 → k ≠ r.slot → slotWord (at' u r.bank r.baddr) k = slotWord (at' s r.bank r.baddr) k) ∧
      (∀ bank a, bank < 2 → a ≤ 0x11FF → ¬(bank = r.bank ∧ a = r.baddr) → at' u bank a = at' s bank a) ∧
      let more := ∃ q ∈ rest, q.bank = r.bank ∧ q.baddr = r.baddr
      (r.bank = (s.core c).ibank → (more → u.bundleAt c r.baddr = s.bundleAt c r.baddr) ∧
        (¬more → u.bundleAt c r.baddr = at' u r.bank r.baddr))) ∧
  (∀ (k : Core) (x : Nat), (k.fenced x).ipad = k.ipad ∧ (k.fenced x).ibank = k.ibank ∧ (k.fenced x).istores = k.istores ∧
    ∀ key, (∀ r ∈ k.landed, r.key = key → r.x = x) → spHas key (k.fenced x).olds = false) ∧
  (∀ (s : State) (unit n : Nat) (core : Bool), (s.evSel core unit n).getLsbD 63 = true → s.evCount core unit n false = 0)

/-! ## Copy engines (R162 to R171, R278, R384) -/

/-- R162, R170, R210: a copy instruction puts its descriptor, as it stands at issue, into the queue under the queue's next
number, and counts under the current tag; its checks trap in their order; timelines are waited for and read. FADDR of the
alignment trap is the offset, and that of COPY_DESCRIPTOR the address of a descriptor at that offset (log 35); the tag is
CSTAG as the state holds it, which in a bundle is what its T slot leaves (log 34). Both are the model's choice. -/
def Obligations.CopyCommands : Prop :=  ∀ (s : State) (d a b : BitVec 5) (n : BitVec 2) (e : BitVec 5),
    let c := coreOf s.x
    let h := s.me.hreg a.toNat
    let off := (s.me.sreg b.toNat).toNat
    let p : Piece := { off := off, len := 64 }
    let va := BitVec.ofNat 64 (h.va + off)
    let q : CopyQ := spGet {} (s.core c).cq n.toNat
    let tl := (spGet {} (s.core c).cq e.toNat : CopyQ).tl
    (∀ i atomic, (i = .cpy d a b n ∧ atomic = false) ∨ (i = .cpya d a b n ∧ atomic = true) →
      (h.valid = false → Traps 3 i s 0x22 0) ∧
      (h.valid = true → sramHandle (cluOf s.x) h p = false → Traps 3 i s 0x2D va) ∧
      (h.valid = true → sramHandle (cluOf s.x) h p = true → off % 64 ≠ 0 → Traps 3 i s 0x24 (BitVec.ofNat 64 off)) ∧
      (sramHandle (cluOf s.x) h p = true → off % 64 = 0 → ∀ cause f, s.accessCheck s.x h [p] 64 false = some (cause, f) →
        h.valid = true → Traps 3 i s cause f) ∧
      (sramHandle (cluOf s.x) h p = true → off % 64 = 0 → s.accessCheck s.x h [p] 64 false = none → s.passes 3 i →
        ∃ (u : State) (m : CopyCmd), exec i s = .next u ∧ SameMemory s u ∧ SameRegisters s u s.x ∧ (∀ x, x ≠ s.x → u.ctx x = s.ctx x) ∧
          (u.ctx s.x).snaps = s.me.snaps ++ [s.snap 3 1 (.s d.toNat (BitVec.ofNat 64 q.next))] ∧
          spGet {} (u.core c).cq n.toNat = { q with next := q.next + 1, cmds := q.cmds ++ [m] } ∧
          (∀ j, j ≠ n.toNat → (spGet {} (u.core c).cq j : CopyQ) = spGet {} (s.core c).cq j) ∧
          m.num = q.next ∧ m.x = s.x ∧ m.atomic = atomic ∧ m.run = none ∧ m.va = h.va + off ∧ m.waits = s.covers s.x 5 ∧
          m.desc = ((List.range 64).map fun j => s.byte (h.pa (off + j))) ∧
          m.tag = (if s.me.tagV then some s.me.tag else none) ∧
          (s.me.tagV = true → s.holds c s.me.stream.toNat = false →
            (u.tagOf c s.me.tag.toNat).infl = (s.tagOf c s.me.tag.toNat).infl + 1))) ∧
    (s.passes 3 (.tlwait a e) → exec (.tlwait a e) s = .next s) ∧
    (s.iss.gated = false → s.me.pchk = false → s.me.longs = [] → staticCheck s.me.priv (s.ext 3) (.tlwait a e) = none →
      tl < (s.me.sreg a.toNat).toNat → ∃ u : State, exec (.tlwait a e) s = .next u ∧ u.iss.out = .block ∧ SameMemory s u ∧
        SameRegisters s u s.x) ∧
    Leaves 3 1 (.tlrd d e) s (.s d.toNat (BitVec.ofNat 64 tl))

/-- R162 to R171, R384: what becomes of a command. A bad descriptor stops it before it reads; a plain one whose pages
and checks are good begins to read its source; a transfer reads or writes up to 64 bytes at its home; a command that has
written everything puts its STAT, and the timeline rises; a faulty one delivers its frame. An element of a `cpya` is
replaced in one step, and its old value is one more write where AUX asks for it. That a command reads its whole source
before it writes, and the other choices of its checks and transforms, are the model's (logs 40 and 80). -/
def Obligations.CopyEvents : Prop :=  (∀ (s : State) (c k : Nat) (m : CopyCmd), s.startable c k = some m → m.run = none → s.cmd c k m.num = some m →
    (m.bad = true → ∃ (u : State) (v : CopyCmd) (r : CopyRun), exec (.copyCommandStart c k) s = .next u ∧ SameMemory s u ∧ u.cmd c k m.num = some v ∧
      v.run = some r ∧ r.fault = some (0x2D, BitVec.ofNat 64 m.va)) ∧
    (m.bad = false → m.gath = false → m.dec = 0 → m.misaligned = none → s.padFail m = none →
      s.copyMiss (dieOf m.x) m.world (m.sources [] ++ m.dests) = none → s.copyFail m (m.sources [] ++ m.dests) = none →
      ∃ (u : State) (v : CopyCmd) (r : CopyRun), exec (.copyCommandStart c k) s = .next u ∧ SameMemory s u ∧ (∀ x, u.ctx x = s.ctx x) ∧
        u.cmd c k m.num = some v ∧ v.run = some r ∧ r.fault = none ∧ r.phase = 2 ∧ r.writes = [] ∧
        r.reads.map (fun q => (q.va, q.len)) = (m.sources []).flatMap fun q => r.cuts q.va q.len) ∧
    (m.bad = false → m.gath = false → m.dec = 0 → m.misaligned = none → s.padFail m = none → ∀ f,
      s.copyMiss (dieOf m.x) m.world (m.sources [] ++ m.dests) = none →
      s.copyFail m (m.sources [] ++ m.dests) = some f → ∃ (u : State) (v : CopyCmd) (r : CopyRun), exec (.copyCommandStart c k) s = .next u ∧ SameMemory s u ∧
        u.cmd c k m.num = some v ∧ v.run = some r ∧ r.fault = some f ∧ r.writes = [])) ∧
  (∀ (s : State) (u k j i : Nat) (m : CopyCmd) (r : CopyRun),
    let c := 8 * u + j
    j < 8 → s.nextCmd c k = some m → (∀ o, o < 8 → o ≠ j → s.nextCmd (8 * u + o) k = none) → s.cmd c k m.num = some m →
    m.run = some r → cluOf m.x = u → (s.clu u).sb = [] →
    (∀ q, s.transferOf u m = some (1, i) → r.reads[i]? = some q → paDie q.addr = dieOf m.x →
      paDie (s.homeOf q.addr) = dieOf m.x → paKind q.addr ≠ 3 → s.badAt q.addr q.len = false → ∃ (t : State) (v : CopyCmd) (w : _) (p : _), exec (.copyTransfer u k) s = .next t ∧ SameMemory s t ∧
        t.cmd c k m.num = some v ∧ v.run = some w ∧ w.reads[i]? = some p ∧ p.got = some (s.bytes q.addr q.len)) ∧
    (∀ w, s.transferOf u m = some (2, i) → r.writes[i]? = some w → m.atomic = false → m.dstk = 0 → paDie w.addr = dieOf m.x →
      paDie (s.homeOf w.addr) = dieOf m.x → paKind w.addr ≠ 3 → s.noRegions → ∃ (t : State) (v : CopyCmd) (g : _) (p : _), exec (.copyTransfer u k) s = .next t ∧
        Stored s t (w.bytes.zipIdx.map fun p => (w.addr + p.2, p.1)) ∧ (∀ x, t.ctx x = s.ctx x) ∧
        t.cmd c k m.num = some v ∧ v.run = some g ∧ g.writes[i]? = some p ∧ p.done = true) ∧
    (∀ w, s.transferOf u m = some (2, i) → r.writes[i]? = some w → m.atomic = true → w.aux = false → m.dstk = 0 →
      paDie w.addr = dieOf m.x → paDie (s.homeOf w.addr) = dieOf m.x → paKind w.addr ≠ 3 → s.noRegions →
      let n := m.elemB
      let old := s.mval w.addr n
      let new := (aopApply m.ty m.aop old (leVal w.bytes) (leVal w.cmp)).1
      ∃ (t : State) (v : CopyCmd) (g : _) (p : _), exec (.copyTransfer u k) s = .next t ∧
        ((m.aop = 7 ∧ old ≠ leVal w.cmp) → SameMemory s t) ∧
        (¬(m.aop = 7 ∧ old ≠ leVal w.cmp) → Stored s t ((List.range n).map fun j => (w.addr + j, BitVec.ofNat 8 (new / 256 ^ j)))) ∧
        t.cmd c k m.num = some v ∧ v.run = some g ∧ g.writes[i]? = some p ∧ p.done = true ∧
        g.writes.length = r.writes.length + (if m.aux = 0 then 0 else 1) ∧
        (m.aux ≠ 0 → ∃ q, g.writes[r.writes.length]? = some q ∧ q.va = (m.aux + i * n) % 2 ^ 58 ∧ q.sent = false ∧ q.done = false ∧
          q.bytes = (List.range n).map fun j => BitVec.ofNat 8 (old / 256 ^ j)))) ∧
  (∀ (r : CopyRun) (va len : Nat), (∀ p ∈ r.cuts va len, 0 < p.2 ∧ p.1 / 64 = (p.1 + p.2 - 1) / 64) ∧
    ((r.cuts va len).flatMap fun p => (List.range p.2).map (p.1 + ·)) = (List.range len).map (va + ·)) ∧
  (∀ (s : State) (c k : Nat) (m : CopyCmd) (r : CopyRun),
    let q : CopyQ := spGet {} (s.core c).cq k
    s.cmd c k m.num = some m → m.run = some r → m.tag = none → m.flag 0 = false → m.flag 1 = false → m.flag 2 = false →
    m.flag 3 = false → m.flag 4 = false → s.noRegions →
    let stat := fun (cause : Nat) => (List.range 8).map fun j => (m.pa + 56 + j, BitVec.ofNat 8 ((cause * 2 ^ 16 + r.evt.toNat) / 256 ^ j))
    (r.fault = none → r.phase = 3 → (∀ w ∈ r.writes, w.done = true) → ∃ t : State, exec (.copyCommandComplete c k m.num) s = .next t ∧
      Stored s t (stat 0) ∧ (∀ x, t.ctx x = s.ctx x) ∧ t.cmd c k m.num = none ∧
      (m.dstk = 1 → ∀ a ∈ r.pats, a ∈ (t.core m.special.1).patOk) ∧
      (q.done = [] → m.num = q.tl + 1 → (spGet {} (t.core c).cq k : CopyQ).tl = m.num) ∧
      (m.num ≠ q.tl + 1 → q.tl + 1 ∉ q.done → (spGet {} (t.core c).cq k : CopyQ).tl = q.tl)) ∧
    (∀ cause f, r.fault = some (cause, f) → r.walk = none → (∀ w ∈ r.writes, w.done = true ∨ w.sent = false) →
      (s.die (dieOf m.x)).room = true → ∃ (t : State) (fr : Frame), exec (.copyCommandComplete c k m.num) s = .next t ∧
        Stored s t (stat cause) ∧ t.cmd c k m.num = none ∧
        (t.die (dieOf m.x)).store = (s.die (dieOf m.x)).store ++ [fr] ∧ fr.cause = cause ∧ fr.src = 1 ∧ fr.faddr = f)) ∧
  (∀ (q : CopyQ) (n : Nat), q.tl ≤ (q.complete n).tl ∧ (∀ j, q.tl < j → j ≤ (q.complete n).tl → j = n ∨ j ∈ q.done))

/-! ## Flags and notice boards (R280 to R290) -/

/-- R280 to R284: flag updates as they leave and arrive at the ports of their targets, one a cycle at each input, the waits on a flag, and the
application of one update: the word, the waits that it meets, the arrive, set or add that a completion action sends, and
the reset of a barrier. That an action acts as context 0 of its core, and flag updates travel in a class of their own, is
the model's choice (log 43). -/
def Obligations.FlagWords : Prop :=  (∀ (s : State) (d a b : BitVec 5) (sf : BitVec 3) (m : BitVec 6),
    let x := s.x
    let n := (s.me.sreg a.toNat).toNat
    let names := n < 2 ^ 23 ∧ s.panelExists (dieOf x) (n / 2 ^ 18) = true
    let sends := fun (i : Instr) (cores : List Nat) (f : Nat) (op : FlagOp) =>
      (s.passes 3 i → ∃ u : State, exec i s = .next u ∧ SameMemory s u ∧ SameRegisters s u x ∧ (u.ctx x).snaps = s.me.snaps ∧
        ∀ y, y ≠ x → u.ctx y = s.ctx y) ∧
      (s.passes 3 i → (∀ u, (s.clu u).outs = []) → s.covers x sf.toNat = [] → (∀ c ∈ cores, c / 64 = dieOf x) →
        cores.Nodup → ∃ u : State, exec i s = .next u ∧
        (∀ c ∈ cores, ∃ (r : FlagArr), (u.core c).fport = (s.core c).fport ++ [r] ∧ r.n = f ∧ r.op = op ∧ r.x = x ∧
          (let before := (s.core c).fport.filter (·.input == r.input)
           s.now ≤ r.cycle ∧ (∀ o ∈ before, o.cycle < r.cycle) ∧ ((∀ o ∈ before, o.cycle < s.now) → r.cycle = s.now)) ∧
          r.input = if c / 8 = cluOf x then coreOf x % 8 else 8) ∧
        ∀ c, c ∉ cores → (u.core c).fport = (s.core c).fport)
    (¬names → Traps 3 (.fladdArr a sf) s 0x47 (s.me.sreg a.toNat) ∧ Traps 3 (.fladdDrop a sf) s 0x47 (s.me.sreg a.toNat) ∧
      Traps 3 (.fladdAdd a b sf) s 0x47 (s.me.sreg a.toNat)) ∧
    (names → sends (.fladdArr a sf) [n / 64] (n % 64) (.add 1) ∧ sends (.fladdDrop a sf) [n / 64] (n % 64) .drop ∧
      sends (.fladdAdd a b sf) [n / 64] (n % 64) (.add ((s.me.sreg b.toNat).toNat % 2 ^ 32))) ∧
    (s.me.sreg a.toNat &&& ~~~(s.reg (dieOf x) 8) ≠ 0 → Traps 3 (.flset d a b sf m) s 0x47 (s.me.sreg a.toNat)) ∧
    (s.me.sreg a.toNat &&& ~~~(s.reg (dieOf x) 8) = 0 → sends (.flset d a b sf m)
      (((List.range 64).filter fun i => (s.me.sreg a.toNat).getLsbD i).flatMap fun i =>
        ((List.range 64).filter fun j => (s.me.sreg d.toNat).getLsbD j).map fun j => 64 * (64 * (dieOf x / 64) + i) + j)
      m.toNat (.set (s.me.sreg b.toNat))) ∧
    (let waits := fun (i : Instr) (cond : Nat) (v : Word) (met : Word → Prop) =>
      (64 ≤ n → Traps 3 i s 0x47 (s.me.sreg a.toNat)) ∧
      (n < 64 → s.me.watch = none → met (s.flagWord (coreOf x) n) → s.passes 3 i → ∃ u : State, exec i s = .next u ∧ SameMemory s u ∧
        SameRegisters s u x ∧ (u.ctx x).snaps = s.me.snaps ++ [s.snap 3 1 (.s d.toNat (s.flagWord (coreOf x) n))]) ∧
      (∀ w, n < 64 → s.me.watch = some { n := n, cond := cond, val := v, hit := some w } → s.passes 3 i → ∃ u : State,
        exec i s = .next u ∧ (u.ctx x).watch = none ∧ (u.ctx x).snaps = s.me.snaps ++ [s.snap 3 1 (.s d.toNat w)])
     waits (.flwaitEq d a b sf) 0 (s.me.sreg b.toNat) (fun w => w = s.me.sreg b.toNat) ∧
     waits (.flwaitGe d a b sf) 1 (s.me.sreg b.toNat) (fun w => (s.me.sreg b.toNat).toNat % 2 ^ 32 ≤ w.toNat % 2 ^ 32) ∧
     waits (.flwaitBar d a sf) 2 0 (fun w => w.toNat / 2 ^ 32 ≤ w.toNat % 2 ^ 32))) ∧
  (∀ (w : Word) (v : Nat) (y : Word),
    flUpdate w (.add v) = BitVec.ofNat 64 (w.toNat / 2 ^ 32 * 2 ^ 32 + (w.toNat % 2 ^ 32 + v) % 2 ^ 32) ∧
    flUpdate w .drop = BitVec.ofNat 64 ((w.toNat / 2 ^ 32 - 1) * 2 ^ 32 + w.toNat % 2 ^ 32) ∧ flUpdate w (.set y) = y) ∧
  (∀ (s : State) (c : Nat) (r : FlagArr), (s.core c).fport = [r] → r.cycle < s.now → r.remote = none → r.n < 64 → s.noRegions →
    let old := s.flagWord c r.n
    let new := flUpdate old r.op
    let cells := fun (w : Word) => (List.range 8).map fun j => (flagPa c r.n + j, BitVec.ofNat 8 (w.toNat / 256 ^ j))
    let done := fun (w : Word) => w.toNat / 2 ^ 32 ≤ w.toNat % 2 ^ 32
    let ctl := s.action c r.n 0
    let sc := ctl.toNat / 2 ^ 58 % 8
    let kind := ctl.toNat / 2 ^ 61 % 4
    let t := ctl.toNat % 2 ^ 23
    let on := ctl.getLsbD 63 = true ∧ kind < 3 ∧ sc < 6
    let fires := ¬done old ∧ done new ∧ on
    let wakes := fun (u : State) => ∀ i v, i < 4 → (s.ctx (4 * c + i)).watch = some v → v.n = r.n → v.hit = none → v.cond ≤ 2 →
      (u.ctx (4 * c + i)).watch = if (v.cond = 0 ∧ new = v.val) ∨ (v.cond = 1 ∧ v.val.toNat % 2 ^ 32 ≤ new.toNat % 2 ^ 32) ∨
        (v.cond = 2 ∧ done new ∧ ¬(on ∧ ctl.getLsbD 57 = true)) then some { v with hit := some new } else some v
    let many := ((List.range 64).filter fun i => (s.action c r.n 1 &&& s.reg (c / 64) 8).getLsbD i).flatMap fun i =>
      ((List.range 64).filter fun j => (s.action c r.n 2).getLsbD j).map fun j => 64 * (64 * (c / 4096) + i) + j
    let sends := fun (u : State) (l : List Nat) (n : Nat) (op : FlagOp) => (∀ u, (s.clu u).outs = []) →
      (∀ k ∈ l, k / 64 = c / 64) → r.covered = [] → spGet [] (s.core c).fcov r.n = [] →
      ∀ k ∈ l, ∃ a ∈ (u.core k).fport, a.n = n ∧ a.op = op ∧ a.x = 4 * c ∧ a.scope = sc ∧ a.remote = none ∧ s.now ≤ a.cycle ∧
        ((∀ o ∈ (s.core k).fport, o.cycle < s.now) → a.cycle = s.now)
    (¬fires → ∃ u : State, exec (.flagApply c) s = .next u ∧ Stored s u (cells new) ∧ wakes u ∧
      ((∀ u, (s.clu u).outs = []) → ∀ k, k ≠ c → u.core k = s.core k)) ∧
    (fires → ∃ u : State, exec (.flagApply c) s = .next u ∧ wakes u ∧
      Stored s u (if ctl.getLsbD 57 then cells new ++ cells (BitVec.ofNat 64 (new.toNat / 2 ^ 32 * 2 ^ 32)) else cells new) ∧
      (kind = 0 → s.panelExists (c / 64) (t / 2 ^ 18) = true →
        sends u [64 * (64 * (t / 2 ^ 18) + t / 2 ^ 12 % 64) + t / 2 ^ 6 % 64] (t % 64) (.add 1)) ∧
      (kind = 1 → sends u many (t % 64) (.set (s.action c r.n 3))) ∧
      (kind = 2 → sends u many (t % 64) (.add ((s.action c r.n 3).toNat % 2 ^ 32)))))

/-- R285 to R290: a board operation leaves for its home, is refused or applied there, and its reply writes the mask and
the scalar that its kind names; the home applies one once every other that arrived in its cycle is there. That the home judges NB_INVALID before WORLD_VIOLATION is the model's choice (log 44). -/
def Obligations.NoticeBoards : Prop :=  (∀ (s : State) (d a b k : BitVec 5) (sf v : BitVec 3) (q : BitVec 2),
    let x := s.x
    let n := (s.me.sreg a.toNat).toNat
    let names := n / 2 ^ 37 = 0 ∧ n / 2 ^ 28 % 16 = 0 ∧ n / 2 ^ 8 % 2 ^ 8 = 0 ∧ s.panelExists (dieOf x) (n / 2 ^ 32) = true
    let home := n / 2 ^ 32 * 64 + n / 2 ^ 22 % 64
    let goes := fun (i : Instr) (op : BoardOp) (into : LongDest) =>
      (¬names → Traps 3 i s 0x46 (s.me.sreg a.toNat)) ∧
      (names → s.passes 3 i → ∃ (u : State) (l : LongOp), exec i s = .next u ∧ SameMemory s u ∧ SameRegisters s u x ∧
        (u.ctx x).snaps = s.me.snaps ∧ (∀ y, y ≠ x → u.ctx y = s.ctx y) ∧ (u.ctx x).longs = s.me.longs ++ [l] ∧ l.dest = into ∧
        ((∀ u, (s.clu u).outs = []) → home = dieOf x → (∀ j, s.covers x j = []) → ∃ r : BoardArr,
          (u.die home).bport = (s.die home).bport ++ [r] ∧ r.b = n / 2 ^ 16 % 64 ∧ r.slot = n % 256 ∧ r.op = op ∧ r.x = x ∧
          r.long = l.id ∧ r.input = cluOf x % 8 ∧ r.cycle = s.now ∧ r.secure = s.me.world))
    goes (.nbpv d a b sf v) (.post (s.me.sreg b.toNat)) (.vms v.toNat d.toNat) ∧ goes (.nbrd d a sf) .rd (.sw d.toNat) ∧
    goes (.nbrdSt d a sf) .st (.sw d.toNat) ∧ goes (.nbrdMask k a sf) .mask (.vm k.toNat) ∧ goes (.nbclr a) .clear .none ∧
    Leaves 3 1 (.nbrdVm d k q) s (.s d.toNat (BitVec.ofNat 64 ((s.me.vmreg k.toNat).toNat / 2 ^ (64 * q.toNat))))) ∧
  (∀ (s : State) (d : Nat) (r : BoardArr), (s.die d).bport = [r] → r.cycle < s.now → r.remote = none →
    let cfg := (s.reg d (0x1000000 + 8 * r.b))
    let size := cfg.toNat % 2 ^ 9
    let at' := fun (t : State) => (spGet {} (t.die d).boards r.b : Board)
    let tells := fun (u : State) (f : Option Nat) (m : BitVec 256) (w : Word) =>
      ∃ p ∈ u.pkts, p.src = d ∧ p.dst = d ∧ p.here = d ∧ p.body = .boardReply r.x r.long f m w
    let on := cfg.getLsbD 63 = true ∧ size ≠ 0 ∧ size ≤ 256
    let posted := fun (m : BitVec 256) => ((List.range 256).filter fun i => m.getLsbD i).length
    let old := at' s
    ((¬on ∨ (size ≤ r.slot ∧ r.op ≠ .clear)) → ∃ u : State, exec (.boardOpApply d) s = .next u ∧ tells u (some 0x46) 0 0 ∧
      at' u = old ∧ SameMemory s u) ∧
    (on → (r.slot < size ∨ r.op = .clear) → cfg.getLsbD 62 = true → r.secure = false → ∃ u : State,
      exec (.boardOpApply d) s = .next u ∧ tells u (some 0x25) 0 0 ∧ at' u = old ∧ SameMemory s u) ∧
    (on → (r.slot < size ∨ r.op = .clear) → (cfg.getLsbD 62 = false ∨ r.secure = true) →
      (∀ v, r.op = .post v →
        let first := old.mask.getLsbD r.slot = false
        let m := old.mask ||| BitVec.ofNat 256 (2 ^ r.slot)
        let g := spGet 0 old.gens r.slot
        let lv := if first then (old.level + 1) % 2 ^ 32 else old.level
        ∃ u : State, exec (.boardOpApply d) s = .next u ∧ (at' u).mask = m ∧ spGet 0 (at' u).vals r.slot = v ∧
          spGet 0 (at' u).gens r.slot = (if first ∨ g = 0xFFFF then 1 else g + 1 : Nat) ∧ (at' u).level = lv ∧
          (∀ j, j ≠ r.slot → spGet 0 (at' u).vals j = spGet 0 old.vals j ∧ spGet 0 (at' u).gens j = spGet 0 old.gens j) ∧
          tells u none m (BitVec.ofNat 64 ((if posted m = size then 2 ^ 63 else 0 : Nat) + (if first then 2 ^ 62 else 0 : Nat) +
            posted m * 2 ^ 32 + lv))) ∧
      (r.op = .rd → ∃ u : State, exec (.boardOpApply d) s = .next u ∧ at' u = old ∧ tells u none old.mask (spGet 0 old.vals r.slot)) ∧
      (r.op = .st → ∃ u : State, exec (.boardOpApply d) s = .next u ∧ at' u = old ∧ tells u none old.mask (BitVec.ofNat 64
        ((if old.mask.getLsbD r.slot then 2 ^ 63 else 0 : Nat) + posted old.mask * 2 ^ 48 + spGet 0 old.gens r.slot * 2 ^ 32 +
          old.level))) ∧
      (r.op = .mask → ∃ u : State, exec (.boardOpApply d) s = .next u ∧ at' u = old ∧ tells u none old.mask 0) ∧
      (r.op = .clear → ∃ u : State, exec (.boardOpApply d) s = .next u ∧ (at' u).mask = 0 ∧ (at' u).level = old.level ∧
        (∀ j, spGet 0 (at' u).vals j = 0 ∧ spGet 0 (at' u).gens j = 0) ∧ tells u none 0 0))) ∧
  (∀ (s : State) (d n x : Nat) (p : Pkt) (l : LongOp) (m : BitVec 256) (w : Word),
    s.pktAt d n = some p → p.dst = d → s.overtakes p = false → (s.ctx x).longs.find? (·.id == l.id) = some l →
    (∀ r z, l.dest ≠ .s r z ∧ l.dest ≠ .v r z) →
    (p.body = .boardReply x l.id none m w → ∃ u : State, exec (.boardReply d n) s = .next u ∧ SameMemory s u ∧
      (u.ctx x).longs = (s.ctx x).longs.filter (·.id != l.id) ∧ (∀ y, y ≠ x → u.ctx y = s.ctx y) ∧
      (∀ r, (u.ctx x).sreg r = if r ≠ 0 ∧ Reg.s r ∈ l.dest.regs then w else (s.ctx x).sreg r) ∧
      (∀ r, (u.ctx x).vmreg r = if Reg.vm r ∈ l.dest.regs then m else (s.ctx x).vmreg r)) ∧
    (∀ c, p.body = .boardReply x l.id (some c) m w → (s.ctx x).priv = false → (s.ctx x).st ≠ .frozen →
      (∀ e i f, (s.ctx x).origin ≠ some (.tcall e i f)) → ∃ u : State, exec (.boardReply d n) s = .next u ∧ SameMemory s u ∧
        (u.ctx x).st = .frozen ∧ (u.ctx x).why = some (.trap c (BitVec.ofNat 64 l.off))))

/-! ## Groups and collectives (R363 to R373) -/

/-- R364 to R368: creating, freeing and reading a group, and a collective joining its group as the next one, or ending at
once where a member's die reset has ended it already (R361). That a descriptor of an unknown format is FORMAT_PROFILE before
its shape is judged is the model's choice (log 28). SRAM_RANGE reports the lowest byte outside the own cluster's SRAM; where
the handle's page is no cluster SRAM of the die, that is the first byte. -/
def Obligations.Groups : Prop :=  ∀ (s : State) (d a b : BitVec 5) (w : BitVec 1) (o : BitVec 2),
    let x := s.x
    let e := dieOf x
    let n := (s.me.sreg a.toNat).toNat
    let v := (s.me.sreg d.toNat).toNat
    let live := fun (t : State) (id : Nat) => ((t.die e).groups.find? (·.1 == id)).map (·.2)
    let starts := fun (i : Instr) (kind op : Nat) (wc : Bool) =>
      (s.groupOf e (v % 2 ^ 12) = none → Traps 3 i s 0x42 (BitVec.ofNat 64 (v % 256))) ∧
      ∀ g, s.groupOf e (v % 2 ^ 12) = some g →
        let root := v / 2 ^ 12 % 2 ^ 11
        let known := fmtKnown (s.desc x b.toNat).fmt = true ∧ ((kind ≠ 3 ∨ root = g.idx) → fmtKnown (s.desc x a.toNat).fmt = true)
        let ok := v / 2 ^ 29 = 0 ∧ root < g.members.length ∧
          g.shapeOk kind root wc (s.desc x a.toNat) (s.desc x b.toNat) = true
        (¬known → Traps 3 i s 0x0E 0) ∧
        (known → ¬ok → Traps 3 i s 0x44 0) ∧
        (∀ m, known → ok → (∀ c ∈ g.colls, c.cnum ≠ g.next % 2 ^ 16) → g.doomed.find? (·.1 == g.next % 2 ^ 16) = some (g.next % 2 ^ 16, m) →
          s.passes 3 i → ∃ (u : State) (h : Group) (r : FlagArr), exec i s = .next u ∧ SameMemory s u ∧ SameRegisters s u x ∧
          live u (v % 256) = some h ∧ h.next = g.next + 1 ∧ h.colls = g.colls ∧ h.cause = 0x2A ∧
          (u.core (coreOf x)).fport = (s.core (coreOf x)).fport ++ [r] ∧ r.n = v / 2 ^ 23 % 64 ∧ r.op = .add 1) ∧
        (known → ok → (∀ c ∈ g.colls, c.cnum ≠ g.next % 2 ^ 16) → (∀ q ∈ g.doomed, q.1 ≠ g.next % 2 ^ 16) → s.passes 3 i → ∃ (u : State) (h : Group) (c : Coll), exec i s = .next u ∧ SameRegisters s u x ∧
          (u.ctx x).snaps = s.me.snaps ∧ live u (v % 256) = some h ∧ h.next = g.next + 1 ∧ h.gen = g.gen ∧
          h.members = g.members ∧ h.colls.find? (·.cnum == g.next % 2 ^ 16) = some c ∧ c.kind = kind ∧ c.op = op ∧
          c.wc = wc ∧ c.root = root ∧ c.issuer = some (x, v / 2 ^ 23 % 64) ∧ c.world = s.me.world)
    starts (.collAr d a b w o) 0 o.toNat (w == 1) ∧ starts (.collRs d a b w o) 1 o.toNat (w == 1) ∧
    starts (.collAg d a b) 2 0 false ∧ starts (.collBc d a b) 3 0 false ∧ starts (.collA2a d a b) 4 0 false ∧
    (2 ^ 12 ≤ n ∨ s.groupOf e n = none → Traps 3 (.grpFree a) s 0x42 (BitVec.ofNat 64 (n % 256))) ∧
    (∀ g, n < 2 ^ 12 → s.groupOf e n = some g → s.passes 3 (.grpFree a) → ∃ u : State, exec (.grpFree a) s = .next u ∧
      live u (n % 256) = none ∧ spGet 0 (u.die e).gens (n % 256) = (spGet 0 (s.die e).gens (n % 256) + 1) % 16 ∧
      (∀ j, j ≠ n % 256 → live u j = live s j ∧ spGet 0 (u.die e).gens j = spGet 0 (s.die e).gens j) ∧
      (∀ y, u.ctx y = s.ctx y) ∧ SameMemory s u) ∧
    (2 ^ 12 ≤ n → Traps 3 (.grpQ d a) s 0x42 (BitVec.ofNat 64 (n % 256))) ∧
    (n < 2 ^ 12 → Leaves 3 2 (.grpQ d a) s (.s d.toNat (match s.groupOf e n with
      | none => 0
      | some g => BitVec.ofNat 64 (2 ^ 63 + (if g.box then 2 ^ 62 else 0) + g.gen * 2 ^ 58 + g.idx * 2 ^ 41 +
          (g.members.length - 1) * 2 ^ 30 + g.cause * 2 ^ 22 + g.colls.length * 2 ^ 8 +
          spGet 0 (s.die e).stales (n % 256))))) ∧
    (let h := s.me.hreg a.toNat
     let off := (s.me.sreg b.toNat).toNat
     let head : Piece := { off := off, len := 64 }
     let l := s.pieceBytes h head
     let byte := fun (i : Nat) => (l.getD i 0).toNat
     let half := fun (i : Nat) => byte i + 256 * byte (i + 1)
     let whole : Piece := { off := off, len := 64 + 2 * if byte 1 = 0 then min (half 2) 2048 else 0 }
     let list := elemsAt 2 ((s.pieceBytes h whole).drop 64)
     let gen := spGet 0 (s.die e).gens (byte 0)
     let used := ((s.die e).groups.map fun g => g.2.stg).sum
     let fits := fun (p : Piece) => sramHandle (cluOf x) h p = true ∧ s.accessCheck x h [p] 64 false = none
     let good := h.valid = true ∧ fits head ∧ fits whole
     let out := fun (p : Piece) (j : Nat) => if h.sramOf (cluOf x) = true then j < p.len ∧ inClu (cluOf x) (h.pa (off + j)) 1 = false ∧
       ∀ i, i < j → inClu (cluOf x) (h.pa (off + i)) 1 = true else j = 0
     let stops := fun (p : Piece) =>
       (∀ j, sramHandle (cluOf x) h p = false → out p j → Traps 3 (.grpMk d a b) s 0x26 (BitVec.ofNat 64 (h.va + off + j))) ∧
       (∀ cause f, sramHandle (cluOf x) h p = true → s.accessCheck x h [p] 64 false = some (cause, f) →
         Traps 3 (.grpMk d a b) s cause f)
     (h.valid = false → Traps 3 (.grpMk d a b) s 0x22 0) ∧
     (h.valid = true → stops head) ∧ (h.valid = true → fits head → stops whole) ∧
     (good → s.groupMembers e l list = none → Traps 3 (.grpMk d a b) s 0x42 (BitVec.ofNat 64 (byte 0))) ∧
     (∀ m, good → s.groupMembers e l list = some m → spHas (byte 0) (s.die e).groups = true →
       Traps 3 (.grpMk d a b) s 0x42 (BitVec.ofNat 64 (byte 0))) ∧
     (∀ m, good → s.groupMembers e l list = some m → spHas (byte 0) (s.die e).groups = false →
       (16 ≤ (s.die e).groups.length ∨ 64 < used + half 4) → Traps 3 (.grpMk d a b) s 0x43 (BitVec.ofNat 64 (byte 0))) ∧
     (∀ m, good → s.groupMembers e l list = some m → spHas (byte 0) (s.die e).groups = false →
       (s.die e).groups.length < 16 → used + half 4 ≤ 64 → s.passes 3 (.grpMk d a b) → ∃ (u : State) (g : Group),
       exec (.grpMk d a b) s = .next u ∧ SameMemory s u ∧ SameRegisters s u x ∧
       (u.ctx x).snaps = s.me.snaps ++ [s.snap 3 1 (.s d.toNat (BitVec.ofNat 64 (gen * 256 + byte 0)))] ∧
       live u (byte 0) = some g ∧ g.gen = gen ∧ g.members = m ∧ g.stg = half 4 ∧ g.colls = [] ∧
       (∀ j, j ≠ byte 0 → live u j = live s j) ∧
       ∀ t ∈ m, t ≠ e → ∃ p ∈ u.pkts, p.src = e ∧ p.dst = t ∧
         p.body = .credit (byte 0) gen (max 512 (half 4 * 65536 / max 1 (m.length - 1)))))

/-- R364 to R366, R371, R373: credits, final chunks and poisons that arrive; packets for a group that is not live, which
are dropped and counted; self-describing packets, which stay at a die for route entry 6 and end for the pops that R373
lists; and the completion token, which gathers the lowest faulting member and ends the collective at each member. A chunk
waits for a collective that its die has not issued yet. Where a token waits, what a poisoned member reports, and the size
of a grant are the model's choices (log 58). -/
def Obligations.Collectives : Prop :=  (∀ (s : State) (d n id gen k : Nat) (p : Pkt), s.pktAt d n = some p → p.dst = d →
    s.inTurn d p = true → p.body = .credit id gen k →
    (∀ g, s.groupOf d (id + 256 * gen) = some g → id < 256 → gen < 16 → g.colls = [] → ∃ (u : State) (h : Group),
      exec (.creditGrant d n) s = .next u ∧ ((u.die d).groups.find? (·.1 == id)).map (·.2) = some h ∧
      spGet 0 h.credit (g.memberOf p.src) = spGet 0 g.credit (g.memberOf p.src) + k ∧ u.pktAt d n = none ∧ SameMemory s u) ∧
    (s.groupOf d (id + 256 * gen) = none → ∃ u : State, exec (.creditGrant d n) s = .next u ∧ u.pktAt d n = none ∧
      SameMemory s u ∧ (∀ c, u.core c = s.core c) ∧
      ∀ i, spGet 0 (u.die d).stales i = if i = id then min 255 (spGet 0 (s.die d).stales id + 1) else spGet 0 (s.die d).stales i)) ∧
  (∀ (s : State) (d n : Nat) (p : Pkt) (c : Chunk), s.pktAt d n = some p → p.dst = d → s.inTurn d p = true → p.body = .chunk c →
    (s.groupOf d (c.group + 256 * c.gen) = none → ∃ u : State, exec (.collectiveChunk d n) s = .next u ∧ u.pktAt d n = none ∧
      SameMemory s u ∧ spGet 0 (u.die d).stales c.group = min 255 (spGet 0 (s.die d).stales c.group + 1)) ∧
    (∀ g, s.groupOf d (c.group + 256 * c.gen) = some g → (c.cnum + 2 ^ 16 - g.next % 2 ^ 16) % 2 ^ 16 < 2 ^ 15 →
      exec (.collectiveChunk d n) s = .next s)) ∧
  (∀ (s : State) (d n : Nat) (p : Pkt) (c : Chunk) (g : Group) (q : Coll), s.pktAt d n = some p → p.dst = d → n < s.nextPkt →
    s.inTurn d p = true → p.body = .chunk c → s.groupOf d (c.group + 256 * c.gen) = some g → c.group < 256 → c.gen < 16 →
    2 ^ 15 ≤ (c.cnum + 2 ^ 16 - g.next % 2 ^ 16) % 2 ^ 16 →
    g.colls.find? (·.cnum == c.cnum) = some q → ∃ (u : State) (h : Group) (k : Coll), exec (.collectiveChunk d n) s = .next u ∧ u.pktAt d n = none ∧
      u.collOf d c.group c.cnum = some (h, k) ∧
      (∀ m f, c.poison = some (m, f) → k.poison = (match q.poison with
        | some (b, e) => if m < b then some (m, f) else some (b, e)
        | none => some (m, f))) ∧
      (c.poison = none → c.count = q.count → c.kind = q.kind → c.op = q.op → c.etype = q.fmt d → q.poison = none →
        c.step = 3 → k.steps = q.steps + 1 ∧ k.poison = none ∧ SameMemory (s.putRow q.pages (q.dc d) c.eoff c.elems) u) ∧
      (c.poison = none → c.count ≠ q.count ∨ c.kind ≠ q.kind ∨ c.op ≠ q.op ∨ c.etype ≠ q.fmt d → q.poison = none →
        k.poison = some (g.idx, 0x44))) ∧
  (∀ (s : State) (d n r o : Nat) (p : Pkt) (c : Chunk) (rs os : List Nat), s.pktAt d n = some p →
    p.body = .selfd c (r :: rs) (o :: os) → n < s.nextPkt →
    let bad := 6 < r ∨ 4 < o ∨ (o = 2 ∧ r ≠ 6)
    let ends := fun (cause : Nat) => ∃ u : State, exec (.selfDescribing d n) s = .next u ∧ u.pktAt d n = none ∧ SameMemory s u ∧
      ∃ z ∈ u.pkts, z.dst = p.src ∧ z.body = .collNak c.group c.gen c.cnum cause false
    let goes := fun (t : State) (b : PktBody) => ∃ (u : State) (z : Pkt), exec (.selfDescribing d n) s = .next u ∧ SameMemory t u ∧
      u.pktAt (if r = 6 then d else s.neighbour d r) n = some z ∧ z.body = b
    (bad → ends 0x41) ∧ (¬bad → r < 6 → s.linkUp d r = false → ends 0x40) ∧
    (¬bad → (r < 6 → s.linkUp d r = true) →
      (o = 0 → goes s (.selfd c rs os)) ∧
      ∀ g q, s.groupOf d (c.group + 256 * c.gen) = some g → g.colls.find? (·.cnum == c.cnum) = some q →
        c.group < 256 → 2 ^ 15 ≤ (c.cnum + 2 ^ 16 - g.next % 2 ^ 16) % 2 ^ 16 → q.poison = none →
        let written := fun (l : List Nat) => s.putRow q.pages (q.dc d) c.eoff l
        let staged := ((q.part.find? (·.1 == 4 * c.eoff + 3)).map (·.2)).getD ((q.src.drop c.eoff).take c.elems.length)
        let sum := c.elems.zipIdx.map fun e => (aopApply (collTy (q.fmt d)) q.op e.1 (staged.getD e.2 0) 0).1
        (o = 1 → goes (written c.elems) (.selfd c rs os)) ∧
        (o = 2 → ∃ u : State, exec (.selfDescribing d n) s = .next u ∧ u.pktAt d n = none ∧ SameMemory (written c.elems) u) ∧
        (o = 3 → goes s (.selfd { c with elems := sum } rs os)) ∧
        (o = 4 → ∃ u : State, exec (.selfDescribing d n) s = .next u ∧ u.pktAt d n = none ∧ SameMemory (written sum) u))) ∧
  (∀ (s : State) (d id : Nat) (g : Group) (c : Coll), id < 256 → (s.die d).groups = [(id, g)] → g.gen < 16 → g.colls = [c] →
    c.begun = true → c.outbox = [] → (c.poison.isSome = true ∨ c.steps = c.expected g d) →
    (g.idx = 0 → s.pkts = [] → c.launched = false → 1 < g.members.length → ∃ (u : State) (p : Pkt), exec (.collTokenPass d id) s = .next u ∧
      u.pkts = [p] ∧ p.dst = g.members.getD 1 d ∧ p.body = .token id g.gen c.cnum 1 c.poison) ∧
    (∀ p pass w, s.pkts = [p] → p.here = d → p.dst = d → p.body = .token id g.gen c.cnum pass w →
      (pass = 1 → g.idx ≠ 0 → ∃ (u : State) (q : Pkt), exec (.collTokenPass d id) s = .next u ∧ u.pkts = [q] ∧
        q.dst = g.members.getD ((g.idx + 1) % g.members.length) d ∧ q.body = .token id g.gen c.cnum 1 (worse w c.poison)) ∧
      (∀ x f, pass = 2 → w = none → c.issuer = some (x, f) → ∃ (u : State) (r : FlagArr), exec (.collTokenPass d id) s = .next u ∧
        (∀ h, (u.die d).groups.find? (·.1 == id) = some (id, h) → h.colls = [] ∧ h.cause = 0) ∧
        (u.core (coreOf x)).fport = (s.core (coreOf x)).fport ++ [r] ∧ r.n = f ∧ r.op = .add 1 ∧
        (g.idx + 1 < g.members.length → ∃ (q : Pkt), u.pkts = [q] ∧ q.dst = g.members.getD (g.idx + 1) d ∧
          q.body = .token id g.gen c.cnum 2 none))))

/-! ## System instructions, saves and restores (R149, R175, R318 to R329) -/

/-- R149, R175: a privileged context sets the core's next world, shoots a page down and goes on once the shootdown is
complete, and saves and restores another context of its core: registers, handles by a new walk (R149), and results in
flight. Fields of a block whose place R324 leaves open stand where log 16 puts them, the model's choice; a block in which
no register waits on a long load brings none back. That a save or restore acts in the one step that ends it (log 71), and
that a shootdown waits for no copy command (log 39), are the model's choices. -/
def Obligations.SystemInstructions : Prop :=  (∀ (s : State) (a : BitVec 5), s.me.priv = true →
    let x := s.x
    let c := coreOf x
    let va := (s.me.sreg a.toNat).toNat % 2 ^ 58
    (s.me.world = false → Traps 3 (.sysWorld a) s 0x25 0) ∧
    (s.me.world = true → s.passes 3 (.sysWorld a) → ∃ u : State, exec (.sysWorld a) s = .next u ∧ (∀ y, u.ctx y = s.ctx y) ∧
      SameMemory s u ∧ (u.core c).nextWorld = (s.me.sreg a.toNat).getLsbD 0 ∧ (u.core c).world = (s.core c).world) ∧
    (s.passes 3 (.sysShoot a) → ∃ u : State, exec (.sysShoot a) s = .next u ∧ SameMemory s u ∧ SameRegisters s u x ∧
      (u.ctx x).snaps = s.me.snaps ∧ (u.ctx x).shoot = none ∧ ∀ y, y ≠ x → u.ctx y = s.ctx y) ∧
    (s.iss.gated = false → s.me.pchk = false → s.me.longs = [] → s.me.shoot = none → s.ext 3 = 0 → ∃ (u : State) (h : Shoot),
      exec (.sysShoot a) s = .next u ∧ u.iss.out = .block ∧ SameMemory s u ∧ (u.ctx x).shoot = some h ∧ h.va = va ∧
      h.done = false ∧ (∀ d, ∀ t ∈ (u.die d).tlb, t.world = s.me.world → t.page.covers va = false) ∧
      ∀ y r, (s.ctx y).world = s.me.world → ((u.ctx y).hreg r).covers va = false)) ∧
  (∀ (s : State) (x : Nat) (h : Shoot), (s.ctx x).shoot = some h → (∀ i ∈ h.waits, i ∉ s.pend) → ∃ u : State,
    exec (.shootdownComplete x) s = .next u ∧ u.ctx x = { s.ctx x with shoot := some { h with done := true } } ∧
    (∀ y, y ≠ x → u.ctx y = s.ctx y) ∧ SameMemory s u) ∧
  (∀ (s : State) (a b : BitVec 5), s.me.priv = true →
    let other := 4 * coreOf s.x + (s.me.sreg a.toNat).toNat % 4
    let o := s.ctx other
    let va := (s.me.sreg b.toNat).toNat % 2 ^ 58
    let d := dieOf s.x
    let w := s.me.world
    let out := s.putRuns d w va (s.ctxRuns other o)
    let num := s.blockNum d w va
    let free := other ≠ s.x ∧ (o.st = .dormant ∨ o.st = .frozen)
    (¬free → Traps 3 (.sysSave a b) s 0x39 0 ∧ Traps 3 (.sysRest a b) s 0x39 0) ∧
    (∀ f, free → out.2 = some f → Traps 3 (.sysSave a b) s 0x56 (BitVec.ofNat 64 f)) ∧
    (free → out.2 = none → s.passes 3 (.sysSave a b) → ∃ u : State, exec (.sysSave a b) s = .next u ∧ (∀ y, u.ctx y = s.ctx y) ∧
      SameMemory out.1 u) ∧
    (∀ f, free → s.partsFail d w va ctxParts = some f → Traps 3 (.sysRest a b) s 0x56 (BitVec.ofNat 64 f)) ∧
    (free → s.partsFail d w va ctxParts = none → (∀ f r, f < 2 → r < 32 → num (0x240 + 0x200 * f + 16 * r) 8 < 2 ^ 63) →
      s.passes 3 (.sysRest a b) → ∃ u : State, exec (.sysRest a b) s = .next u ∧ SameMemory s u ∧
      let n := u.ctx other
      (n.pc = num 8 8 % 2 ^ 16 ∧ n.count = num 0x10 8 ∧ n.flags = BitVec.ofNat 7 (num 0x20 8) ∧
        n.rm = BitVec.ofNat 2 (num 0x18 8) ∧ n.world = (num 0x18 8).testBit 3 ∧ n.priv = (num 0x18 8).testBit 4 ∧
        n.disc = BitVec.ofNat 16 (num 0x50 8) ∧ n.tagV = (num 0x38 8).testBit 8 ∧ n.tag = BitVec.ofNat 8 (num 0x38 8) ∧
        n.stream = BitVec.ofNat 2 (num 0x48 8) ∧ n.prio = BitVec.ofNat 2 (num 0x48 8 / 4)) ∧
      (∀ r, r < 4 → n.fmreg r = BitVec.ofNat 32 (num (0x1100 + 4 * r) 4)) ∧
      (∀ r, r < 8 → n.vmreg r = BitVec.ofNat 256 (num (0x1200 + 32 * r) 32)) ∧
      (∀ r j, r < 8 → j < 64 → n.xsel r j = BitVec.ofNat 32 (num (0x2000 + 256 * r + 4 * j) 4)) ∧
      (∀ r, r < 16 → let info := num (0x1400 + 32 * r) 8
        (info < 2 ^ 63 → (n.hreg r).valid = false) ∧
        ∀ h, 2 ^ 63 ≤ info → s.pageWalk (dieOf other) n.world (num (0x1408 + 32 * r) 8) = .page h →
          n.hreg r = if h.gen.toNat = info / 2 ^ 40 % 2 ^ 14 then h else {}) ∧
      (∀ i, i < 256 → let e := num (0x10000 + 0x480 * i) 8
        2 ^ 63 ≤ e → e / 2 ^ 56 % 64 = 0 → ∃ q ∈ n.snaps, q.due = n.count + e / 2 ^ 16 % 2 ^ 16 ∧
          q.dest = .s (e / 2 ^ 48 % 2 ^ 8) (BitVec.ofNat 64 (num (0x10020 + 0x480 * i) 8)) ∧
          q.flags = BitVec.ofNat 7 (num (0x10008 + 0x480 * i) 8)) ∧
      (∀ r, 0 < r → r < 32 → n.sreg r = BitVec.ofNat 64 (num (0x100 + 8 * r) 8)) ∧
      (∀ r l, r < 32 → l < 128 → n.lane r l = BitVec.ofNat 64 (num (0x8000 + 1024 * r + 8 * l) 8)) ∧
      (∀ r, 0 < r → r < 8 → n.preg r = BitVec.ofNat 128 (num (0x1000 + 16 * r) 16)) ∧
      (∀ r, r < 16 → n.tdreg r = BitVec.ofNat 256 (num (0x1800 + 32 * r) 32))))

/-- R318 to R320, R328, R329: a save whose waits are over writes the blocks and leaves the stream SAVED with its contexts
dormant, or stops on a fault; a core comes back from its block, with the stream as its owner. Which of a port's vectors
are unmasked is a free value of the configuration (log 82); fields that R323 gives no place stand where log 16 puts them.
What of a core a save holds where no rule names it (log 69) and replies that find the log full (log 72) are the model's
choices. -/
def Obligations.SavesAndRestores : Prop :=  (∀ (s : State) (p k : Nat), k < 4 → s.strState p k = 3 → (∀ c ∈ s.coresOf p k, s.coreStill c = true) →
    let t := (s.landStores p k).flushAll p k
    let out := t.putDies p k (t.panelDies p)
    (out.2 = none → ∃ u : State, exec (.saveComplete p k) s = .next u ∧ u.strState p k = 4 ∧
      (u.pan p).vectors = (s.pan p).vectors ++ [4 + k] ∧ SameMemory out.1 u ∧
      (u.pan p).raised = (s.pan p).raised ++
        (([0, 7, 56, 63].filter fun i => Config.vectorOn (64 * p + i) (4 + k)).map fun i => (i, 4 + k)) ∧
      ∀ c i, c ∈ out.1.coresOf p k → i < 4 → (out.1.ctx (4 * c + i)).stream.toNat = k →
        (out.1.ctx (4 * c + i)).origin.isSome = true → (u.ctx (4 * c + i)).st = .dormant) ∧
    (∀ va, out.2 = some va → t.trapRoom p = true → ∃ u : State, exec (.saveComplete p k) s = .next u ∧ u.strState p k = 5 ∧
      (u.strm p k).stuck = true)) ∧
  (∀ (s : State) (c e k : Nat), k < 4 → (∀ j, j < k → s.strState (c / 4096) j ≠ 7) → s.strState (c / 4096) k = 7 →
    c ∈ (s.strm (c / 4096) k).restoring → e ∈ (s.strm (c / 4096) k).restoring → e ≠ c → s.coreFree c k = true →
    let d := c / 64
    let w := s.strWorld (c / 4096) k
    let va := s.saveBlock (c / 4096) k (d % 64) + 0x1000000 + c % 64 * 0x400000
    let num := s.blockNum d w va
    s.partsFail d w va coreParts = none → num 0x2C9070 8 = 0 → ∃ u : State, exec (.restoreCore c) s = .next u ∧
      (u.core c).owner = some (BitVec.ofNat 2 k) ∧ (u.core c).awaits = false ∧ (u.core c).ibank = num 0x2C9000 8 % 2 ∧
      (∀ i, i < 512 → spGet 0 (u.core c).ipad i = num (0x290000 + 16 * i) 16) ∧
      (∀ n, n ∈ (u.core c).patOk ↔ n < 128 ∧ (num 0x2C9010 16).testBit n = true) ∧
      (∀ q, q = 6 ∨ q = 7 → let b := num (0x2C9060 + 8 * (q - 6)) 8
        (2 ^ 63 ≤ b → (u.core c).bind.find? (·.1 == q) = some (q, { tq := b / 64 % 8, tcid := b % 64 })) ∧
        (b < 2 ^ 63 → (u.core c).bind.find? (·.1 == q) = none)) ∧
      (∀ t n, t < 16 → n < 2048 → (u.acc c t).data.getD n 0 = BitVec.ofNat 32 (num (0x200000 + 8192 * t + 4 * n) 4)) ∧
      (∀ j, j ≠ c → u.core j = s.core j) ∧ (∀ x, u.ctx x = s.ctx x) ∧ SameMemory s u ∧ u.strState (c / 4096) k = 7 ∧
      (u.strm (c / 4096) k).restoring = (s.strm (c / 4096) k).restoring.filter (· != c))

/-! ## Events of the issue stage, the translation unit and the trap store (R114 to R119, R151, R188, R310 to R317) -/

/-- R114 to R119, R151, R188: the issue stage takes a ready context, a block clears, a waiting start takes a dormant
context, results and loads land, and a staging buffer becomes ready. The moments within one cycle (log 75) are the model's
choices. -/
def Obligations.IssueEvents : Prop :=  (∀ (s : State) (c j : Nat), (s.core c).sel = none → s.readyAfter c (((s.core c).selFrom).getD 3) = some j → ∃ u : State,
    exec (.issueStageSelect c) s = .next u ∧ (u.core c).sel = some j ∧ (u.core c).selFrom = none ∧
    (u.ctx (4 * c + j)).st = .selected ∧ SameMemory s u ∧ ∀ y, y ≠ 4 * c + j → u.ctx y = s.ctx y) ∧
  (∀ (s : State) (x : Nat), (s.ctx x).st = .blocked → s.stillBlocks x = false → ∃ u : State, exec (.blockClear x) s = .next u ∧
    u.ctx x = { s.ctx x with st := .ready } ∧ SameMemory s u ∧ ∀ y, y ≠ x → u.ctx y = s.ctx y) ∧
  (∀ (s : State) (c i : Nat) (w : Waiting) (rest : List Waiting), (s.core c).starts = w :: rest → s.startHeld c w = false →
    s.dormantOf c = some i → ∃ u : State, exec (.contextStart c) s = .next u ∧ (u.core c).starts = rest ∧
    (u.core c).owner = some w.req.stream ∧ SameMemory s u ∧ (∀ y, y ≠ 4 * c + i → u.ctx y = s.ctx y) ∧
    let n := u.ctx (4 * c + i)
    n.st = .ready ∧ n.pc = w.req.entry ∧ n.count = 0 ∧ n.snaps = [] ∧ n.loops = [] ∧ n.flags = 0 ∧ n.priv = w.req.priv ∧
    n.world = w.req.world.getD (s.core c).nextWorld ∧ n.stream = w.req.stream ∧ n.prio = w.req.prio ∧ n.child = w.req.child ∧
    n.tagV = w.req.tag.isSome ∧ (∀ r, 0 < r → n.sreg r = spGet 0 w.req.regs.reverse r) ∧ (∀ r l, n.lane r l = 0) ∧
    ∀ r, 0 < r → n.preg r = 0) ∧
  (∀ (s : State) (x r : Nat) (v : Word) (n : Snap), (s.ctx x).snaps = [n] → n.dest = .s r v →
    ((s.ctx x).count < n.due → ∃ u : State, exec (.exposedResultLand x) s = .next u ∧ u.ctx x = s.ctx x ∧ SameMemory s u) ∧
    (n.due ≤ (s.ctx x).count → n.trap = none → ∃ u : State, exec (.exposedResultLand x) s = .next u ∧ SameMemory s u ∧
      (u.ctx x).snaps = [] ∧ (∀ q, (u.ctx x).sreg q = if q = r ∧ r ≠ 0 then v else (s.ctx x).sreg q) ∧
      (u.ctx x).flags = (s.ctx x).flags ||| n.flags ∧ (u.ctx x).fel = evMin (s.ctx x).fel n.ev ∧
      ∀ y, y ≠ x → u.ctx y = s.ctx y) ∧
    (∀ c f, n.due ≤ (s.ctx x).count → n.trap = some (c, f) → (s.ctx x).priv = false → (s.ctx x).st ≠ .frozen →
      (∀ e i g, (s.ctx x).origin ≠ some (.tcall e i g)) → ∃ u : State, exec (.exposedResultLand x) s = .next u ∧
      SameRegisters s u x ∧ (u.ctx x).st = .frozen ∧ (u.ctx x).why = some (.trap c f) ∧ SameMemory s u)) ∧
  (∀ (s : State) (c b : Nat), b < 2 → ∃ u : State, exec (.stagingBufferReady c b) s = .next u ∧
    (spGet {} (u.core c).bs b : Staging) = { (spGet {} (s.core c).bs b : Staging) with busy := false } ∧
    (spGet {} (u.core c).bs (1 - b) : Staging) = spGet {} (s.core c).bs (1 - b) ∧ SameMemory s u ∧ ∀ x, u.ctx x = s.ctx x) ∧
  (∀ (s : State) (x r z : Nat) (o : LongOp) (p : LongPart), s.longLoad x o.id = some o → o.kind = .load none →
    o.dest = .s r z → o.parts = [p] → p.lane = 0 → o.bad = none → (∀ i ∈ o.waits, i ∉ s.pend) → (∀ i ∈ p.waits, i ∉ s.pend) → p.sent = false →
    let lands := fun (l : List Byte) => ∃ u : State, exec (.longLoadData x o.id) s = .next u ∧ SameMemory s u ∧
      (∀ q, (u.ctx x).sreg q = if q = r ∧ r ≠ 0 then szExtend z (leVal l) else (s.ctx x).sreg q) ∧
      (u.ctx x).longs = (s.ctx x).longs.filter (·.id != o.id) ∧ o.num ∉ u.pend ∧ ∀ y, y ≠ x → u.ctx y = s.ctx y
    (∀ l, p.got = some l → lands l) ∧
    (p.got = none → p.src ≠ [] → (∀ i ∈ p.src, i ∈ s.pend) → lands p.fwd) ∧
    (p.got = none → (∀ i ∈ p.src, i ∉ s.pend) → paDie (s.homeFrom (dieOf x) p.addr) = dieOf x → paKind p.addr ≠ 3 →
      s.badAt p.addr p.len = false → lands (s.bytes p.addr p.len)) ∧
    (p.got = none → (∀ i ∈ p.src, i ∉ s.pend) → paDie (s.homeFrom (dieOf x) p.addr) = dieOf x → s.badAt p.addr p.len = true → (s.ctx x).priv = false → (s.ctx x).st ≠ .frozen →
      (∀ e i g, (s.ctx x).origin ≠ some (.tcall e i g)) → ∃ u : State, exec (.longLoadData x o.id) s = .next u ∧
      SameRegisters s u x ∧ (u.ctx x).st = .frozen ∧ (u.ctx x).why = some (.trap 0x27 p.va) ∧ SameMemory s u))

/-- R310 to R313, R316, R317, R383: a walk, from the root as it stood at its start, releases its waiters or leaves a fault
entry with one frame; TURETRY and CXCMD release or retire frozen contexts; and a frame leaves the trap store for its ring
and starts the handler. That a translation stays cached until a shootdown (log 37), fields of a frame without a meaning
(log 46), and the cause of a retired walk (log 47) are the model's choices. -/
def Obligations.TrapEvents : Prop :=  (∀ (s : State) (d n : Nat) (t : TuEnt), (s.die d).tu.find? (·.1 == n) = some (n, t) → t.fault = none →
    (∀ h, s.walkRoot d t.world t.root (t.vpn * 0x4000) = .page h → ∃ u : State, exec (.translationWalkDone d n) s = .next u ∧ SameMemory s u ∧
      (u.die d).tlb = (s.die d).tlb ++ [{ world := t.world, page := h }] ∧ (u.die d).tu.find? (·.1 == n) = none ∧
      ∀ x, .ctx x ∈ t.waiters → (s.ctx x).st = .frozen → (u.ctx x).st = .ready ∧ (u.ctx x).why = none) ∧
    (∀ c x e va k b, s.walkRoot d t.world t.root (t.vpn * 0x4000) = .fault c → t.waiters = [.ctx x] →
      (s.ctx x).st = .frozen → (s.ctx x).why = some (.miss e va k b) → (s.ctx x).priv = false → (s.ctx x).specChild = false →
      (s.die d).room = true → ∃ (u : State) (f : Frame), exec (.translationWalkDone d n) s = .next u ∧ SameMemory s u ∧
      (spGet { world := false, vpn := 0 } (u.die d).tu n : TuEnt) = { t with fault := some c } ∧ u.ctx x = s.ctx x ∧
      (u.die d).store = (s.die d).store ++ [f] ∧ f.cause = c ∧ f.src = 0 ∧ f.fl % 2 = 1 ∧ f.baddr = (s.ctx x).pc ∧
      f.faddr = BitVec.ofNat 64 va ∧ f.aux = BitVec.ofNat 64 (n * 2 ^ 16) ∧ f.loc = k + 4 * b + 8 * (x % 4))) ∧
  (∀ (s : State) (d n : Nat) (w : Access) (t : TuEnt), (s.die d).tu.find? (·.1 == n) = some (n, t) → n < 2 ^ 10 →
    w.data = BitVec.ofNat 64 (2 ^ 63 + n) → (w.who.isHost = true ∨ w.who = .context true) → (t.world = true → w.secure = true) →
    (t.fault.isSome = true → ∃ u : State, exec (.turetry d w) s = .next u ∧ (u.die d).tu.find? (·.1 == n) = none ∧ SameMemory s u ∧
      ∀ x, .ctx x ∈ t.waiters → (s.ctx x).st = .frozen → (u.ctx x).st = .ready ∧ (u.ctx x).why = none) ∧
    (t.fault = none → exec (.turetry d w) s = .next s)) ∧
  (∀ (s : State) (c j : Nat) (w : Access) (k : Nat) (f : Word), j < 4 → w.secure = true → w.who.isHost = true →
    let x := 4 * c + j
    (s.ctx x).st = .frozen → (s.ctx x).why = some (.trap k f) → (s.ctx x).held = false →
    (w.data.toNat % 4 = j → ∃ u : State, exec (.cxcmdResume c w) s = .next u ∧ SameMemory s u ∧ (∀ y, y ≠ x → u.ctx y = s.ctx y) ∧
      u.ctx x = { s.ctx x with st := .ready, why := none }) ∧
    (w.data.toNat % 4 = j → (∀ e i g, (s.ctx x).origin ≠ some (.tcall e i g)) → ∃ u : State, exec (.cxcmdRetire c w) s = .next u ∧
      SameMemory s u ∧ (u.ctx x).st = .dormant ∧ (u.ctx x).snaps = [] ∧ (u.ctx x).longs = []) ∧
    (∀ e i g, w.data.toNat % 4 = j → (s.ctx x).origin = some (.tcall e i g) → ∃ (u : State) (v : ChildEnd), exec (.cxcmdRetire c w) s = .next u ∧
      (u.ctx x).st = .dormant ∧ (u.core c).ends = (s.core c).ends ++ [v] ∧ v.word = e ∧ v.child = i ∧ v.cause = k ∧ v.faddr = f) ∧
    (∀ a, w.data.toNat % 4 = j → w.data.toNat / 2 ^ 16 % 2 ^ 16 = a → a ≤ 0x11FF → ∃ u : State, exec (.cxcmdResumeAt c w) s = .next u ∧
      SameMemory s u ∧ u.ctx x = { s.ctx x with st := .ready, why := none, pc := a })) ∧
  (∀ (s : State) (d : Nat) (f : Frame) (rest : List Frame), (s.die d).store = f :: rest → (s.die d).waiting = [] →
    let o := 0x100 + if f.world then 0x40 else 0
    let cfg := s.reg d o
    let size := 2 ^ ((s.reg d (o + 8)).toNat % 16 + 4)
    let head := (s.reg d (o + 0x10)).toNat % 2 ^ 32
    let tail := (s.reg d (o + 0x18)).toNat % 2 ^ 32
    let va := (s.reg d (o + 8)).toNat / 2 ^ 12 % 2 ^ 46 * 2 ^ 12 + 64 * (head % size)
    let go := cfg.getLsbD 63 = true ∧ f.world ∉ (s.die d).ringDead ∧ (s.reg d (o + 8)).toNat % 16 ≤ 8 ∧
      (head + 2 ^ 32 - tail) % 2 ^ 32 < size
    let core := 64 * d + cfg.toNat / 2 ^ 48 % 64
    (¬go → exec (.trapFrameWrite d) s = .next s) ∧
    (go → s.frameOk d f.world va = false → ∃ u : State, exec (.trapFrameWrite d) s = .next u ∧ (u.die d).store = f :: rest ∧
      f.world ∈ (u.die d).ringDead ∧ SameMemory s u ∧ (u.pan (d / 64)).vectors = (s.pan (d / 64)).vectors ++ [8]) ∧
    (∀ i, go → s.frameOk d f.world va = true → cfg.toNat % 2 ^ 16 ≤ 0x11FF → (s.core core).starts = [] →
      s.dormantOf core = some i → ∃ u : State, exec (.trapFrameWrite d) s = .next u ∧ (u.die d).store = rest ∧
      SameMemory (s.xwrite d f.world va (f.bytes head)).1 u ∧ (u.reg d (o + 0x10)).toNat = (head + 1) % 2 ^ 32 ∧
      let n := u.ctx (4 * core + i)
      n.st = .ready ∧ n.pc = cfg.toNat % 2 ^ 16 ∧ n.priv = true ∧ n.world = f.world ∧ n.sreg 1 = BitVec.ofNat 64 va ∧
      n.sreg 2 = BitVec.ofNat 64 f.cause))

/-! ## The outbound buffer, the torus and requests (R267, R292, R293, R353 to R362) -/

/-- R267, R353 to R355, R359, R360, R362: the source's side. The head of a class queue is stored at its own die or asked
for at another; a packet goes one hop, or comes back as LINK_DOWN; a link fails after sixteen attempts on one flit, and
those on another flit count anew; a request without a reply is sent again, and ends after eight sends; so is a reset notice. Entries of one class to different
homes waiting for each other (log 42), and routers with room for every packet (log 55), are the model's choices. -/
def Obligations.RequestSources : Prop :=  (∀ (s : State) (u : Nat) (e : SbEnt) (rest : List SbEnt) (a : Nat) (b : Byte) (tl : List (Nat × Byte)),
    (s.clu u).sb = e :: rest → e.sent = false → (∀ i ∈ e.waits, i ∉ s.pend) → e.data = (a, b) :: tl →
    let home := s.homeFrom (u / 8)
    (paDie (home a) = u / 8 → paKind a ≠ 3 → s.noRegions → (s.clu u).late = [] → ∃ t : State, exec (.storeBufferDrain u e.cls) s = .next t ∧
      Stored s t e.data ∧ (t.clu u).sb = rest.filter (fun o => o.id != e.id) ∧ e.id ∉ t.pend ∧ (∀ x, t.ctx x = s.ctx x)) ∧
    (paDie (home a) ≠ u / 8 → (∀ r ∈ (s.die (u / 8)).reqs, r.num < s.nextPkt) → ∃ t : State, exec (.storeBufferDrain u e.cls) s = .next t ∧
      SameMemory s t ∧ (∀ o ∈ (t.clu u).sb, o.id = e.id → o.sent = true) ∧
      ∃ r ∈ (t.die (u / 8)).reqs, r.dst = paDie (home a) ∧ r.body = .store (e.data.map fun q => (home q.1, q.2)) ∧ r.issuer = .sb u e.id ∧ r.secure = e.secure)) ∧
  (∀ (s : State) (d n port : Nat) (p : Pkt), s.pktAt d n = some p → n < s.nextPkt → p.dst ≠ d → s.overtakes p = false →
    (∀ c q h l v, p.body ≠ .half c q h l v) → (∀ c r o, p.body ≠ .selfd c r o) → s.routePort d p.dst = some port →
    (s.linkUp d port = true → ∃ (t : State) (q : Pkt), exec (.packetForward d n) s = .next t ∧ SameMemory s t ∧
      t.pktAt (s.neighbour d port) n = some q ∧ q.body = p.body ∧ q.src = p.src ∧ q.dst = p.dst ∧ q.via = facing port) ∧
    (∀ b, s.linkUp d port = false → p.body = .req b → ∃ t : State, exec (.packetForward d n) s = .next t ∧ SameMemory s t ∧
      t.pktAt d n = none ∧ ∃ z ∈ t.pkts, z.here = d ∧ z.dst = p.src ∧ z.seq = p.seq ∧
        z.body = .nak 0x40 (BitVec.ofNat 64 b.pa)) ∧
    (∀ c f, s.linkUp d port = false → p.body = .nak c f → ∃ t : State, exec (.packetForward d n) s = .next t ∧ SameMemory s t ∧
      t.pktAt d n = none ∧ ∃ z ∈ t.pkts, z.here = d ∧ z.dst = p.src ∧ z.body = .nakLost 0x40)) ∧
  (∀ (s : State) (d port flit : Nat), port < 6 →
    let k := spGet (flit, 0) (s.die d).tries port
    let fails := if k.1 = flit then k.2 + 1 else 1
    (s.linkUp d port = false → exec (.flitCrcFail d (port + 6 * flit)) s = .next s) ∧
    (s.linkUp d port = true → fails < 16 → ∃ t : State, exec (.flitCrcFail d (port + 6 * flit)) s = .next t ∧ t.pkts = s.pkts ∧
      spGet (flit, 0) (t.die d).tries port = (flit, fails) ∧ t.linkUp d port = true) ∧
    (s.linkUp d port = true → 16 ≤ fails → ∃ t : State, exec (.flitCrcFail d (port + 6 * flit)) s = .next t ∧ t.pkts = s.pkts ∧
      port ∈ (t.die d).down ∧ t.linkUp d port = false)) ∧
  (∀ (s : State) (d n : Nat) (r : Req), (s.die d).reqs.find? (·.num == n) = some r →
    (1 ≤ r.sends → r.sends < 8 → r.sentAt + 60000 ≤ s.now → ∃ (t : State) (p : Pkt), exec (.requestResendTimeout d n) s = .next t ∧
      t.pkts = s.pkts ++ [p] ∧ p.rty = true ∧ p.seq = r.seq ∧ p.dst = r.dst ∧ p.src = d ∧ p.body = .req r.body ∧
      (t.die d).reqs.find? (·.num == n) = some { r with sends := r.sends + 1, sentAt := s.now }) ∧
    (s.now < r.sentAt + 60000 → exec (.requestResendTimeout d n) s = .next s ∧ exec (.remoteTimeout d n) s = .next s) ∧
    (∀ u id e, 8 ≤ r.sends → r.sentAt + 60000 ≤ s.now → r.issuer = .sb u id → (s.clu u).sb.find? (·.id == id) = some e →
      (s.clu u).late = [] → (s.die (dieOf e.x)).room = true → ∃ (t : State) (f : Frame), exec (.remoteTimeout d n) s = .next t ∧ SameMemory s t ∧
      (t.die d).reqs.find? (·.num == n) = none ∧ (t.clu u).sb = (s.clu u).sb.filter (fun o => o.id != id) ∧ id ∉ t.pend ∧
      (t.die (dieOf e.x)).store = (s.die (dieOf e.x)).store ++ [f] ∧ f.cause = 0x2B ∧ f.src = 0 ∧
      f.faddr = BitVec.ofNat 64 r.body.pa)) ∧
  (∀ (s : State) (d p : Nat),
    let k : Notice := spGet {} (s.die d).notices p
    (k.acked = false → 1 ≤ k.sends → k.sends < 8 → k.sentAt + 60000 ≤ s.now → ∃ (t : State) (q : Pkt),
      exec (.resetNoticeResend d p) s = .next t ∧ t.pkts = s.pkts ++ [q] ∧ q.src = d ∧ q.dst = p ∧ q.body = .notice ∧
      (spGet {} (t.die d).notices p : Notice) = { k with sends := k.sends + 1, sentAt := s.now }) ∧
    (k.acked = true → exec (.resetNoticeResend d p) s = .next s))

/-- R336, R357, R359 to R362, R378: the target's side. The request that is next in order from its source executes once, is
answered and recorded; one that comes too early waits, or is dropped where the reorder store is full; one sent again is
answered from the record, or refused where none is left; a non-secure one is refused at secure bytes; one to a page that
has moved goes on to the new home; a reset notice empties the filter. What an old home keeps of a request that it has
forwarded is the model's choice (log 59). Cases of sequence numbers after a reset (log 56) and FADDR of a refused request
(log 57) are the model's choices. -/
def Obligations.RequestTargets : Prop :=  (∀ (s : State) (d n : Nat) (p : Pkt), s.pktAt d n = some p → p.dst = d → n < s.nextPkt → (s.die d).inReset = false →
    p.old = none → s.beforePkt d p = false →
    let secure := s.pktSecure d p
    let stays := fun (a : Nat) => paDie a = d → paDie (s.homeOf a) = d
    let takes := fun (i : Instr) (b : ReqBody) => (i = .loadRequest d n ∧ b.kind = 1) ∨ (i = .storeRequest d n ∧ b.kind = 2) ∨
      (i = .atomicRequest d n ∧ b.kind = 3)
    let answers := fun (t : State) (b : PktBody) => t.pktAt d n = none ∧
      ∃ z ∈ t.pkts, z.src = d ∧ z.dst = p.src ∧ z.seq = p.seq ∧ z.body = b
    let recorded := fun (t : State) (v : Saved) => (spGet [] (t.die d).filter p.src).find? (·.1 == p.seq) = some (p.seq, v)
    let next := p.rty = false ∧ p.seq < 2 ^ 16 ∧ (s.die d).expect.find? (·.1 == p.src) = some (p.src, p.seq)
    let ended := spGet [] (s.die d).nakked p.src
    let moves := fun (t : State) => ∃ m ≤ ended.length,
      (t.die d).expect.find? (·.1 == p.src) = some (p.src, (p.seq + 1 + m) % 2 ^ 16) ∧
      (∀ i < m, (p.seq + 1 + i) % 2 ^ 16 ∈ ended) ∧ (m < ended.length → (p.seq + 1 + m) % 2 ^ 16 ∉ ended)
    (∀ a k, next → p.body = .req (.load a k) → stays a → s.reqFail (.load a k) secure p.rec_ = none → paKind a ≠ 3 → ∃ t : State,
      exec (.loadRequest d n) s = .next t ∧ SameMemory s t ∧ answers t (.data (s.bytes a k)) ∧ recorded t .none ∧ moves t) ∧
    (∀ a b tl, next → p.body = .req (.store ((a, b) :: tl)) → stays a → s.reqFail (.store ((a, b) :: tl)) secure p.rec_ = none →
      paKind a ≠ 3 → s.noRegions → ∃ t : State, exec (.storeRequest d n) s = .next t ∧ Stored s t ((a, b) :: tl) ∧ answers t .ack ∧
      recorded t .ack ∧ moves t) ∧
    (∀ a ty op v cmp, next → p.body = .req (.atomic a ty op v cmp) → stays a → s.reqFail (.atomic a ty op v cmp) secure p.rec_ = none →
      s.noRegions →
      let old := s.mval a (aopBytes ty)
      let new := (aopApply ty op old v cmp).1
      ∃ t : State, exec (.atomicRequest d n) s = .next t ∧ answers t (.old old) ∧ recorded t (.old old) ∧ moves t ∧
        (op = 7 → old ≠ cmp → SameMemory s t) ∧ (¬(op = 7 ∧ old ≠ cmp) → Stored s t ((List.range (aopBytes ty)).map fun j =>
          (a + j, BitVec.ofNat 8 (new / 256 ^ j))))) ∧
    (∀ c f op id x sc cov, next → p.body = .req (.flag c f op id x sc cov) → ∃ (t : State) (r : FlagArr), exec (.flagOperation d n) s = .next t ∧
      SameMemory s t ∧ t.pktAt d n = none ∧ (t.core c).fport = (s.core c).fport ++ [r] ∧ r.n = f ∧ r.op = op ∧ r.id = id ∧
      r.remote = some (p.src, p.seq) ∧ moves t) ∧
    (∀ k slot op id x long sc, next → p.body = .req (.board k slot op id x long sc) → ∃ (t : State) (r : BoardArr),
      exec (.boardOperation d n) s = .next t ∧ SameMemory s t ∧ t.pktAt d n = none ∧
      (t.die d).bport = (s.die d).bport ++ [r] ∧ r.b = k ∧ r.slot = slot ∧ r.op = op ∧ r.secure = secure ∧
      r.remote = some (p.src, p.seq) ∧ moves t) ∧
    (∀ b i, next → p.body = .req b → stays b.pa → secure = false → (∃ q ∈ b.spans, s.secureAt q.1 q.2 = true) → takes i b →
      ∃ t : State, exec i s = .next t ∧ SameMemory s t ∧ answers t (.nak 0x25 (BitVec.ofNat 64 b.pa))) ∧
    (∀ b i, next → p.body = .req b → paDie b.pa = d → paDie (s.homeOf b.pa) ≠ d → takes i b → ∃ (t : State) (q : Pkt),
      exec i s = .next t ∧ SameMemory s t ∧ moves t ∧ t.pktAt d n = none ∧ q ∈ t.pkts ∧ q.here = d ∧ q.src = p.src ∧
      q.dst = paDie (s.homeOf b.pa) ∧ q.seq = p.seq ∧ q.secure = secure ∧ q.old = some d ∧ q.body = .req (b.moved s.homeOf)) ∧
    (∀ b i e, (s.die d).expect.find? (·.1 == p.src) = some (p.src, e) → p.src ∉ (s.die d).lost → p.body = .req b → takes i b →
      let ahead := (p.seq + 2 ^ 16 - e) % 2 ^ 16
      (p.rty = false → 0 < ahead → ahead < 2 ^ 15 → s.reordered d n < 256 → exec i s = .next s) ∧
      (p.rty = false → 0 < ahead → ahead < 2 ^ 15 → 256 ≤ s.reordered d n → exec i s = .next (s.dropPkt n)) ∧
      (p.rty = true → 2 ^ 15 ≤ ahead → s.atPort d p.src p.seq = false →
        (spGet [] (s.die d).filter p.src).find? (·.1 == p.seq) = none → ∃ t : State, exec i s = .next t ∧ SameMemory s t ∧
        answers t (.nak 0x45 (BitVec.ofNat 64 b.pa)))) ∧
    (∀ l, p.rty = true → p.body = .req (.store l) → (spGet [] (s.die d).filter p.src).find? (·.1 == p.seq) = some (p.seq, .ack) →
      ∃ t : State, exec (.storeRequest d n) s = .next t ∧ SameMemory s t ∧ answers t .ack) ∧
    (∀ b i, p.rty = true → p.src ∈ (s.die d).lost → p.body = .req b → takes i b → s.atPort d p.src p.seq = false →
      (spGet [] (s.die d).filter p.src).find? (·.1 == p.seq) = none → ∃ t : State, exec i s = .next t ∧ SameMemory s t ∧
      answers t (.nak 0x2A (BitVec.ofNat 64 b.pa)) ∧
      ((s.die d).expect.find? (·.1 == p.src) = some (p.src, p.seq) → p.seq < 2 ^ 16 → moves t)) ∧
    (p.body = .notice → ∃ t : State, exec (.resetNotice d n) s = .next t ∧ SameMemory s t ∧
      t.pktAt d n = none ∧ (∃ z ∈ t.pkts, z.src = d ∧ z.dst = p.src ∧ z.body = .greet) ∧
      (t.die d).expect.find? (·.1 == p.src) = some (p.src, 0) ∧ spGet [] (t.die d).filter p.src = [] ∧
      spGet [] (t.die d).nakked p.src = [] ∧ p.src ∉ (t.die d).lost)) ∧
  (∀ (s : State) (d n : Nat) (p : Pkt) (r : Req), s.pktAt d n = some p → p.dst = d → s.overtakes p = false →
    s.reqOf d p = some r →
    (∀ x o i q l, p.body = .data l → s.superseded d p = false → r.issuer = .long x o i → s.longLoad x o = some q →
      i < q.parts.length → ∃ t : State, exec (.readReply d n) s = .next t ∧ SameMemory s t ∧
      ((t.longLoad x o).bind fun q => q.parts[i]?.bind (·.got)) = some l ∧ SameRegisters s t x) ∧
    (∀ u id, p.body = .ack → r.issuer = .sb u id → (s.clu u).late = [] → ∃ t : State, exec (.acknowledgement d n) s = .next t ∧
      SameMemory s t ∧ (t.clu u).sb = (s.clu u).sb.filter (fun o => o.id != id) ∧ id ∉ t.pend ∧ ∀ x, t.ctx x = s.ctx x) ∧
    (∀ u id e c f, p.body = .nak c f → r.issuer = .sb u id → (s.clu u).sb.find? (·.id == id) = some e → (s.clu u).late = [] →
      (s.die (dieOf e.x)).room = true → ∃ (t : State) (k : Frame), exec (.nak d n) s = .next t ∧ SameMemory s t ∧
      (t.clu u).sb = (s.clu u).sb.filter (fun o => o.id != id) ∧
      (t.die (dieOf e.x)).store = (s.die (dieOf e.x)).store ++ [k] ∧ k.cause = c ∧ k.src = 0 ∧ k.faddr = f ∧
      k.fl % 2 = 0 ∧ ∀ x, t.ctx x = s.ctx x)) ∧
  (∀ (s : State) (d n : Nat) (p : Pkt), s.pktAt d n = some p → p.dst = d → s.overtakes p = false →
    p.body = .greet → ∃ t : State,
    exec (.acknowledgement d n) s = .next t ∧ (t.die d).greeted p.src = true ∧ SameMemory s t)

/-! ## Control registers and streams (R4, R285, R302 to R304, R310, R319, R320, R328, R336 to R345, R377, R378) -/

/-- R4, R285, R310, R330, R336, R339, R341, R342, R345, R377, R378: what a write of a control register does that its
register takes, and that one which it does not take changes nothing. Of the writes of a region's register in one cycle
that of the highest DID stands. The present-die mask is taken from stage 2 of the conductor's firmware alone. A field that
takes any value that fits its bits, and writers that no rule names (log 48), and the migration registers' states (log 49),
are the model's choices. -/
def Obligations.ControlRegisters : Prop :=  ∀ (s : State) (d : Nat) (w : Access), d < 2048 →
    let v := w.data
    let quiet := fun (u : State) => SameMemory s u ∧ ∀ x, u.ctx x = s.ctx x
    (∀ i, i < 4 → ∃ u : State, exec (.registerWrite (ctlPa d (0x5000308 + 8 * i)) w) s = .next u ∧ quiet u ∧
      u.reg d (0x5000308 + 8 * i) = v ∧ ∀ o, o ≠ 0x5000308 + 8 * i → u.reg d o = s.reg d o) ∧
    (∃ u : State, exec (.registerWrite (ctlPa d 0x7000000) w) s = .next u ∧ quiet u ∧
      u.reg d 0x7000000 = v &&& BitVec.ofNat 64 (2 ^ 57 - 2 ^ 36)) ∧
    exec (.registerWrite (ctlPa d 0x8) w) s = .next s ∧
    (∀ i, i < 64 → (s.reg d 0x5000FF8).getLsbD 0 = true → w.secure = true →
      exec (.registerWrite (ctlPa d (0x5001000 + 16 * i)) w) s = .next s) ∧
    (v.getLsbD 0 = true → w.secure = true → w.who = .context true → ∃ u : State, exec (.wrlockWrite d w) s = .next u ∧ quiet u ∧
      u.reg d 0x5000FF8 = 1) ∧
    (v.getLsbD 63 = true → w.who = .host false ∨ w.who = .board → ∃ u : State, exec (.bootctlGo d w) s = .next u ∧ quiet u ∧
      u.reg d 0x5000000 = BitVec.ofNat 64 (2 ^ 63)) ∧
    (w.who = .firmware (s.conductor (d / 64)) 2 → (s.die d).presSet = false → (s.pan (d / 64)).pourOn = false → ∃ u : State,
      exec (.dpressetWrite d w) s = .next u ∧ quiet u ∧ u.reg d 0x8 = v ∧ (u.die d).presSet = true) ∧
    ((s.die d).presSet = true ∨ (s.pan (d / 64)).pourOn = true ∨ w.who ≠ .firmware (s.conductor (d / 64)) 2 → exec (.dpressetWrite d w) s = .next s) ∧
    ((s.reg d 0x5000200).getLsbD 63 = true → exec (.domcfgWrite d w) s = .next s) ∧
    ((s.reg d 0x5000200).getLsbD 63 = false → v.toNat / 2 ^ 18 % 4 ≤ v.toNat / 2 ^ 25 % 4 →
      v.toNat / 2 ^ 20 % 2 ≤ v.toNat / 2 ^ 27 % 2 → v.toNat / 2 ^ 21 % 4 ≤ v.toNat / 2 ^ 28 % 4 → ∃ u : State,
      exec (.domcfgWrite d w) s = .next u ∧ quiet u ∧
      u.reg d 0x5000200 = v &&& BitVec.ofNat 64 (2 ^ 63 + (2 ^ 30 - 2 ^ 25) + (2 ^ 23 - 2 ^ 18) + (2 ^ 6 - 1))) ∧
    (∀ j, j < 4 → w.secure = true → w.who.isHost = true →
      let word := fun (i : Nat) => leBytes 8 (if i = 3 then v else spGet 0 (s.die d).msext (4 * j + i)).toNat
      let slot := fun (i : Nat) => 0x5000800 + 32 * (4 + j) + 8 * i
      let old := (List.range 4).flatMap fun i => leBytes 8 (s.reg d (slot i)).toNat
      ∃ u : State, exec (.msextExtend d j w) s = .next u ∧ quiet u ∧
        ∀ i, i < 4 → u.reg d (slot i) = wordOf (Config.sm3 (old ++ (List.range 4).flatMap word)) i) ∧
    (v.getLsbD 63 = true → (s.reg d 0x5000300).getLsbD 0 = false → ∃ u : State, exec (.attctlGo d w) s = .next u ∧ quiet u ∧
      (u.reg d 0x5000300).getLsbD 0 = true ∧
      (u.die d).nonce = (List.range 4).flatMap fun i => leBytes 8 (s.reg d (0x5000308 + 8 * i)).toNat) ∧
    (v.getLsbD 63 = true → (s.reg d 0x5000300).getLsbD 0 = true → ∃ u : State, exec (.attctlGo d w) s = .next u ∧ quiet u ∧
      (u.reg d 0x5000300).getLsbD 0 = true ∧ (u.reg d 0x5000300).getLsbD 2 = true ∧ (u.die d).nonce = (s.die d).nonce) ∧
    (let sec := v.getLsbD 62
     v.getLsbD 63 = true → (sec = true → w.secure = true) → (s.die d).room = true → ∃ (u : State) (f : Frame), exec (.hpostWrite d w) s = .next u ∧
      quiet u ∧ (u.die d).store = (s.die d).store ++ [f] ∧ f.cause = 0x55 ∧ f.src = 5 ∧ f.world = sec ∧
      f.faddr = BitVec.ofNat 64 (v.toNat % 2 ^ 48)) ∧
    (∀ k, k < 2 → w.secure = true → w.who = .context true →
      let o := 0x100 + 0x40 * k
      ∃ u : State, exec (.trringWrite d k w) s = .next u ∧ quiet u ∧
        u.reg d (o + 8) = v &&& BitVec.ofNat 64 ((2 ^ 58 - 2 ^ 12) + 15) ∧ u.reg d (o + 0x10) = 0 ∧ u.reg d (o + 0x18) = 0 ∧
        (k == 1) ∉ (u.die d).ringDead) ∧
    (∀ b, b < 64 → w.secure = true → w.who = .context true → ∃ u : State, exec (.nbcfgWrite d b w) s = .next u ∧ quiet u ∧
      u.reg d (0x1000000 + 8 * b) = v &&& BitVec.ofNat 64 (2 ^ 63 + 2 ^ 62 + (2 ^ 9 - 1)) ∧
      (spGet {} (u.die d).boards b : Board) = {} ∧
      ∀ j, j ≠ b → (spGet {} (u.die d).boards j : Board) = spGet {} (s.die d).boards j) ∧
    (w.who.isHost = true ∨ w.who = .context true →
      let h := regionHome (d / 64) (regionOf d)
      let last := spGet (0, 0) (s.regionAt d).by_ 0
      let n := v.toNat % 256
      (last.1 = s.now → d % 64 < last.2 → exec (.registerWrite (ctlPa d 0x4000000) w) s = .next s) ∧
      (¬(last.1 = s.now ∧ d % 64 < last.2) → ∃ u : State, exec (.registerWrite (ctlPa d 0x4000000) w) s = .next u ∧ quiet u ∧
        u.reg h 0x4000000 = BitVec.ofNat 64 (if n = 0 then 1 else min n 150))) ∧
    (w.who.isHost = true →
      (s.migState d = 0 ∨ s.migState d = 3 → ∃ u : State, exec (.migctlGo d w) s = .next u ∧ (∀ x, u.ctx x = s.ctx x) ∧
        u.mem = s.mem ∧ u.migState d = 1 ∧ (u.die d).migNext = 0 ∧ (u.die d).migDirty = []) ∧
      (s.migState d = 1 → (s.die d).room = true → ∃ (u : State) (f : Frame), exec (.migctlAbort d w) s = .next u ∧ (∀ x, u.ctx x = s.ctx x) ∧
        u.mem = s.mem ∧ u.migState d = 3 ∧ (u.die d).store = (s.die d).store ++ [f] ∧ f.cause = 0x2C ∧ f.src = 5) ∧
      (s.migState d = 2 → (∃ u : State, exec (.migctlFin d w) s = .next u ∧ u.migState d = 0 ∧ u.mem = s.mem ∧
        ∀ x, u.ctx x = s.ctx x) ∧ exec (.migctlGo d w) s = .next s ∧ exec (.migctlAbort d w) s = .next s))

/-- R302 to R304, R319, R320, R328, R329: the doorbells of a stream and the states they lead to; a refused command changes
nothing but CAUSE. What ABORT waits for or drops is the model's choice (log 73). -/
def Obligations.StreamStates : Prop :=  ∀ (s : State) (p k : Nat) (w : Access), k < 4 → w.secure = true → w.who.isHost = true →
    let st := s.strState p k
    let t := s.strm p k
    let moves := fun (i : Instr) (n : Nat) (also : State → Prop) => ∃ u : State, exec i s = .next u ∧ u.strState p k = n ∧ u.mem = s.mem ∧ also u
    let invalid := fun (i : Instr) => moves i st fun u => (u.str p k 0x18).toNat / 2 ^ 56 = 0x5E ∧
      (u.str p k 0x18).toNat % 2 ^ 56 = (s.str p k 0x18).toNat % 2 ^ 56
    (if st = 0 ∨ st = 6 then moves (.strdbStart p k w) 1 fun u => u.str p k 0x20 = 0 ∧ u.str p k 0x28 = 0 ∧
        u.str p k 0x08 = s.str p k 0x08 else invalid (.strdbStart p k w)) ∧
    (if st = 1 then moves (.strdbGraceful p k w) 2 fun u => (u.strm p k).graceAt = s.now else invalid (.strdbGraceful p k w)) ∧
    (if st = 1 ∨ st = 2 ∨ st = 5 then moves (.strdbHard p k w) 3 fun u => (u.strm p k).hard = true ∧
        (u.strm p k).esc = (decide (st = 2) || (t.stuck && t.grace)) ∧ (u.strm p k).savedAt = s.now ∧ ∀ x ∈ s.strCtxs p k, (u.ctx x).held = true else invalid (.strdbHard p k w)) ∧
    (st = 5 → moves (.strdbResume p k w) 1 fun u => ∀ x ∈ s.strCtxs p k, (u.ctx x).held = false) ∧
    (st = 4 → s.restoreCheck p k = none → moves (.strdbResume p k w) 7 fun u =>
      ∀ d ∈ s.panelDies p, ∀ c ∈ s.savedCores p k d, (u.core c).awaits = true) ∧
    (∀ c, c < 256 → st = 4 → s.restoreCheck p k = some c → moves (.strdbResume p k w) 4 fun u =>
      (u.str p k 0x18).toNat / 2 ^ 56 = c) ∧
    (st ≠ 4 → st ≠ 5 → invalid (.strdbResume p k w)) ∧
    ((st = 5 ∧ t.flight = []) ∨ st = 4 ∨ st = 6 → moves (.strdbAbort p k w) 0 fun u => u.strm p k = {}) ∧
    (st = 5 → t.flight ≠ [] → moves (.strdbAbort p k w) 5 fun u => (u.strm p k).aborting = true) ∧
    (st ≠ 4 → st ≠ 5 → st ≠ 6 → invalid (.strdbAbort p k w)) ∧
    (st = 2 → t.flight = [] → s.strCtxs p k = [] → moves (.drainComplete p k) 3 fun u => (u.strm p k).savedAt = s.now) ∧
    (st = 2 → t.graceAt + 600000 ≤ s.now → moves (.gracefulEscalate p k) 3 fun u => (u.strm p k).esc = true ∧
      (u.strm p k).hard = true) ∧
    (s.now < t.graceAt + 600000 → exec (.gracefulEscalate p k) s = .next s)

/-! ## Power, boot, the host and migration (R76, R115, R315, R330 to R342, R344 to R348, R361, R378) -/

/-- R331, R333, R334: quiet cores, admission at a step boundary, the throttles of a region, with CRIT at 110 degrees, the
step limit, and the frame of a region's event. A core that becomes ready in the cycle of a boundary is admitted there, as
far as the number of that boundary allows: the model's reading of R349 (log 68). Boundaries at multiples of 600 cycles and
sensor readings as operands are the model's choices (log 50). -/
def Obligations.PowerRegions : Prop :=  (∀ (s : State) (c : Nat),
    ((s.core c).active = true → (s.core c).lastWork + 3000 ≤ s.now → ∃ u : State, exec (.coreQuiet c) s = .next u ∧
      (u.core c).active = false ∧ SameMemory s u ∧ ∀ x, u.ctx x = s.ctx x) ∧
    (s.now < (s.core c).lastWork + 3000 → exec (.coreQuiet c) s = .next s)) ∧
  (∀ (s : State) (p r : Nat), r < 16 →
    let h := regionHome p r
    let lim := (s.reg h 0x4000000).toNat
    let b := s.now / 600 * 600
    let g := s.region p r
    (b ≤ g.boundary → s.now ≠ b → exec (.admissionStep p r) s = .next s) ∧
    (b ≤ g.boundary → s.now = b → let l := (s.waiters p r).take (10 * g.lim / 6 - g.admitted)
      ∃ u : State, exec (.admissionStep p r) s = .next u ∧ (u.region p r).admitted = g.admitted + l.length ∧
      (u.region p r).lim = g.lim ∧ (∀ c ∈ l, (u.core c).active = true) ∧ (∀ c, c ∉ l → u.core c = s.core c) ∧ SameMemory s u ∧
      ∀ x, u.ctx x = s.ctx x) ∧
    (g.boundary < b → ∃ u : State, exec (.admissionStep p r) s = .next u ∧ (u.region p r).boundary = b ∧ (u.region p r).lim = lim ∧
      (u.region p r).hold = (s.reg h 0x4000008).toNat % 2 ^ 16 ∧ (u.region p r).told = [] ∧
      (∀ c ∈ (s.waiters p r).take (10 * lim / 6), (u.core c).active = true ∧ (u.core c).wants = false) ∧
      (∀ c, c ∉ (s.waiters p r).take (10 * lim / 6) → u.core c = s.core c) ∧ SameMemory s u ∧ ∀ x, u.ctx x = s.ctx x) ∧
    (∀ mv, ∃ u : State, exec (.droopTrip p r mv) s = .next u ∧ (u.region p r).dthr = some (s.now + 300 * g.hold) ∧
      (u.pan p).vectors = (s.pan p).vectors ++ [11] ∧ SameMemory s u) ∧
    (∀ t, g.dthr = some t → t ≤ s.now → ∃ u : State, exec (.droopHoldExpire p r) s = .next u ∧ (u.region p r).dthr = none ∧
      (u.region p r).tthr = g.tthr ∧ SameMemory s u) ∧
    (∀ temp, ∃ u : State, exec (.thermalThreshold p r temp) s = .next u ∧ SameMemory s u ∧ (u.region p r).temp = temp ∧
      (g.thi ≤ temp → (u.region p r).tthr = true ∧ (g.tthr = false → (u.pan p).vectors ≠ (s.pan p).vectors)) ∧
      (temp < g.thi → temp ≤ g.tlo → (u.region p r).tthr = false ∧ (temp < 110 → (u.region p r).crit = false)) ∧
      (temp < g.thi → g.tlo < temp → (u.region p r).tthr = g.tthr) ∧ (110 ≤ temp → (u.region p r).crit = true) ∧
      ((g.thi ≤ temp ∨ g.tlo < temp) → temp < 110 → (u.region p r).crit = g.crit)) ∧
    (∀ mv, (s.reg h 0x4000020).getLsbD 0 = true → 0x51 ∉ g.told → (s.die h).room = true → ∃ (u : State) (f : Frame),
      exec (.droopTrip p r mv) s = .next u ∧ (u.die h).store = (s.die h).store ++ [f] ∧ f.cause = 0x51 ∧ f.src = 5 ∧
      f.faddr = BitVec.ofNat 64 r ∧ f.world = (s.reg h 0x4000020).getLsbD 1 ∧ 0x51 ∈ (u.region p r).told) ∧
    (∀ rise, (10 * g.lim + 100 < rise → ∃ u : State, exec (.powerStepLimit p r rise) s = .next u ∧ SameMemory s u ∧
        (u.pan p).vectors = (s.pan p).vectors ++ [11]) ∧
      (rise ≤ 10 * g.lim + 100 → exec (.powerStepLimit p r rise) s = .next s)))

/-- R76, R122, R228, R337 to R342, R357, R361: a die reset, the boot ROM, the end of boot, and attestation. A tagged copy
command that the reset stops writes a STAT with CAUSE 0, and the rest of memory but the flag words keeps its bytes. That
those commands do nothing but write STAT and advance their timeline, and the order in which the ROM of a die does its work as
one step, are the model's choices (logs 52, 53 and 80). -/
def Obligations.BootAndReset : Prop :=  (∀ (s : State) (d : Nat), ∃ u : State, exec (.dieReset d) s = .next u ∧ u.clk d = 0 ∧ (u.die d).inReset = true ∧
    (s.orphans d = [] → (∀ a, flagByte d a = false → u.raw a = s.raw a) ∧ ∀ c n, c / 64 = d → n < 64 → u.flagWord c n = 0) ∧
    (∀ o, s.orphans d = [o] → s.noRegions → (∀ a, s.homeOf a = a) → (∀ i < 8, flagByte d (o.pa + 56 + i) = false) →
      u.bytes (o.pa + 56) 8 = leBytes 8 o.evt ∧ ∀ a, flagByte d a = false → (∀ i < 8, a ≠ o.pa + 56 + i) → u.raw a = s.raw a) ∧
    (u.die d).linksUp = (s.die d).linksUp ∧ (u.die d).cfg = (s.die d).cfg ∧ (u.die d).down = [] ∧
    (∀ x, dieOf x = d → (u.ctx x).st = .dormant ∧ (u.ctx x).snaps = [] ∧ (u.ctx x).longs = [] ∧ ∀ r, (u.ctx x).sreg r = 0) ∧
    (∀ x, dieOf x ≠ d → u.ctx x = s.ctx x) ∧ (∀ c, c / 64 = d → u.core c = {}) ∧
    (∀ o, o < 2 ^ 32 → u.reg d o = regReset o) ∧ (u.die d).store = [] ∧ (u.die d).tlb = [] ∧ (u.die d).groups = []) ∧
  (∀ (s : State) (d : Nat),
    let p := d / 64
    let go := (s.reg (64 * p) 0x5000000).getLsbD 63 = true ∧ s.reg d 0x5000008 = 0
    let next := s.bootNum p 16 8
    (¬go → exec (.bootRomRun d) s = .next s) ∧
    (∀ c, go → s.imageCheck p 0 1 = c → c ≠ 0 → ∃ u : State, exec (.bootRomRun d) s = .next u ∧ SameMemory s u ∧
      u.reg d 0x5000008 = BitVec.ofNat 64 (2 ^ 62 + 0x54 * 2 ^ 48 + 2 ^ 8 + c) ∧
      (u.pan p).vectors = (s.pan p).vectors ++ [9]) ∧
    (∀ c, go → s.imageCheck p 0 1 = 0 → s.imageCheck p next 2 = c → c ≠ 0 → ∃ u : State, exec (.bootRomRun d) s = .next u ∧
      SameMemory s u ∧ u.reg d 0x5000008 = BitVec.ofNat 64 (2 ^ 62 + 0x54 * 2 ^ 48 + 2 * 2 ^ 8 + c)) ∧
    (go → s.imageCheck p 0 1 = 0 → s.imageCheck p next 2 = 0 → ∃ u : State, exec (.bootRomRun d) s = .next u ∧ SameMemory s u ∧
      u.reg d 0x5000008 = BitVec.ofNat 64 (2 * 2 ^ 8) ∧ (u.die d).linksUp = true ∧ (u.die d).inReset = false ∧
      (u.die d).ver1 = s.bootNum p 8 4 ∧ (u.die d).ver2 = s.bootNum p (next + 8) 4)) ∧
  (∀ (s : State) (p : Nat),
    let c := s.conductor p
    let go := (s.domcfg c).getLsbD 63 = true ∧ c % 64 ∈ s.booted p ∧ 0 ∈ s.booted p ∧ (s.pan p).pourOn = false
    (¬go → exec (.bootCompletion p) s = .next s) ∧
    (go → ∃ u : State, exec (.bootCompletion p) s = .next u ∧ (u.pan p).pourOn = true ∧ SameMemory s u ∧
      ∀ i ∈ s.booted p, (s.die (64 * p + i)).presSet = false → (u.die (64 * p + i)).presSet = true ∧
        ∀ j, j < 64 → ((u.reg (64 * p + i) 0x8).getLsbD j = true ↔ j ∈ s.booted p))) ∧
  (∀ (s : State) (d : Nat),
    let ctl := s.reg d 0x5000300
    (ctl.getLsbD 0 = false → exec (.attestReportDone d) s = .next s) ∧
    (ctl.getLsbD 0 = true → ∃ u : State, exec (.attestReportDone d) s = .next u ∧ SameMemory s u ∧
      (u.reg d 0x5000300).getLsbD 0 = false ∧ (u.reg d 0x5000300).getLsbD 1 = true ∧
      (u.pan (d / 64)).vectors = (s.pan (d / 64)).vectors ++ [12] ∧ ∀ i, i < 49 → u.reg d (0x5000340 + 8 * i) =
        BitVec.ofNat 64 (leVal (((s.reportBody d).drop (8 * i)).take 8)))) ∧
  (∀ (s : State) (d n : Nat) (p : Pkt) (l : List Word), s.pktAt d n = some p → p.dst = d → p.body = .mgmt l →
    s.beforePkt d p = false → (s.die d).inReset = false → (s.reg d 0x5000300).getLsbD 0 = false → ∃ u : State, exec (.management d n) s = .next u ∧
    SameMemory s u ∧ u.pktAt d n = none ∧ (u.reg d 0x5000300).getLsbD 0 = true ∧
    (u.die d).nonce = (List.range 4).flatMap fun i => leBytes 8 (l.getD i 0).toNat)

/-- R315, R336, R344 to R348, R377, R378: accesses of the host and of the board controller, soft errors, and the copy and
the switch of a migrating page. The host's world is FPWORLD.HOST alone (log 54). Accesses of the host and of a migration
engine act as one step, on memory that their die can reach (log 81), lines are copied in ascending order and then the dirty
ones (log 59), and a soft error at an address from 2^57 on is one in the buffer of a packet, which is dropped and reported
with address 0 (log 17): these are the model's choices. -/
def Obligations.HostAndMigration : Prop :=  (∀ (s : State) (d pa : Nat) (q : HostReq), d % 64 ∈ [0, 7, 56, 63] → s.hostPa d q = some pa → 0 < q.size →
    s.allPopulated d pa q.size = true → paKind pa ≠ 3 → s.unreached d pa = none →
    (q.hdm = true ∨ ∀ b ∈ (s.pan (d / 64)).bells, b.1 ≠ d) →
    let secure := s.worldAt d ((s.reg d 0x5000100).getLsbD 6) pa
    let allowed := secure = true ∨ s.secureAt pa q.size = false
    (allowed → q.wdata = none → ∃ u : State, exec (.hostAccess d q) s = .next u ∧ SameMemory s u ∧
      (u.die d).hostRead = s.bytes pa q.size ∧ ∀ x, u.ctx x = s.ctx x) ∧
    (∀ l, allowed → q.wdata = some l → l.length = q.size → s.seededPa pa q.size = false → s.noRegions → ∃ u : State,
      exec (.hostAccess d q) s = .next u ∧ Stored s u (l.zipIdx.map fun e => (pa + e.2, e.1)) ∧ ∀ x, u.ctx x = s.ctx x) ∧
    (¬allowed → ∃ u : State, exec (.hostAccess d q) s = .next u ∧ SameMemory s u ∧ (u.reg d 0x7000010).getLsbD 0 = true ∧
      (q.wdata = none → (u.die d).hostRead = List.replicate q.size 0xFF))) ∧
  (∀ (s : State) (d : Nat) (q : HostReq), d % 64 ∈ [0, 7, 56, 63] → q.hdm = false →
    (s.ringsPour d q = true ∨ ∃ b ∈ (s.pan (d / 64)).bells, b.1 = d) → ∃ u : State, exec (.hostAccess d q) s = .next u ∧
    (u.pan (d / 64)).bells = (s.pan (d / 64)).bells ++ [(d, q)] ∧ u.mem = s.mem ∧ (∀ e, u.die e = s.die e) ∧ ∀ x, u.ctx x = s.ctx x) ∧
  (∀ (s : State) (t : Nat) (q : MgmtReq), t < 2048 →
    let d := s.conductor (t / 64)
    (q.addr = ctlPa t 0x5000008 → q.wdata = none → ∃ u : State, exec (.i3cManagementMessage d q) s = .next u ∧ SameMemory s u ∧
      (u.pan (t / 64)).boardRead = s.reg t 0x5000008 ∧ ∀ x, u.ctx x = s.ctx x) ∧
    (∀ i v, i < 4 → q.addr = ctlPa t (0x5000308 + 8 * i) → q.wdata = some v → ∃ u : State,
      exec (.i3cManagementMessage d q) s = .next u ∧ SameMemory s u ∧ u.reg t (0x5000308 + 8 * i) = v) ∧
    (∀ v, q.addr = ctlPa t 0x8 → q.wdata = some v → exec (.i3cManagementMessage d q) s = .next s)) ∧
  (∀ (s : State) (d a : Nat), ∃ u : State, exec (.uncorrectableSoftError d a) s = .next u ∧ SameMemory s u ∧
    (u.pan (d / 64)).vectors = (s.pan (d / 64)).vectors ++ [8] ∧
    (a < 2 ^ 57 → a ∈ u.bad ∧ (u.pan (d / 64)).checks = (s.pan (d / 64)).checks ++ [(d, BitVec.ofNat 64 a)]) ∧
    (2 ^ 57 ≤ a → u.bad = s.bad ∧ u.pktAt d (a - 2 ^ 57) = none ∧
      (u.pan (d / 64)).checks = (s.pan (d / 64)).checks ++ [(d, 0)])) ∧
  (∀ (s : State) (d : Nat), s.migState d = 1 →
    let src := (s.reg d 0x2000108).toNat / 2 ^ 14 % 2 ^ 43 * 2 ^ 14
    let dst := (s.reg d 0x2000110).toNat / 2 ^ 14 % 2 ^ 43 * 2 ^ 14
    (∀ i, s.migPick d = some i → s.migFault d (src + 64 * i) (dst + 64 * i) = false → s.noRegions → ∃ u : State,
      exec (.migrationLineCopy d) s = .next u ∧ u.migState d = 1 ∧ Stored s u ((List.range 64).map fun j =>
        (dst + 64 * i + j, s.byte (src + 64 * i + j))) ∧
      ((s.die d).migNext = i → (u.die d).migNext = i + 1)) ∧
    (∀ i, s.migPick d = some i → s.migFault d (src + 64 * i) (dst + 64 * i) = true → (s.die d).room = true → ∃ (u : State) (f : Frame),
      exec (.migrationLineCopy d) s = .next u ∧ u.migState d = 3 ∧ (u.die d).store = (s.die d).store ++ [f] ∧
      f.cause = 0x2C ∧ f.src = 5 ∧ u.mem = s.mem) ∧
    (s.migPick d = none → ∃ u : State, exec (.migrationSwitch d) s = .next u ∧ u.migState d = 2 ∧ u.mem = s.mem) ∧
    (s.migPick d ≠ none → exec (.migrationSwitch d) s = .next s))

/-! ## Tile words, sequencers and tile units (R66, R67, R211, R236 to R262, R302 to R309, R332) -/

/-- R67, R236, R242, R245, R309, R332: the Pour checks a word and traps its stream at the first check that fails; a word
that passes goes to every die that the mask selects, with the stagger that is pending, or is over where it selects none;
a level-4 `tsync` or `twait` stays with the Pour until it waits no more. R244, R308: the words that act in the Pour: the
address of the next word, the loop counters, the end of fetch, the die-mask registers, the stagger, and the signal to
the host. A level-4 `twait` with ORD reads only once every earlier word of the stream is over (R254); a stagger holds a
word from its arrival at the die on. A word given to `exec` being the next one of the latched stream (log 60), when a
level-4 barrier counts as dispatched (log 65) and what the selection reads (log 66) are the model's choices. -/
def Obligations.TileWords : Prop :=
  (∀ (s : State) (w : TileWord),
    let p := s.iss.pan
    let k := s.iss.strm
    let va := s.strPc p k
    let t := s.strm p k
    let quiet := fun (u : State) => u.mem = s.mem ∧ (∀ x, u.ctx x = s.ctx x) ∧ (∀ c, u.core c = s.core c) ∧ ∀ c, u.clu c = s.clu c
    let moves := fun (u : State) => u.strPc p k = (va + 32) % 2 ^ 58 ∧ (u.strm p k).fetched = none
    let sent := [Instr.tmm w, .tew w, .teu w, .tcvt w, .tcopy w, .tred w, .ttopk w, .tcall w, .tsync w, .tfence w, .twait w,
      .tcoll w]
    let kept := [Instr.tjmp w, .tloop w, .tend w, .tdmset w, .tstag w, .tsig w]
    let dies := s.selection p k w
    k < 4 →
    (∀ i ∈ sent ++ kept, tileDecodes w i = true → ∀ c, tileCheck true w = some c → ∃ u : State, exec i s = .next u ∧ quiet u ∧
      u.strState p k = 5 ∧ (u.str p k 0x18).toNat / 2 ^ 56 = c ∧ u.strPc p k = va ∧ (u.strm p k).flight = t.flight) ∧
    (∀ i ∈ sent, tileDecodes w i = true → tileCheck true w = none → pourKeeps w = false →
      (∀ e ∈ dies, s.seqRoom (.die (64 * p + e)) = true) → (∀ c, (s.core c).sends = []) → ∃ u : State, exec i s = .next u ∧ quiet u ∧ moves u ∧
      (∀ d, ¬(d / 64 = p ∧ d % 64 ∈ dies) → u.die d = s.die d) ∧
      (dies = [] → (u.strm p k).flight = t.flight ∧ (u.strm p k).stagger = t.stagger) ∧
      (dies ≠ [] → (u.strm p k).stagger = 0 ∧ ∃ (h : HWord), (u.strm p k).flight = t.flight ++ [h] ∧ h.w = w ∧ h.va = va ∧
        h.top = w.level.toNat ∧ h.live.map (·.unit) = dies ∧
        ∀ j e, dies[j]? = some e → ∃ (c : HWord), (u.die (64 * p + e)).seq = (s.die (64 * p + e)).seq ++ [c] ∧ c.w = w ∧ c.va = va ∧
          c.level = 3 ∧ c.parent = some (h.num, j) ∧ c.hold = regionOf (64 * p + e) * t.stagger * 600 ∧ c.came = none)) ∧
    (tileDecodes w (.tsync w) = true → tileCheck true w = none → w.level = 4 →
      (t.flight = [] → ∃ u : State, exec (.tsync w) s = .next u ∧ quiet u ∧ moves u ∧ (u.strm p k).flight = [] ∧
        ∀ d, u.die d = s.die d) ∧
      (t.flight ≠ [] → exec (.tsync w) s = .next s)) ∧
    (tileDecodes w (.twait w) = true → tileCheck true w = none → w.level = 4 → w.da ≠ 0 →
      let a := w.da.toNat
      let d := s.conductor p
      let l := [(a, 8)]
      let v := leVal (s.pageBytes (s.unitPages d (s.strWorld p k) l) a 8)
      let met := (w.ord = false ∨ t.flight = []) ∧ ((w.func = 0 ∧ w.param.toNat ≤ v) ∨ (w.func = 1 ∧ v = w.param.toNat) ∨
        (w.func = 2 ∧ v / 2 ^ 32 ≤ v % 2 ^ 32))
      a % 8 = 0 → s.unitFail d (s.strWorld p k) l false = none →
      ((met ∨ t.met = true) → ∃ u : State, exec (.twait w) s = .next u ∧ quiet u ∧ moves u ∧ (u.strm p k).flight = t.flight ∧
        ∀ d, u.die d = s.die d) ∧
      (¬met → t.met = false → exec (.twait w) s = .next s))) ∧
  (∀ (s : State) (w : TileWord),
    let p := s.iss.pan
    let k := s.iss.strm
    let next := (s.strPc p k + 32) % 2 ^ 58
    let t := s.strm p k
    let plain := ∀ h ∈ t.flight, h.op ≠ 0x15
    let goes := fun (i : Instr) (pc : Nat) (also : State → Prop) => tileDecodes w i = true → ∃ u : State, exec i s = .next u ∧
      u.mem = s.mem ∧ (∀ x, u.ctx x = s.ctx x) ∧ (∀ c, u.core c = s.core c) ∧ (∀ c, u.clu c = s.clu c) ∧
      (∀ d, u.die d = s.die d) ∧ u.strPc p k = pc ∧ (u.strm p k).fetched = none ∧ also u
    let lc := fun (u : State) (j : Nat) => (u.str p k (0x20 + 8 * (j / 2))).toNat / 2 ^ (32 * (j % 2)) % 2 ^ 32
    let c := w.func.toNat % 4
    let n := (if lc s c = 0 then max w.param.toNat 1 else lc s c) - 1
    let r := w.func.toNat % 8
    let half := w.func.toNat / 8 % 2
    k < 4 → tileCheck true w = none →
    goes (.tjmp w) w.da.toNat (fun u => (u.strm p k).flight = t.flight) ∧
    goes (.tloop w) (if n = 0 then next else w.da.toNat) (fun u => lc u c = n ∧ ∀ j < 4, j ≠ c → lc u j = lc s j) ∧
    (plain → goes (.tend w) next fun u => (u.strm p k).flight = t.flight ∧
      (s.strState p k = 1 → (u.strm p k).ended = true ∧ u.strState p k = if t.flight = [] then 6 else 1)) ∧
    goes (.tdmset w) next (fun u => (u.strDm p k r).toNat / 2 ^ (32 * half) % 2 ^ 32 = w.param.toNat ∧
      (u.strDm p k r).toNat / 2 ^ (32 * (1 - half)) % 2 ^ 32 = (s.strDm p k r).toNat / 2 ^ (32 * (1 - half)) % 2 ^ 32 ∧
      ∀ j < 8, j ≠ r → u.strDm p k j = s.strDm p k j) ∧
    goes (.tstag w) next (fun u => (u.strm p k).stagger = w.param.toNat % 2 ^ 8) ∧
    (plain → goes (.tsig w) next fun u =>
      (t.flight = [] → (u.strm p k).flight = [] ∧ (u.str p k 0x80).toNat = 2 ^ 63 + w.param.toNat ∧
        k ∈ (u.pan p).vectors) ∧
      (t.flight ≠ [] → u.str p k 0x80 = s.str p k 0x80 ∧ ∃ (h : HWord), (u.strm p k).flight = t.flight ++ [h] ∧ h.w = w)))

/-- R242, R244, R261, R305, R308, R309, R332: the events of the Pour: fetching a word and the fault of a fetch, a dispatch,
the completion of a word and the signal and end of stream that wait for it, the polls of a `twait`, the watchdog, the
arrival of a word that a stagger holds, and the end of the hold. The turn's moments (log 66), the watchdog's view of
barriers (log 65) and words named by their place in a unit's list (log 60) are the model's choices. -/
def Obligations.PourEvents : Prop :=  ∀ (s : State) (p k : Nat), k < 4 →
    let t := s.strm p k
    let va := s.strPc p k
    let d := s.conductor p
    let quiet := fun (u : State) => u.mem = s.mem ∧ ∀ x, u.ctx x = s.ctx x
    let traps := fun (u : State) (cause orig : Nat) => u.strState p k = 5 ∧ (u.str p k 0x18).toNat / 2 ^ 56 = cause ∧
      (u.str p k 0x18).toNat / 2 ^ 48 % 2 ^ 8 = orig ∧ u.strPc p k = va ∧
      ∃ (f : Frame), (u.die d).store = (s.die d).store ++ [f] ∧ f.cause = cause ∧ f.orig = orig ∧ f.src = 2 ∧ f.who = 64 * k
    let fetches := s.pourEnabled p = true ∧ s.strState p k = 1 ∧ t.fetched = none ∧ t.ended = false
    (fetches → s.unitFail d (s.strWorld p k) [(va, 32)] false = none → ∃ u : State, exec (.pourWordFetch p k) s = .next u ∧ quiet u ∧
      (u.strm p k).fetched = some (decodeTile (leVal (s.pageBytes (s.unitPages d (s.strWorld p k) [(va, 32)]) va 32))) ∧
      (u.strm p k).met = false ∧ (u.strm p k).flight = t.flight) ∧
    (∀ e, fetches → s.unitFail d (s.strWorld p k) [(va, 32)] false = some e → (s.die d).room = true → ∃ u : State,
      exec (.pourWordFetch p k) s = .next u ∧ quiet u ∧ traps u 0x5A 0 ∧ (u.strm p k).flight = t.flight) ∧
    (s.pourPick p = none → ∃ u : State, exec (.pourDispatch p) s = .next u ∧ quiet u ∧ (∀ j, u.strm p j = s.strm p j) ∧
      ∀ e, u.die e = s.die e) ∧
    (∀ w, s.pourPick p = some (k, false) → t.fetched = some w → exec (.pourDispatch p) s =
      .next (State.pourExec { (s.modPan p fun q => { q with spent := q.spent + 1 }) with iss := { pan := p, strm := k } } w)) ∧
    (∀ w, s.pourPick p = some (k, true) → t.fetched = some w → exec (.pourDispatch p) s =
      .next (State.pourExec { (s.modPan p fun q => { q with turn := k, spent := 1, width := 2 ^ ((s.str p k 0).toNat % 4 + 1) })
        with iss := { pan := p, strm := k } } w)) ∧
    (∀ n h, t.flight[n]? = some h → (∀ g ∈ t.flight, g.num ≠ h.num → g.op ≠ 0x15) → h.stream.toNat = k →
      let rest := t.flight.filter (fun g => g.num != h.num)
      (h.ended = false → exec (.wordCompleteAtPour p k n) s = .next s) ∧
      (h.ended = true → s.strStill p k = false → (h.status 0).cause = 0 → ∃ u : State, exec (.wordCompleteAtPour p k n) s = .next u ∧
        quiet u ∧ (rest ≠ [] → (u.strm p k).flight = rest ∧ u.strState p k = s.strState p k) ∧
        (rest = [] → s.strState p k = 1 → (u.strm p k).flight = [] ∧ u.strState p k = if t.ended then 6 else 1)) ∧
      (h.ended = true → s.strStill p k = false → 0 < (h.status 0).cause → (h.status 0).cause < 256 →
        (s.die d).room = true → s.strState p k = 1 → t.aborting = false → ∃ u : State,
        exec (.wordCompleteAtPour p k n) s = .next u ∧ quiet u ∧ (u.strm p k).flight = rest ∧
        traps u 0x35 (h.status 0).cause)) ∧
    (∀ h g, t.flight = [h, g] → h.num ≠ g.num → h.stream.toNat = k → h.ended = true → s.strStill p k = false →
      (h.status 0).cause = 0 → g.op = 0x15 → t.ended = false → t.aborting = false → ∃ u : State,
      exec (.wordCompleteAtPour p k 0) s = .next u ∧ quiet u ∧ (u.strm p k).flight = [] ∧
      (u.str p k 0x80).toNat = 2 ^ 63 + g.param ∧ k ∈ (u.pan p).vectors) ∧
    (∀ w, (∀ i, i < 64 → (s.die (64 * p + i)).seq = []) → t.fetched = some w → s.strState p k = 1 → s.pourEnabled p = true →
      w.op = 0x0B → w.level = 4 → tileCheck true w = none → w.da ≠ 0 → w.func = 0 → w.da.toNat % 8 = 0 →
      (w.ord = true → t.flight ≠ [] → exec (.twaitPoll p k) s = .next s) ∧
      let l := [(w.da.toNat, 8)]
      let v := leVal (s.pageBytes (s.unitPages d (s.strWorld p k) l) w.da.toNat 8)
      w.ord = false ∨ t.flight = [] → s.unitFail d (s.strWorld p k) l false = none → ∃ u : State,
        exec (.twaitPoll p k) s = .next u ∧ quiet u ∧
        (w.param.toNat ≤ v → (u.strm p k).met = true) ∧ (v < w.param.toNat → u.strm p k = t)) ∧
    (let lim := (s.str p k 0x30).toNat % 2 ^ 32
     (lim ≠ 0 → s.strState p k = 1 ∨ s.strState p k = 2 → t.flight ≠ [] → t.lastDone + lim * 3000 ≤ s.now →
       (s.die d).room = true → ∃ u : State, exec (.watchdogExpire p k) s = .next u ∧ quiet u ∧ traps u 0x0F 0 ∧
       (u.strm p k).flight = t.flight) ∧
     (s.now < t.lastDone + lim * 3000 ∨ lim = 0 → exec (.watchdogExpire p k) s = .next s)) ∧
    (∀ e h, (s.die e).seq = [h] → h.hold ≠ 0 → h.came = none →
      (∃ u : State, exec (.childStart (.die e) 0 0) s = .next u ∧ quiet u ∧ (u.die e).seq = [{ h with came := some s.now }]) ∧
      exec (.staggerHoldEnd e) s = .next s) ∧
    (∀ e h c, (s.die e).seq = [h] → h.hold ≠ 0 → h.came = some c → h.level = 3 → h.op = 0x0A → h.sentBy = none →
      h.open_ = false → h.ended = false → s.strStill (e / 64) h.stream.toNat = false →
      (c + h.hold ≤ s.now → ∃ u : State, exec (.staggerHoldEnd e) s = .next u ∧ quiet u ∧
        (u.die e).seq = [{ h with open_ := true, ended := true }]) ∧
      (s.now < c + h.hold → exec (.staggerHoldEnd e) s = .next s))

/-- R211, R256, R257, R262: `tsend` reads a word from its own cluster's SRAM and hands it to a sequencer or to the place
where it waits for one; a sent word that is over leaves its record in memory, an add of 1 at the sender's flag, and, after
a fault, a frame. SRAM_RANGE reports the lowest byte outside the own cluster's SRAM. The checks of R150 come
before it (R256). That the record is written by the address found at issue is the model's choice (log 64), and so is the flag
port's input for the add (log 87). -/
def Obligations.SentWords : Prop :=  (∀ (s : State) (q : BitVec 4) (a b : BitVec 5),
    let x := s.x
    let h := s.me.hreg q.toNat
    let off := (s.me.sreg a.toNat).toNat
    let p : Piece := { off := off, len := 64 }
    let w := decodeTile (leVal ((List.range 32).map fun i => s.byte (h.pa (off + i))))
    let i := Instr.tsend q a b
    let good := s.accessCheck x h [p] 64 false = none ∧ sramHandle (cluOf x) h p = true
    let out := fun (j : Nat) => if h.sramOf (cluOf x) = true then j < 64 ∧ inClu (cluOf x) (h.pa (off + j)) 1 = false ∧
      ∀ i, i < j → inClu (cluOf x) (h.pa (off + i)) 1 = true else j = 0
    let level := if w.level = 3 then 3 else 2
    let unit := if w.level = 3 then UnitId.die (dieOf x) else .clu (cluOf x)
    (h.valid = false → Traps 2 i s 0x22 0) ∧
    (∀ j, s.accessCheck x h [p] 64 false = none → sramHandle (cluOf x) h p = false → out j → Traps 2 i s 0x26 (BitVec.ofNat 64 (h.va + off + j))) ∧
    (∀ c f, s.accessCheck x h [p] 64 false = some (c, f) → Traps 2 i s c f) ∧
    (good → w.spec = true → s.me.tagV = false → Traps 2 i s 0x32 0) ∧
    (good → w.spec = false → (∀ e ∈ (s.core (coreOf x)).sends, e.num < s.nextId) → s.passes 2 i → ∃ (u : State) (k : HWord),
      exec i s = .next u ∧ SameMemory s u ∧ SameRegisters s u x ∧ (u.ctx x).snaps = s.me.snaps ∧
      (∀ y, y ≠ x → u.ctx y = s.ctx y) ∧ (k ∈ (u.core (coreOf x)).sends ∨ k ∈ u.words unit) ∧
      k.w = w ∧ k.va = h.va + off ∧ k.level = level ∧ k.top = level ∧ k.who = some x ∧ k.sentBy = some (x, h.pa off, b.toNat, none))) ∧
  (∀ (s : State) (v : UnitId) (n : Nat) (h : HWord) (x pa flag : Nat), (s.words v)[n]? = some h →
    h.sentBy = some (x, pa, flag, none) → s.noRegions → (∀ c, (s.core c).sends = []) →
    let t := h.status (unitNum v)
    (h.ended = false → exec (.tsendCompletion v n) s = .next s) ∧
    (h.ended = true → ∃ (u : State) (r : FlagArr), exec (.tsendCompletion v n) s = .next u ∧
      Stored s u ((leBytes 8 t.word.toNat ++ leBytes 8 t.faddr.toNat).zipIdx.map fun e => (pa + 32 + e.2, e.1)) ∧
      u.words v = (s.words v).filter (fun g => g.num != h.num) ∧ (∀ y, u.ctx y = s.ctx y) ∧
      (u.core (coreOf x)).fport = (s.core (coreOf x)).fport ++ [r] ∧ r.n = flag ∧ r.op = .add 1 ∧ r.id ∈ u.pend ∧
      (t.cause = 0 → ∀ e, (u.die e).store = (s.die e).store) ∧
      (t.cause ≠ 0 → (s.die (dieOf x)).room = true → ∃ (f : Frame), (u.die (dieOf x)).store = (s.die (dieOf x)).store ++ [f] ∧
        f.cause = 0x35 ∧ f.orig = t.cause ∧ f.src = 3 ∧ f.path = t.word)))

/-- R237 to R241, R245, R249 to R251, R253, R259: a cluster's sequencer reserves staging for a word, beside what earlier
words hold, and copies the share of A there; children of a word start one by one or by tickets, none after a fault unless the
word goes on; a tile unit works through its share block by block; a child's status is gathered into its parent, where the
lowest index that faulted stands; the partials of a split along K or a reduced axis are added in ascending child order; and a
core starts the children of a `tcall` with their registers. The grain of a block and where the staged bytes lie (log 61), no
element work with an empty operand (log 28), the bytes that a reservation counts (log 63), children that sequencers start in
any order (log 60), the whole row share of a core as one chain of a reduction (log 91), and array steps that wait for an active core and for their region's rate (log 68) are the model's
choices. -/
def Obligations.Children : Prop :=  (∀ (s : State) (c n : Nat) (h : HWord), (s.clu c).seq[n]? = some h → h.open_ = true → h.reserved = false → h.ended = false →
    (∀ g ∈ (s.clu c).seq, g.num = h.num → g = h) →
    let r := (s.cluReg c 0x40100).toNat
    let b := r / 2 ^ 12 % 2 ^ 10 * 4096
    let m := r / 2 ^ 32 % 2 ^ 10 * 4096
    let held := (s.clu c).seq.flatMap fun g => if g.reserved = true then g.area else []
    let used := (held.map (·.2)).sum
    let a := h.da
    let share := s.stagedBytes c h
    overlaps b m flagBase flagBytes = false → b + m ≤ 0x400000 →
    (m < h.reserve → ∃ (u : State) (g : HWord), exec (.stagingReserve (.clu c) n) s = .next u ∧ (u.clu c).seq[n]? = some g ∧ g.ended = true ∧
      g.fail = some { cause := 0x37, nfault := 1, bot := 2 } ∧ u.mem = s.mem) ∧
    (h.reserve ≤ m → m < used + h.reserve → exec (.stagingReserve (.clu c) n) s = .next s) ∧
    (used + h.reserve ≤ m → s.tornAt (.clu c) h.world a.ranges = false →
      (∀ q ∈ held, sramPa c b ≤ q.1 ∧ q.1 + q.2 ≤ sramPa c (b + m)) → ∃ (u : State) (g : HWord),
      exec (.stagingReserve (.clu c) n) s = .next u ∧ (u.clu c).seq[n]? = some g ∧ g.reserved = true ∧
      (g.area.map (·.2)).sum = h.reserve ∧ (∀ p ∈ g.area, sramPa c b ≤ p.1 ∧ p.1 + p.2 ≤ sramPa c (b + m) ∧
        ∀ q ∈ held, p.1 + p.2 ≤ q.1 ∨ q.1 + q.2 ≤ p.1) ∧ (share = 0 → u.mem = s.mem ∧ g.stg = h.stg) ∧
      (0 < share → share ≤ h.reserve → s.noRegions → (∀ x, s.homeOf x = x) →
        s.operandFail (c / 8) h.world a.ranges a.base (a.base % fmtAlign a.fmt != 0) false = none →
        let pages := s.unitPages (c / 8) h.world a.ranges
        let number := packNum (fmtBits a.fmt) (tab (a.rows * a.cols) fun e =>
          (s.overlay c).pageElem pages a (e / a.cols) (e % a.cols))
        g.stg = some { place := g.area, row := h.oa.1, col := h.oa.2.1, cols := a.cols } ∧
        (∀ i < share, u.byte (placeAt g.area i) = BitVec.ofNat 8 (number / 256 ^ i)) ∧
        ∀ x, (∀ p ∈ g.area, x < p.1 ∨ p.1 + p.2 ≤ x) → u.byte x = s.byte x))) ∧
  (∀ (s : State) (v : UnitId) (n : Nat) (h : HWord), (s.words v)[n]? = some h → unitLevel v = 2 ∨ unitLevel v = 3 →
    h.open_ = true → h.ended = false → h.barrier = false → s.strStill (unitPanel v) h.stream.toNat = false →
    (h.came = none → h.hold = 0) → (∀ g ∈ s.words v, g.num = h.num → g = h) →
    (∀ i k, h.todo.find? (·.idx == i) = some k → h.axis = 0 → (h.faulted = false ∨ h.w.cof = true) → h.reserved = true →
      s.unitFree (childUnit v k.unit) h = true → (∀ c, (s.core c).sends = []) → ∃ (u : State) (g : HWord) (e : HWord),
      exec (.childStart v n i) s = .next u ∧ u.mem = s.mem ∧
      (u.words v)[n]? = some g ∧ g.todo = h.todo.filter (·.idx != i) ∧ g.live = h.live ++ [k] ∧
      u.words (childUnit v k.unit) = s.words (childUnit v k.unit) ++ [e] ∧ e.parent = some (h.num, i) ∧
      e.w = childSplit (h.level - 1) h.w ∧ e.a = h.a ∧ e.b = h.b ∧ e.c = h.c ∧ e.stg = h.stg ∧ e.level = h.level - 1 ∧ e.open_ = false) ∧
    (∀ i k, h.todo.find? (·.idx == i) = some k → (h.reserved = false ∨ s.unitFree (childUnit v k.unit) h = false) →
      (h.faulted = false ∨ h.w.cof = true) → exec (.childStart v n i) s = .next s) ∧
    (∀ i, h.todo.find? (·.idx == i) = none → exec (.childStart v n i) s = .next s) ∧
    (∀ i k l, h.todo.find? (·.idx == i) = some k → l ∈ h.todo → l.idx ≠ i → h.faulted = true → h.w.cof = false →
      ∃ (u : State) (g : HWord), exec (.childStart v n i) s = .next u ∧
      u.mem = s.mem ∧ (u.words v)[n]? = some g ∧ g.todo = h.todo.filter (·.idx != i) ∧ g.abt = true ∧ g.live = h.live ∧
      ∀ j, u.words (childUnit v j) = s.words (childUnit v j)) ∧
    (∀ i e, h.reserved = true → (h.faulted = false ∨ h.w.cof = true) → h.ticket < h.tickets → i < 8 →
      (∀ k ∈ h.live, k.unit ≠ i) → s.unitFree (childUnit v i) h = true → h.axis ≠ 0 →
      ({ h with ticket := h.ticket + 1 } : HWord).share h.ticket 1 = .inl e → (∀ c, (s.core c).sends = []) → ∃ (u : State) (g : HWord) (r : HWord), exec (.pullTicket v n i) s = .next u ∧
      u.mem = s.mem ∧ (u.words v)[n]? = some g ∧ g.ticket = h.ticket + 1 ∧
      u.words (childUnit v i) = s.words (childUnit v i) ++ [r] ∧ r.parent = some (h.num, h.ticket) ∧ r.a = e.a ∧ r.b = e.b ∧
      r.c = e.c ∧ r.lo = e.lo) ∧
    (h.tickets ≤ h.ticket → ∀ i, exec (.pullTicket v n i) s = .next s) ∧
    (∀ k e, h.live = [k] → (s.words (childUnit v k.unit)) = [e] → e.parent = some (h.num, k.idx) → e.ended = true →
      (∀ c, (s.core c).sends = []) → h.todo ≠ [] →
      let st := e.status (unitNum (childUnit v k.unit))
      ∃ (u : State) (g : HWord), exec (.childComplete v n k.idx) s = .next u ∧ u.mem = s.mem ∧ u.words (childUnit v k.unit) = [] ∧
      (u.words v)[n]? = some g ∧ g.live = [] ∧ g.evt = h.evt ||| st.evt ∧ g.todo = h.todo ∧
      (st.cause = 0 → g.faulted = h.faulted ∧ g.first = h.first) ∧
      (st.cause ≠ 0 → g.faulted = true ∧ g.nf = min 4095 (h.nf + st.nfault) ∧
        (∀ j z, h.first = some (j, z) → j ≤ k.idx → g.first = some (j, z)) ∧
        (h.first = none ∨ (∃ j z, h.first = some (j, z) ∧ k.idx < j) → g.first = some (k.idx, st)))) ∧
    (∀ k e, h.live = [k] → s.words (childUnit v k.unit) = [e] → e.parent = some (h.num, k.idx) → e.ended = true →
      (∀ c, (s.core c).sends = []) → h.todo = [] → h.tickets ≤ h.ticket → h.level = unitLevel v → h.adds = true → h.first = none →
      (e.status (unitNum (childUnit v k.unit))).cause = 0 →
      let parts := (spPut k.idx e.own h.parts).map (·.2)
      let c := h.dc
      let d := s.unitDie v
      let add := fun (x y : Nat) => if h.op = 1 then
          (if profAcc h.w.param = 0 then (fp32.add 0 x y).1
           else if profAcc h.w.param = 1 then ((sgnN 32 x + sgnN 32 y) % 2 ^ 32).toNat
           else ((max (-(2 ^ 31)) (min (2 ^ 31 - 1) (sgnN 32 x + sgnN 32 y))) % 2 ^ 32).toNat)
        else (redComb (h.func % 4) (fmtType c.fmt) 0 x y).1
      let sum := fun (start : List Nat) (l : List (List Nat)) => l.foldl (fun (acc : List Nat) p =>
        acc.zipIdx.map fun q => add q.1 (p.getD q.2 0)) start
      (∀ p l, h.top ≠ h.level → parts = p :: l → ∃ (u : State) (g : HWord), exec (.childComplete v n k.idx) s = .next u ∧
        u.mem = s.mem ∧ (u.words v)[n]? = some g ∧ g.ended = true ∧ g.own = sum p l) ∧
      (h.top = h.level → h.noWork = false → s.tornAt v h.world c.ranges = false →
        (h.keepsC = true → s.operandFail d h.world c.ranges c.base (c.base % fmtAlign c.fmt != 0) false = none) →
        s.operandFail d h.world c.ranges c.base (c.base % fmtAlign c.fmt != 0) true = none → ∃ (u : State) (g : HWord),
        exec (.childComplete v n k.idx) s = .next u ∧ (u.words v)[n]? = some g ∧ g.ended = true ∧ g.fail = h.fail ∧
        let pages := s.unitPages d h.world c.ranges
        SameMemory (s.putRow pages c 0 (sum (tab (c.rows * c.cols) fun e =>
          if h.keepsC = true then (s.seenBy v).pageElem pages c (e / c.cols) (e % c.cols)
          else if h.op = 1 then 0 else redIdentity (h.func % 4) (fmtType c.fmt)) parts)) u))) ∧
  (∀ (s : State) (c : Nat) (h : HWord), (s.core c).tu = [h] → h.open_ = true → h.ended = false →
    1 ≤ h.op → h.op ≤ 7 → s.strStill (c / 4096) h.stream.toNat = false →
    let b := h.blockAt h.pos
    let region := s.regionAt (c / 64)
    let may := h.op = 1 → (s.core c).active = true ∧ region.crit = false ∧
      (region.dthr.isSome = true ∨ region.tthr = true → (s.core c).stepFree ≤ s.now)
    let ready := may ∧ ¬(h.stages = true ∧ ∃ i ∈ (s.core c).bs, i.2.busy = true)
    let fails := fun (k : Nat) (f : Word) => ∃ u : State, exec (.leafWork c) s = .next u ∧ u.mem = s.mem ∧
      (u.core c).tu = [{ h with ended := true, fail := some { cause := k, nfault := 1, bot := 1, faddr := f } }]
    (h.op = 1 → (s.core c).active = false → ∃ u : State, exec (.leafWork c) s = .next u ∧ u.mem = s.mem ∧
      (u.core c).wants = true ∧ (u.core c).tu = [h]) ∧
    (h.op = 1 → (s.core c).active = true → ¬ready → exec (.leafWork c) s = .next s) ∧
    (∀ k f, ready → h.walk = some (k, f) → s.blockFail c h b = none → fails k f) ∧
    (∀ va, ready → h.walk = none → s.unitMiss (c / 64) h.world (h.touches b) = some va →
      (s.die (c / 64)).tuFault h.world (va % 2 ^ 58 / 0x4000) = none →
      (s.die (c / 64)).tuFind h.world (va % 2 ^ 58 / 0x4000) = none → ∃ u : State, exec (.leafWork c) s = .next u ∧
        u.mem = s.mem ∧ (u.core c).tu = [h] ∧ ((s.die (c / 64)).freeTu.isSome = true → ∃ q ∈ (u.die (c / 64)).tu,
          q.2.world = h.world ∧ q.2.vpn = va % 2 ^ 58 / 0x4000 ∧ .unit c h.num va ∈ q.2.waiters)) ∧
    (ready → h.walk = none → s.unitMiss (c / 64) h.world (h.touches b) = none → (s.clu (c / 8)).sb = [] →
      (∀ k f, s.blockFail c h b = some (k, f) → fails k f) ∧
      (s.blockFail c h b = none → ∃ (u : State) (g : HWord),
        exec (.leafWork c) s = .next u ∧ (u.core c).tu = [g] ∧ g.pos = h.pos + 1 ∧ g.ended = decide (h.blocks ≤ h.pos + 1) ∧
        let pages := s.unitPages (c / 64) h.world (h.touches b)
        let x := s.elemA h pages
        let y := s.pageElem pages h.db
        let z := fun i j => if h.func = 0 ∧ h.adds = false then s.pageElem pages h.dc i j else 0
        let line := fun i j => if h.func / 4 % 2 = 1 then tab h.da.rows fun r => x r j else tab h.da.cols fun q => x i q
        let row := fun i => tab h.da.cols fun q => x i q
        let value := fun (i j : Nat) => match h.op with
          | 1 => (s.tmmElem c h pages i j (z i j)).1
          | 2 => (tewElem h.func h.da.fmt (x i j) (y i j)).1
          | 3 => (teuElem h.func h.da.fmt h.param (x i j)).1
          | 4 => (tcvtElem h.da.fmt h.dc.fmt (x i j)).1
          | 6 => (tredAll (h.func % 4) h.da.fmt h.dc.fmt (line i j)).1
          | 7 => (ttopkRow h.da.fmt (h.func + 1) (row i)).1.getD j 0
          | _ => if h.func = 1 then x j i else x i j
        (h.adds = false → SameMemory (s.putBlock pages h.dc b fun i j => value (b.1 + i) (b.2.2.1 + j)) u) ∧
        (h.adds = true → u.mem = s.mem ∧ ∀ i j, i < h.dc.rows → j < h.dc.cols → g.own.getD (i * h.dc.cols + j) 0 =
          if b.1 ≤ i ∧ i < b.1 + b.2.1 ∧ b.2.2.1 ≤ j ∧ j < b.2.2.1 + b.2.2.2 then value i j
          else h.own.getD (i * h.dc.cols + j) 0) ∧
        (∀ i j, h.op = 1 → profValid h.w.param = true → profAcc h.w.param = 1 → value i j =
          ((sgnN 32 (z i j) + ((List.range h.da.cols).map fun k =>
            decInt (profA h.w.param) (profASgn h.w.param) (profAPol h.w.param) (x i k) *
            decInt (profB h.w.param) (profBSgn h.w.param) (profBPol h.w.param) (s.tmmB c h pages k j)).sum) % 2 ^ 32).toNat ∨
            (h.da.cols = 0 ∧ value i j = z i j)) ∧
        (∀ i j, h.op = 6 → h.dc.fmt = 4 → h.da.fmt = 3 ∨ h.da.fmt = 4 → h.func % 4 = 0 → (value i j : Int) = ((line i j).map fun v =>
          if h.da.fmt = 3 then sgnN 32 v else sgnN 64 v).sum % 2 ^ 64) ∧
        (∀ i j, h.op = 6 → h.dc.fmt = 7 → h.da.fmt = 5 ∨ h.da.fmt = 7 → h.func % 4 = 0 → value i j = (line i j).foldl (fun t v =>
          (fp32.add 0 t (if h.da.fmt = 5 then (cvtFF bf16 fp32 0 v).1 else v)).1) 0) ∧
        (∀ i j, h.op = 7 → h.da.fmt = 5 ∨ h.da.fmt = 7 →
          let f := ffmtOf (fmtType h.da.fmt)
          let val := fun q => (row i).getD q 0
          let higher := fun q r => f.val (val q) ≠ .nan ∧ (f.val (val r) = .nan ∨ (f.val (val q)).cmp (f.val (val r)) = .gt)
          let above := fun q r => higher q r ∨ ¬higher r q ∧ q < r
          j ≤ h.func →
          (h.da.cols ≤ j → value i j = 0xFF800000FFFFFFFF) ∧
          (∀ q < h.da.cols, (∃ l : List Nat, l.Nodup ∧ l.length = j ∧ ∀ r, r ∈ l ↔ r < h.da.cols ∧ r ≠ q ∧ above r q) →
            value i j = (if h.da.fmt = 5 then (cvtFF bf16 fp32 0 (val q)).1
              else if f.val (val q) = .nan then f.nanBits else val q) * 2 ^ 32 + q))))) ∧
  (∀ (s : State) (c : Nat) (h g : HWord) (k : Child) (l : List Child), (s.core c).tu = [h] → h.open_ = true → h.ended = false →
    h.op = 8 → h.hold = 0 → s.strStill (c / 4096) h.stream.toNat = false → h.todo = k :: l → (∀ q ∈ l, q.idx ≠ k.idx) →
    (h.faulted = false ∨ h.w.cof = true) → (if h.axis = 0 then .inl h else h.share k.lo k.len : HWord ⊕ Nat) = .inl g →
    h.param % 2 ^ 16 ≤ 0x11FF →
    let t := s.modCore c fun q => { q with tu := [{ h with todo := l, live := h.live ++ [k] }] }
    let td := fun (n : Nat) (va : Word) (w : BitVec 256) => if va = 0 then [] else [(n, w)]
    exec (.childStart (.core c) 0 k.idx) s = .next (t.arriveStart c 1
      { entry := h.param % 2 ^ 16
        regs := [(1, if h.axis = 1 then BitVec.ofNat 64 (32 * k.idx) else 0), (2, if h.axis = 2 then BitVec.ofNat 64 (64 * k.idx) else 0),
          (3, if h.axis = 0 then 0 else BitVec.ofNat 64 (if h.axis = 1 then g.dc.rows else g.dc.cols)),
          (4, BitVec.ofNat 64 (h.param / 2 ^ 16 + 65536 * h.func))]
        tds := td 0 h.w.da g.a ++ td 1 h.w.db g.b ++ td 2 h.w.dc g.c
        child := BitVec.ofNat 32 (if h.axis = 0 then cidOf c else k.idx), stream := h.stream, prio := h.prio
        origin := .tcall h.num k.idx h.spec }))
end

