-- ==== Sys2Proof/Laws/Exec.lean ====
section
/-! SUPPORT. The meaning that each constructor of `Instr` is dispatched to. -/

namespace Sys2Proof.Machine

variable (s : State)

theorem exec_nop : exec (.nop) s = execNop s := rfl
theorem exec_xhdr (e : BitVec 8) (f : BitVec 8) (g : BitVec 8) : exec (.xhdr e f g) s = execXhdr e f g s := rfl
theorem exec_add (d : BitVec 5) (a : BitVec 5) (b : BitVec 5) : exec (.add d a b) s = execAdd d a b s := rfl
theorem exec_sub (d : BitVec 5) (a : BitVec 5) (b : BitVec 5) : exec (.sub d a b) s = execSub d a b s := rfl
theorem exec_and (d : BitVec 5) (a : BitVec 5) (b : BitVec 5) : exec (.and d a b) s = execAnd d a b s := rfl
theorem exec_or (d : BitVec 5) (a : BitVec 5) (b : BitVec 5) : exec (.or d a b) s = execOr d a b s := rfl
theorem exec_xor (d : BitVec 5) (a : BitVec 5) (b : BitVec 5) : exec (.xor d a b) s = execXor d a b s := rfl
theorem exec_andn (d : BitVec 5) (a : BitVec 5) (b : BitVec 5) : exec (.andn d a b) s = execAndn d a b s := rfl
theorem exec_shl (d : BitVec 5) (a : BitVec 5) (b : BitVec 5) : exec (.shl d a b) s = execShl d a b s := rfl
theorem exec_shr (d : BitVec 5) (a : BitVec 5) (b : BitVec 5) : exec (.shr d a b) s = execShr d a b s := rfl
theorem exec_sar (d : BitVec 5) (a : BitVec 5) (b : BitVec 5) : exec (.sar d a b) s = execSar d a b s := rfl
theorem exec_rol (d : BitVec 5) (a : BitVec 5) (b : BitVec 5) : exec (.rol d a b) s = execRol d a b s := rfl
theorem exec_ror (d : BitVec 5) (a : BitVec 5) (b : BitVec 5) : exec (.ror d a b) s = execRor d a b s := rfl
theorem exec_min (d : BitVec 5) (a : BitVec 5) (b : BitVec 5) : exec (.min d a b) s = execMin d a b s := rfl
theorem exec_max (d : BitVec 5) (a : BitVec 5) (b : BitVec 5) : exec (.max d a b) s = execMax d a b s := rfl
theorem exec_minu (d : BitVec 5) (a : BitVec 5) (b : BitVec 5) : exec (.minu d a b) s = execMinu d a b s := rfl
theorem exec_maxu (d : BitVec 5) (a : BitVec 5) (b : BitVec 5) : exec (.maxu d a b) s = execMaxu d a b s := rfl
theorem exec_slt (d : BitVec 5) (a : BitVec 5) (b : BitVec 5) : exec (.slt d a b) s = execSlt d a b s := rfl
theorem exec_sltu (d : BitVec 5) (a : BitVec 5) (b : BitVec 5) : exec (.sltu d a b) s = execSltu d a b s := rfl
theorem exec_seq (d : BitVec 5) (a : BitVec 5) (b : BitVec 5) : exec (.seq d a b) s = execSeq d a b s := rfl
theorem exec_sne (d : BitVec 5) (a : BitVec 5) (b : BitVec 5) : exec (.sne d a b) s = execSne d a b s := rfl
theorem exec_addi (d : BitVec 5) (a : BitVec 5) (imm : BitVec 16) : exec (.addi d a imm) s = execAddi d a imm s := rfl
theorem exec_andi (d : BitVec 5) (a : BitVec 5) (imm : BitVec 16) : exec (.andi d a imm) s = execAndi d a imm s := rfl
theorem exec_ori (d : BitVec 5) (a : BitVec 5) (imm : BitVec 16) : exec (.ori d a imm) s = execOri d a imm s := rfl
theorem exec_xori (d : BitVec 5) (a : BitVec 5) (imm : BitVec 16) : exec (.xori d a imm) s = execXori d a imm s := rfl
theorem exec_slti (d : BitVec 5) (a : BitVec 5) (imm : BitVec 16) : exec (.slti d a imm) s = execSlti d a imm s := rfl
theorem exec_sltiu (d : BitVec 5) (a : BitVec 5) (imm : BitVec 16) : exec (.sltiu d a imm) s = execSltiu d a imm s := rfl
theorem exec_shli (d : BitVec 5) (a : BitVec 5) (c : BitVec 6) : exec (.shli d a c) s = execShli d a c s := rfl
theorem exec_shri (d : BitVec 5) (a : BitVec 5) (c : BitVec 6) : exec (.shri d a c) s = execShri d a c s := rfl
theorem exec_sari (d : BitVec 5) (a : BitVec 5) (c : BitVec 6) : exec (.sari d a c) s = execSari d a c s := rfl
theorem exec_roli (d : BitVec 5) (a : BitVec 5) (c : BitVec 6) : exec (.roli d a c) s = execRoli d a c s := rfl
theorem exec_movi (d : BitVec 5) (imm : BitVec 21) : exec (.movi d imm) s = execMovi d imm s := rfl
theorem exec_movk (d : BitVec 5) (p : BitVec 2) (imm : BitVec 16) : exec (.movk d p imm) s = execMovk d p imm s := rfl
theorem exec_mul (d : BitVec 5) (a : BitVec 5) (b : BitVec 5) : exec (.mul d a b) s = execMul d a b s := rfl
theorem exec_mulh (d : BitVec 5) (a : BitVec 5) (b : BitVec 5) : exec (.mulh d a b) s = execMulh d a b s := rfl
theorem exec_mulhu (d : BitVec 5) (a : BitVec 5) (b : BitVec 5) : exec (.mulhu d a b) s = execMulhu d a b s := rfl
theorem exec_mulhsu (d : BitVec 5) (a : BitVec 5) (b : BitVec 5) : exec (.mulhsu d a b) s = execMulhsu d a b s := rfl
theorem exec_div (d : BitVec 5) (a : BitVec 5) (b : BitVec 5) : exec (.div d a b) s = execDiv d a b s := rfl
theorem exec_divu (d : BitVec 5) (a : BitVec 5) (b : BitVec 5) : exec (.divu d a b) s = execDivu d a b s := rfl
theorem exec_rem (d : BitVec 5) (a : BitVec 5) (b : BitVec 5) : exec (.rem d a b) s = execRem d a b s := rfl
theorem exec_remu (d : BitVec 5) (a : BitVec 5) (b : BitVec 5) : exec (.remu d a b) s = execRemu d a b s := rfl
theorem exec_clz (d : BitVec 5) (a : BitVec 5) : exec (.clz d a) s = execClz d a s := rfl
theorem exec_ctz (d : BitVec 5) (a : BitVec 5) : exec (.ctz d a) s = execCtz d a s := rfl
theorem exec_popc (d : BitVec 5) (a : BitVec 5) : exec (.popc d a) s = execPopc d a s := rfl
theorem exec_brev (d : BitVec 5) (a : BitVec 5) : exec (.brev d a) s = execBrev d a s := rfl
theorem exec_bytrev (d : BitVec 5) (a : BitVec 5) : exec (.bytrev d a) s = execBytrev d a s := rfl
theorem exec_bfx (d : BitVec 5) (a : BitVec 5) (b : BitVec 5) : exec (.bfx d a b) s = execBfx d a b s := rfl
theorem exec_bfxz (d : BitVec 5) (a : BitVec 5) (b : BitVec 5) : exec (.bfxz d a b) s = execBfxz d a b s := rfl
theorem exec_bfxi (d : BitVec 5) (a : BitVec 5) (w : BitVec 7) (o : BitVec 6) : exec (.bfxi d a w o) s = execBfxi d a w o s := rfl
theorem exec_bfi (d : BitVec 5) (a : BitVec 5) (b : BitVec 5) : exec (.bfi d a b) s = execBfi d a b s := rfl
theorem exec_bfii (d : BitVec 5) (a : BitVec 5) (w : BitVec 7) (o : BitVec 6) : exec (.bfii d a w o) s = execBfii d a w o s := rfl
theorem exec_sel (d : BitVec 5) (a : BitVec 5) (b : BitVec 5) (c : BitVec 5) : exec (.sel d a b c) s = execSel d a b c s := rfl
theorem exec_beq (a : BitVec 5) (b : BitVec 5) (o : BitVec 13) : exec (.beq a b o) s = execBeq a b o s := rfl
theorem exec_bne (a : BitVec 5) (b : BitVec 5) (o : BitVec 13) : exec (.bne a b o) s = execBne a b o s := rfl
theorem exec_blt (a : BitVec 5) (b : BitVec 5) (o : BitVec 13) : exec (.blt a b o) s = execBlt a b o s := rfl
theorem exec_bge (a : BitVec 5) (b : BitVec 5) (o : BitVec 13) : exec (.bge a b o) s = execBge a b o s := rfl
theorem exec_bltu (a : BitVec 5) (b : BitVec 5) (o : BitVec 13) : exec (.bltu a b o) s = execBltu a b o s := rfl
theorem exec_bgeu (a : BitVec 5) (b : BitVec 5) (o : BitVec 13) : exec (.bgeu a b o) s = execBgeu a b o s := rfl
theorem exec_j (o : BitVec 26) : exec (.j o) s = execJ o s := rfl
theorem exec_jal (o : BitVec 26) : exec (.jal o) s = execJal o s := rfl
theorem exec_jr (d : BitVec 5) (a : BitVec 5) : exec (.jr d a) s = execJr d a s := rfl
theorem exec_loop (a : BitVec 5) (o : BitVec 13) : exec (.loop a o) s = execLoop a o s := rfl
theorem exec_loopi (n : BitVec 13) (o : BitVec 13) : exec (.loopi n o) s = execLoopi n o s := rfl
theorem exec_jbank (d : BitVec 5) (imm : BitVec 21) : exec (.jbank d imm) s = execJbank d imm s := rfl
theorem exec_mfs (d : BitVec 5) (imm : BitVec 16) : exec (.mfs d imm) s = execMfs d imm s := rfl
theorem exec_mts (a : BitVec 5) (imm : BitVec 16) : exec (.mts a imm) s = execMts a imm s := rfl
theorem exec_stop : exec (.stop) s = execStop s := rfl
theorem exec_yield : exec (.yield) s = execYield s := rfl
theorem exec_brk : exec (.brk) s = execBrk s := rfl
theorem exec_trap (a : BitVec 5) : exec (.trap a) s = execTrap a s := rfl
theorem exec_ecall (imm : BitVec 16) : exec (.ecall imm) s = execEcall imm s := rfl
theorem exec_vadd (d : BitVec 5) (a : BitVec 5) (b : BitVec 5) (p : BitVec 3) (t : BitVec 3) : exec (.vadd d a b p t) s = execVadd d a b p t s := rfl
theorem exec_vsub (d : BitVec 5) (a : BitVec 5) (b : BitVec 5) (p : BitVec 3) (t : BitVec 3) : exec (.vsub d a b p t) s = execVsub d a b p t s := rfl
theorem exec_vmul (d : BitVec 5) (a : BitVec 5) (b : BitVec 5) (p : BitVec 3) (t : BitVec 3) : exec (.vmul d a b p t) s = execVmul d a b p t s := rfl
theorem exec_vfma (d : BitVec 5) (a : BitVec 5) (b : BitVec 5) (p : BitVec 3) (t : BitVec 3) : exec (.vfma d a b p t) s = execVfma d a b p t s := rfl
theorem exec_vfms (d : BitVec 5) (a : BitVec 5) (b : BitVec 5) (p : BitVec 3) (t : BitVec 3) : exec (.vfms d a b p t) s = execVfms d a b p t s := rfl
theorem exec_vfnma (d : BitVec 5) (a : BitVec 5) (b : BitVec 5) (p : BitVec 3) (t : BitVec 3) : exec (.vfnma d a b p t) s = execVfnma d a b p t s := rfl
theorem exec_vmin (d : BitVec 5) (a : BitVec 5) (b : BitVec 5) (p : BitVec 3) (t : BitVec 3) : exec (.vmin d a b p t) s = execVmin d a b p t s := rfl
theorem exec_vmax (d : BitVec 5) (a : BitVec 5) (b : BitVec 5) (p : BitVec 3) (t : BitVec 3) : exec (.vmax d a b p t) s = execVmax d a b p t s := rfl
theorem exec_vdiv (d : BitVec 5) (a : BitVec 5) (b : BitVec 5) (p : BitVec 3) (t : BitVec 3) : exec (.vdiv d a b p t) s = execVdiv d a b p t s := rfl
theorem exec_vsqrt (d : BitVec 5) (a : BitVec 5) (p : BitVec 3) (t : BitVec 3) : exec (.vsqrt d a p t) s = execVsqrt d a p t s := rfl
theorem exec_vrcp (d : BitVec 5) (a : BitVec 5) (p : BitVec 3) (t : BitVec 3) : exec (.vrcp d a p t) s = execVrcp d a p t s := rfl
theorem exec_vrsq (d : BitVec 5) (a : BitVec 5) (p : BitVec 3) (t : BitVec 3) : exec (.vrsq d a p t) s = execVrsq d a p t s := rfl
theorem exec_vexp2 (d : BitVec 5) (a : BitVec 5) (p : BitVec 3) (t : BitVec 3) : exec (.vexp2 d a p t) s = execVexp2 d a p t s := rfl
theorem exec_vlog2 (d : BitVec 5) (a : BitVec 5) (p : BitVec 3) (t : BitVec 3) : exec (.vlog2 d a p t) s = execVlog2 d a p t s := rfl
theorem exec_vtanh (d : BitVec 5) (a : BitVec 5) (p : BitVec 3) (t : BitVec 3) : exec (.vtanh d a p t) s = execVtanh d a p t s := rfl
theorem exec_vcvt (d : BitVec 5) (a : BitVec 5) (k : BitVec 5) (p : BitVec 3) (t : BitVec 3) (u : BitVec 3) (r : BitVec 2) : exec (.vcvt d a k p t u r) s = execVcvt d a k p t u r s := rfl
theorem exec_vcmpEq (q : BitVec 3) (a : BitVec 5) (b : BitVec 5) (p : BitVec 3) (t : BitVec 3) : exec (.vcmpEq q a b p t) s = execVcmpEq q a b p t s := rfl
theorem exec_vcmpNe (q : BitVec 3) (a : BitVec 5) (b : BitVec 5) (p : BitVec 3) (t : BitVec 3) : exec (.vcmpNe q a b p t) s = execVcmpNe q a b p t s := rfl
theorem exec_vcmpLt (q : BitVec 3) (a : BitVec 5) (b : BitVec 5) (p : BitVec 3) (t : BitVec 3) : exec (.vcmpLt q a b p t) s = execVcmpLt q a b p t s := rfl
theorem exec_vcmpLe (q : BitVec 3) (a : BitVec 5) (b : BitVec 5) (p : BitVec 3) (t : BitVec 3) : exec (.vcmpLe q a b p t) s = execVcmpLe q a b p t s := rfl
theorem exec_vcmpGt (q : BitVec 3) (a : BitVec 5) (b : BitVec 5) (p : BitVec 3) (t : BitVec 3) : exec (.vcmpGt q a b p t) s = execVcmpGt q a b p t s := rfl
theorem exec_vcmpGe (q : BitVec 3) (a : BitVec 5) (b : BitVec 5) (p : BitVec 3) (t : BitVec 3) : exec (.vcmpGe q a b p t) s = execVcmpGe q a b p t s := rfl
theorem exec_vcmpUnord (q : BitVec 3) (a : BitVec 5) (b : BitVec 5) (p : BitVec 3) (t : BitVec 3) : exec (.vcmpUnord q a b p t) s = execVcmpUnord q a b p t s := rfl
theorem exec_vcmpOrd (q : BitVec 3) (a : BitVec 5) (b : BitVec 5) (p : BitVec 3) (t : BitVec 3) : exec (.vcmpOrd q a b p t) s = execVcmpOrd q a b p t s := rfl
theorem exec_vsel (d : BitVec 5) (a : BitVec 5) (b : BitVec 5) (p : BitVec 3) : exec (.vsel d a b p) s = execVsel d a b p s := rfl
theorem exec_vand (d : BitVec 5) (a : BitVec 5) (b : BitVec 5) (p : BitVec 3) : exec (.vand d a b p) s = execVand d a b p s := rfl
theorem exec_vor (d : BitVec 5) (a : BitVec 5) (b : BitVec 5) (p : BitVec 3) : exec (.vor d a b p) s = execVor d a b p s := rfl
theorem exec_vxor (d : BitVec 5) (a : BitVec 5) (b : BitVec 5) (p : BitVec 3) : exec (.vxor d a b p) s = execVxor d a b p s := rfl
theorem exec_vandn (d : BitVec 5) (a : BitVec 5) (b : BitVec 5) (p : BitVec 3) : exec (.vandn d a b p) s = execVandn d a b p s := rfl
theorem exec_vnot (d : BitVec 5) (a : BitVec 5) (p : BitVec 3) : exec (.vnot d a p) s = execVnot d a p s := rfl
theorem exec_vshl (d : BitVec 5) (a : BitVec 5) (b : BitVec 5) (p : BitVec 3) (t : BitVec 3) : exec (.vshl d a b p t) s = execVshl d a b p t s := rfl
theorem exec_vshr (d : BitVec 5) (a : BitVec 5) (b : BitVec 5) (p : BitVec 3) (t : BitVec 3) : exec (.vshr d a b p t) s = execVshr d a b p t s := rfl
theorem exec_vsar (d : BitVec 5) (a : BitVec 5) (b : BitVec 5) (p : BitVec 3) (t : BitVec 3) : exec (.vsar d a b p t) s = execVsar d a b p t s := rfl
theorem exec_vshli (d : BitVec 5) (a : BitVec 5) (c : BitVec 6) (t : BitVec 3) : exec (.vshli d a c t) s = execVshli d a c t s := rfl
theorem exec_vshri (d : BitVec 5) (a : BitVec 5) (c : BitVec 6) (t : BitVec 3) : exec (.vshri d a c t) s = execVshri d a c t s := rfl
theorem exec_vsari (d : BitVec 5) (a : BitVec 5) (c : BitVec 6) (t : BitVec 3) : exec (.vsari d a c t) s = execVsari d a c t s := rfl
theorem exec_vadds (d : BitVec 5) (a : BitVec 5) (b : BitVec 5) (p : BitVec 3) (t : BitVec 3) : exec (.vadds d a b p t) s = execVadds d a b p t s := rfl
theorem exec_vsubs (d : BitVec 5) (a : BitVec 5) (b : BitVec 5) (p : BitVec 3) (t : BitVec 3) : exec (.vsubs d a b p t) s = execVsubs d a b p t s := rfl
theorem exec_vabs (d : BitVec 5) (a : BitVec 5) (p : BitVec 3) (t : BitVec 3) : exec (.vabs d a p t) s = execVabs d a p t s := rfl
theorem exec_vneg (d : BitVec 5) (a : BitVec 5) (p : BitVec 3) (t : BitVec 3) : exec (.vneg d a p t) s = execVneg d a p t s := rfl
theorem exec_vclz (d : BitVec 5) (a : BitVec 5) (p : BitVec 3) (t : BitVec 3) : exec (.vclz d a p t) s = execVclz d a p t s := rfl
theorem exec_vpopc (d : BitVec 5) (a : BitVec 5) (p : BitVec 3) (t : BitVec 3) : exec (.vpopc d a p t) s = execVpopc d a p t s := rfl
theorem exec_vmov (d : BitVec 5) (a : BitVec 5) (p : BitVec 3) : exec (.vmov d a p) s = execVmov d a p s := rfl
theorem exec_vbcast (d : BitVec 5) (sf : BitVec 5) (p : BitVec 3) (t : BitVec 3) : exec (.vbcast d sf p t) s = execVbcast d sf p t s := rfl
theorem exec_vext (d : BitVec 5) (a : BitVec 5) (b : BitVec 5) (t : BitVec 3) : exec (.vext d a b t) s = execVext d a b t s := rfl
theorem exec_vins (d : BitVec 5) (sf : BitVec 5) (b : BitVec 5) (p : BitVec 3) (t : BitVec 3) : exec (.vins d sf b p t) s = execVins d sf b p t s := rfl
theorem exec_vimm (d : BitVec 5) (imm : BitVec 8) (t : BitVec 3) : exec (.vimm d imm t) s = execVimm d imm t s := rfl
theorem exec_vredAdd (d : BitVec 5) (a : BitVec 5) (p : BitVec 3) (t : BitVec 3) (sf : BitVec 1) : exec (.vredAdd d a p t sf) s = execVredAdd d a p t sf s := rfl
theorem exec_vredMin (d : BitVec 5) (a : BitVec 5) (p : BitVec 3) (t : BitVec 3) (sf : BitVec 1) : exec (.vredMin d a p t sf) s = execVredMin d a p t sf s := rfl
theorem exec_vredMax (d : BitVec 5) (a : BitVec 5) (p : BitVec 3) (t : BitVec 3) (sf : BitVec 1) : exec (.vredMax d a p t sf) s = execVredMax d a p t sf s := rfl
theorem exec_vshuf (d : BitVec 5) (a : BitVec 5) (b : BitVec 5) (p : BitVec 3) : exec (.vshuf d a b p) s = execVshuf d a b p s := rfl
theorem exec_vpat (d : BitVec 5) (a : BitVec 5) (n : BitVec 5) (p : BitVec 3) (w : BitVec 1) (h : BitVec 1) : exec (.vpat d a n p w h) s = execVpat d a n p w h s := rfl
theorem exec_xcopy (d : BitVec 5) (a : BitVec 5) (b : BitVec 5) (p : BitVec 3) (c : BitVec 3) : exec (.xcopy d a b p c) s = execXcopy d a b p c s := rfl
theorem exec_vtopk (d : BitVec 5) (a : BitVec 5) (p : BitVec 3) (t : BitVec 3) (sf : BitVec 1) (k : BitVec 3) : exec (.vtopk d a p t sf k) s = execVtopk d a p t sf k s := rfl
theorem exec_viota (d : BitVec 5) (p : BitVec 3) (t : BitVec 3) : exec (.viota d p t) s = execViota d p t s := rfl
theorem exec_viotaCnt (d : BitVec 5) (p : BitVec 3) (t : BitVec 3) : exec (.viotaCnt d p t) s = execViotaCnt d p t s := rfl
theorem exec_pand (d : BitVec 5) (a : BitVec 5) (b : BitVec 5) : exec (.pand d a b) s = execPand d a b s := rfl
theorem exec_por (d : BitVec 5) (a : BitVec 5) (b : BitVec 5) : exec (.por d a b) s = execPor d a b s := rfl
theorem exec_pxor (d : BitVec 5) (a : BitVec 5) (b : BitVec 5) : exec (.pxor d a b) s = execPxor d a b s := rfl
theorem exec_pnot (d : BitVec 5) (a : BitVec 5) : exec (.pnot d a) s = execPnot d a s := rfl
theorem exec_pmov (d : BitVec 5) (a : BitVec 5) : exec (.pmov d a) s = execPmov d a s := rfl
theorem exec_pcnt (d : BitVec 5) (a : BitVec 5) (p : BitVec 3) : exec (.pcnt d a p) s = execPcnt d a p s := rfl
theorem exec_pfirst (d : BitVec 5) (a : BitVec 5) (p : BitVec 3) : exec (.pfirst d a p) s = execPfirst d a p s := rfl
theorem exec_rqpop (d : BitVec 5) (a : BitVec 5) (p : BitVec 3) (f : BitVec 1) (k : BitVec 3) : exec (.rqpop d a p f k) s = execRqpop d a p f k s := rfl
theorem exec_tmmaWs (t : BitVec 4) (a : BitVec 4) (b : BitVec 4) (f : BitVec 2) (z : BitVec 1) (sf : BitVec 1) : exec (.tmmaWs t a b f z sf) s = execTmmaWs t a b f z sf s := rfl
theorem exec_tmmaGr (t : BitVec 4) (a : BitVec 4) (b : BitVec 4) (f : BitVec 2) (z : BitVec 1) (sf : BitVec 1) : exec (.tmmaGr t a b f z sf) s = execTmmaGr t a b f z sf s := rfl
theorem exec_tmmaCs (t : BitVec 4) (a : BitVec 4) (b : BitVec 4) (f : BitVec 2) (z : BitVec 1) (sf : BitVec 1) : exec (.tmmaCs t a b f z sf) s = execTmmaCs t a b f z sf s := rfl
theorem exec_tzero (t : BitVec 4) (k : BitVec 1) (sf : BitVec 1) : exec (.tzero t k sf) s = execTzero t k sf s := rfl
theorem exec_tldc (t : BitVec 4) (d : BitVec 5) (sf : BitVec 1) : exec (.tldc t d sf) s = execTldc t d sf s := rfl
theorem exec_tstc (t : BitVec 4) (d : BitVec 5) : exec (.tstc t d) s = execTstc t d s := rfl
theorem exec_tdrainF (t : BitVec 4) (d : BitVec 5) (a : BitVec 5) (r : BitVec 1) (b : BitVec 1) : exec (.tdrainF t d a r b) s = execTdrainF t d a r b s := rfl
theorem exec_tdrainBf (t : BitVec 4) (d : BitVec 5) (a : BitVec 5) (r : BitVec 1) (b : BitVec 1) : exec (.tdrainBf t d a r b) s = execTdrainBf t d a r b s := rfl
theorem exec_tdrainRaw (t : BitVec 4) (d : BitVec 5) : exec (.tdrainRaw t d) s = execTdrainRaw t d s := rfl
theorem exec_tsclA (t : BitVec 4) (d : BitVec 5) (k : BitVec 10) (g : BitVec 5) (h : BitVec 1) : exec (.tsclA t d k g h) s = execTsclA t d k g h s := rfl
theorem exec_tsclB (t : BitVec 4) (d : BitVec 5) (k : BitVec 10) (g : BitVec 5) : exec (.tsclB t d k g) s = execTsclB t d k g s := rfl
theorem exec_tldb (t : BitVec 4) (d : BitVec 5) : exec (.tldb t d) s = execTldb t d s := rfl
theorem exec_setfmt (t : BitVec 4) (a : BitVec 5) : exec (.setfmt t a) s = execSetfmt t a s := rfl
theorem exec_tdld (t : BitVec 4) (d : BitVec 5) (imm : BitVec 17) : exec (.tdld t d imm) s = execTdld t d imm s := rfl
theorem exec_tdsetBase (t : BitVec 4) (a : BitVec 5) : exec (.tdsetBase t a) s = execTdsetBase t a s := rfl
theorem exec_tdsetShape (t : BitVec 4) (a : BitVec 5) : exec (.tdsetShape t a) s = execTdsetShape t a s := rfl
theorem exec_tdsetLayout (t : BitVec 4) (a : BitVec 5) : exec (.tdsetLayout t a) s = execTdsetLayout t a s := rfl
theorem exec_tdsetSbase (t : BitVec 4) (a : BitVec 5) : exec (.tdsetSbase t a) s = execTdsetSbase t a s := rfl
theorem exec_tdsetSub (t : BitVec 4) (d : BitVec 5) (a : BitVec 5) : exec (.tdsetSub t d a) s = execTdsetSub t d a s := rfl
theorem exec_tdsetMov (t : BitVec 4) (d : BitVec 5) : exec (.tdsetMov t d) s = execTdsetMov t d s := rfl
theorem exec_tsend (t : BitVec 4) (a : BitVec 5) (b : BitVec 5) : exec (.tsend t a b) s = execTsend t a b s := rfl
theorem exec_xspec (d : BitVec 5) : exec (.xspec d) s = execXspec d s := rfl
theorem exec_xcfm (a : BitVec 5) : exec (.xcfm a) s = execXcfm a s := rfl
theorem exec_xsq (a : BitVec 5) : exec (.xsq a) s = execXsq a s := rfl
theorem exec_xtagq (d : BitVec 5) (a : BitVec 5) (f : BitVec 1) : exec (.xtagq d a f) s = execXtagq d a f s := rfl
theorem exec_xpred (t : BitVec 4) (d : BitVec 5) (a : BitVec 5) (b : BitVec 5) (k : BitVec 2) : exec (.xpred t d a b k) s = execXpred t d a b k s := rfl
theorem exec_xtrain (t : BitVec 4) (a : BitVec 5) (b : BitVec 5) : exec (.xtrain t a b) s = execXtrain t a b s := rfl
theorem exec_xres (t : BitVec 4) (d : BitVec 5) (a : BitVec 5) (b : BitVec 5) (f : BitVec 3) (g : BitVec 3) : exec (.xres t d a b f g) s = execXres t d a b f g s := rfl
theorem exec_xmiss (t : BitVec 4) (d : BitVec 5) (a : BitVec 5) (b : BitVec 5) : exec (.xmiss t d a b) s = execXmiss t d a b s := rfl
theorem exec_xlook (d : BitVec 5) (a : BitVec 5) : exec (.xlook d a) s = execXlook d a s := rfl
theorem exec_xins (a : BitVec 5) (b : BitVec 5) : exec (.xins a b) s = execXins a b s := rfl
theorem exec_xinv (a : BitVec 5) : exec (.xinv a) s = execXinv a s := rfl
theorem exec_xrdt (d : BitVec 5) (a : BitVec 5) : exec (.xrdt d a) s = execXrdt d a s := rfl
theorem exec_xpin (a : BitVec 5) (b : BitVec 5) : exec (.xpin a b) s = execXpin a b s := rfl
theorem exec_seedscan (t : BitVec 4) (d : BitVec 5) (a : BitVec 5) (b : BitVec 5) : exec (.seedscan t d a b) s = execSeedscan t d a b s := rfl
theorem exec_grx (t : BitVec 4) (d : BitVec 5) : exec (.grx t d) s = execGrx t d s := rfl
theorem exec_tmov (t : BitVec 4) (d : BitVec 5) : exec (.tmov t d) s = execTmov t d s := rfl
theorem exec_tacc (t : BitVec 4) (d : BitVec 5) (sf : BitVec 1) : exec (.tacc t d sf) s = execTacc t d sf s := rfl
theorem exec_ld (d : BitVec 5) (h : BitVec 4) (c : BitVec 4) (z : BitVec 3) (o : BitVec 10) : exec (.ld d h c z o) s = execLd d h c z o s := rfl
theorem exec_st (d : BitVec 5) (h : BitVec 4) (c : BitVec 4) (z : BitVec 3) (o : BitVec 10) : exec (.st d h c z o) s = execSt d h c z o s := rfl
theorem exec_ldx (d : BitVec 5) (h : BitVec 4) (c : BitVec 4) (z : BitVec 3) (b : BitVec 5) : exec (.ldx d h c z b) s = execLdx d h c z b s := rfl
theorem exec_stx (d : BitVec 5) (h : BitVec 4) (c : BitVec 4) (z : BitVec 3) (b : BitVec 5) : exec (.stx d h c z b) s = execStx d h c z b s := rfl
theorem exec_lda (d : BitVec 5) (h : BitVec 4) (c : BitVec 4) (z : BitVec 3) (sf : BitVec 3) (o : BitVec 7) : exec (.lda d h c z sf o) s = execLda d h c z sf o s := rfl
theorem exec_stl (d : BitVec 5) (h : BitVec 4) (c : BitVec 4) (z : BitVec 3) (sf : BitVec 3) (o : BitVec 7) : exec (.stl d h c z sf o) s = execStl d h c z sf o s := rfl
theorem exec_vld (d : BitVec 5) (h : BitVec 4) (c : BitVec 4) (z : BitVec 3) (o : BitVec 10) : exec (.vld d h c z o) s = execVld d h c z o s := rfl
theorem exec_vst (d : BitVec 5) (h : BitVec 4) (c : BitVec 4) (z : BitVec 3) (o : BitVec 10) : exec (.vst d h c z o) s = execVst d h c z o s := rfl
theorem exec_vlds (d : BitVec 5) (h : BitVec 4) (c : BitVec 4) (z : BitVec 3) (b : BitVec 5) : exec (.vlds d h c z b) s = execVlds d h c z b s := rfl
theorem exec_vsts (d : BitVec 5) (h : BitVec 4) (c : BitVec 4) (z : BitVec 3) (b : BitVec 5) : exec (.vsts d h c z b) s = execVsts d h c z b s := rfl
theorem exec_vgath (d : BitVec 5) (h : BitVec 4) (c : BitVec 4) (z : BitVec 3) (b : BitVec 5) : exec (.vgath d h c z b) s = execVgath d h c z b s := rfl
theorem exec_vscat (d : BitVec 5) (h : BitVec 4) (c : BitVec 4) (z : BitVec 3) (b : BitVec 5) : exec (.vscat d h c z b) s = execVscat d h c z b s := rfl
theorem exec_trans (d : BitVec 5) (a : BitVec 5) : exec (.trans d a) s = execTrans d a s := rfl
theorem exec_hchk (d : BitVec 5) (a : BitVec 5) : exec (.hchk d a) s = execHchk d a s := rfl
theorem exec_hrel (a : BitVec 5) : exec (.hrel a) s = execHrel a s := rfl
theorem exec_hmov (d : BitVec 5) (a : BitVec 5) : exec (.hmov d a) s = execHmov d a s := rfl
theorem exec_hinfo (d : BitVec 5) (a : BitVec 5) : exec (.hinfo d a) s = execHinfo d a s := rfl
theorem exec_fence (sf : BitVec 3) (imm : BitVec 16) : exec (.fence sf imm) s = execFence sf imm s := rfl
theorem exec_xdfi (d : BitVec 5) (imm : BitVec 16) : exec (.xdfi d imm) s = execXdfi d imm s := rfl
theorem exec_xdfw (a : BitVec 5) : exec (.xdfw a) s = execXdfw a s := rfl
theorem exec_qpush (n : BitVec 5) (a : BitVec 5) : exec (.qpush n a) s = execQpush n a s := rfl
theorem exec_qpop (d : BitVec 5) (n : BitVec 5) : exec (.qpop d n) s = execQpop d n s := rfl
theorem exec_vqpush (n : BitVec 5) (a : BitVec 5) (k : BitVec 5) (f : BitVec 1) : exec (.vqpush n a k f) s = execVqpush n a k f s := rfl
theorem exec_vqpop (d : BitVec 5) (n : BitVec 5) (k : BitVec 5) (f : BitVec 1) : exec (.vqpop d n k f) s = execVqpop d n k f s := rfl
theorem exec_qstat (d : BitVec 5) (n : BitVec 5) : exec (.qstat d n) s = execQstat d n s := rfl
theorem exec_qcfg (n : BitVec 5) (a : BitVec 5) : exec (.qcfg n a) s = execQcfg n a s := rfl
theorem exec_strq (n : BitVec 5) (h : BitVec 5) (b : BitVec 5) (v : BitVec 1) (z : BitVec 2) : exec (.strq n h b v z) s = execStrq n h b v z s := rfl
theorem exec_qrq (m : BitVec 5) (n : BitVec 5) : exec (.qrq m n) s = execQrq m n s := rfl
theorem exec_cpy (d : BitVec 5) (a : BitVec 5) (b : BitVec 5) (n : BitVec 2) : exec (.cpy d a b n) s = execCpy d a b n s := rfl
theorem exec_cpya (d : BitVec 5) (a : BitVec 5) (b : BitVec 5) (n : BitVec 2) : exec (.cpya d a b n) s = execCpya d a b n s := rfl
theorem exec_tlwait (a : BitVec 5) (n : BitVec 5) : exec (.tlwait a n) s = execTlwait a n s := rfl
theorem exec_tlrd (d : BitVec 5) (n : BitVec 5) : exec (.tlrd d n) s = execTlrd d n s := rfl
theorem exec_fladdArr (a : BitVec 5) (sf : BitVec 3) : exec (.fladdArr a sf) s = execFladdArr a sf s := rfl
theorem exec_fladdDrop (a : BitVec 5) (sf : BitVec 3) : exec (.fladdDrop a sf) s = execFladdDrop a sf s := rfl
theorem exec_fladdAdd (a : BitVec 5) (b : BitVec 5) (sf : BitVec 3) : exec (.fladdAdd a b sf) s = execFladdAdd a b sf s := rfl
theorem exec_flset (d : BitVec 5) (a : BitVec 5) (b : BitVec 5) (sf : BitVec 3) (n : BitVec 6) : exec (.flset d a b sf n) s = execFlset d a b sf n s := rfl
theorem exec_flwaitEq (d : BitVec 5) (a : BitVec 5) (b : BitVec 5) (sf : BitVec 3) : exec (.flwaitEq d a b sf) s = execFlwaitEq d a b sf s := rfl
theorem exec_flwaitGe (d : BitVec 5) (a : BitVec 5) (b : BitVec 5) (sf : BitVec 3) : exec (.flwaitGe d a b sf) s = execFlwaitGe d a b sf s := rfl
theorem exec_flwaitBar (d : BitVec 5) (a : BitVec 5) (sf : BitVec 3) : exec (.flwaitBar d a sf) s = execFlwaitBar d a sf s := rfl
theorem exec_nbpv (d : BitVec 5) (a : BitVec 5) (b : BitVec 5) (sf : BitVec 3) (k : BitVec 3) : exec (.nbpv d a b sf k) s = execNbpv d a b sf k s := rfl
theorem exec_nbrd (d : BitVec 5) (a : BitVec 5) (sf : BitVec 3) : exec (.nbrd d a sf) s = execNbrd d a sf s := rfl
theorem exec_nbrdSt (d : BitVec 5) (a : BitVec 5) (sf : BitVec 3) : exec (.nbrdSt d a sf) s = execNbrdSt d a sf s := rfl
theorem exec_nbrdMask (k : BitVec 5) (a : BitVec 5) (sf : BitVec 3) : exec (.nbrdMask k a sf) s = execNbrdMask k a sf s := rfl
theorem exec_nbrdVm (d : BitVec 5) (k : BitVec 5) (q : BitVec 2) : exec (.nbrdVm d k q) s = execNbrdVm d k q s := rfl
theorem exec_nbclr (a : BitVec 5) : exec (.nbclr a) s = execNbclr a s := rfl
theorem exec_istore (a : BitVec 5) (b : BitVec 5) : exec (.istore a b) s = execIstore a b s := rfl
theorem exec_ifence : exec (.ifence) s = execIfence s := rfl
theorem exec_collAr (d : BitVec 5) (a : BitVec 5) (b : BitVec 5) (w : BitVec 1) (o : BitVec 2) : exec (.collAr d a b w o) s = execCollAr d a b w o s := rfl
theorem exec_collRs (d : BitVec 5) (a : BitVec 5) (b : BitVec 5) (w : BitVec 1) (o : BitVec 2) : exec (.collRs d a b w o) s = execCollRs d a b w o s := rfl
theorem exec_collAg (d : BitVec 5) (a : BitVec 5) (b : BitVec 5) : exec (.collAg d a b) s = execCollAg d a b s := rfl
theorem exec_collBc (d : BitVec 5) (a : BitVec 5) (b : BitVec 5) : exec (.collBc d a b) s = execCollBc d a b s := rfl
theorem exec_collA2a (d : BitVec 5) (a : BitVec 5) (b : BitVec 5) : exec (.collA2a d a b) s = execCollA2a d a b s := rfl
theorem exec_grpMk (d : BitVec 5) (a : BitVec 5) (b : BitVec 5) : exec (.grpMk d a b) s = execGrpMk d a b s := rfl
theorem exec_grpFree (a : BitVec 5) : exec (.grpFree a) s = execGrpFree a s := rfl
theorem exec_grpQ (d : BitVec 5) (a : BitVec 5) : exec (.grpQ d a) s = execGrpQ d a s := rfl
theorem exec_discard (a : BitVec 5) (b : BitVec 5) (imm : BitVec 4) : exec (.discard a b imm) s = execDiscard a b imm s := rfl
theorem exec_evrd (d : BitVec 5) (a : BitVec 5) : exec (.evrd d a) s = execEvrd d a s := rfl
theorem exec_sysSave (a : BitVec 5) (b : BitVec 5) : exec (.sysSave a b) s = execSysSave a b s := rfl
theorem exec_sysRest (a : BitVec 5) (b : BitVec 5) : exec (.sysRest a b) s = execSysRest a b s := rfl
theorem exec_sysWorld (a : BitVec 5) : exec (.sysWorld a) s = execSysWorld a s := rfl
theorem exec_sysShoot (a : BitVec 5) : exec (.sysShoot a) s = execSysShoot a s := rfl
theorem exec_tmm (w : TileWord) : exec (.tmm w) s = execTmm w s := rfl
theorem exec_tew (w : TileWord) : exec (.tew w) s = execTew w s := rfl
theorem exec_teu (w : TileWord) : exec (.teu w) s = execTeu w s := rfl
theorem exec_tcvt (w : TileWord) : exec (.tcvt w) s = execTcvt w s := rfl
theorem exec_tcopy (w : TileWord) : exec (.tcopy w) s = execTcopy w s := rfl
theorem exec_tred (w : TileWord) : exec (.tred w) s = execTred w s := rfl
theorem exec_ttopk (w : TileWord) : exec (.ttopk w) s = execTtopk w s := rfl
theorem exec_tcall (w : TileWord) : exec (.tcall w) s = execTcall w s := rfl
theorem exec_tsync (w : TileWord) : exec (.tsync w) s = execTsync w s := rfl
theorem exec_tfence (w : TileWord) : exec (.tfence w) s = execTfence w s := rfl
theorem exec_twait (w : TileWord) : exec (.twait w) s = execTwait w s := rfl
theorem exec_tcoll (w : TileWord) : exec (.tcoll w) s = execTcoll w s := rfl
theorem exec_tjmp (w : TileWord) : exec (.tjmp w) s = execTjmp w s := rfl
theorem exec_tloop (w : TileWord) : exec (.tloop w) s = execTloop w s := rfl
theorem exec_tend (w : TileWord) : exec (.tend w) s = execTend w s := rfl
theorem exec_tdmset (w : TileWord) : exec (.tdmset w) s = execTdmset w s := rfl
theorem exec_tstag (w : TileWord) : exec (.tstag w) s = execTstag w s := rfl
theorem exec_tsig (w : TileWord) : exec (.tsig w) s = execTsig w s := rfl
theorem exec_dieReset (die : Nat) : exec (.dieReset die) s = execDieReset die s := rfl
theorem exec_bootctlGo (die : Nat) (w : Access) : exec (.bootctlGo die w) s = execBootctlGo die w s := rfl
theorem exec_bootRomRun (die : Nat) : exec (.bootRomRun die) s = execBootRomRun die s := rfl
theorem exec_bootCompletion (pan : Nat) : exec (.bootCompletion pan) s = execBootCompletion pan s := rfl
theorem exec_dpressetWrite (die : Nat) (w : Access) : exec (.dpressetWrite die w) s = execDpressetWrite die w s := rfl
theorem exec_domcfgWrite (die : Nat) (w : Access) : exec (.domcfgWrite die w) s = execDomcfgWrite die w s := rfl
theorem exec_msextExtend (die : Nat) (j : Nat) (w : Access) : exec (.msextExtend die j w) s = execMsextExtend die j w s := rfl
theorem exec_wrlockWrite (die : Nat) (w : Access) : exec (.wrlockWrite die w) s = execWrlockWrite die w s := rfl
theorem exec_attctlGo (die : Nat) (w : Access) : exec (.attctlGo die w) s = execAttctlGo die w s := rfl
theorem exec_attestReportDone (die : Nat) : exec (.attestReportDone die) s = execAttestReportDone die s := rfl
theorem exec_hpostWrite (die : Nat) (w : Access) : exec (.hpostWrite die w) s = execHpostWrite die w s := rfl
theorem exec_hostAccess (die : Nat) (q : HostReq) : exec (.hostAccess die q) s = execHostAccess die q s := rfl
theorem exec_i3cManagementMessage (die : Nat) (q : MgmtReq) : exec (.i3cManagementMessage die q) s = execI3cManagementMessage die q s := rfl
theorem exec_registerWrite (addr : Nat) (w : Access) : exec (.registerWrite addr w) s = execRegisterWrite addr w s := rfl
theorem exec_strdbStart (pan : Nat) (k : Nat) (w : Access) : exec (.strdbStart pan k w) s = execStrdbStart pan k w s := rfl
theorem exec_strdbGraceful (pan : Nat) (k : Nat) (w : Access) : exec (.strdbGraceful pan k w) s = execStrdbGraceful pan k w s := rfl
theorem exec_strdbHard (pan : Nat) (k : Nat) (w : Access) : exec (.strdbHard pan k w) s = execStrdbHard pan k w s := rfl
theorem exec_strdbResume (pan : Nat) (k : Nat) (w : Access) : exec (.strdbResume pan k w) s = execStrdbResume pan k w s := rfl
theorem exec_strdbAbort (pan : Nat) (k : Nat) (w : Access) : exec (.strdbAbort pan k w) s = execStrdbAbort pan k w s := rfl
theorem exec_cxcmdResume (core : Nat) (w : Access) : exec (.cxcmdResume core w) s = execCxcmdResume core w s := rfl
theorem exec_cxcmdRetire (core : Nat) (w : Access) : exec (.cxcmdRetire core w) s = execCxcmdRetire core w s := rfl
theorem exec_cxcmdResumeAt (core : Nat) (w : Access) : exec (.cxcmdResumeAt core w) s = execCxcmdResumeAt core w s := rfl
theorem exec_turetry (die : Nat) (w : Access) : exec (.turetry die w) s = execTuretry die w s := rfl
theorem exec_migctlGo (die : Nat) (w : Access) : exec (.migctlGo die w) s = execMigctlGo die w s := rfl
theorem exec_migctlAbort (die : Nat) (w : Access) : exec (.migctlAbort die w) s = execMigctlAbort die w s := rfl
theorem exec_migctlFin (die : Nat) (w : Access) : exec (.migctlFin die w) s = execMigctlFin die w s := rfl
theorem exec_nbcfgWrite (die : Nat) (b : Nat) (w : Access) : exec (.nbcfgWrite die b w) s = execNbcfgWrite die b w s := rfl
theorem exec_trringWrite (die : Nat) (world : Nat) (w : Access) : exec (.trringWrite die world w) s = execTrringWrite die world w s := rfl
theorem exec_issueStageSelect (core : Nat) : exec (.issueStageSelect core) s = execIssueStageSelect core s := rfl
theorem exec_blockClear (ctx : Nat) : exec (.blockClear ctx) s = execBlockClear ctx s := rfl
theorem exec_contextStart (core : Nat) : exec (.contextStart core) s = execContextStart core s := rfl
theorem exec_exposedResultLand (ctx : Nat) : exec (.exposedResultLand ctx) s = execExposedResultLand ctx s := rfl
theorem exec_longLoadData (ctx : Nat) (n : Nat) : exec (.longLoadData ctx n) s = execLongLoadData ctx n s := rfl
theorem exec_translationWalkDone (die : Nat) (n : Nat) : exec (.translationWalkDone die n) s = execTranslationWalkDone die n s := rfl
theorem exec_shootdownComplete (n : Nat) : exec (.shootdownComplete n) s = execShootdownComplete n s := rfl
theorem exec_storeBufferDrain (clu : Nat) (cls : Nat) : exec (.storeBufferDrain clu cls) s = execStoreBufferDrain clu cls s := rfl
theorem exec_wcbFlushTimeout (clu : Nat) (n : Nat) : exec (.wcbFlushTimeout clu n) s = execWcbFlushTimeout clu n s := rfl
theorem exec_istoreLand (core : Nat) : exec (.istoreLand core) s = execIstoreLand core s := rfl
theorem exec_accWriteComplete (core : Nat) (n : Nat) : exec (.accWriteComplete core n) s = execAccWriteComplete core n s := rfl
theorem exec_stagingBufferReady (core : Nat) (b : Nat) : exec (.stagingBufferReady core b) s = execStagingBufferReady core b s := rfl
theorem exec_seedscanResult (core : Nat) : exec (.seedscanResult core) s = execSeedscanResult core s := rfl
theorem exec_copyCommandStart (core : Nat) (k : Nat) : exec (.copyCommandStart core k) s = execCopyCommandStart core k s := rfl
theorem exec_copyTransfer (clu : Nat) (k : Nat) : exec (.copyTransfer clu k) s = execCopyTransfer clu k s := rfl
theorem exec_copyCommandComplete (core : Nat) (k : Nat) (n : Nat) : exec (.copyCommandComplete core k n) s = execCopyCommandComplete core k n s := rfl
theorem exec_trapFrameWrite (die : Nat) : exec (.trapFrameWrite die) s = execTrapFrameWrite die s := rfl
theorem exec_coreQuiet (core : Nat) : exec (.coreQuiet core) s = execCoreQuiet core s := rfl
theorem exec_admissionStep (pan : Nat) (region : Nat) : exec (.admissionStep pan region) s = execAdmissionStep pan region s := rfl
theorem exec_staggerHoldEnd (die : Nat) : exec (.staggerHoldEnd die) s = execStaggerHoldEnd die s := rfl
theorem exec_droopTrip (pan : Nat) (region : Nat) (mv : Nat) : exec (.droopTrip pan region mv) s = execDroopTrip pan region mv s := rfl
theorem exec_droopHoldExpire (pan : Nat) (region : Nat) : exec (.droopHoldExpire pan region) s = execDroopHoldExpire pan region s := rfl
theorem exec_thermalThreshold (pan : Nat) (region : Nat) (temp : Nat) : exec (.thermalThreshold pan region temp) s = execThermalThreshold pan region temp s := rfl
theorem exec_powerStepLimit (pan : Nat) (region : Nat) (rise : Nat) : exec (.powerStepLimit pan region rise) s = execPowerStepLimit pan region rise s := rfl
theorem exec_pourWordFetch (pan : Nat) (k : Nat) : exec (.pourWordFetch pan k) s = execPourWordFetch pan k s := rfl
theorem exec_pourDispatch (pan : Nat) : exec (.pourDispatch pan) s = execPourDispatch pan s := rfl
theorem exec_stagingReserve (unit : UnitId) (n : Nat) : exec (.stagingReserve unit n) s = execStagingReserve unit n s := rfl
theorem exec_childStart (unit : UnitId) (n : Nat) (child : Nat) :
    exec (.childStart unit n child) s = execChildStart unit n child s := rfl
theorem exec_pullTicket (unit : UnitId) (n : Nat) (child : Nat) : exec (.pullTicket unit n child) s = execPullTicket unit n child s := rfl
theorem exec_leafWork (core : Nat) : exec (.leafWork core) s = execLeafWork core s := rfl
theorem exec_childComplete (unit : UnitId) (n : Nat) (child : Nat) : exec (.childComplete unit n child) s = execChildComplete unit n child s := rfl
theorem exec_wordCompleteAtPour (pan : Nat) (k : Nat) (n : Nat) : exec (.wordCompleteAtPour pan k n) s = execWordCompleteAtPour pan k n s := rfl
theorem exec_tsendCompletion (unit : UnitId) (n : Nat) : exec (.tsendCompletion unit n) s = execTsendCompletion unit n s := rfl
theorem exec_twaitPoll (pan : Nat) (k : Nat) : exec (.twaitPoll pan k) s = execTwaitPoll pan k s := rfl
theorem exec_watchdogExpire (pan : Nat) (k : Nat) : exec (.watchdogExpire pan k) s = execWatchdogExpire pan k s := rfl
theorem exec_drainComplete (pan : Nat) (k : Nat) : exec (.drainComplete pan k) s = execDrainComplete pan k s := rfl
theorem exec_gracefulEscalate (pan : Nat) (k : Nat) : exec (.gracefulEscalate pan k) s = execGracefulEscalate pan k s := rfl
theorem exec_saveComplete (pan : Nat) (k : Nat) : exec (.saveComplete pan k) s = execSaveComplete pan k s := rfl
theorem exec_restoreCore (core : Nat) : exec (.restoreCore core) s = execRestoreCore core s := rfl
theorem exec_flagApply (core : Nat) : exec (.flagApply core) s = execFlagApply core s := rfl
theorem exec_boardOpApply (die : Nat) : exec (.boardOpApply die) s = execBoardOpApply die s := rfl
theorem exec_collTokenPass (die : Nat) (g : Nat) : exec (.collTokenPass die g) s = execCollTokenPass die g s := rfl
theorem exec_packetForward (die : Nat) (n : Nat) : exec (.packetForward die n) s = execPacketForward die n s := rfl
theorem exec_flitCrcFail (die : Nat) (at_ : Nat) : exec (.flitCrcFail die at_) s = execFlitCrcFail die at_ s := rfl
theorem exec_loadRequest (die : Nat) (n : Nat) : exec (.loadRequest die n) s = execLoadRequest die n s := rfl
theorem exec_storeRequest (die : Nat) (n : Nat) : exec (.storeRequest die n) s = execStoreRequest die n s := rfl
theorem exec_atomicRequest (die : Nat) (n : Nat) : exec (.atomicRequest die n) s = execAtomicRequest die n s := rfl
theorem exec_readReply (die : Nat) (n : Nat) : exec (.readReply die n) s = execReadReply die n s := rfl
theorem exec_acknowledgement (die : Nat) (n : Nat) : exec (.acknowledgement die n) s = execAcknowledgement die n s := rfl
theorem exec_nak (die : Nat) (n : Nat) : exec (.nak die n) s = execNak die n s := rfl
theorem exec_queueEntryHalf (die : Nat) (n : Nat) : exec (.queueEntryHalf die n) s = execQueueEntryHalf die n s := rfl
theorem exec_collectiveChunk (die : Nat) (n : Nat) : exec (.collectiveChunk die n) s = execCollectiveChunk die n s := rfl
theorem exec_selfDescribing (die : Nat) (n : Nat) : exec (.selfDescribing die n) s = execSelfDescribing die n s := rfl
theorem exec_flagOperation (die : Nat) (n : Nat) : exec (.flagOperation die n) s = execFlagOperation die n s := rfl
theorem exec_boardOperation (die : Nat) (n : Nat) : exec (.boardOperation die n) s = execBoardOperation die n s := rfl
theorem exec_boardReply (die : Nat) (n : Nat) : exec (.boardReply die n) s = execBoardReply die n s := rfl
theorem exec_management (die : Nat) (n : Nat) : exec (.management die n) s = execManagement die n s := rfl
theorem exec_creditGrant (die : Nat) (n : Nat) : exec (.creditGrant die n) s = execCreditGrant die n s := rfl
theorem exec_resetNotice (die : Nat) (n : Nat) : exec (.resetNotice die n) s = execResetNotice die n s := rfl
theorem exec_requestResendTimeout (die : Nat) (n : Nat) : exec (.requestResendTimeout die n) s = execRequestResendTimeout die n s := rfl
theorem exec_remoteTimeout (die : Nat) (n : Nat) : exec (.remoteTimeout die n) s = execRemoteTimeout die n s := rfl
theorem exec_resetNoticeResend (die : Nat) (peer : Nat) : exec (.resetNoticeResend die peer) s = execResetNoticeResend die peer s := rfl
theorem exec_migrationLineCopy (die : Nat) : exec (.migrationLineCopy die) s = execMigrationLineCopy die s := rfl
theorem exec_migrationSwitch (die : Nat) : exec (.migrationSwitch die) s = execMigrationSwitch die s := rfl
theorem exec_uncorrectableSoftError (die : Nat) (addr : Nat) : exec (.uncorrectableSoftError die addr) s = execUncorrectableSoftError die addr s := rfl

end Sys2Proof.Machine
end

