-- ==== Sys2Proof/Laws/Maps.lean ====
section
/-! SUPPORT. Laws of the sparse maps: reading what was written, and what stays. -/

namespace Sys2Proof.Machine

variable {α : Type}

@[simp] theorem spGet_nil (d : α) (k : Nat) : spGet d [] k = d := rfl

@[simp] theorem spGet_spPut_same (d : α) (m : Sp α) (k : Nat) (v : α) : spGet d (spPut k v m) k = v := by
  induction m with
  | nil => simp [spPut, spGet]
  | cons e t ih =>
    obtain ⟨k', v'⟩ := e
    by_cases h : k < k'
    · simp [spPut, spGet, h]
    · by_cases h' : k = k'
      · simp [spPut, spGet, h']
      · simp [spPut, spGet, h, h', Ne.symm h', ih]

theorem spGet_spPut_other (d : α) (m : Sp α) {k j : Nat} (v : α) (h : j ≠ k) :
    spGet d (spPut k v m) j = spGet d m j := by
  induction m with
  | nil => simp [spPut, spGet, h.symm]
  | cons e t ih =>
    obtain ⟨k', v'⟩ := e
    by_cases h1 : k < k'
    · simp [spPut, spGet, h1, h.symm]
    · by_cases h2 : k = k'
      · subst h2; simp [spPut, spGet, h.symm]
      · simp [spPut, spGet, h1, h2, ih]

theorem spGet_spPut (d : α) (m : Sp α) (k j : Nat) (v : α) :
    spGet d (spPut k v m) j = if j = k then v else spGet d m j := by
  by_cases h : j = k
  · subst h; simp
  · simp [h, spGet_spPut_other]

@[simp] theorem spGet_spMod_same (d : α) (m : Sp α) (k : Nat) (f : α → α) :
    spGet d (spMod d k f m) k = f (spGet d m k) := by simp [spMod]

/-- A map that does not list a key reads as the default there. -/
theorem spGet_absent (d : α) {m : Sp α} {k : Nat} (h : ∀ q ∈ m, q.1 ≠ k) : spGet d m k = d := by
  induction m with
  | nil => rfl
  | cons q t ih =>
    simp only [spGet, if_neg (h q (.head _))]
    exact ih fun r hr => h r (.tail _ hr)

theorem spGet_spMod_other (d : α) (m : Sp α) {k j : Nat} (f : α → α) (h : j ≠ k) :
    spGet d (spMod d k f m) j = spGet d m j := spGet_spPut_other d m _ h

@[simp] theorem spGet_spDel_same (d : α) (m : Sp α) (k : Nat) : spGet d (spDel k m) k = d := by
  induction m with
  | nil => rfl
  | cons e t ih =>
    obtain ⟨k', v'⟩ := e
    by_cases h : k' = k
    · simp [spDel, h, ih]
    · simp [spDel, spGet, h, ih]

theorem spGet_spDel_other (d : α) (m : Sp α) {k j : Nat} (h : j ≠ k) :
    spGet d (spDel k m) j = spGet d m j := by
  induction m with
  | nil => rfl
  | cons e t ih =>
    obtain ⟨k', v'⟩ := e
    by_cases h1 : k' = k
    · subst h1; simp [spDel, spGet, ih, Ne.symm h]
    · simp [spDel, spGet, h1, ih]

/-- The keys of a map rise. -/
abbrev Rising (m : Sp α) : Prop := m.Pairwise fun a b => a.1 < b.1

theorem mem_spPut {m : Sp α} {k : Nat} {v : α} {e : Nat × α} (h : e ∈ spPut k v m) : e = (k, v) ∨ e ∈ m := by
  induction m with
  | nil => simpa [spPut] using h
  | cons x t ih =>
    obtain ⟨k', v'⟩ := x
    unfold spPut at h
    split at h
    · simpa using h
    · split at h
      · rcases List.mem_cons.1 h with h | h
        · exact .inl h
        · exact .inr (List.mem_cons_of_mem _ h)
      · rcases List.mem_cons.1 h with h | h
        · exact .inr (by simp [h])
        · exact (ih h).imp id (List.mem_cons_of_mem _)

theorem rising_spPut {m : Sp α} (h : Rising m) (k : Nat) (v : α) : Rising (spPut k v m) := by
  induction m with
  | nil => simp [spPut]
  | cons x t ih =>
    obtain ⟨k', v'⟩ := x
    obtain ⟨h1, h2⟩ := List.pairwise_cons.1 h
    unfold spPut
    split
    · refine List.pairwise_cons.2 ⟨fun e he => ?_, h⟩
      rcases List.mem_cons.1 he with he | he
      · subst he; assumption
      · exact Nat.lt_trans (by assumption) (h1 e he)
    · split
      · subst k; exact List.pairwise_cons.2 ⟨h1, h2⟩
      · refine List.pairwise_cons.2 ⟨fun e he => ?_, ih h2⟩
        rcases mem_spPut he with he | he
        · subst he; show k' < k; omega
        · exact h1 e he

theorem mem_spDel {m : Sp α} {k : Nat} {e : Nat × α} (h : e ∈ spDel k m) : e ∈ m := by
  induction m with
  | nil => simp [spDel] at h
  | cons x t ih =>
    obtain ⟨k', v'⟩ := x
    unfold spDel at h
    split at h
    · exact List.mem_cons_of_mem _ (ih h)
    · rcases List.mem_cons.1 h with h | h
      · simp [h]
      · exact List.mem_cons_of_mem _ (ih h)

theorem rising_spDel {m : Sp α} (h : Rising m) (k : Nat) : Rising (spDel k m) := by
  induction m with
  | nil => simp [spDel]
  | cons x t ih =>
    obtain ⟨k', v'⟩ := x
    obtain ⟨h1, h2⟩ := List.pairwise_cons.1 h
    unfold spDel
    split
    · exact ih h2
    · exact List.pairwise_cons.2 ⟨fun e he => h1 e (mem_spDel he), ih h2⟩

end Sys2Proof.Machine
end

