-- ==== Sys2Proof/Laws/State.lean ====
section
/-! SUPPORT. Laws of the state's updates: one lemma for each field and update, and reading a unit after a change. -/

namespace Sys2Proof.Machine

/-! ## `modCtx` -/

@[simp] theorem State.modCtx_cores (s : State) (x : Nat) (f : Ctx → Ctx) : (s.modCtx x f).cores = s.cores := rfl
@[simp] theorem State.modCtx_clus (s : State) (x : Nat) (f : Ctx → Ctx) : (s.modCtx x f).clus = s.clus := rfl
@[simp] theorem State.modCtx_dies (s : State) (x : Nat) (f : Ctx → Ctx) : (s.modCtx x f).dies = s.dies := rfl
@[simp] theorem State.modCtx_pans (s : State) (x : Nat) (f : Ctx → Ctx) : (s.modCtx x f).pans = s.pans := rfl
@[simp] theorem State.modCtx_mem (s : State) (x : Nat) (f : Ctx → Ctx) : (s.modCtx x f).mem = s.mem := rfl
@[simp] theorem State.modCtx_ctl (s : State) (x : Nat) (f : Ctx → Ctx) : (s.modCtx x f).ctl = s.ctl := rfl
@[simp] theorem State.modCtx_bad (s : State) (x : Nat) (f : Ctx → Ctx) : (s.modCtx x f).bad = s.bad := rfl
@[simp] theorem State.modCtx_now (s : State) (x : Nat) (f : Ctx → Ctx) : (s.modCtx x f).now = s.now := rfl
@[simp] theorem State.modCtx_iss (s : State) (x : Nat) (f : Ctx → Ctx) : (s.modCtx x f).iss = s.iss := rfl
@[simp] theorem State.modCtx_agenda (s : State) (x : Nat) (f : Ctx → Ctx) : (s.modCtx x f).agenda = s.agenda := rfl
@[simp] theorem State.modCtx_focus (s : State) (x : Nat) (f : Ctx → Ctx) : (s.modCtx x f).focus = s.focus := rfl
@[simp] theorem State.modCtx_nextId (s : State) (x : Nat) (f : Ctx → Ctx) : (s.modCtx x f).nextId = s.nextId := rfl
@[simp] theorem State.modCtx_pend (s : State) (x : Nat) (f : Ctx → Ctx) : (s.modCtx x f).pend = s.pend := rfl
@[simp] theorem State.modCtx_pkts (s : State) (x : Nat) (f : Ctx → Ctx) : (s.modCtx x f).pkts = s.pkts := rfl
@[simp] theorem State.modCtx_nextPkt (s : State) (x : Nat) (f : Ctx → Ctx) : (s.modCtx x f).nextPkt = s.nextPkt := rfl
@[simp] theorem State.modCtx_left (s : State) (x : Nat) (f : Ctx → Ctx) : (s.modCtx x f).left = s.left := rfl
@[simp] theorem State.modCtx_tally (s : State) (x : Nat) (f : Ctx → Ctx) : (s.modCtx x f).tally = s.tally := rfl
@[simp] theorem State.modCtx_evBase (s : State) (x : Nat) (f : Ctx → Ctx) : (s.modCtx x f).evBase = s.evBase := rfl
@[simp] theorem State.modCtx_evNew (s : State) (x : Nat) (f : Ctx → Ctx) : (s.modCtx x f).evNew = s.evNew := rfl
@[simp] theorem State.modCtx_free (s : State) (x : Nat) (f : Ctx → Ctx) : (s.modCtx x f).free = s.free := rfl

/-! ## `modCore` -/

@[simp] theorem State.modCore_ctxs (s : State) (c : Nat) (f : Core → Core) : (s.modCore c f).ctxs = s.ctxs := rfl
@[simp] theorem State.modCore_clus (s : State) (c : Nat) (f : Core → Core) : (s.modCore c f).clus = s.clus := rfl
@[simp] theorem State.modCore_dies (s : State) (c : Nat) (f : Core → Core) : (s.modCore c f).dies = s.dies := rfl
@[simp] theorem State.modCore_pans (s : State) (c : Nat) (f : Core → Core) : (s.modCore c f).pans = s.pans := rfl
@[simp] theorem State.modCore_mem (s : State) (c : Nat) (f : Core → Core) : (s.modCore c f).mem = s.mem := rfl
@[simp] theorem State.modCore_ctl (s : State) (c : Nat) (f : Core → Core) : (s.modCore c f).ctl = s.ctl := rfl
@[simp] theorem State.modCore_bad (s : State) (c : Nat) (f : Core → Core) : (s.modCore c f).bad = s.bad := rfl
@[simp] theorem State.modCore_now (s : State) (c : Nat) (f : Core → Core) : (s.modCore c f).now = s.now := rfl
@[simp] theorem State.modCore_iss (s : State) (c : Nat) (f : Core → Core) : (s.modCore c f).iss = s.iss := rfl
@[simp] theorem State.modCore_agenda (s : State) (c : Nat) (f : Core → Core) : (s.modCore c f).agenda = s.agenda := rfl
@[simp] theorem State.modCore_focus (s : State) (c : Nat) (f : Core → Core) : (s.modCore c f).focus = s.focus := rfl
@[simp] theorem State.modCore_nextId (s : State) (c : Nat) (f : Core → Core) : (s.modCore c f).nextId = s.nextId := rfl
@[simp] theorem State.modCore_pend (s : State) (c : Nat) (f : Core → Core) : (s.modCore c f).pend = s.pend := rfl
@[simp] theorem State.modCore_pkts (s : State) (c : Nat) (f : Core → Core) : (s.modCore c f).pkts = s.pkts := rfl
@[simp] theorem State.modCore_nextPkt (s : State) (c : Nat) (f : Core → Core) : (s.modCore c f).nextPkt = s.nextPkt := rfl
@[simp] theorem State.modCore_left (s : State) (c : Nat) (f : Core → Core) : (s.modCore c f).left = s.left := rfl
@[simp] theorem State.modCore_tally (s : State) (c : Nat) (f : Core → Core) : (s.modCore c f).tally = s.tally := rfl
@[simp] theorem State.modCore_evBase (s : State) (c : Nat) (f : Core → Core) : (s.modCore c f).evBase = s.evBase := rfl
@[simp] theorem State.modCore_evNew (s : State) (c : Nat) (f : Core → Core) : (s.modCore c f).evNew = s.evNew := rfl
@[simp] theorem State.modCore_free (s : State) (c : Nat) (f : Core → Core) : (s.modCore c f).free = s.free := rfl

/-! ## `modClu` -/

@[simp] theorem State.modClu_ctxs (s : State) (u : Nat) (f : Cluster → Cluster) : (s.modClu u f).ctxs = s.ctxs := rfl
@[simp] theorem State.modClu_cores (s : State) (u : Nat) (f : Cluster → Cluster) : (s.modClu u f).cores = s.cores := rfl
@[simp] theorem State.modClu_dies (s : State) (u : Nat) (f : Cluster → Cluster) : (s.modClu u f).dies = s.dies := rfl
@[simp] theorem State.modClu_pans (s : State) (u : Nat) (f : Cluster → Cluster) : (s.modClu u f).pans = s.pans := rfl
@[simp] theorem State.modClu_mem (s : State) (u : Nat) (f : Cluster → Cluster) : (s.modClu u f).mem = s.mem := rfl
@[simp] theorem State.modClu_ctl (s : State) (u : Nat) (f : Cluster → Cluster) : (s.modClu u f).ctl = s.ctl := rfl
@[simp] theorem State.modClu_bad (s : State) (u : Nat) (f : Cluster → Cluster) : (s.modClu u f).bad = s.bad := rfl
@[simp] theorem State.modClu_now (s : State) (u : Nat) (f : Cluster → Cluster) : (s.modClu u f).now = s.now := rfl
@[simp] theorem State.modClu_iss (s : State) (u : Nat) (f : Cluster → Cluster) : (s.modClu u f).iss = s.iss := rfl
@[simp] theorem State.modClu_agenda (s : State) (u : Nat) (f : Cluster → Cluster) : (s.modClu u f).agenda = s.agenda := rfl
@[simp] theorem State.modClu_focus (s : State) (u : Nat) (f : Cluster → Cluster) : (s.modClu u f).focus = s.focus := rfl
@[simp] theorem State.modClu_nextId (s : State) (u : Nat) (f : Cluster → Cluster) : (s.modClu u f).nextId = s.nextId := rfl
@[simp] theorem State.modClu_pend (s : State) (u : Nat) (f : Cluster → Cluster) : (s.modClu u f).pend = s.pend := rfl
@[simp] theorem State.modClu_pkts (s : State) (u : Nat) (f : Cluster → Cluster) : (s.modClu u f).pkts = s.pkts := rfl
@[simp] theorem State.modClu_nextPkt (s : State) (u : Nat) (f : Cluster → Cluster) : (s.modClu u f).nextPkt = s.nextPkt := rfl
@[simp] theorem State.modClu_left (s : State) (u : Nat) (f : Cluster → Cluster) : (s.modClu u f).left = s.left := rfl
@[simp] theorem State.modClu_tally (s : State) (u : Nat) (f : Cluster → Cluster) : (s.modClu u f).tally = s.tally := rfl
@[simp] theorem State.modClu_evBase (s : State) (u : Nat) (f : Cluster → Cluster) : (s.modClu u f).evBase = s.evBase := rfl
@[simp] theorem State.modClu_evNew (s : State) (u : Nat) (f : Cluster → Cluster) : (s.modClu u f).evNew = s.evNew := rfl
@[simp] theorem State.modClu_free (s : State) (u : Nat) (f : Cluster → Cluster) : (s.modClu u f).free = s.free := rfl

/-! ## `modDie` -/

@[simp] theorem State.modDie_ctxs (s : State) (d : Nat) (f : Die → Die) : (s.modDie d f).ctxs = s.ctxs := rfl
@[simp] theorem State.modDie_cores (s : State) (d : Nat) (f : Die → Die) : (s.modDie d f).cores = s.cores := rfl
@[simp] theorem State.modDie_clus (s : State) (d : Nat) (f : Die → Die) : (s.modDie d f).clus = s.clus := rfl
@[simp] theorem State.modDie_pans (s : State) (d : Nat) (f : Die → Die) : (s.modDie d f).pans = s.pans := rfl
@[simp] theorem State.modDie_mem (s : State) (d : Nat) (f : Die → Die) : (s.modDie d f).mem = s.mem := rfl
@[simp] theorem State.modDie_ctl (s : State) (d : Nat) (f : Die → Die) : (s.modDie d f).ctl = s.ctl := rfl
@[simp] theorem State.modDie_bad (s : State) (d : Nat) (f : Die → Die) : (s.modDie d f).bad = s.bad := rfl
@[simp] theorem State.modDie_now (s : State) (d : Nat) (f : Die → Die) : (s.modDie d f).now = s.now := rfl
@[simp] theorem State.modDie_iss (s : State) (d : Nat) (f : Die → Die) : (s.modDie d f).iss = s.iss := rfl
@[simp] theorem State.modDie_agenda (s : State) (d : Nat) (f : Die → Die) : (s.modDie d f).agenda = s.agenda := rfl
@[simp] theorem State.modDie_focus (s : State) (d : Nat) (f : Die → Die) : (s.modDie d f).focus = s.focus := rfl
@[simp] theorem State.modDie_nextId (s : State) (d : Nat) (f : Die → Die) : (s.modDie d f).nextId = s.nextId := rfl
@[simp] theorem State.modDie_pend (s : State) (d : Nat) (f : Die → Die) : (s.modDie d f).pend = s.pend := rfl
@[simp] theorem State.modDie_pkts (s : State) (d : Nat) (f : Die → Die) : (s.modDie d f).pkts = s.pkts := rfl
@[simp] theorem State.modDie_nextPkt (s : State) (d : Nat) (f : Die → Die) : (s.modDie d f).nextPkt = s.nextPkt := rfl
@[simp] theorem State.modDie_left (s : State) (d : Nat) (f : Die → Die) : (s.modDie d f).left = s.left := rfl
@[simp] theorem State.modDie_tally (s : State) (d : Nat) (f : Die → Die) : (s.modDie d f).tally = s.tally := rfl
@[simp] theorem State.modDie_evBase (s : State) (d : Nat) (f : Die → Die) : (s.modDie d f).evBase = s.evBase := rfl
@[simp] theorem State.modDie_evNew (s : State) (d : Nat) (f : Die → Die) : (s.modDie d f).evNew = s.evNew := rfl
@[simp] theorem State.modDie_free (s : State) (d : Nat) (f : Die → Die) : (s.modDie d f).free = s.free := rfl

/-! ## `modPan` -/

@[simp] theorem State.modPan_ctxs (s : State) (p : Nat) (f : Panel → Panel) : (s.modPan p f).ctxs = s.ctxs := rfl
@[simp] theorem State.modPan_cores (s : State) (p : Nat) (f : Panel → Panel) : (s.modPan p f).cores = s.cores := rfl
@[simp] theorem State.modPan_clus (s : State) (p : Nat) (f : Panel → Panel) : (s.modPan p f).clus = s.clus := rfl
@[simp] theorem State.modPan_dies (s : State) (p : Nat) (f : Panel → Panel) : (s.modPan p f).dies = s.dies := rfl
@[simp] theorem State.modPan_mem (s : State) (p : Nat) (f : Panel → Panel) : (s.modPan p f).mem = s.mem := rfl
@[simp] theorem State.modPan_ctl (s : State) (p : Nat) (f : Panel → Panel) : (s.modPan p f).ctl = s.ctl := rfl
@[simp] theorem State.modPan_bad (s : State) (p : Nat) (f : Panel → Panel) : (s.modPan p f).bad = s.bad := rfl
@[simp] theorem State.modPan_now (s : State) (p : Nat) (f : Panel → Panel) : (s.modPan p f).now = s.now := rfl
@[simp] theorem State.modPan_iss (s : State) (p : Nat) (f : Panel → Panel) : (s.modPan p f).iss = s.iss := rfl
@[simp] theorem State.modPan_agenda (s : State) (p : Nat) (f : Panel → Panel) : (s.modPan p f).agenda = s.agenda := rfl
@[simp] theorem State.modPan_focus (s : State) (p : Nat) (f : Panel → Panel) : (s.modPan p f).focus = s.focus := rfl
@[simp] theorem State.modPan_nextId (s : State) (p : Nat) (f : Panel → Panel) : (s.modPan p f).nextId = s.nextId := rfl
@[simp] theorem State.modPan_pend (s : State) (p : Nat) (f : Panel → Panel) : (s.modPan p f).pend = s.pend := rfl
@[simp] theorem State.modPan_pkts (s : State) (p : Nat) (f : Panel → Panel) : (s.modPan p f).pkts = s.pkts := rfl
@[simp] theorem State.modPan_nextPkt (s : State) (p : Nat) (f : Panel → Panel) : (s.modPan p f).nextPkt = s.nextPkt := rfl
@[simp] theorem State.modPan_left (s : State) (p : Nat) (f : Panel → Panel) : (s.modPan p f).left = s.left := rfl
@[simp] theorem State.modPan_tally (s : State) (p : Nat) (f : Panel → Panel) : (s.modPan p f).tally = s.tally := rfl
@[simp] theorem State.modPan_evBase (s : State) (p : Nat) (f : Panel → Panel) : (s.modPan p f).evBase = s.evBase := rfl
@[simp] theorem State.modPan_evNew (s : State) (p : Nat) (f : Panel → Panel) : (s.modPan p f).evNew = s.evNew := rfl
@[simp] theorem State.modPan_free (s : State) (p : Nat) (f : Panel → Panel) : (s.modPan p f).free = s.free := rfl

/-! ## `setReg` -/

@[simp] theorem State.setReg_ctxs (s : State) (d off : Nat) (v : Word) : (s.setReg d off v).ctxs = s.ctxs := rfl
@[simp] theorem State.setReg_cores (s : State) (d off : Nat) (v : Word) : (s.setReg d off v).cores = s.cores := rfl
@[simp] theorem State.setReg_clus (s : State) (d off : Nat) (v : Word) : (s.setReg d off v).clus = s.clus := rfl
@[simp] theorem State.setReg_dies (s : State) (d off : Nat) (v : Word) : (s.setReg d off v).dies = s.dies := rfl
@[simp] theorem State.setReg_pans (s : State) (d off : Nat) (v : Word) : (s.setReg d off v).pans = s.pans := rfl
@[simp] theorem State.setReg_mem (s : State) (d off : Nat) (v : Word) : (s.setReg d off v).mem = s.mem := rfl
@[simp] theorem State.setReg_bad (s : State) (d off : Nat) (v : Word) : (s.setReg d off v).bad = s.bad := rfl
@[simp] theorem State.setReg_now (s : State) (d off : Nat) (v : Word) : (s.setReg d off v).now = s.now := rfl
@[simp] theorem State.setReg_iss (s : State) (d off : Nat) (v : Word) : (s.setReg d off v).iss = s.iss := rfl
@[simp] theorem State.setReg_agenda (s : State) (d off : Nat) (v : Word) : (s.setReg d off v).agenda = s.agenda := rfl
@[simp] theorem State.setReg_focus (s : State) (d off : Nat) (v : Word) : (s.setReg d off v).focus = s.focus := rfl
@[simp] theorem State.setReg_nextId (s : State) (d off : Nat) (v : Word) : (s.setReg d off v).nextId = s.nextId := rfl
@[simp] theorem State.setReg_pend (s : State) (d off : Nat) (v : Word) : (s.setReg d off v).pend = s.pend := rfl
@[simp] theorem State.setReg_pkts (s : State) (d off : Nat) (v : Word) : (s.setReg d off v).pkts = s.pkts := rfl
@[simp] theorem State.setReg_nextPkt (s : State) (d off : Nat) (v : Word) : (s.setReg d off v).nextPkt = s.nextPkt := rfl
@[simp] theorem State.setReg_left (s : State) (d off : Nat) (v : Word) : (s.setReg d off v).left = s.left := rfl
@[simp] theorem State.setReg_tally (s : State) (d off : Nat) (v : Word) : (s.setReg d off v).tally = s.tally := rfl
@[simp] theorem State.setReg_evBase (s : State) (d off : Nat) (v : Word) : (s.setReg d off v).evBase = s.evBase := rfl
@[simp] theorem State.setReg_evNew (s : State) (d off : Nat) (v : Word) : (s.setReg d off v).evNew = s.evNew := rfl
@[simp] theorem State.setReg_free (s : State) (d off : Nat) (v : Word) : (s.setReg d off v).free = s.free := rfl

/-! ## `countDie` -/

@[simp] theorem State.countDie_ctxs (s : State) (d src arg n : Nat) (b : Bool) : (s.countDie d src arg n b).ctxs = s.ctxs := rfl
@[simp] theorem State.countDie_cores (s : State) (d src arg n : Nat) (b : Bool) : (s.countDie d src arg n b).cores = s.cores := rfl
@[simp] theorem State.countDie_clus (s : State) (d src arg n : Nat) (b : Bool) : (s.countDie d src arg n b).clus = s.clus := rfl
@[simp] theorem State.countDie_dies (s : State) (d src arg n : Nat) (b : Bool) : (s.countDie d src arg n b).dies = s.dies := rfl
@[simp] theorem State.countDie_pans (s : State) (d src arg n : Nat) (b : Bool) : (s.countDie d src arg n b).pans = s.pans := rfl
@[simp] theorem State.countDie_mem (s : State) (d src arg n : Nat) (b : Bool) : (s.countDie d src arg n b).mem = s.mem := rfl
@[simp] theorem State.countDie_ctl (s : State) (d src arg n : Nat) (b : Bool) : (s.countDie d src arg n b).ctl = s.ctl := rfl
@[simp] theorem State.countDie_bad (s : State) (d src arg n : Nat) (b : Bool) : (s.countDie d src arg n b).bad = s.bad := rfl
@[simp] theorem State.countDie_now (s : State) (d src arg n : Nat) (b : Bool) : (s.countDie d src arg n b).now = s.now := rfl
@[simp] theorem State.countDie_iss (s : State) (d src arg n : Nat) (b : Bool) : (s.countDie d src arg n b).iss = s.iss := rfl
@[simp] theorem State.countDie_agenda (s : State) (d src arg n : Nat) (b : Bool) : (s.countDie d src arg n b).agenda = s.agenda := rfl
@[simp] theorem State.countDie_focus (s : State) (d src arg n : Nat) (b : Bool) : (s.countDie d src arg n b).focus = s.focus := rfl
@[simp] theorem State.countDie_nextId (s : State) (d src arg n : Nat) (b : Bool) : (s.countDie d src arg n b).nextId = s.nextId := rfl
@[simp] theorem State.countDie_pend (s : State) (d src arg n : Nat) (b : Bool) : (s.countDie d src arg n b).pend = s.pend := rfl
@[simp] theorem State.countDie_pkts (s : State) (d src arg n : Nat) (b : Bool) : (s.countDie d src arg n b).pkts = s.pkts := rfl
@[simp] theorem State.countDie_nextPkt (s : State) (d src arg n : Nat) (b : Bool) : (s.countDie d src arg n b).nextPkt = s.nextPkt := rfl
@[simp] theorem State.countDie_left (s : State) (d src arg n : Nat) (b : Bool) : (s.countDie d src arg n b).left = s.left := rfl
@[simp] theorem State.countDie_evBase (s : State) (d src arg n : Nat) (b : Bool) : (s.countDie d src arg n b).evBase = s.evBase := rfl
@[simp] theorem State.countDie_evNew (s : State) (d src arg n : Nat) (b : Bool) : (s.countDie d src arg n b).evNew = s.evNew := rfl
@[simp] theorem State.countDie_free (s : State) (d src arg n : Nat) (b : Bool) : (s.countDie d src arg n b).free = s.free := rfl

/-! ## Reading a unit after a change -/

@[simp] theorem State.modCtx_ctx_same (s : State) (i : Nat) (f : Ctx → Ctx) : (s.modCtx i f).ctx i = f (s.ctx i) :=
  spGet_spMod_same _ _ _ _
theorem State.modCtx_ctx_other (s : State) {i j : Nat} (f : Ctx → Ctx) (h : j ≠ i) : (s.modCtx i f).ctx j = s.ctx j :=
  spGet_spMod_other _ _ _ h
@[simp] theorem State.modCore_ctx (s : State) (c : Nat) (f : Core → Core) (i : Nat) : (s.modCore c f).ctx i = s.ctx i := rfl
@[simp] theorem State.modClu_ctx (s : State) (u : Nat) (f : Cluster → Cluster) (i : Nat) : (s.modClu u f).ctx i = s.ctx i := rfl
@[simp] theorem State.modDie_ctx (s : State) (d : Nat) (f : Die → Die) (i : Nat) : (s.modDie d f).ctx i = s.ctx i := rfl
@[simp] theorem State.modPan_ctx (s : State) (p : Nat) (f : Panel → Panel) (i : Nat) : (s.modPan p f).ctx i = s.ctx i := rfl
@[simp] theorem State.setReg_ctx (s : State) (d off : Nat) (v : Word) (i : Nat) : (s.setReg d off v).ctx i = s.ctx i := rfl
@[simp] theorem State.countDie_ctx (s : State) (d src arg n : Nat) (b : Bool) (i : Nat) : (s.countDie d src arg n b).ctx i = s.ctx i := rfl
@[simp] theorem State.modCore_core_same (s : State) (i : Nat) (f : Core → Core) : (s.modCore i f).core i = f (s.core i) :=
  spGet_spMod_same _ _ _ _
theorem State.modCore_core_other (s : State) {i j : Nat} (f : Core → Core) (h : j ≠ i) : (s.modCore i f).core j = s.core j :=
  spGet_spMod_other _ _ _ h
@[simp] theorem State.modCtx_core (s : State) (x : Nat) (f : Ctx → Ctx) (i : Nat) : (s.modCtx x f).core i = s.core i := rfl
@[simp] theorem State.modClu_core (s : State) (u : Nat) (f : Cluster → Cluster) (i : Nat) : (s.modClu u f).core i = s.core i := rfl
@[simp] theorem State.modDie_core (s : State) (d : Nat) (f : Die → Die) (i : Nat) : (s.modDie d f).core i = s.core i := rfl
@[simp] theorem State.modPan_core (s : State) (p : Nat) (f : Panel → Panel) (i : Nat) : (s.modPan p f).core i = s.core i := rfl
@[simp] theorem State.setReg_core (s : State) (d off : Nat) (v : Word) (i : Nat) : (s.setReg d off v).core i = s.core i := rfl
@[simp] theorem State.countDie_core (s : State) (d src arg n : Nat) (b : Bool) (i : Nat) : (s.countDie d src arg n b).core i = s.core i := rfl
@[simp] theorem State.modClu_clu_same (s : State) (i : Nat) (f : Cluster → Cluster) : (s.modClu i f).clu i = f (s.clu i) :=
  spGet_spMod_same _ _ _ _
theorem State.modClu_clu_other (s : State) {i j : Nat} (f : Cluster → Cluster) (h : j ≠ i) : (s.modClu i f).clu j = s.clu j :=
  spGet_spMod_other _ _ _ h
@[simp] theorem State.modCtx_clu (s : State) (x : Nat) (f : Ctx → Ctx) (i : Nat) : (s.modCtx x f).clu i = s.clu i := rfl
@[simp] theorem State.modCore_clu (s : State) (c : Nat) (f : Core → Core) (i : Nat) : (s.modCore c f).clu i = s.clu i := rfl
@[simp] theorem State.modDie_clu (s : State) (d : Nat) (f : Die → Die) (i : Nat) : (s.modDie d f).clu i = s.clu i := rfl
@[simp] theorem State.modPan_clu (s : State) (p : Nat) (f : Panel → Panel) (i : Nat) : (s.modPan p f).clu i = s.clu i := rfl
@[simp] theorem State.setReg_clu (s : State) (d off : Nat) (v : Word) (i : Nat) : (s.setReg d off v).clu i = s.clu i := rfl
@[simp] theorem State.countDie_clu (s : State) (d src arg n : Nat) (b : Bool) (i : Nat) : (s.countDie d src arg n b).clu i = s.clu i := rfl
@[simp] theorem State.modDie_die_same (s : State) (i : Nat) (f : Die → Die) : (s.modDie i f).die i = f (s.die i) :=
  spGet_spMod_same _ _ _ _
theorem State.modDie_die_other (s : State) {i j : Nat} (f : Die → Die) (h : j ≠ i) : (s.modDie i f).die j = s.die j :=
  spGet_spMod_other _ _ _ h
@[simp] theorem State.modCtx_die (s : State) (x : Nat) (f : Ctx → Ctx) (i : Nat) : (s.modCtx x f).die i = s.die i := rfl
@[simp] theorem State.modCore_die (s : State) (c : Nat) (f : Core → Core) (i : Nat) : (s.modCore c f).die i = s.die i := rfl
@[simp] theorem State.modClu_die (s : State) (u : Nat) (f : Cluster → Cluster) (i : Nat) : (s.modClu u f).die i = s.die i := rfl
@[simp] theorem State.modPan_die (s : State) (p : Nat) (f : Panel → Panel) (i : Nat) : (s.modPan p f).die i = s.die i := rfl
@[simp] theorem State.setReg_die (s : State) (d off : Nat) (v : Word) (i : Nat) : (s.setReg d off v).die i = s.die i := rfl
@[simp] theorem State.countDie_die (s : State) (d src arg n : Nat) (b : Bool) (i : Nat) : (s.countDie d src arg n b).die i = s.die i := rfl
@[simp] theorem State.modPan_pan_same (s : State) (i : Nat) (f : Panel → Panel) : (s.modPan i f).pan i = f (s.pan i) :=
  spGet_spMod_same _ _ _ _
theorem State.modPan_pan_other (s : State) {i j : Nat} (f : Panel → Panel) (h : j ≠ i) : (s.modPan i f).pan j = s.pan j :=
  spGet_spMod_other _ _ _ h
@[simp] theorem State.modCtx_pan (s : State) (x : Nat) (f : Ctx → Ctx) (i : Nat) : (s.modCtx x f).pan i = s.pan i := rfl
@[simp] theorem State.modCore_pan (s : State) (c : Nat) (f : Core → Core) (i : Nat) : (s.modCore c f).pan i = s.pan i := rfl
@[simp] theorem State.modClu_pan (s : State) (u : Nat) (f : Cluster → Cluster) (i : Nat) : (s.modClu u f).pan i = s.pan i := rfl
@[simp] theorem State.modDie_pan (s : State) (d : Nat) (f : Die → Die) (i : Nat) : (s.modDie d f).pan i = s.pan i := rfl
@[simp] theorem State.setReg_pan (s : State) (d off : Nat) (v : Word) (i : Nat) : (s.setReg d off v).pan i = s.pan i := rfl
@[simp] theorem State.countDie_pan (s : State) (d src arg n : Nat) (b : Bool) (i : Nat) : (s.countDie d src arg n b).pan i = s.pan i := rfl

/-! ## A context's fields beside the one changed -/

@[simp] theorem Ctx.push_st (c : Ctx) (n : Snap) : (c.push n).st = c.st := rfl
@[simp] theorem Ctx.push_pc (c : Ctx) (n : Snap) : (c.push n).pc = c.pc := rfl
@[simp] theorem Ctx.push_count (c : Ctx) (n : Snap) : (c.push n).count = c.count := rfl
@[simp] theorem Ctx.push_s (c : Ctx) (n : Snap) : (c.push n).s = c.s := rfl
@[simp] theorem Ctx.push_v (c : Ctx) (n : Snap) : (c.push n).v = c.v := rfl
@[simp] theorem Ctx.push_p (c : Ctx) (n : Snap) : (c.push n).p = c.p := rfl
@[simp] theorem Ctx.push_xs (c : Ctx) (n : Snap) : (c.push n).xs = c.xs := rfl
@[simp] theorem Ctx.push_h (c : Ctx) (n : Snap) : (c.push n).h = c.h := rfl
@[simp] theorem Ctx.push_td (c : Ctx) (n : Snap) : (c.push n).td = c.td := rfl
@[simp] theorem Ctx.push_fm (c : Ctx) (n : Snap) : (c.push n).fm = c.fm := rfl
@[simp] theorem Ctx.push_vm (c : Ctx) (n : Snap) : (c.push n).vm = c.vm := rfl
@[simp] theorem Ctx.push_rm (c : Ctx) (n : Snap) : (c.push n).rm = c.rm := rfl
@[simp] theorem Ctx.push_pchk (c : Ctx) (n : Snap) : (c.push n).pchk = c.pchk := rfl
@[simp] theorem Ctx.push_world (c : Ctx) (n : Snap) : (c.push n).world = c.world := rfl
@[simp] theorem Ctx.push_priv (c : Ctx) (n : Snap) : (c.push n).priv = c.priv := rfl
@[simp] theorem Ctx.push_flags (c : Ctx) (n : Snap) : (c.push n).flags = c.flags := rfl
@[simp] theorem Ctx.push_fel (c : Ctx) (n : Snap) : (c.push n).fel = c.fel := rfl
@[simp] theorem Ctx.push_tagV (c : Ctx) (n : Snap) : (c.push n).tagV = c.tagV := rfl
@[simp] theorem Ctx.push_tag (c : Ctx) (n : Snap) : (c.push n).tag = c.tag := rfl
@[simp] theorem Ctx.push_child (c : Ctx) (n : Snap) : (c.push n).child = c.child := rfl
@[simp] theorem Ctx.push_stream (c : Ctx) (n : Snap) : (c.push n).stream = c.stream := rfl
@[simp] theorem Ctx.push_prio (c : Ctx) (n : Snap) : (c.push n).prio = c.prio := rfl
@[simp] theorem Ctx.push_disc (c : Ctx) (n : Snap) : (c.push n).disc = c.disc := rfl
@[simp] theorem Ctx.push_loops (c : Ctx) (n : Snap) : (c.push n).loops = c.loops := rfl
@[simp] theorem Ctx.push_tokens (c : Ctx) (n : Snap) : (c.push n).tokens = c.tokens := rfl
@[simp] theorem Ctx.push_regions (c : Ctx) (n : Snap) : (c.push n).regions = c.regions := rfl
@[simp] theorem Ctx.push_longs (c : Ctx) (n : Snap) : (c.push n).longs = c.longs := rfl
@[simp] theorem Ctx.push_nextLong (c : Ctx) (n : Snap) : (c.push n).nextLong = c.nextLong := rfl
@[simp] theorem Ctx.push_origin (c : Ctx) (n : Snap) : (c.push n).origin = c.origin := rfl
@[simp] theorem Ctx.push_why (c : Ctx) (n : Snap) : (c.push n).why = c.why := rfl
@[simp] theorem Ctx.push_seen (c : Ctx) (n : Snap) : (c.push n).seen = c.seen := rfl
@[simp] theorem Ctx.push_mine (c : Ctx) (n : Snap) : (c.push n).mine = c.mine := rfl
@[simp] theorem Ctx.push_fences (c : Ctx) (n : Snap) : (c.push n).fences = c.fences := rfl
@[simp] theorem Ctx.push_watch (c : Ctx) (n : Snap) : (c.push n).watch = c.watch := rfl
@[simp] theorem Ctx.push_shoot (c : Ctx) (n : Snap) : (c.push n).shoot = c.shoot := rfl
@[simp] theorem Ctx.push_held (c : Ctx) (n : Snap) : (c.push n).held = c.held := rfl
@[simp] theorem Ctx.push_life (c : Ctx) (n : Snap) : (c.push n).life = c.life := rfl
@[simp] theorem Ctx.push_snaps (c : Ctx) (n : Snap) : (c.push n).snaps = c.snaps ++ [n] := rfl
@[simp] theorem Ctx.record_st (c : Ctx) (g : BitVec 7) (e : Option LogEv) : (c.record g e).st = c.st := rfl
@[simp] theorem Ctx.record_pc (c : Ctx) (g : BitVec 7) (e : Option LogEv) : (c.record g e).pc = c.pc := rfl
@[simp] theorem Ctx.record_count (c : Ctx) (g : BitVec 7) (e : Option LogEv) : (c.record g e).count = c.count := rfl
@[simp] theorem Ctx.record_s (c : Ctx) (g : BitVec 7) (e : Option LogEv) : (c.record g e).s = c.s := rfl
@[simp] theorem Ctx.record_v (c : Ctx) (g : BitVec 7) (e : Option LogEv) : (c.record g e).v = c.v := rfl
@[simp] theorem Ctx.record_p (c : Ctx) (g : BitVec 7) (e : Option LogEv) : (c.record g e).p = c.p := rfl
@[simp] theorem Ctx.record_xs (c : Ctx) (g : BitVec 7) (e : Option LogEv) : (c.record g e).xs = c.xs := rfl
@[simp] theorem Ctx.record_h (c : Ctx) (g : BitVec 7) (e : Option LogEv) : (c.record g e).h = c.h := rfl
@[simp] theorem Ctx.record_td (c : Ctx) (g : BitVec 7) (e : Option LogEv) : (c.record g e).td = c.td := rfl
@[simp] theorem Ctx.record_fm (c : Ctx) (g : BitVec 7) (e : Option LogEv) : (c.record g e).fm = c.fm := rfl
@[simp] theorem Ctx.record_vm (c : Ctx) (g : BitVec 7) (e : Option LogEv) : (c.record g e).vm = c.vm := rfl
@[simp] theorem Ctx.record_rm (c : Ctx) (g : BitVec 7) (e : Option LogEv) : (c.record g e).rm = c.rm := rfl
@[simp] theorem Ctx.record_pchk (c : Ctx) (g : BitVec 7) (e : Option LogEv) : (c.record g e).pchk = c.pchk := rfl
@[simp] theorem Ctx.record_world (c : Ctx) (g : BitVec 7) (e : Option LogEv) : (c.record g e).world = c.world := rfl
@[simp] theorem Ctx.record_priv (c : Ctx) (g : BitVec 7) (e : Option LogEv) : (c.record g e).priv = c.priv := rfl
@[simp] theorem Ctx.record_tagV (c : Ctx) (g : BitVec 7) (e : Option LogEv) : (c.record g e).tagV = c.tagV := rfl
@[simp] theorem Ctx.record_tag (c : Ctx) (g : BitVec 7) (e : Option LogEv) : (c.record g e).tag = c.tag := rfl
@[simp] theorem Ctx.record_child (c : Ctx) (g : BitVec 7) (e : Option LogEv) : (c.record g e).child = c.child := rfl
@[simp] theorem Ctx.record_stream (c : Ctx) (g : BitVec 7) (e : Option LogEv) : (c.record g e).stream = c.stream := rfl
@[simp] theorem Ctx.record_prio (c : Ctx) (g : BitVec 7) (e : Option LogEv) : (c.record g e).prio = c.prio := rfl
@[simp] theorem Ctx.record_disc (c : Ctx) (g : BitVec 7) (e : Option LogEv) : (c.record g e).disc = c.disc := rfl
@[simp] theorem Ctx.record_loops (c : Ctx) (g : BitVec 7) (e : Option LogEv) : (c.record g e).loops = c.loops := rfl
@[simp] theorem Ctx.record_tokens (c : Ctx) (g : BitVec 7) (e : Option LogEv) : (c.record g e).tokens = c.tokens := rfl
@[simp] theorem Ctx.record_regions (c : Ctx) (g : BitVec 7) (e : Option LogEv) : (c.record g e).regions = c.regions := rfl
@[simp] theorem Ctx.record_snaps (c : Ctx) (g : BitVec 7) (e : Option LogEv) : (c.record g e).snaps = c.snaps := rfl
@[simp] theorem Ctx.record_longs (c : Ctx) (g : BitVec 7) (e : Option LogEv) : (c.record g e).longs = c.longs := rfl
@[simp] theorem Ctx.record_nextLong (c : Ctx) (g : BitVec 7) (e : Option LogEv) : (c.record g e).nextLong = c.nextLong := rfl
@[simp] theorem Ctx.record_origin (c : Ctx) (g : BitVec 7) (e : Option LogEv) : (c.record g e).origin = c.origin := rfl
@[simp] theorem Ctx.record_why (c : Ctx) (g : BitVec 7) (e : Option LogEv) : (c.record g e).why = c.why := rfl
@[simp] theorem Ctx.record_seen (c : Ctx) (g : BitVec 7) (e : Option LogEv) : (c.record g e).seen = c.seen := rfl
@[simp] theorem Ctx.record_mine (c : Ctx) (g : BitVec 7) (e : Option LogEv) : (c.record g e).mine = c.mine := rfl
@[simp] theorem Ctx.record_fences (c : Ctx) (g : BitVec 7) (e : Option LogEv) : (c.record g e).fences = c.fences := rfl
@[simp] theorem Ctx.record_watch (c : Ctx) (g : BitVec 7) (e : Option LogEv) : (c.record g e).watch = c.watch := rfl
@[simp] theorem Ctx.record_shoot (c : Ctx) (g : BitVec 7) (e : Option LogEv) : (c.record g e).shoot = c.shoot := rfl
@[simp] theorem Ctx.record_held (c : Ctx) (g : BitVec 7) (e : Option LogEv) : (c.record g e).held = c.held := rfl
@[simp] theorem Ctx.record_life (c : Ctx) (g : BitVec 7) (e : Option LogEv) : (c.record g e).life = c.life := rfl

/-! ## A result in flight -/

@[simp] theorem State.later_cores (s : State) (k l : Nat) (d : Dest) : (s.later k l d).cores = s.cores := rfl
@[simp] theorem State.later_clus (s : State) (k l : Nat) (d : Dest) : (s.later k l d).clus = s.clus := rfl
@[simp] theorem State.later_dies (s : State) (k l : Nat) (d : Dest) : (s.later k l d).dies = s.dies := rfl
@[simp] theorem State.later_pans (s : State) (k l : Nat) (d : Dest) : (s.later k l d).pans = s.pans := rfl
@[simp] theorem State.later_mem (s : State) (k l : Nat) (d : Dest) : (s.later k l d).mem = s.mem := rfl
@[simp] theorem State.later_ctl (s : State) (k l : Nat) (d : Dest) : (s.later k l d).ctl = s.ctl := rfl
@[simp] theorem State.later_bad (s : State) (k l : Nat) (d : Dest) : (s.later k l d).bad = s.bad := rfl
@[simp] theorem State.later_now (s : State) (k l : Nat) (d : Dest) : (s.later k l d).now = s.now := rfl
@[simp] theorem State.later_iss (s : State) (k l : Nat) (d : Dest) : (s.later k l d).iss = s.iss := rfl
@[simp] theorem State.later_agenda (s : State) (k l : Nat) (d : Dest) : (s.later k l d).agenda = s.agenda := rfl
@[simp] theorem State.later_focus (s : State) (k l : Nat) (d : Dest) : (s.later k l d).focus = s.focus := rfl
@[simp] theorem State.later_nextId (s : State) (k l : Nat) (d : Dest) : (s.later k l d).nextId = s.nextId := rfl
@[simp] theorem State.later_pend (s : State) (k l : Nat) (d : Dest) : (s.later k l d).pend = s.pend := rfl
@[simp] theorem State.later_pkts (s : State) (k l : Nat) (d : Dest) : (s.later k l d).pkts = s.pkts := rfl
@[simp] theorem State.later_nextPkt (s : State) (k l : Nat) (d : Dest) : (s.later k l d).nextPkt = s.nextPkt := rfl
@[simp] theorem State.later_left (s : State) (k l : Nat) (d : Dest) : (s.later k l d).left = s.left := rfl
@[simp] theorem State.later_tally (s : State) (k l : Nat) (d : Dest) : (s.later k l d).tally = s.tally := rfl
@[simp] theorem State.later_evBase (s : State) (k l : Nat) (d : Dest) : (s.later k l d).evBase = s.evBase := rfl
@[simp] theorem State.later_evNew (s : State) (k l : Nat) (d : Dest) : (s.later k l d).evNew = s.evNew := rfl
@[simp] theorem State.later_free (s : State) (k l : Nat) (d : Dest) : (s.later k l d).free = s.free := rfl
@[simp] theorem State.later_core (s : State) (k l : Nat) (d : Dest) (i : Nat) : (s.later k l d).core i = s.core i := rfl
@[simp] theorem State.later_clu (s : State) (k l : Nat) (d : Dest) (i : Nat) : (s.later k l d).clu i = s.clu i := rfl
@[simp] theorem State.later_die (s : State) (k l : Nat) (d : Dest) (i : Nat) : (s.later k l d).die i = s.die i := rfl
@[simp] theorem State.later_pan (s : State) (k l : Nat) (d : Dest) (i : Nat) : (s.later k l d).pan i = s.pan i := rfl
@[simp] theorem State.later_ctx_same (s : State) (k l : Nat) (d : Dest) :
    (s.later k l d).ctx s.x = (s.ctx s.x).push (s.snap k l d) := State.modCtx_ctx_same _ _ _
theorem State.later_ctx_other (s : State) (k l : Nat) (d : Dest) {j : Nat} (h : j ≠ s.x) :
    (s.later k l d).ctx j = s.ctx j := State.modCtx_ctx_other _ _ h

end Sys2Proof.Machine
end

