-- ==== Sys2Proof/Laws/Memory.lean ====
section
/-! SUPPORT. Laws of memory: what a byte reads as after a write, and that every write keeps the canonical form. -/

namespace Sys2Proof.Machine

theorem memWf_iff (m : List Host.Cell) : memWf m = true ↔ Rising m ∧ ∀ c ∈ m, c.2 ≠ unwritten := by
  induction m with
  | nil => simp [memWf]
  | cons x t ih =>
    obtain ⟨a, v⟩ := x
    match t, ih with
    | [], _ => simp [memWf]
    | (b, w) :: u, ih =>
      simp only [memWf, Bool.and_eq_true, bne_iff_ne, decide_eq_true_eq, ih, List.pairwise_cons, List.forall_mem_cons]
      constructor
      · rintro ⟨⟨hv, hab⟩, ⟨hb, hu⟩, hw, hr⟩
        exact ⟨⟨⟨hab, fun e he => Nat.lt_trans hab (hb e he)⟩, hb, hu⟩, hv, hw, hr⟩
      · rintro ⟨⟨⟨hab, _⟩, hb, hu⟩, hv, hw, hr⟩
        exact ⟨⟨hv, hab⟩, ⟨hb, hu⟩, hw, hr⟩

theorem memWf_cellSet {m : List Host.Cell} (h : memWf m = true) (a : Nat) (v : Byte) : memWf (cellSet m a v) = true := by
  obtain ⟨hr, hv⟩ := (memWf_iff m).1 h
  unfold cellSet
  split
  · exact (memWf_iff _).2 ⟨rising_spDel hr a, fun c hc => hv c (mem_spDel hc)⟩
  · refine (memWf_iff _).2 ⟨rising_spPut hr a v, fun c hc => ?_⟩
    rcases mem_spPut hc with rfl | hc
    · assumption
    · exact hv c hc

@[simp] theorem cellGet_cellSet_same (m : List Host.Cell) (a : Nat) (v : Byte) : cellGet (cellSet m a v) a = v := by
  unfold cellSet cellGet
  split
  · rename_i h; simp [h]
  · simp

theorem cellGet_cellSet_other (m : List Host.Cell) {a b : Nat} (v : Byte) (h : b ≠ a) :
    cellGet (cellSet m a v) b = cellGet m b := by
  unfold cellSet cellGet
  split
  · exact spGet_spDel_other _ _ h
  · exact spGet_spPut_other _ _ _ h

theorem cellGet_cellSet (m : List Host.Cell) (a b : Nat) (v : Byte) :
    cellGet (cellSet m a v) b = if b = a then v else cellGet m b := by
  by_cases h : b = a
  · subst h; simp
  · simp [h, cellGet_cellSet_other]

/-! ## Every write keeps the canonical form -/

theorem wf_reset : State.reset.wf := rfl

/-- What keeps memory keeps its form. -/
theorem wf_of_mem {s t : State} (h : s.wf) (e : t.mem = s.mem) : t.wf := by unfold State.wf; rw [e]; exact h

theorem wf_clearFlags {s : State} (h : s.wf) (d : Nat) : (s.clearFlags d).wf := by
  obtain ⟨hr, hv⟩ := (memWf_iff s.mem).1 h
  exact (memWf_iff _).2 ⟨List.Pairwise.filter _ hr, fun c hc => hv c (List.mem_filter.1 hc).1⟩

theorem wf_set {s : State} (h : s.wf) (a : Nat) (v : Byte) : State.wf { s with mem := cellSet s.mem a v } :=
  memWf_cellSet h a v

theorem memWf_foldl {α : Type} (g : α → Nat) (v : α → Byte) : ∀ (l : List α) (m : List Host.Cell), memWf m = true →
    memWf (l.foldl (fun m i => cellSet m (g i) (v i)) m) = true
  | [], _, h => h
  | _ :: t, _, h => memWf_foldl g v t _ (memWf_cellSet h _ _)

/-- A property that each step of a fold keeps. -/
theorem foldl_keeps {α β : Type} {P : α → Prop} {f : α → β → α} (hf : ∀ a b, P a → P (f a b)) :
    ∀ (l : List β) (a : α), P a → P (l.foldl f a)
  | [], _, h => h
  | b :: t, _, h => foldl_keeps hf t _ (hf _ b h)

@[simp] theorem State.markDirty_mem (s : State) (a : Nat) : (s.markDirty a).mem = s.mem := by
  unfold State.markDirty
  split
  · split <;> simp
  · rfl

theorem wf_writeSlot {s : State} (h : s.wf) (u base blk : Nat) (l : List Byte) : (s.writeSlot u base blk l).wf := by
  unfold State.writeSlot
  extract_lets slot el on m body bytes
  generalize List.range 136 = r
  exact memWf_foldl (fun i => slot + i) (fun i => bytes.getD i 0) r s.mem h

theorem wf_flushWcb {s : State} (h : s.wf) (u : Nat) (w : WcbEnt) : (s.flushWcb u w).wf := by
  unfold State.flushWcb
  exact wf_writeSlot (wf_of_mem h rfl) u w.base w.blk _

theorem wf_wcbWrite {s : State} (h : s.wf) (u base blk j : Nat) (v : Byte) : (s.wcbWrite u base blk j v).wf := by
  unfold State.wcbWrite
  extract_lets have_ s1 s2 s3
  have h1 : s1.wf := by
    unfold s1
    split
    · exact h
    · split
      · rename_i w _ _
        split
        · exact wf_of_mem (wf_flushWcb h u w) (State.countDie_mem ..)
        · exact h
      · exact h
  have h2 : s2.wf := by
    unfold s2
    split
    · exact h1
    · exact wf_of_mem h1 rfl
  have h3 : s3.wf := wf_of_mem h2 rfl
  split
  · rename_i w _
    split
    · exact wf_flushWcb h3 u w
    · split
      · exact wf_of_mem (wf_flushWcb h3 u w) (State.countDie_mem ..)
      · exact h3
  · exact h3

/-- Every write of memory by an instruction or an event is a sequence of these. -/
theorem wf_putByte {s : State} (h : s.wf) (a : Nat) (v : Byte) : (s.putByte a v).wf := by
  unfold State.putByte
  extract_lets a' s0 s1 u o
  have h1 : s1.wf := wf_of_mem h (s.markDirty_mem a')
  split
  · split
    · rename_i b n _
      split
      · exact wf_wcbWrite h1 u b ((o - b) / 128) ((o - b) % 128) v
      · exact h1
    · exact wf_set h1 a' v
  · exact wf_set h1 a' v

theorem wf_writeBytes (l : List Byte) : ∀ {s : State}, s.wf → ∀ a : Nat, (s.writeBytes a l).wf := by
  induction l with
  | nil => exact fun h _ => h
  | cons b t ih => exact fun h a => ih (wf_putByte h a b) (a + 1)

theorem wf_writeCells (l : List (Nat × Byte)) : ∀ {s : State}, s.wf → (s.writeCells l).wf := by
  induction l with
  | nil => exact fun h => h
  | cons c t ih => exact fun h => ih (wf_putByte h c.1 c.2)

theorem wf_vaWrite (l : List Byte) : ∀ {s : State}, s.wf → ∀ x va : Nat, (s.vaWrite x va l).wf := by
  induction l with
  | nil => exact fun h _ _ => h
  | cons b t ih => exact fun h x va => ih (wf_putByte h (State.vaPa _ x va) b) x (va + 1)

theorem wf_xwrite (l : List Byte) : ∀ {s : State}, s.wf → ∀ (d : Nat) (w : Bool) (va : Nat), (s.xwrite d w va l).1.wf := by
  induction l with
  | nil => exact fun h _ _ _ => h
  | cons b t ih =>
    intro s h d w va
    unfold State.xwrite
    split
    · exact h
    · extract_lets pa
      split
      · exact ih (wf_putByte h _ b) d w (va + 1)
      · exact h

theorem wf_putBits {s : State} (h : s.wf) (l : List Handle) (p w v : Nat) : (s.putBits l p w v).wf :=
  foldl_keeps (P := State.wf) (fun _ _ hs => wf_putByte hs _ _) _ _ h

theorem wf_putRow (d : Desc) (l : List Handle) (r : List Nat) : ∀ {s : State}, s.wf → ∀ e : Nat, (s.putRow l d e r).wf := by
  induction r with
  | nil => exact fun h _ => h
  | cons v t ih => exact fun h e => ih (wf_putBits h _ _ _ _) (e + 1)

theorem wf_overlay {s : State} (h : s.wf) (u : Nat) : (s.overlay u).wf :=
  foldl_keeps (P := State.wf) (fun _ e hs => wf_writeCells e.data hs) _ _ h

/-- A fold whose every step leaves memory alone leaves it alone. -/
theorem foldl_mem {α : Type} {f : State → α → State} (h : ∀ s a, (f s a).mem = s.mem) :
    ∀ (l : List α) (s : State), (l.foldl f s).mem = s.mem
  | [], _ => rfl
  | a :: l, s => (foldl_mem h l (f s a)).trans (h s a)

@[simp] theorem State.countHbm_mem (s : State) (pa n : Nat) (w b : Bool) : (s.countHbm pa n w b).mem = s.mem := by
  unfold State.countHbm
  split <;> simp

@[simp] theorem State.countWalk_mem (s : State) (d : Nat) (w : Bool) (r : Word) (va : Nat) : (s.countWalk d w r va).mem = s.mem := by
  unfold State.countWalk
  split
  · exact foldl_mem (fun _ _ => State.countHbm_mem ..) _ _
  · rfl

/-- Counting HBM traffic leaves memory alone (R343). -/
@[simp] theorem State.countTouch_mem (s : State) (d : Nat) (w : Bool) (l : List (Nat × Nat)) (b : Bool) :
    (s.countTouch d w l b).mem = s.mem := by
  unfold State.countTouch
  refine (foldl_mem (fun s q => ?_) _ _).trans (foldl_mem (fun s q => ?_) _ _)
  · split <;> simp
  · split <;> simp

theorem wf_restoreImages {s : State} (h : s.wf) (p k d : Nat) : (s.restoreImages p k d).1.wf := by
  unfold State.restoreImages
  extract_lets w va regs mask rd l s1 put s2 s3
  split
  · exact h
  · exact h
  · have hput : ∀ (u : State) (pa : Nat) (v : Byte), u.wf → (put u pa v).wf := fun u pa v hu => wf_set hu pa v
    have h1 : s2.wf := foldl_keeps (P := State.wf)
      (fun _ _ hs => foldl_keeps (P := State.wf) (fun _ _ ht => hput _ _ _ ht) _ _ hs) _ _
      (wf_of_mem h (State.countTouch_mem ..))
    exact foldl_keeps (P := State.wf)
      (fun u r hs => wf_of_mem (s := (List.range r.2.2.2).foldl (fun (s : State) j => put s (r.2.2.1 + j) 0) u)
        (foldl_keeps (P := State.wf) (fun _ _ ht => hput _ _ _ ht) _ _ hs) (State.modCtx_mem ..)) regs s2 h1

/-! ## What a read returns after a write, where no region is compressed -/

@[simp] theorem State.markDirty_ctl (s : State) (a : Nat) : (s.markDirty a).ctl = s.ctl := by
  unfold State.markDirty
  split
  · split <;> simp
  · rfl

theorem State.czrAt_none {s : State} (h : s.noRegions) (u o : Nat) : s.czrAt u o = none := by
  unfold State.czrAt
  rw [List.findSome?_eq_none_iff]
  intro i hi
  simp [h u i (List.mem_range.1 hi)]

@[simp] theorem State.markDirty_reg (s : State) (a d o : Nat) : (s.markDirty a).reg d o = s.reg d o := by
  simp [State.reg]

theorem State.noRegions_congr {s t : State} (h : s.noRegions) (e : t.ctl = s.ctl) : t.noRegions := by
  intro u i hi
  rw [← h u i hi]
  simp [State.czr, State.cluReg, State.reg, e]

theorem State.homeOf_congr {s t : State} (e : t.ctl = s.ctl) (a : Nat) : t.homeOf a = s.homeOf a := by
  have hr : ∀ d o, t.reg d o = s.reg d o := fun d o => by simp [State.reg, e]
  unfold State.homeOf State.migOff State.migState
  simp only [hr]

theorem State.byte_plain {s : State} (h : s.noRegions) (a : Nat) : s.byte a = cellGet s.mem (s.homeOf a) := by
  unfold State.byte
  extract_lets a' u o
  rw [State.czrAt_none h]
  exact ite_id _

theorem State.putByte_ctl {s : State} (h : s.noRegions) (a : Nat) (v : Byte) : (s.putByte a v).ctl = s.ctl := by
  unfold State.putByte
  extract_lets a' s0 s1 u o
  have h1 : s1.ctl = s.ctl := s.markDirty_ctl a'
  rw [State.czrAt_none (State.noRegions_congr h h1)]
  split <;> exact h1

theorem State.putByte_mem {s : State} (h : s.noRegions) (a : Nat) (v : Byte) :
    (s.putByte a v).mem = cellSet s.mem (s.homeOf a) v := by
  unfold State.putByte
  extract_lets a' s0 s1 u o
  have h1 : s1.ctl = s.ctl := s.markDirty_ctl a'
  have h2 : s1.mem = s.mem := s.markDirty_mem a'
  rw [State.czrAt_none (State.noRegions_congr h h1)]
  split <;> exact congrArg (cellSet · a' v) h2

/-- A byte written reads back, and every other address reads as before. -/
theorem State.byte_putByte {s : State} (h : s.noRegions) (a b : Nat) (v : Byte) :
    (s.putByte a v).byte b = if s.homeOf b = s.homeOf a then v else s.byte b := by
  have hc := State.putByte_ctl h a v
  rw [State.byte_plain (State.noRegions_congr h hc), State.homeOf_congr hc, State.putByte_mem h, cellGet_cellSet,
    State.byte_plain h]

/-- Bytes written in order have been stored, and nothing else. -/
theorem stored_writeCells : ∀ (l : List (Nat × Byte)) {s : State}, s.noRegions → Stored s (s.writeCells l) l
  | [], s, _ => ⟨fun _ _ => rfl, fun before _ _ _ e => by simp at e⟩
  | (c, v) :: l, s, h => by
    have hc := State.putByte_ctl h c v
    have hh : ∀ a, (s.putByte c v).homeOf a = s.homeOf a := State.homeOf_congr hc
    obtain ⟨h1, h2⟩ := stored_writeCells l (State.noRegions_congr h hc)
    refine ⟨fun a ha => ?_, fun before after a b e hb => ?_⟩
    · rw [State.writeCells, h1 a fun d hd => by rw [hh, hh]; exact ha d (List.mem_cons_of_mem _ hd), State.byte_putByte h,
        if_neg (Ne.symm (ha (c, v) (List.mem_cons_self ..)))]
    · rw [State.writeCells]
      cases before with
      | nil =>
        injection e with e1 e2
        injection e1 with e1 e3
        subst e1 e2 e3
        rw [h1 c fun d hd => by rw [hh, hh]; exact hb d hd, State.byte_putByte h, if_pos rfl]
      | cons d before =>
        injection e with _ e
        subst e
        exact h2 before after a b rfl fun d hd => by rw [hh, hh]; exact hb d hd

end Sys2Proof.Machine
end

