-- ==== Sys2Proof/Laws/PerInstr.lean ====
section
/-! SUPPORT. Decoding undoes encoding, one lemma for each constructor of `Instr` (R51 to R59, R66). -/

namespace Sys2Proof.Laws.Roundtrip

/-- The slot word of the instruction decodes to it in its slot, and its tile word survives the 256 bits. -/
def Statement (i : Instr) : Prop :=
  (∀ k, slotOf i = some k → decodeSlot k (encode i) = .ok i) ∧
  (∀ t, tileWordOf i = some t → decodeTile (encodeTile t) = t)

/-- A slot instruction is judged by its slot word. -/
theorem of_slot {i : Instr} (k : Nat) (hs : slotOf i = some k) (ht : tileWordOf i = none)
    (h : decodeSlot k (encode i) = .ok i) : Statement i :=
  ⟨fun j hj => by rw [hs] at hj; cases hj; exact h, fun t h => by rw [ht] at h; cases h⟩

/-- A step that no word holds has nothing to lose. -/
theorem of_event {i : Instr} (hs : slotOf i = none) (ht : tileWordOf i = none) : Statement i :=
  ⟨fun j hj => by (rw [hs] at hj; cases hj), fun t h => by (rw [ht] at h; cases h)⟩

/-- A field read from the bits that hold it. -/
theorem field {n : Nat} (x : BitVec n) {w : Nat} (h : w % 2 ^ n = x.toNat) : BitVec.ofNat n w = x :=
  BitVec.eq_of_toNat_eq (by rw [BitVec.toNat_ofNat]; exact h)

/-- A word as digits, lowest first: the values, and how many bits each takes. -/
def pack : List Nat → List Nat → Nat
  | v :: l, n :: m => v + 2 ^ n * pack l m
  | _, _ => 0

/-- Every digit fits into its bits. -/
def Fits : List Nat → List Nat → Prop
  | v :: l, n :: m => v < 2 ^ n ∧ Fits l m
  | _, _ => True

/-- The word without its lowest digits. -/
theorem pack_drop : ∀ (l m : List Nat) (i : Nat), l.length = m.length → Fits l m →
    pack l m / 2 ^ (m.take i).sum = pack (l.drop i) (m.drop i) ∧ Fits (l.drop i) (m.drop i)
  | l, m, 0, _, h => by simpa using h
  | [], [], _ + 1, _, _ => by simp [pack, Fits]
  | [], _ :: _, _ + 1, e, _ => by simp at e
  | _ :: _, [], _ + 1, e, _ => by simp at e
  | v :: l, n :: m, i + 1, e, h => by
    have r := pack_drop l m i (by simpa using e) h.2
    refine ⟨?_, r.2⟩
    rw [List.drop_succ_cons, List.drop_succ_cons, ← r.1, List.take_succ_cons, List.sum_cons, Nat.pow_add, ← Nat.div_div_eq_div_mul]
    show (v + 2 ^ n * pack l m) / 2 ^ n / _ = _
    rw [Nat.add_mul_div_left _ _ (Nat.two_pow_pos n), Nat.div_eq_of_lt h.1, Nat.zero_add]

/-- The digit at place `i`, which starts at the bit of weight `p`. -/
theorem digit (l m : List Nat) (i p : Nat) {w v n : Nat} {t r : List Nat} (hw : w = pack l m) (h : Fits l m)
    (e : l.length = m.length) (hl : l.drop i = v :: t) (hm : m.drop i = n :: r) (hp : 2 ^ (m.take i).sum = p) :
    w / p % 2 ^ n = v := by
  have q := pack_drop l m i e h
  rw [hl, hm] at q
  rw [hw, ← hp, q.1]
  show (v + 2 ^ n * pack t r) % 2 ^ n = v
  rw [Nat.add_mul_mod_self_left, Nat.mod_eq_of_lt q.2.1]

/-- The lowest digit. -/
theorem low {w v n : Nat} {t r : List Nat} (hw : w = pack (v :: t) (n :: r)) (h : Fits (v :: t) (n :: r)) : w % 2 ^ n = v := by
  rw [hw]
  show (v + 2 ^ n * pack t r) % 2 ^ n = v
  rw [Nat.add_mul_mod_self_left, Nat.mod_eq_of_lt h.1]

/-- The highest digit. -/
theorem top (l m : List Nat) (i p : Nat) {w v n : Nat} (hw : w = pack l m) (h : Fits l m) (e : l.length = m.length)
    (hl : l.drop i = [v]) (hm : m.drop i = [n]) (hp : 2 ^ (m.take i).sum = p) : w / p = v := by
  have q := pack_drop l m i e h
  rw [hl, hm] at q
  rw [hw, ← hp, q.1]
  show v + 2 ^ n * 0 = v
  rw [Nat.mul_zero, Nat.add_zero]

/-- A flag read from the bit that holds it. -/
theorem flag (b : Bool) {w k : Nat} (h : w / 2 ^ k % 2 = b.toNat) : w.testBit k = b := by
  rw [Nat.testBit_eq_decide_div_mod_eq, h]; cases b <;> rfl

/-- The 256 bits of a tile word hold every field of it. -/
theorem tile_roundtrip (t : TileWord) : decodeTile (encodeTile t) = t := by
  obtain ⟨op, level, split, dm, inv, ord, cof, spec, rsv, func, param, da, db, dc⟩ := t
  have h1 := op.isLt; have h2 := level.isLt; have h3 := split.isLt; have h4 := dm.isLt
  have h5 := inv.toNat_lt; have h6 := ord.toNat_lt; have h7 := cof.toNat_lt; have h8 := spec.toNat_lt
  have h9 := rsv.toNat_lt; have h10 := func.isLt; have h11 := param.isLt; have h12 := da.isLt; have h13 := db.isLt
  have h14 := dc.isLt
  obtain ⟨w, hw⟩ : ∃ w, w = encodeTile ⟨op, level, split, dm, inv, ord, cof, spec, rsv, func, param, da, db, dc⟩ :=
    ⟨_, rfl⟩
  rw [← hw]
  simp only [encodeTile] at hw
  unfold decodeTile
  rw [field op (by omega), field level (by omega), field split (by omega), field dm (by omega), flag inv (by omega),
    flag ord (by omega), flag cof (by omega), flag spec (by omega), flag rsv (by omega), field func (by omega),
    field param (by omega), field da (by omega), field db (by omega), field dc (by omega)]

/-- A tile instruction is judged by its tile word. -/
theorem of_tile {i : Instr} (hs : slotOf i = none) : Statement i :=
  ⟨fun j hj => by (rw [hs] at hj; cases hj), fun t _ => tile_roundtrip t⟩

theorem opC1 {w : Nat} (h : w / 67108864 = 1) : decC w = decC1 w := by unfold decC; rw [h]; rfl
theorem opC2 {w : Nat} (h : w / 67108864 = 2) : decC w = decC2 w := by unfold decC; rw [h]; rfl
theorem opC3 {w : Nat} (h : w / 67108864 = 3) : decC w = decC3 w := by unfold decC; rw [h]; rfl
theorem opC4 {w : Nat} (h : w / 67108864 = 4) : decC w = decC4 w := by unfold decC; rw [h]; rfl
theorem opC5 {w : Nat} (h : w / 67108864 = 5) : decC w = decC5 w := by unfold decC; rw [h]; rfl
theorem opC6 {w : Nat} (h : w / 67108864 = 6) : decC w = decC6 w := by unfold decC; rw [h]; rfl
theorem opC7 {w : Nat} (h : w / 67108864 = 7) : decC w = decC7 w := by unfold decC; rw [h]; rfl
theorem opC8 {w : Nat} (h : w / 67108864 = 8) : decC w = decC8 w := by unfold decC; rw [h]; rfl
theorem opC9 {w : Nat} (h : w / 67108864 = 9) : decC w = decC9 w := by unfold decC; rw [h]; rfl
theorem opC10 {w : Nat} (h : w / 67108864 = 10) : decC w = decC10 w := by unfold decC; rw [h]; rfl
theorem opC11 {w : Nat} (h : w / 67108864 = 11) : decC w = decC11 w := by unfold decC; rw [h]; rfl
theorem opC12 {w : Nat} (h : w / 67108864 = 12) : decC w = decC12 w := by unfold decC; rw [h]; rfl
theorem opC13 {w : Nat} (h : w / 67108864 = 13) : decC w = decC13 w := by unfold decC; rw [h]; rfl
theorem opC14 {w : Nat} (h : w / 67108864 = 14) : decC w = decC14 w := by unfold decC; rw [h]; rfl
theorem opC15 {w : Nat} (h : w / 67108864 = 15) : decC w = decC15 w := by unfold decC; rw [h]; rfl
theorem opC16 {w : Nat} (h : w / 67108864 = 16) : decC w = decC16 w := by unfold decC; rw [h]; rfl
theorem opC17 {w : Nat} (h : w / 67108864 = 17) : decC w = decC17 w := by unfold decC; rw [h]; rfl
theorem opC18 {w : Nat} (h : w / 67108864 = 18) : decC w = decC18 w := by unfold decC; rw [h]; rfl
theorem opC19 {w : Nat} (h : w / 67108864 = 19) : decC w = decC19 w := by unfold decC; rw [h]; rfl
theorem opC20 {w : Nat} (h : w / 67108864 = 20) : decC w = decC20 w := by unfold decC; rw [h]; rfl
theorem opC21 {w : Nat} (h : w / 67108864 = 21) : decC w = decC21 w := by unfold decC; rw [h]; rfl
theorem opC22 {w : Nat} (h : w / 67108864 = 22) : decC w = decC22 w := by unfold decC; rw [h]; rfl
theorem opC23 {w : Nat} (h : w / 67108864 = 23) : decC w = decC23 w := by unfold decC; rw [h]; rfl
theorem opC24 {w : Nat} (h : w / 67108864 = 24) : decC w = decC24 w := by unfold decC; rw [h]; rfl
theorem opC25 {w : Nat} (h : w / 67108864 = 25) : decC w = decC25 w := by unfold decC; rw [h]; rfl
theorem opC26 {w : Nat} (h : w / 67108864 = 26) : decC w = decC26 w := by unfold decC; rw [h]; rfl
theorem opC27 {w : Nat} (h : w / 67108864 = 27) : decC w = decC27 w := by unfold decC; rw [h]; rfl
theorem opC28 {w : Nat} (h : w / 67108864 = 28) : decC w = decC28 w := by unfold decC; rw [h]; rfl
theorem opC29 {w : Nat} (h : w / 67108864 = 29) : decC w = decC29 w := by unfold decC; rw [h]; rfl
theorem opC60 {w : Nat} (h : w / 67108864 = 60) : decC w = decC60 w := by unfold decC; rw [h]; rfl
theorem opM1 {w : Nat} (h : w / 67108864 = 1) : decM w = decM1 w := by unfold decM; rw [h]; rfl
theorem opM2 {w : Nat} (h : w / 67108864 = 2) : decM w = decM2 w := by unfold decM; rw [h]; rfl
theorem opM3 {w : Nat} (h : w / 67108864 = 3) : decM w = decM3 w := by unfold decM; rw [h]; rfl
theorem opM4 {w : Nat} (h : w / 67108864 = 4) : decM w = decM4 w := by unfold decM; rw [h]; rfl
theorem opM5 {w : Nat} (h : w / 67108864 = 5) : decM w = decM5 w := by unfold decM; rw [h]; rfl
theorem opM6 {w : Nat} (h : w / 67108864 = 6) : decM w = decM6 w := by unfold decM; rw [h]; rfl
theorem opM7 {w : Nat} (h : w / 67108864 = 7) : decM w = decM7 w := by unfold decM; rw [h]; rfl
theorem opM8 {w : Nat} (h : w / 67108864 = 8) : decM w = decM8 w := by unfold decM; rw [h]; rfl
theorem opM9 {w : Nat} (h : w / 67108864 = 9) : decM w = decM9 w := by unfold decM; rw [h]; rfl
theorem opM10 {w : Nat} (h : w / 67108864 = 10) : decM w = decM10 w := by unfold decM; rw [h]; rfl
theorem opM11 {w : Nat} (h : w / 67108864 = 11) : decM w = decM11 w := by unfold decM; rw [h]; rfl
theorem opM12 {w : Nat} (h : w / 67108864 = 12) : decM w = decM12 w := by unfold decM; rw [h]; rfl
theorem opM13 {w : Nat} (h : w / 67108864 = 13) : decM w = decM13 w := by unfold decM; rw [h]; rfl
theorem opM14 {w : Nat} (h : w / 67108864 = 14) : decM w = decM14 w := by unfold decM; rw [h]; rfl
theorem opM15 {w : Nat} (h : w / 67108864 = 15) : decM w = decM15 w := by unfold decM; rw [h]; rfl
theorem opM16 {w : Nat} (h : w / 67108864 = 16) : decM w = decM16 w := by unfold decM; rw [h]; rfl
theorem opM17 {w : Nat} (h : w / 67108864 = 17) : decM w = decM17 w := by unfold decM; rw [h]; rfl
theorem opM18 {w : Nat} (h : w / 67108864 = 18) : decM w = decM18 w := by unfold decM; rw [h]; rfl
theorem opM19 {w : Nat} (h : w / 67108864 = 19) : decM w = decM19 w := by unfold decM; rw [h]; rfl
theorem opM20 {w : Nat} (h : w / 67108864 = 20) : decM w = decM20 w := by unfold decM; rw [h]; rfl
theorem opM21 {w : Nat} (h : w / 67108864 = 21) : decM w = decM21 w := by unfold decM; rw [h]; rfl
theorem opM22 {w : Nat} (h : w / 67108864 = 22) : decM w = decM22 w := by unfold decM; rw [h]; rfl
theorem opM23 {w : Nat} (h : w / 67108864 = 23) : decM w = decM23 w := by unfold decM; rw [h]; rfl
theorem opM24 {w : Nat} (h : w / 67108864 = 24) : decM w = decM24 w := by unfold decM; rw [h]; rfl
theorem opM25 {w : Nat} (h : w / 67108864 = 25) : decM w = decM25 w := by unfold decM; rw [h]; rfl
theorem opM26 {w : Nat} (h : w / 67108864 = 26) : decM w = decM26 w := by unfold decM; rw [h]; rfl
theorem opM27 {w : Nat} (h : w / 67108864 = 27) : decM w = decM27 w := by unfold decM; rw [h]; rfl
theorem opM28 {w : Nat} (h : w / 67108864 = 28) : decM w = decM28 w := by unfold decM; rw [h]; rfl
theorem opM29 {w : Nat} (h : w / 67108864 = 29) : decM w = decM29 w := by unfold decM; rw [h]; rfl
theorem opM30 {w : Nat} (h : w / 67108864 = 30) : decM w = decM30 w := by unfold decM; rw [h]; rfl
theorem opM31 {w : Nat} (h : w / 67108864 = 31) : decM w = decM31 w := by unfold decM; rw [h]; rfl
theorem opM32 {w : Nat} (h : w / 67108864 = 32) : decM w = decM32 w := by unfold decM; rw [h]; rfl
theorem opM33 {w : Nat} (h : w / 67108864 = 33) : decM w = decM33 w := by unfold decM; rw [h]; rfl
theorem opM34 {w : Nat} (h : w / 67108864 = 34) : decM w = decM34 w := by unfold decM; rw [h]; rfl
theorem opM35 {w : Nat} (h : w / 67108864 = 35) : decM w = decM35 w := by unfold decM; rw [h]; rfl
theorem opM36 {w : Nat} (h : w / 67108864 = 36) : decM w = decM36 w := by unfold decM; rw [h]; rfl
theorem opM37 {w : Nat} (h : w / 67108864 = 37) : decM w = decM37 w := by unfold decM; rw [h]; rfl
theorem opM38 {w : Nat} (h : w / 67108864 = 38) : decM w = decM38 w := by unfold decM; rw [h]; rfl
theorem opM39 {w : Nat} (h : w / 67108864 = 39) : decM w = decM39 w := by unfold decM; rw [h]; rfl
theorem opM40 {w : Nat} (h : w / 67108864 = 40) : decM w = decM40 w := by unfold decM; rw [h]; rfl
theorem opM41 {w : Nat} (h : w / 67108864 = 41) : decM w = decM41 w := by unfold decM; rw [h]; rfl
theorem opM42 {w : Nat} (h : w / 67108864 = 42) : decM w = decM42 w := by unfold decM; rw [h]; rfl
theorem opT1 {w : Nat} (h : w / 67108864 = 1) : decT w = decT1 w := by unfold decT; rw [h]; rfl
theorem opT2 {w : Nat} (h : w / 67108864 = 2) : decT w = decT2 w := by unfold decT; rw [h]; rfl
theorem opT3 {w : Nat} (h : w / 67108864 = 3) : decT w = decT3 w := by unfold decT; rw [h]; rfl
theorem opT4 {w : Nat} (h : w / 67108864 = 4) : decT w = decT4 w := by unfold decT; rw [h]; rfl
theorem opT5 {w : Nat} (h : w / 67108864 = 5) : decT w = decT5 w := by unfold decT; rw [h]; rfl
theorem opT6 {w : Nat} (h : w / 67108864 = 6) : decT w = decT6 w := by unfold decT; rw [h]; rfl
theorem opT7 {w : Nat} (h : w / 67108864 = 7) : decT w = decT7 w := by unfold decT; rw [h]; rfl
theorem opT8 {w : Nat} (h : w / 67108864 = 8) : decT w = decT8 w := by unfold decT; rw [h]; rfl
theorem opT9 {w : Nat} (h : w / 67108864 = 9) : decT w = decT9 w := by unfold decT; rw [h]; rfl
theorem opT10 {w : Nat} (h : w / 67108864 = 10) : decT w = decT10 w := by unfold decT; rw [h]; rfl
theorem opT11 {w : Nat} (h : w / 67108864 = 11) : decT w = decT11 w := by unfold decT; rw [h]; rfl
theorem opT12 {w : Nat} (h : w / 67108864 = 12) : decT w = decT12 w := by unfold decT; rw [h]; rfl
theorem opT13 {w : Nat} (h : w / 67108864 = 13) : decT w = decT13 w := by unfold decT; rw [h]; rfl
theorem opT14 {w : Nat} (h : w / 67108864 = 14) : decT w = decT14 w := by unfold decT; rw [h]; rfl
theorem opT15 {w : Nat} (h : w / 67108864 = 15) : decT w = decT15 w := by unfold decT; rw [h]; rfl
theorem opT16 {w : Nat} (h : w / 67108864 = 16) : decT w = decT16 w := by unfold decT; rw [h]; rfl
theorem opT17 {w : Nat} (h : w / 67108864 = 17) : decT w = decT17 w := by unfold decT; rw [h]; rfl
theorem opT18 {w : Nat} (h : w / 67108864 = 18) : decT w = decT18 w := by unfold decT; rw [h]; rfl
theorem opT19 {w : Nat} (h : w / 67108864 = 19) : decT w = decT19 w := by unfold decT; rw [h]; rfl
theorem opT20 {w : Nat} (h : w / 67108864 = 20) : decT w = decT20 w := by unfold decT; rw [h]; rfl
theorem opT21 {w : Nat} (h : w / 67108864 = 21) : decT w = decT21 w := by unfold decT; rw [h]; rfl
theorem opT22 {w : Nat} (h : w / 67108864 = 22) : decT w = decT22 w := by unfold decT; rw [h]; rfl
theorem opV1 {w : Nat} (h : w / 67108864 = 1) : decV w = decV1 w := by unfold decV; rw [h]; rfl
theorem opV2 {w : Nat} (h : w / 67108864 = 2) : decV w = decV2 w := by unfold decV; rw [h]; rfl
theorem opV3 {w : Nat} (h : w / 67108864 = 3) : decV w = decV3 w := by unfold decV; rw [h]; rfl
theorem opV4 {w : Nat} (h : w / 67108864 = 4) : decV w = decV4 w := by unfold decV; rw [h]; rfl
theorem opV5 {w : Nat} (h : w / 67108864 = 5) : decV w = decV5 w := by unfold decV; rw [h]; rfl
theorem opV6 {w : Nat} (h : w / 67108864 = 6) : decV w = decV6 w := by unfold decV; rw [h]; rfl
theorem opV7 {w : Nat} (h : w / 67108864 = 7) : decV w = decV7 w := by unfold decV; rw [h]; rfl
theorem opV8 {w : Nat} (h : w / 67108864 = 8) : decV w = decV8 w := by unfold decV; rw [h]; rfl
theorem opV9 {w : Nat} (h : w / 67108864 = 9) : decV w = decV9 w := by unfold decV; rw [h]; rfl
theorem opV10 {w : Nat} (h : w / 67108864 = 10) : decV w = decV10 w := by unfold decV; rw [h]; rfl
theorem opV11 {w : Nat} (h : w / 67108864 = 11) : decV w = decV11 w := by unfold decV; rw [h]; rfl
theorem opV12 {w : Nat} (h : w / 67108864 = 12) : decV w = decV12 w := by unfold decV; rw [h]; rfl
theorem opV13 {w : Nat} (h : w / 67108864 = 13) : decV w = decV13 w := by unfold decV; rw [h]; rfl
theorem opV14 {w : Nat} (h : w / 67108864 = 14) : decV w = decV14 w := by unfold decV; rw [h]; rfl
theorem opV15 {w : Nat} (h : w / 67108864 = 15) : decV w = decV15 w := by unfold decV; rw [h]; rfl
theorem opV16 {w : Nat} (h : w / 67108864 = 16) : decV w = decV16 w := by unfold decV; rw [h]; rfl
theorem opV17 {w : Nat} (h : w / 67108864 = 17) : decV w = decV17 w := by unfold decV; rw [h]; rfl
theorem opV18 {w : Nat} (h : w / 67108864 = 18) : decV w = decV18 w := by unfold decV; rw [h]; rfl
theorem opV19 {w : Nat} (h : w / 67108864 = 19) : decV w = decV19 w := by unfold decV; rw [h]; rfl
theorem opV20 {w : Nat} (h : w / 67108864 = 20) : decV w = decV20 w := by unfold decV; rw [h]; rfl
theorem opV21 {w : Nat} (h : w / 67108864 = 21) : decV w = decV21 w := by unfold decV; rw [h]; rfl
theorem opV22 {w : Nat} (h : w / 67108864 = 22) : decV w = decV22 w := by unfold decV; rw [h]; rfl
theorem opV23 {w : Nat} (h : w / 67108864 = 23) : decV w = decV23 w := by unfold decV; rw [h]; rfl
theorem opV24 {w : Nat} (h : w / 67108864 = 24) : decV w = decV24 w := by unfold decV; rw [h]; rfl
theorem opV25 {w : Nat} (h : w / 67108864 = 25) : decV w = decV25 w := by unfold decV; rw [h]; rfl
theorem opV26 {w : Nat} (h : w / 67108864 = 26) : decV w = decV26 w := by unfold decV; rw [h]; rfl
theorem opV27 {w : Nat} (h : w / 67108864 = 27) : decV w = decV27 w := by unfold decV; rw [h]; rfl
theorem opV28 {w : Nat} (h : w / 67108864 = 28) : decV w = decV28 w := by unfold decV; rw [h]; rfl
theorem opV29 {w : Nat} (h : w / 67108864 = 29) : decV w = decV29 w := by unfold decV; rw [h]; rfl
theorem opV30 {w : Nat} (h : w / 67108864 = 30) : decV w = decV30 w := by unfold decV; rw [h]; rfl
theorem opV31 {w : Nat} (h : w / 67108864 = 31) : decV w = decV31 w := by unfold decV; rw [h]; rfl
theorem opV32 {w : Nat} (h : w / 67108864 = 32) : decV w = decV32 w := by unfold decV; rw [h]; rfl
theorem opV33 {w : Nat} (h : w / 67108864 = 33) : decV w = decV33 w := by unfold decV; rw [h]; rfl

theorem nop : Statement .nop := of_slot 0 rfl rfl rfl

theorem xhdr (e : BitVec 8) (f : BitVec 8) (g : BitVec 8) : Statement (.xhdr e f g) := by
  refine of_slot 0 rfl rfl ?_
  obtain ⟨w, h0⟩ : ∃ w, w = 4026531840 + e.toNat * 65536 + f.toNat * 256 + g.toNat := ⟨_, rfl⟩
  have he : encode (.xhdr e f g) = w := h0.symm
  have hw : w = pack [g.toNat, f.toNat, e.toNat, 0, 60] [8, 8, 8, 2, 6] := by rw [h0]; simp only [pack]; omega
  have hf : Fits [g.toNat, f.toNat, e.toNat, 0, 60] [8, 8, 8, 2, 6] := ⟨g.isLt, f.isLt, e.isLt, by decide, by decide, trivial⟩
  rw [he]; show decC w = _; rw [opC60 (top _ _ 4 67108864 hw hf rfl rfl rfl (by decide))]; unfold decC60
  have e0 : w / 16777216 % 4 = 0 := digit _ _ 3 16777216 hw hf rfl rfl rfl (by decide)
  rw [if_pos e0,
    field e (digit _ _ 2 65536 hw hf rfl rfl rfl (by decide)),
    field f (digit _ _ 1 256 hw hf rfl rfl rfl (by decide)),
    field g (low hw hf)]

theorem add (d : BitVec 5) (a : BitVec 5) (b : BitVec 5) : Statement (.add d a b) := by
  refine of_slot 0 rfl rfl ?_
  obtain ⟨w, h0⟩ : ∃ w, w = 67108864 + d.toNat * 2097152 + a.toNat * 65536 + b.toNat * 2048 := ⟨_, rfl⟩
  have he : encode (.add d a b) = w := h0.symm
  have hw : w = pack [0, b.toNat, a.toNat, d.toNat, 1] [11, 5, 5, 5, 6] := by rw [h0]; simp only [pack]; omega
  have hf : Fits [0, b.toNat, a.toNat, d.toNat, 1] [11, 5, 5, 5, 6] := ⟨by decide, b.isLt, a.isLt, d.isLt, by decide, trivial⟩
  rw [he]; show decC w = _; rw [opC1 (top _ _ 4 67108864 hw hf rfl rfl rfl (by decide))]; unfold decC1
  have e0 : w % 2048 = 0 := low hw hf
  rw [if_pos e0,
    field d (digit _ _ 3 2097152 hw hf rfl rfl rfl (by decide)),
    field a (digit _ _ 2 65536 hw hf rfl rfl rfl (by decide)),
    field b (digit _ _ 1 2048 hw hf rfl rfl rfl (by decide))]

theorem sub (d : BitVec 5) (a : BitVec 5) (b : BitVec 5) : Statement (.sub d a b) := by
  refine of_slot 0 rfl rfl ?_
  obtain ⟨w, h0⟩ : ∃ w, w = 67108865 + d.toNat * 2097152 + a.toNat * 65536 + b.toNat * 2048 := ⟨_, rfl⟩
  have he : encode (.sub d a b) = w := h0.symm
  have hw : w = pack [1, b.toNat, a.toNat, d.toNat, 1] [11, 5, 5, 5, 6] := by rw [h0]; simp only [pack]; omega
  have hf : Fits [1, b.toNat, a.toNat, d.toNat, 1] [11, 5, 5, 5, 6] := ⟨by decide, b.isLt, a.isLt, d.isLt, by decide, trivial⟩
  rw [he]; show decC w = _; rw [opC1 (top _ _ 4 67108864 hw hf rfl rfl rfl (by decide))]; unfold decC1
  have e0 : w % 2048 = 1 := low hw hf
  rw [if_neg (fun h => absurd (e0.symm.trans h) (by decide)),
    if_pos e0,
    field d (digit _ _ 3 2097152 hw hf rfl rfl rfl (by decide)),
    field a (digit _ _ 2 65536 hw hf rfl rfl rfl (by decide)),
    field b (digit _ _ 1 2048 hw hf rfl rfl rfl (by decide))]

theorem and (d : BitVec 5) (a : BitVec 5) (b : BitVec 5) : Statement (.and d a b) := by
  refine of_slot 0 rfl rfl ?_
  obtain ⟨w, h0⟩ : ∃ w, w = 67108866 + d.toNat * 2097152 + a.toNat * 65536 + b.toNat * 2048 := ⟨_, rfl⟩
  have he : encode (.and d a b) = w := h0.symm
  have hw : w = pack [2, b.toNat, a.toNat, d.toNat, 1] [11, 5, 5, 5, 6] := by rw [h0]; simp only [pack]; omega
  have hf : Fits [2, b.toNat, a.toNat, d.toNat, 1] [11, 5, 5, 5, 6] := ⟨by decide, b.isLt, a.isLt, d.isLt, by decide, trivial⟩
  rw [he]; show decC w = _; rw [opC1 (top _ _ 4 67108864 hw hf rfl rfl rfl (by decide))]; unfold decC1
  have e0 : w % 2048 = 2 := low hw hf
  rw [if_neg (fun h => absurd (e0.symm.trans h) (by decide)),
    if_neg (fun h => absurd (e0.symm.trans h) (by decide)),
    if_pos e0,
    field d (digit _ _ 3 2097152 hw hf rfl rfl rfl (by decide)),
    field a (digit _ _ 2 65536 hw hf rfl rfl rfl (by decide)),
    field b (digit _ _ 1 2048 hw hf rfl rfl rfl (by decide))]

theorem or (d : BitVec 5) (a : BitVec 5) (b : BitVec 5) : Statement (.or d a b) := by
  refine of_slot 0 rfl rfl ?_
  obtain ⟨w, h0⟩ : ∃ w, w = 67108867 + d.toNat * 2097152 + a.toNat * 65536 + b.toNat * 2048 := ⟨_, rfl⟩
  have he : encode (.or d a b) = w := h0.symm
  have hw : w = pack [3, b.toNat, a.toNat, d.toNat, 1] [11, 5, 5, 5, 6] := by rw [h0]; simp only [pack]; omega
  have hf : Fits [3, b.toNat, a.toNat, d.toNat, 1] [11, 5, 5, 5, 6] := ⟨by decide, b.isLt, a.isLt, d.isLt, by decide, trivial⟩
  rw [he]; show decC w = _; rw [opC1 (top _ _ 4 67108864 hw hf rfl rfl rfl (by decide))]; unfold decC1
  have e0 : w % 2048 = 3 := low hw hf
  rw [if_neg (fun h => absurd (e0.symm.trans h) (by decide)),
    if_neg (fun h => absurd (e0.symm.trans h) (by decide)),
    if_neg (fun h => absurd (e0.symm.trans h) (by decide)),
    if_pos e0,
    field d (digit _ _ 3 2097152 hw hf rfl rfl rfl (by decide)),
    field a (digit _ _ 2 65536 hw hf rfl rfl rfl (by decide)),
    field b (digit _ _ 1 2048 hw hf rfl rfl rfl (by decide))]

theorem xor (d : BitVec 5) (a : BitVec 5) (b : BitVec 5) : Statement (.xor d a b) := by
  refine of_slot 0 rfl rfl ?_
  obtain ⟨w, h0⟩ : ∃ w, w = 67108868 + d.toNat * 2097152 + a.toNat * 65536 + b.toNat * 2048 := ⟨_, rfl⟩
  have he : encode (.xor d a b) = w := h0.symm
  have hw : w = pack [4, b.toNat, a.toNat, d.toNat, 1] [11, 5, 5, 5, 6] := by rw [h0]; simp only [pack]; omega
  have hf : Fits [4, b.toNat, a.toNat, d.toNat, 1] [11, 5, 5, 5, 6] := ⟨by decide, b.isLt, a.isLt, d.isLt, by decide, trivial⟩
  rw [he]; show decC w = _; rw [opC1 (top _ _ 4 67108864 hw hf rfl rfl rfl (by decide))]; unfold decC1
  have e0 : w % 2048 = 4 := low hw hf
  rw [if_neg (fun h => absurd (e0.symm.trans h) (by decide)),
    if_neg (fun h => absurd (e0.symm.trans h) (by decide)),
    if_neg (fun h => absurd (e0.symm.trans h) (by decide)),
    if_neg (fun h => absurd (e0.symm.trans h) (by decide)),
    if_pos e0,
    field d (digit _ _ 3 2097152 hw hf rfl rfl rfl (by decide)),
    field a (digit _ _ 2 65536 hw hf rfl rfl rfl (by decide)),
    field b (digit _ _ 1 2048 hw hf rfl rfl rfl (by decide))]

theorem andn (d : BitVec 5) (a : BitVec 5) (b : BitVec 5) : Statement (.andn d a b) := by
  refine of_slot 0 rfl rfl ?_
  obtain ⟨w, h0⟩ : ∃ w, w = 67108869 + d.toNat * 2097152 + a.toNat * 65536 + b.toNat * 2048 := ⟨_, rfl⟩
  have he : encode (.andn d a b) = w := h0.symm
  have hw : w = pack [5, b.toNat, a.toNat, d.toNat, 1] [11, 5, 5, 5, 6] := by rw [h0]; simp only [pack]; omega
  have hf : Fits [5, b.toNat, a.toNat, d.toNat, 1] [11, 5, 5, 5, 6] := ⟨by decide, b.isLt, a.isLt, d.isLt, by decide, trivial⟩
  rw [he]; show decC w = _; rw [opC1 (top _ _ 4 67108864 hw hf rfl rfl rfl (by decide))]; unfold decC1
  have e0 : w % 2048 = 5 := low hw hf
  rw [if_neg (fun h => absurd (e0.symm.trans h) (by decide)),
    if_neg (fun h => absurd (e0.symm.trans h) (by decide)),
    if_neg (fun h => absurd (e0.symm.trans h) (by decide)),
    if_neg (fun h => absurd (e0.symm.trans h) (by decide)),
    if_neg (fun h => absurd (e0.symm.trans h) (by decide)),
    if_pos e0,
    field d (digit _ _ 3 2097152 hw hf rfl rfl rfl (by decide)),
    field a (digit _ _ 2 65536 hw hf rfl rfl rfl (by decide)),
    field b (digit _ _ 1 2048 hw hf rfl rfl rfl (by decide))]

theorem shl (d : BitVec 5) (a : BitVec 5) (b : BitVec 5) : Statement (.shl d a b) := by
  refine of_slot 0 rfl rfl ?_
  obtain ⟨w, h0⟩ : ∃ w, w = 67108870 + d.toNat * 2097152 + a.toNat * 65536 + b.toNat * 2048 := ⟨_, rfl⟩
  have he : encode (.shl d a b) = w := h0.symm
  have hw : w = pack [6, b.toNat, a.toNat, d.toNat, 1] [11, 5, 5, 5, 6] := by rw [h0]; simp only [pack]; omega
  have hf : Fits [6, b.toNat, a.toNat, d.toNat, 1] [11, 5, 5, 5, 6] := ⟨by decide, b.isLt, a.isLt, d.isLt, by decide, trivial⟩
  rw [he]; show decC w = _; rw [opC1 (top _ _ 4 67108864 hw hf rfl rfl rfl (by decide))]; unfold decC1
  have e0 : w % 2048 = 6 := low hw hf
  rw [if_neg (fun h => absurd (e0.symm.trans h) (by decide)),
    if_neg (fun h => absurd (e0.symm.trans h) (by decide)),
    if_neg (fun h => absurd (e0.symm.trans h) (by decide)),
    if_neg (fun h => absurd (e0.symm.trans h) (by decide)),
    if_neg (fun h => absurd (e0.symm.trans h) (by decide)),
    if_neg (fun h => absurd (e0.symm.trans h) (by decide)),
    if_pos e0,
    field d (digit _ _ 3 2097152 hw hf rfl rfl rfl (by decide)),
    field a (digit _ _ 2 65536 hw hf rfl rfl rfl (by decide)),
    field b (digit _ _ 1 2048 hw hf rfl rfl rfl (by decide))]

theorem shr (d : BitVec 5) (a : BitVec 5) (b : BitVec 5) : Statement (.shr d a b) := by
  refine of_slot 0 rfl rfl ?_
  obtain ⟨w, h0⟩ : ∃ w, w = 67108871 + d.toNat * 2097152 + a.toNat * 65536 + b.toNat * 2048 := ⟨_, rfl⟩
  have he : encode (.shr d a b) = w := h0.symm
  have hw : w = pack [7, b.toNat, a.toNat, d.toNat, 1] [11, 5, 5, 5, 6] := by rw [h0]; simp only [pack]; omega
  have hf : Fits [7, b.toNat, a.toNat, d.toNat, 1] [11, 5, 5, 5, 6] := ⟨by decide, b.isLt, a.isLt, d.isLt, by decide, trivial⟩
  rw [he]; show decC w = _; rw [opC1 (top _ _ 4 67108864 hw hf rfl rfl rfl (by decide))]; unfold decC1
  have e0 : w % 2048 = 7 := low hw hf
  rw [if_neg (fun h => absurd (e0.symm.trans h) (by decide)),
    if_neg (fun h => absurd (e0.symm.trans h) (by decide)),
    if_neg (fun h => absurd (e0.symm.trans h) (by decide)),
    if_neg (fun h => absurd (e0.symm.trans h) (by decide)),
    if_neg (fun h => absurd (e0.symm.trans h) (by decide)),
    if_neg (fun h => absurd (e0.symm.trans h) (by decide)),
    if_neg (fun h => absurd (e0.symm.trans h) (by decide)),
    if_pos e0,
    field d (digit _ _ 3 2097152 hw hf rfl rfl rfl (by decide)),
    field a (digit _ _ 2 65536 hw hf rfl rfl rfl (by decide)),
    field b (digit _ _ 1 2048 hw hf rfl rfl rfl (by decide))]

theorem sar (d : BitVec 5) (a : BitVec 5) (b : BitVec 5) : Statement (.sar d a b) := by
  refine of_slot 0 rfl rfl ?_
  obtain ⟨w, h0⟩ : ∃ w, w = 67108872 + d.toNat * 2097152 + a.toNat * 65536 + b.toNat * 2048 := ⟨_, rfl⟩
  have he : encode (.sar d a b) = w := h0.symm
  have hw : w = pack [8, b.toNat, a.toNat, d.toNat, 1] [11, 5, 5, 5, 6] := by rw [h0]; simp only [pack]; omega
  have hf : Fits [8, b.toNat, a.toNat, d.toNat, 1] [11, 5, 5, 5, 6] := ⟨by decide, b.isLt, a.isLt, d.isLt, by decide, trivial⟩
  rw [he]; show decC w = _; rw [opC1 (top _ _ 4 67108864 hw hf rfl rfl rfl (by decide))]; unfold decC1
  have e0 : w % 2048 = 8 := low hw hf
  rw [if_neg (fun h => absurd (e0.symm.trans h) (by decide)),
    if_neg (fun h => absurd (e0.symm.trans h) (by decide)),
    if_neg (fun h => absurd (e0.symm.trans h) (by decide)),
    if_neg (fun h => absurd (e0.symm.trans h) (by decide)),
    if_neg (fun h => absurd (e0.symm.trans h) (by decide)),
    if_neg (fun h => absurd (e0.symm.trans h) (by decide)),
    if_neg (fun h => absurd (e0.symm.trans h) (by decide)),
    if_neg (fun h => absurd (e0.symm.trans h) (by decide)),
    if_pos e0,
    field d (digit _ _ 3 2097152 hw hf rfl rfl rfl (by decide)),
    field a (digit _ _ 2 65536 hw hf rfl rfl rfl (by decide)),
    field b (digit _ _ 1 2048 hw hf rfl rfl rfl (by decide))]

theorem rol (d : BitVec 5) (a : BitVec 5) (b : BitVec 5) : Statement (.rol d a b) := by
  refine of_slot 0 rfl rfl ?_
  obtain ⟨w, h0⟩ : ∃ w, w = 67108873 + d.toNat * 2097152 + a.toNat * 65536 + b.toNat * 2048 := ⟨_, rfl⟩
  have he : encode (.rol d a b) = w := h0.symm
  have hw : w = pack [9, b.toNat, a.toNat, d.toNat, 1] [11, 5, 5, 5, 6] := by rw [h0]; simp only [pack]; omega
  have hf : Fits [9, b.toNat, a.toNat, d.toNat, 1] [11, 5, 5, 5, 6] := ⟨by decide, b.isLt, a.isLt, d.isLt, by decide, trivial⟩
  rw [he]; show decC w = _; rw [opC1 (top _ _ 4 67108864 hw hf rfl rfl rfl (by decide))]; unfold decC1
  have e0 : w % 2048 = 9 := low hw hf
  rw [if_neg (fun h => absurd (e0.symm.trans h) (by decide)),
    if_neg (fun h => absurd (e0.symm.trans h) (by decide)),
    if_neg (fun h => absurd (e0.symm.trans h) (by decide)),
    if_neg (fun h => absurd (e0.symm.trans h) (by decide)),
    if_neg (fun h => absurd (e0.symm.trans h) (by decide)),
    if_neg (fun h => absurd (e0.symm.trans h) (by decide)),
    if_neg (fun h => absurd (e0.symm.trans h) (by decide)),
    if_neg (fun h => absurd (e0.symm.trans h) (by decide)),
    if_neg (fun h => absurd (e0.symm.trans h) (by decide)),
    if_pos e0,
    field d (digit _ _ 3 2097152 hw hf rfl rfl rfl (by decide)),
    field a (digit _ _ 2 65536 hw hf rfl rfl rfl (by decide)),
    field b (digit _ _ 1 2048 hw hf rfl rfl rfl (by decide))]

theorem ror (d : BitVec 5) (a : BitVec 5) (b : BitVec 5) : Statement (.ror d a b) := by
  refine of_slot 0 rfl rfl ?_
  obtain ⟨w, h0⟩ : ∃ w, w = 67108874 + d.toNat * 2097152 + a.toNat * 65536 + b.toNat * 2048 := ⟨_, rfl⟩
  have he : encode (.ror d a b) = w := h0.symm
  have hw : w = pack [10, b.toNat, a.toNat, d.toNat, 1] [11, 5, 5, 5, 6] := by rw [h0]; simp only [pack]; omega
  have hf : Fits [10, b.toNat, a.toNat, d.toNat, 1] [11, 5, 5, 5, 6] := ⟨by decide, b.isLt, a.isLt, d.isLt, by decide, trivial⟩
  rw [he]; show decC w = _; rw [opC1 (top _ _ 4 67108864 hw hf rfl rfl rfl (by decide))]; unfold decC1
  have e0 : w % 2048 = 10 := low hw hf
  rw [if_neg (fun h => absurd (e0.symm.trans h) (by decide)),
    if_neg (fun h => absurd (e0.symm.trans h) (by decide)),
    if_neg (fun h => absurd (e0.symm.trans h) (by decide)),
    if_neg (fun h => absurd (e0.symm.trans h) (by decide)),
    if_neg (fun h => absurd (e0.symm.trans h) (by decide)),
    if_neg (fun h => absurd (e0.symm.trans h) (by decide)),
    if_neg (fun h => absurd (e0.symm.trans h) (by decide)),
    if_neg (fun h => absurd (e0.symm.trans h) (by decide)),
    if_neg (fun h => absurd (e0.symm.trans h) (by decide)),
    if_neg (fun h => absurd (e0.symm.trans h) (by decide)),
    if_pos e0,
    field d (digit _ _ 3 2097152 hw hf rfl rfl rfl (by decide)),
    field a (digit _ _ 2 65536 hw hf rfl rfl rfl (by decide)),
    field b (digit _ _ 1 2048 hw hf rfl rfl rfl (by decide))]

theorem min (d : BitVec 5) (a : BitVec 5) (b : BitVec 5) : Statement (.min d a b) := by
  refine of_slot 0 rfl rfl ?_
  obtain ⟨w, h0⟩ : ∃ w, w = 67108875 + d.toNat * 2097152 + a.toNat * 65536 + b.toNat * 2048 := ⟨_, rfl⟩
  have he : encode (.min d a b) = w := h0.symm
  have hw : w = pack [11, b.toNat, a.toNat, d.toNat, 1] [11, 5, 5, 5, 6] := by rw [h0]; simp only [pack]; omega
  have hf : Fits [11, b.toNat, a.toNat, d.toNat, 1] [11, 5, 5, 5, 6] := ⟨by decide, b.isLt, a.isLt, d.isLt, by decide, trivial⟩
  rw [he]; show decC w = _; rw [opC1 (top _ _ 4 67108864 hw hf rfl rfl rfl (by decide))]; unfold decC1
  have e0 : w % 2048 = 11 := low hw hf
  rw [if_neg (fun h => absurd (e0.symm.trans h) (by decide)),
    if_neg (fun h => absurd (e0.symm.trans h) (by decide)),
    if_neg (fun h => absurd (e0.symm.trans h) (by decide)),
    if_neg (fun h => absurd (e0.symm.trans h) (by decide)),
    if_neg (fun h => absurd (e0.symm.trans h) (by decide)),
    if_neg (fun h => absurd (e0.symm.trans h) (by decide)),
    if_neg (fun h => absurd (e0.symm.trans h) (by decide)),
    if_neg (fun h => absurd (e0.symm.trans h) (by decide)),
    if_neg (fun h => absurd (e0.symm.trans h) (by decide)),
    if_neg (fun h => absurd (e0.symm.trans h) (by decide)),
    if_neg (fun h => absurd (e0.symm.trans h) (by decide)),
    if_pos e0,
    field d (digit _ _ 3 2097152 hw hf rfl rfl rfl (by decide)),
    field a (digit _ _ 2 65536 hw hf rfl rfl rfl (by decide)),
    field b (digit _ _ 1 2048 hw hf rfl rfl rfl (by decide))]

theorem max (d : BitVec 5) (a : BitVec 5) (b : BitVec 5) : Statement (.max d a b) := by
  refine of_slot 0 rfl rfl ?_
  obtain ⟨w, h0⟩ : ∃ w, w = 67108876 + d.toNat * 2097152 + a.toNat * 65536 + b.toNat * 2048 := ⟨_, rfl⟩
  have he : encode (.max d a b) = w := h0.symm
  have hw : w = pack [12, b.toNat, a.toNat, d.toNat, 1] [11, 5, 5, 5, 6] := by rw [h0]; simp only [pack]; omega
  have hf : Fits [12, b.toNat, a.toNat, d.toNat, 1] [11, 5, 5, 5, 6] := ⟨by decide, b.isLt, a.isLt, d.isLt, by decide, trivial⟩
  rw [he]; show decC w = _; rw [opC1 (top _ _ 4 67108864 hw hf rfl rfl rfl (by decide))]; unfold decC1
  have e0 : w % 2048 = 12 := low hw hf
  rw [if_neg (fun h => absurd (e0.symm.trans h) (by decide)),
    if_neg (fun h => absurd (e0.symm.trans h) (by decide)),
    if_neg (fun h => absurd (e0.symm.trans h) (by decide)),
    if_neg (fun h => absurd (e0.symm.trans h) (by decide)),
    if_neg (fun h => absurd (e0.symm.trans h) (by decide)),
    if_neg (fun h => absurd (e0.symm.trans h) (by decide)),
    if_neg (fun h => absurd (e0.symm.trans h) (by decide)),
    if_neg (fun h => absurd (e0.symm.trans h) (by decide)),
    if_neg (fun h => absurd (e0.symm.trans h) (by decide)),
    if_neg (fun h => absurd (e0.symm.trans h) (by decide)),
    if_neg (fun h => absurd (e0.symm.trans h) (by decide)),
    if_neg (fun h => absurd (e0.symm.trans h) (by decide)),
    if_pos e0,
    field d (digit _ _ 3 2097152 hw hf rfl rfl rfl (by decide)),
    field a (digit _ _ 2 65536 hw hf rfl rfl rfl (by decide)),
    field b (digit _ _ 1 2048 hw hf rfl rfl rfl (by decide))]

theorem minu (d : BitVec 5) (a : BitVec 5) (b : BitVec 5) : Statement (.minu d a b) := by
  refine of_slot 0 rfl rfl ?_
  obtain ⟨w, h0⟩ : ∃ w, w = 67108877 + d.toNat * 2097152 + a.toNat * 65536 + b.toNat * 2048 := ⟨_, rfl⟩
  have he : encode (.minu d a b) = w := h0.symm
  have hw : w = pack [13, b.toNat, a.toNat, d.toNat, 1] [11, 5, 5, 5, 6] := by rw [h0]; simp only [pack]; omega
  have hf : Fits [13, b.toNat, a.toNat, d.toNat, 1] [11, 5, 5, 5, 6] := ⟨by decide, b.isLt, a.isLt, d.isLt, by decide, trivial⟩
  rw [he]; show decC w = _; rw [opC1 (top _ _ 4 67108864 hw hf rfl rfl rfl (by decide))]; unfold decC1
  have e0 : w % 2048 = 13 := low hw hf
  rw [if_neg (fun h => absurd (e0.symm.trans h) (by decide)),
    if_neg (fun h => absurd (e0.symm.trans h) (by decide)),
    if_neg (fun h => absurd (e0.symm.trans h) (by decide)),
    if_neg (fun h => absurd (e0.symm.trans h) (by decide)),
    if_neg (fun h => absurd (e0.symm.trans h) (by decide)),
    if_neg (fun h => absurd (e0.symm.trans h) (by decide)),
    if_neg (fun h => absurd (e0.symm.trans h) (by decide)),
    if_neg (fun h => absurd (e0.symm.trans h) (by decide)),
    if_neg (fun h => absurd (e0.symm.trans h) (by decide)),
    if_neg (fun h => absurd (e0.symm.trans h) (by decide)),
    if_neg (fun h => absurd (e0.symm.trans h) (by decide)),
    if_neg (fun h => absurd (e0.symm.trans h) (by decide)),
    if_neg (fun h => absurd (e0.symm.trans h) (by decide)),
    if_pos e0,
    field d (digit _ _ 3 2097152 hw hf rfl rfl rfl (by decide)),
    field a (digit _ _ 2 65536 hw hf rfl rfl rfl (by decide)),
    field b (digit _ _ 1 2048 hw hf rfl rfl rfl (by decide))]

theorem maxu (d : BitVec 5) (a : BitVec 5) (b : BitVec 5) : Statement (.maxu d a b) := by
  refine of_slot 0 rfl rfl ?_
  obtain ⟨w, h0⟩ : ∃ w, w = 67108878 + d.toNat * 2097152 + a.toNat * 65536 + b.toNat * 2048 := ⟨_, rfl⟩
  have he : encode (.maxu d a b) = w := h0.symm
  have hw : w = pack [14, b.toNat, a.toNat, d.toNat, 1] [11, 5, 5, 5, 6] := by rw [h0]; simp only [pack]; omega
  have hf : Fits [14, b.toNat, a.toNat, d.toNat, 1] [11, 5, 5, 5, 6] := ⟨by decide, b.isLt, a.isLt, d.isLt, by decide, trivial⟩
  rw [he]; show decC w = _; rw [opC1 (top _ _ 4 67108864 hw hf rfl rfl rfl (by decide))]; unfold decC1
  have e0 : w % 2048 = 14 := low hw hf
  rw [if_neg (fun h => absurd (e0.symm.trans h) (by decide)),
    if_neg (fun h => absurd (e0.symm.trans h) (by decide)),
    if_neg (fun h => absurd (e0.symm.trans h) (by decide)),
    if_neg (fun h => absurd (e0.symm.trans h) (by decide)),
    if_neg (fun h => absurd (e0.symm.trans h) (by decide)),
    if_neg (fun h => absurd (e0.symm.trans h) (by decide)),
    if_neg (fun h => absurd (e0.symm.trans h) (by decide)),
    if_neg (fun h => absurd (e0.symm.trans h) (by decide)),
    if_neg (fun h => absurd (e0.symm.trans h) (by decide)),
    if_neg (fun h => absurd (e0.symm.trans h) (by decide)),
    if_neg (fun h => absurd (e0.symm.trans h) (by decide)),
    if_neg (fun h => absurd (e0.symm.trans h) (by decide)),
    if_neg (fun h => absurd (e0.symm.trans h) (by decide)),
    if_neg (fun h => absurd (e0.symm.trans h) (by decide)),
    if_pos e0,
    field d (digit _ _ 3 2097152 hw hf rfl rfl rfl (by decide)),
    field a (digit _ _ 2 65536 hw hf rfl rfl rfl (by decide)),
    field b (digit _ _ 1 2048 hw hf rfl rfl rfl (by decide))]

theorem slt (d : BitVec 5) (a : BitVec 5) (b : BitVec 5) : Statement (.slt d a b) := by
  refine of_slot 0 rfl rfl ?_
  obtain ⟨w, h0⟩ : ∃ w, w = 67108879 + d.toNat * 2097152 + a.toNat * 65536 + b.toNat * 2048 := ⟨_, rfl⟩
  have he : encode (.slt d a b) = w := h0.symm
  have hw : w = pack [15, b.toNat, a.toNat, d.toNat, 1] [11, 5, 5, 5, 6] := by rw [h0]; simp only [pack]; omega
  have hf : Fits [15, b.toNat, a.toNat, d.toNat, 1] [11, 5, 5, 5, 6] := ⟨by decide, b.isLt, a.isLt, d.isLt, by decide, trivial⟩
  rw [he]; show decC w = _; rw [opC1 (top _ _ 4 67108864 hw hf rfl rfl rfl (by decide))]; unfold decC1
  have e0 : w % 2048 = 15 := low hw hf
  rw [if_neg (fun h => absurd (e0.symm.trans h) (by decide)),
    if_neg (fun h => absurd (e0.symm.trans h) (by decide)),
    if_neg (fun h => absurd (e0.symm.trans h) (by decide)),
    if_neg (fun h => absurd (e0.symm.trans h) (by decide)),
    if_neg (fun h => absurd (e0.symm.trans h) (by decide)),
    if_neg (fun h => absurd (e0.symm.trans h) (by decide)),
    if_neg (fun h => absurd (e0.symm.trans h) (by decide)),
    if_neg (fun h => absurd (e0.symm.trans h) (by decide)),
    if_neg (fun h => absurd (e0.symm.trans h) (by decide)),
    if_neg (fun h => absurd (e0.symm.trans h) (by decide)),
    if_neg (fun h => absurd (e0.symm.trans h) (by decide)),
    if_neg (fun h => absurd (e0.symm.trans h) (by decide)),
    if_neg (fun h => absurd (e0.symm.trans h) (by decide)),
    if_neg (fun h => absurd (e0.symm.trans h) (by decide)),
    if_neg (fun h => absurd (e0.symm.trans h) (by decide)),
    if_pos e0,
    field d (digit _ _ 3 2097152 hw hf rfl rfl rfl (by decide)),
    field a (digit _ _ 2 65536 hw hf rfl rfl rfl (by decide)),
    field b (digit _ _ 1 2048 hw hf rfl rfl rfl (by decide))]

theorem sltu (d : BitVec 5) (a : BitVec 5) (b : BitVec 5) : Statement (.sltu d a b) := by
  refine of_slot 0 rfl rfl ?_
  obtain ⟨w, h0⟩ : ∃ w, w = 67108880 + d.toNat * 2097152 + a.toNat * 65536 + b.toNat * 2048 := ⟨_, rfl⟩
  have he : encode (.sltu d a b) = w := h0.symm
  have hw : w = pack [16, b.toNat, a.toNat, d.toNat, 1] [11, 5, 5, 5, 6] := by rw [h0]; simp only [pack]; omega
  have hf : Fits [16, b.toNat, a.toNat, d.toNat, 1] [11, 5, 5, 5, 6] := ⟨by decide, b.isLt, a.isLt, d.isLt, by decide, trivial⟩
  rw [he]; show decC w = _; rw [opC1 (top _ _ 4 67108864 hw hf rfl rfl rfl (by decide))]; unfold decC1
  have e0 : w % 2048 = 16 := low hw hf
  rw [if_neg (fun h => absurd (e0.symm.trans h) (by decide)),
    if_neg (fun h => absurd (e0.symm.trans h) (by decide)),
    if_neg (fun h => absurd (e0.symm.trans h) (by decide)),
    if_neg (fun h => absurd (e0.symm.trans h) (by decide)),
    if_neg (fun h => absurd (e0.symm.trans h) (by decide)),
    if_neg (fun h => absurd (e0.symm.trans h) (by decide)),
    if_neg (fun h => absurd (e0.symm.trans h) (by decide)),
    if_neg (fun h => absurd (e0.symm.trans h) (by decide)),
    if_neg (fun h => absurd (e0.symm.trans h) (by decide)),
    if_neg (fun h => absurd (e0.symm.trans h) (by decide)),
    if_neg (fun h => absurd (e0.symm.trans h) (by decide)),
    if_neg (fun h => absurd (e0.symm.trans h) (by decide)),
    if_neg (fun h => absurd (e0.symm.trans h) (by decide)),
    if_neg (fun h => absurd (e0.symm.trans h) (by decide)),
    if_neg (fun h => absurd (e0.symm.trans h) (by decide)),
    if_neg (fun h => absurd (e0.symm.trans h) (by decide)),
    if_pos e0,
    field d (digit _ _ 3 2097152 hw hf rfl rfl rfl (by decide)),
    field a (digit _ _ 2 65536 hw hf rfl rfl rfl (by decide)),
    field b (digit _ _ 1 2048 hw hf rfl rfl rfl (by decide))]

theorem seq (d : BitVec 5) (a : BitVec 5) (b : BitVec 5) : Statement (.seq d a b) := by
  refine of_slot 0 rfl rfl ?_
  obtain ⟨w, h0⟩ : ∃ w, w = 67108881 + d.toNat * 2097152 + a.toNat * 65536 + b.toNat * 2048 := ⟨_, rfl⟩
  have he : encode (.seq d a b) = w := h0.symm
  have hw : w = pack [17, b.toNat, a.toNat, d.toNat, 1] [11, 5, 5, 5, 6] := by rw [h0]; simp only [pack]; omega
  have hf : Fits [17, b.toNat, a.toNat, d.toNat, 1] [11, 5, 5, 5, 6] := ⟨by decide, b.isLt, a.isLt, d.isLt, by decide, trivial⟩
  rw [he]; show decC w = _; rw [opC1 (top _ _ 4 67108864 hw hf rfl rfl rfl (by decide))]; unfold decC1
  have e0 : w % 2048 = 17 := low hw hf
  rw [if_neg (fun h => absurd (e0.symm.trans h) (by decide)),
    if_neg (fun h => absurd (e0.symm.trans h) (by decide)),
    if_neg (fun h => absurd (e0.symm.trans h) (by decide)),
    if_neg (fun h => absurd (e0.symm.trans h) (by decide)),
    if_neg (fun h => absurd (e0.symm.trans h) (by decide)),
    if_neg (fun h => absurd (e0.symm.trans h) (by decide)),
    if_neg (fun h => absurd (e0.symm.trans h) (by decide)),
    if_neg (fun h => absurd (e0.symm.trans h) (by decide)),
    if_neg (fun h => absurd (e0.symm.trans h) (by decide)),
    if_neg (fun h => absurd (e0.symm.trans h) (by decide)),
    if_neg (fun h => absurd (e0.symm.trans h) (by decide)),
    if_neg (fun h => absurd (e0.symm.trans h) (by decide)),
    if_neg (fun h => absurd (e0.symm.trans h) (by decide)),
    if_neg (fun h => absurd (e0.symm.trans h) (by decide)),
    if_neg (fun h => absurd (e0.symm.trans h) (by decide)),
    if_neg (fun h => absurd (e0.symm.trans h) (by decide)),
    if_neg (fun h => absurd (e0.symm.trans h) (by decide)),
    if_pos e0,
    field d (digit _ _ 3 2097152 hw hf rfl rfl rfl (by decide)),
    field a (digit _ _ 2 65536 hw hf rfl rfl rfl (by decide)),
    field b (digit _ _ 1 2048 hw hf rfl rfl rfl (by decide))]

theorem sne (d : BitVec 5) (a : BitVec 5) (b : BitVec 5) : Statement (.sne d a b) := by
  refine of_slot 0 rfl rfl ?_
  obtain ⟨w, h0⟩ : ∃ w, w = 67108882 + d.toNat * 2097152 + a.toNat * 65536 + b.toNat * 2048 := ⟨_, rfl⟩
  have he : encode (.sne d a b) = w := h0.symm
  have hw : w = pack [18, b.toNat, a.toNat, d.toNat, 1] [11, 5, 5, 5, 6] := by rw [h0]; simp only [pack]; omega
  have hf : Fits [18, b.toNat, a.toNat, d.toNat, 1] [11, 5, 5, 5, 6] := ⟨by decide, b.isLt, a.isLt, d.isLt, by decide, trivial⟩
  rw [he]; show decC w = _; rw [opC1 (top _ _ 4 67108864 hw hf rfl rfl rfl (by decide))]; unfold decC1
  have e0 : w % 2048 = 18 := low hw hf
  rw [if_neg (fun h => absurd (e0.symm.trans h) (by decide)),
    if_neg (fun h => absurd (e0.symm.trans h) (by decide)),
    if_neg (fun h => absurd (e0.symm.trans h) (by decide)),
    if_neg (fun h => absurd (e0.symm.trans h) (by decide)),
    if_neg (fun h => absurd (e0.symm.trans h) (by decide)),
    if_neg (fun h => absurd (e0.symm.trans h) (by decide)),
    if_neg (fun h => absurd (e0.symm.trans h) (by decide)),
    if_neg (fun h => absurd (e0.symm.trans h) (by decide)),
    if_neg (fun h => absurd (e0.symm.trans h) (by decide)),
    if_neg (fun h => absurd (e0.symm.trans h) (by decide)),
    if_neg (fun h => absurd (e0.symm.trans h) (by decide)),
    if_neg (fun h => absurd (e0.symm.trans h) (by decide)),
    if_neg (fun h => absurd (e0.symm.trans h) (by decide)),
    if_neg (fun h => absurd (e0.symm.trans h) (by decide)),
    if_neg (fun h => absurd (e0.symm.trans h) (by decide)),
    if_neg (fun h => absurd (e0.symm.trans h) (by decide)),
    if_neg (fun h => absurd (e0.symm.trans h) (by decide)),
    if_neg (fun h => absurd (e0.symm.trans h) (by decide)),
    if_pos e0,
    field d (digit _ _ 3 2097152 hw hf rfl rfl rfl (by decide)),
    field a (digit _ _ 2 65536 hw hf rfl rfl rfl (by decide)),
    field b (digit _ _ 1 2048 hw hf rfl rfl rfl (by decide))]

theorem addi (d : BitVec 5) (a : BitVec 5) (i : BitVec 16) : Statement (.addi d a i) := by
  refine of_slot 0 rfl rfl ?_
  obtain ⟨w, h0⟩ : ∃ w, w = 134217728 + d.toNat * 2097152 + a.toNat * 65536 + i.toNat := ⟨_, rfl⟩
  have he : encode (.addi d a i) = w := h0.symm
  have hw : w = pack [i.toNat, a.toNat, d.toNat, 2] [16, 5, 5, 6] := by rw [h0]; simp only [pack]; omega
  have hf : Fits [i.toNat, a.toNat, d.toNat, 2] [16, 5, 5, 6] := ⟨i.isLt, a.isLt, d.isLt, by decide, trivial⟩
  rw [he]; show decC w = _; rw [opC2 (top _ _ 3 67108864 hw hf rfl rfl rfl (by decide))]; unfold decC2
  rw [field d (digit _ _ 2 2097152 hw hf rfl rfl rfl (by decide)),
    field a (digit _ _ 1 65536 hw hf rfl rfl rfl (by decide)),
    field i (low hw hf)]

theorem andi (d : BitVec 5) (a : BitVec 5) (i : BitVec 16) : Statement (.andi d a i) := by
  refine of_slot 0 rfl rfl ?_
  obtain ⟨w, h0⟩ : ∃ w, w = 201326592 + d.toNat * 2097152 + a.toNat * 65536 + i.toNat := ⟨_, rfl⟩
  have he : encode (.andi d a i) = w := h0.symm
  have hw : w = pack [i.toNat, a.toNat, d.toNat, 3] [16, 5, 5, 6] := by rw [h0]; simp only [pack]; omega
  have hf : Fits [i.toNat, a.toNat, d.toNat, 3] [16, 5, 5, 6] := ⟨i.isLt, a.isLt, d.isLt, by decide, trivial⟩
  rw [he]; show decC w = _; rw [opC3 (top _ _ 3 67108864 hw hf rfl rfl rfl (by decide))]; unfold decC3
  rw [field d (digit _ _ 2 2097152 hw hf rfl rfl rfl (by decide)),
    field a (digit _ _ 1 65536 hw hf rfl rfl rfl (by decide)),
    field i (low hw hf)]

theorem ori (d : BitVec 5) (a : BitVec 5) (i : BitVec 16) : Statement (.ori d a i) := by
  refine of_slot 0 rfl rfl ?_
  obtain ⟨w, h0⟩ : ∃ w, w = 268435456 + d.toNat * 2097152 + a.toNat * 65536 + i.toNat := ⟨_, rfl⟩
  have he : encode (.ori d a i) = w := h0.symm
  have hw : w = pack [i.toNat, a.toNat, d.toNat, 4] [16, 5, 5, 6] := by rw [h0]; simp only [pack]; omega
  have hf : Fits [i.toNat, a.toNat, d.toNat, 4] [16, 5, 5, 6] := ⟨i.isLt, a.isLt, d.isLt, by decide, trivial⟩
  rw [he]; show decC w = _; rw [opC4 (top _ _ 3 67108864 hw hf rfl rfl rfl (by decide))]; unfold decC4
  rw [field d (digit _ _ 2 2097152 hw hf rfl rfl rfl (by decide)),
    field a (digit _ _ 1 65536 hw hf rfl rfl rfl (by decide)),
    field i (low hw hf)]

theorem xori (d : BitVec 5) (a : BitVec 5) (i : BitVec 16) : Statement (.xori d a i) := by
  refine of_slot 0 rfl rfl ?_
  obtain ⟨w, h0⟩ : ∃ w, w = 335544320 + d.toNat * 2097152 + a.toNat * 65536 + i.toNat := ⟨_, rfl⟩
  have he : encode (.xori d a i) = w := h0.symm
  have hw : w = pack [i.toNat, a.toNat, d.toNat, 5] [16, 5, 5, 6] := by rw [h0]; simp only [pack]; omega
  have hf : Fits [i.toNat, a.toNat, d.toNat, 5] [16, 5, 5, 6] := ⟨i.isLt, a.isLt, d.isLt, by decide, trivial⟩
  rw [he]; show decC w = _; rw [opC5 (top _ _ 3 67108864 hw hf rfl rfl rfl (by decide))]; unfold decC5
  rw [field d (digit _ _ 2 2097152 hw hf rfl rfl rfl (by decide)),
    field a (digit _ _ 1 65536 hw hf rfl rfl rfl (by decide)),
    field i (low hw hf)]

theorem slti (d : BitVec 5) (a : BitVec 5) (i : BitVec 16) : Statement (.slti d a i) := by
  refine of_slot 0 rfl rfl ?_
  obtain ⟨w, h0⟩ : ∃ w, w = 402653184 + d.toNat * 2097152 + a.toNat * 65536 + i.toNat := ⟨_, rfl⟩
  have he : encode (.slti d a i) = w := h0.symm
  have hw : w = pack [i.toNat, a.toNat, d.toNat, 6] [16, 5, 5, 6] := by rw [h0]; simp only [pack]; omega
  have hf : Fits [i.toNat, a.toNat, d.toNat, 6] [16, 5, 5, 6] := ⟨i.isLt, a.isLt, d.isLt, by decide, trivial⟩
  rw [he]; show decC w = _; rw [opC6 (top _ _ 3 67108864 hw hf rfl rfl rfl (by decide))]; unfold decC6
  rw [field d (digit _ _ 2 2097152 hw hf rfl rfl rfl (by decide)),
    field a (digit _ _ 1 65536 hw hf rfl rfl rfl (by decide)),
    field i (low hw hf)]

theorem sltiu (d : BitVec 5) (a : BitVec 5) (i : BitVec 16) : Statement (.sltiu d a i) := by
  refine of_slot 0 rfl rfl ?_
  obtain ⟨w, h0⟩ : ∃ w, w = 469762048 + d.toNat * 2097152 + a.toNat * 65536 + i.toNat := ⟨_, rfl⟩
  have he : encode (.sltiu d a i) = w := h0.symm
  have hw : w = pack [i.toNat, a.toNat, d.toNat, 7] [16, 5, 5, 6] := by rw [h0]; simp only [pack]; omega
  have hf : Fits [i.toNat, a.toNat, d.toNat, 7] [16, 5, 5, 6] := ⟨i.isLt, a.isLt, d.isLt, by decide, trivial⟩
  rw [he]; show decC w = _; rw [opC7 (top _ _ 3 67108864 hw hf rfl rfl rfl (by decide))]; unfold decC7
  rw [field d (digit _ _ 2 2097152 hw hf rfl rfl rfl (by decide)),
    field a (digit _ _ 1 65536 hw hf rfl rfl rfl (by decide)),
    field i (low hw hf)]

theorem shli (d : BitVec 5) (a : BitVec 5) (c : BitVec 6) : Statement (.shli d a c) := by
  refine of_slot 0 rfl rfl ?_
  obtain ⟨w, h0⟩ : ∃ w, w = 536870912 + d.toNat * 2097152 + a.toNat * 65536 + c.toNat := ⟨_, rfl⟩
  have he : encode (.shli d a c) = w := h0.symm
  have hw : w = pack [c.toNat, 0, a.toNat, d.toNat, 8] [6, 10, 5, 5, 6] := by rw [h0]; simp only [pack]; omega
  have hf : Fits [c.toNat, 0, a.toNat, d.toNat, 8] [6, 10, 5, 5, 6] := ⟨c.isLt, by decide, a.isLt, d.isLt, by decide, trivial⟩
  rw [he]; show decC w = _; rw [opC8 (top _ _ 4 67108864 hw hf rfl rfl rfl (by decide))]; unfold decC8
  have e0 : w / 64 % 1024 = 0 := digit _ _ 1 64 hw hf rfl rfl rfl (by decide)
  rw [if_pos e0,
    field d (digit _ _ 3 2097152 hw hf rfl rfl rfl (by decide)),
    field a (digit _ _ 2 65536 hw hf rfl rfl rfl (by decide)),
    field c (low hw hf)]

theorem shri (d : BitVec 5) (a : BitVec 5) (c : BitVec 6) : Statement (.shri d a c) := by
  refine of_slot 0 rfl rfl ?_
  obtain ⟨w, h0⟩ : ∃ w, w = 536870976 + d.toNat * 2097152 + a.toNat * 65536 + c.toNat := ⟨_, rfl⟩
  have he : encode (.shri d a c) = w := h0.symm
  have hw : w = pack [c.toNat, 1, a.toNat, d.toNat, 8] [6, 10, 5, 5, 6] := by rw [h0]; simp only [pack]; omega
  have hf : Fits [c.toNat, 1, a.toNat, d.toNat, 8] [6, 10, 5, 5, 6] := ⟨c.isLt, by decide, a.isLt, d.isLt, by decide, trivial⟩
  rw [he]; show decC w = _; rw [opC8 (top _ _ 4 67108864 hw hf rfl rfl rfl (by decide))]; unfold decC8
  have e0 : w / 64 % 1024 = 1 := digit _ _ 1 64 hw hf rfl rfl rfl (by decide)
  rw [if_neg (fun h => absurd (e0.symm.trans h) (by decide)),
    if_pos e0,
    field d (digit _ _ 3 2097152 hw hf rfl rfl rfl (by decide)),
    field a (digit _ _ 2 65536 hw hf rfl rfl rfl (by decide)),
    field c (low hw hf)]

theorem sari (d : BitVec 5) (a : BitVec 5) (c : BitVec 6) : Statement (.sari d a c) := by
  refine of_slot 0 rfl rfl ?_
  obtain ⟨w, h0⟩ : ∃ w, w = 536871040 + d.toNat * 2097152 + a.toNat * 65536 + c.toNat := ⟨_, rfl⟩
  have he : encode (.sari d a c) = w := h0.symm
  have hw : w = pack [c.toNat, 2, a.toNat, d.toNat, 8] [6, 10, 5, 5, 6] := by rw [h0]; simp only [pack]; omega
  have hf : Fits [c.toNat, 2, a.toNat, d.toNat, 8] [6, 10, 5, 5, 6] := ⟨c.isLt, by decide, a.isLt, d.isLt, by decide, trivial⟩
  rw [he]; show decC w = _; rw [opC8 (top _ _ 4 67108864 hw hf rfl rfl rfl (by decide))]; unfold decC8
  have e0 : w / 64 % 1024 = 2 := digit _ _ 1 64 hw hf rfl rfl rfl (by decide)
  rw [if_neg (fun h => absurd (e0.symm.trans h) (by decide)),
    if_neg (fun h => absurd (e0.symm.trans h) (by decide)),
    if_pos e0,
    field d (digit _ _ 3 2097152 hw hf rfl rfl rfl (by decide)),
    field a (digit _ _ 2 65536 hw hf rfl rfl rfl (by decide)),
    field c (low hw hf)]

theorem roli (d : BitVec 5) (a : BitVec 5) (c : BitVec 6) : Statement (.roli d a c) := by
  refine of_slot 0 rfl rfl ?_
  obtain ⟨w, h0⟩ : ∃ w, w = 536871104 + d.toNat * 2097152 + a.toNat * 65536 + c.toNat := ⟨_, rfl⟩
  have he : encode (.roli d a c) = w := h0.symm
  have hw : w = pack [c.toNat, 3, a.toNat, d.toNat, 8] [6, 10, 5, 5, 6] := by rw [h0]; simp only [pack]; omega
  have hf : Fits [c.toNat, 3, a.toNat, d.toNat, 8] [6, 10, 5, 5, 6] := ⟨c.isLt, by decide, a.isLt, d.isLt, by decide, trivial⟩
  rw [he]; show decC w = _; rw [opC8 (top _ _ 4 67108864 hw hf rfl rfl rfl (by decide))]; unfold decC8
  have e0 : w / 64 % 1024 = 3 := digit _ _ 1 64 hw hf rfl rfl rfl (by decide)
  rw [if_neg (fun h => absurd (e0.symm.trans h) (by decide)),
    if_neg (fun h => absurd (e0.symm.trans h) (by decide)),
    if_neg (fun h => absurd (e0.symm.trans h) (by decide)),
    if_pos e0,
    field d (digit _ _ 3 2097152 hw hf rfl rfl rfl (by decide)),
    field a (digit _ _ 2 65536 hw hf rfl rfl rfl (by decide)),
    field c (low hw hf)]

theorem movi (d : BitVec 5) (i : BitVec 21) : Statement (.movi d i) := by
  refine of_slot 0 rfl rfl ?_
  obtain ⟨w, h0⟩ : ∃ w, w = 603979776 + d.toNat * 2097152 + i.toNat := ⟨_, rfl⟩
  have he : encode (.movi d i) = w := h0.symm
  have hw : w = pack [i.toNat, d.toNat, 9] [21, 5, 6] := by rw [h0]; simp only [pack]; omega
  have hf : Fits [i.toNat, d.toNat, 9] [21, 5, 6] := ⟨i.isLt, d.isLt, by decide, trivial⟩
  rw [he]; show decC w = _; rw [opC9 (top _ _ 2 67108864 hw hf rfl rfl rfl (by decide))]; unfold decC9
  rw [field d (digit _ _ 1 2097152 hw hf rfl rfl rfl (by decide)),
    field i (low hw hf)]

theorem movk (d : BitVec 5) (p : BitVec 2) (i : BitVec 16) : Statement (.movk d p i) := by
  refine of_slot 0 rfl rfl ?_
  obtain ⟨w, h0⟩ : ∃ w, w = 671088640 + d.toNat * 2097152 + p.toNat * 65536 + i.toNat := ⟨_, rfl⟩
  have he : encode (.movk d p i) = w := h0.symm
  have hw : w = pack [i.toNat, p.toNat, 0, d.toNat, 10] [16, 2, 3, 5, 6] := by rw [h0]; simp only [pack]; omega
  have hf : Fits [i.toNat, p.toNat, 0, d.toNat, 10] [16, 2, 3, 5, 6] := ⟨i.isLt, p.isLt, by decide, d.isLt, by decide, trivial⟩
  rw [he]; show decC w = _; rw [opC10 (top _ _ 4 67108864 hw hf rfl rfl rfl (by decide))]; unfold decC10
  have e0 : w / 262144 % 8 = 0 := digit _ _ 2 262144 hw hf rfl rfl rfl (by decide)
  rw [if_pos e0,
    field d (digit _ _ 3 2097152 hw hf rfl rfl rfl (by decide)),
    field p (digit _ _ 1 65536 hw hf rfl rfl rfl (by decide)),
    field i (low hw hf)]

theorem mul (d : BitVec 5) (a : BitVec 5) (b : BitVec 5) : Statement (.mul d a b) := by
  refine of_slot 0 rfl rfl ?_
  obtain ⟨w, h0⟩ : ∃ w, w = 738197504 + d.toNat * 2097152 + a.toNat * 65536 + b.toNat * 2048 := ⟨_, rfl⟩
  have he : encode (.mul d a b) = w := h0.symm
  have hw : w = pack [0, b.toNat, a.toNat, d.toNat, 11] [11, 5, 5, 5, 6] := by rw [h0]; simp only [pack]; omega
  have hf : Fits [0, b.toNat, a.toNat, d.toNat, 11] [11, 5, 5, 5, 6] := ⟨by decide, b.isLt, a.isLt, d.isLt, by decide, trivial⟩
  rw [he]; show decC w = _; rw [opC11 (top _ _ 4 67108864 hw hf rfl rfl rfl (by decide))]; unfold decC11
  have e0 : w % 2048 = 0 := low hw hf
  rw [if_pos e0,
    field d (digit _ _ 3 2097152 hw hf rfl rfl rfl (by decide)),
    field a (digit _ _ 2 65536 hw hf rfl rfl rfl (by decide)),
    field b (digit _ _ 1 2048 hw hf rfl rfl rfl (by decide))]

theorem mulh (d : BitVec 5) (a : BitVec 5) (b : BitVec 5) : Statement (.mulh d a b) := by
  refine of_slot 0 rfl rfl ?_
  obtain ⟨w, h0⟩ : ∃ w, w = 738197505 + d.toNat * 2097152 + a.toNat * 65536 + b.toNat * 2048 := ⟨_, rfl⟩
  have he : encode (.mulh d a b) = w := h0.symm
  have hw : w = pack [1, b.toNat, a.toNat, d.toNat, 11] [11, 5, 5, 5, 6] := by rw [h0]; simp only [pack]; omega
  have hf : Fits [1, b.toNat, a.toNat, d.toNat, 11] [11, 5, 5, 5, 6] := ⟨by decide, b.isLt, a.isLt, d.isLt, by decide, trivial⟩
  rw [he]; show decC w = _; rw [opC11 (top _ _ 4 67108864 hw hf rfl rfl rfl (by decide))]; unfold decC11
  have e0 : w % 2048 = 1 := low hw hf
  rw [if_neg (fun h => absurd (e0.symm.trans h) (by decide)),
    if_pos e0,
    field d (digit _ _ 3 2097152 hw hf rfl rfl rfl (by decide)),
    field a (digit _ _ 2 65536 hw hf rfl rfl rfl (by decide)),
    field b (digit _ _ 1 2048 hw hf rfl rfl rfl (by decide))]

theorem mulhu (d : BitVec 5) (a : BitVec 5) (b : BitVec 5) : Statement (.mulhu d a b) := by
  refine of_slot 0 rfl rfl ?_
  obtain ⟨w, h0⟩ : ∃ w, w = 738197506 + d.toNat * 2097152 + a.toNat * 65536 + b.toNat * 2048 := ⟨_, rfl⟩
  have he : encode (.mulhu d a b) = w := h0.symm
  have hw : w = pack [2, b.toNat, a.toNat, d.toNat, 11] [11, 5, 5, 5, 6] := by rw [h0]; simp only [pack]; omega
  have hf : Fits [2, b.toNat, a.toNat, d.toNat, 11] [11, 5, 5, 5, 6] := ⟨by decide, b.isLt, a.isLt, d.isLt, by decide, trivial⟩
  rw [he]; show decC w = _; rw [opC11 (top _ _ 4 67108864 hw hf rfl rfl rfl (by decide))]; unfold decC11
  have e0 : w % 2048 = 2 := low hw hf
  rw [if_neg (fun h => absurd (e0.symm.trans h) (by decide)),
    if_neg (fun h => absurd (e0.symm.trans h) (by decide)),
    if_pos e0,
    field d (digit _ _ 3 2097152 hw hf rfl rfl rfl (by decide)),
    field a (digit _ _ 2 65536 hw hf rfl rfl rfl (by decide)),
    field b (digit _ _ 1 2048 hw hf rfl rfl rfl (by decide))]

theorem mulhsu (d : BitVec 5) (a : BitVec 5) (b : BitVec 5) : Statement (.mulhsu d a b) := by
  refine of_slot 0 rfl rfl ?_
  obtain ⟨w, h0⟩ : ∃ w, w = 738197507 + d.toNat * 2097152 + a.toNat * 65536 + b.toNat * 2048 := ⟨_, rfl⟩
  have he : encode (.mulhsu d a b) = w := h0.symm
  have hw : w = pack [3, b.toNat, a.toNat, d.toNat, 11] [11, 5, 5, 5, 6] := by rw [h0]; simp only [pack]; omega
  have hf : Fits [3, b.toNat, a.toNat, d.toNat, 11] [11, 5, 5, 5, 6] := ⟨by decide, b.isLt, a.isLt, d.isLt, by decide, trivial⟩
  rw [he]; show decC w = _; rw [opC11 (top _ _ 4 67108864 hw hf rfl rfl rfl (by decide))]; unfold decC11
  have e0 : w % 2048 = 3 := low hw hf
  rw [if_neg (fun h => absurd (e0.symm.trans h) (by decide)),
    if_neg (fun h => absurd (e0.symm.trans h) (by decide)),
    if_neg (fun h => absurd (e0.symm.trans h) (by decide)),
    if_pos e0,
    field d (digit _ _ 3 2097152 hw hf rfl rfl rfl (by decide)),
    field a (digit _ _ 2 65536 hw hf rfl rfl rfl (by decide)),
    field b (digit _ _ 1 2048 hw hf rfl rfl rfl (by decide))]

theorem div (d : BitVec 5) (a : BitVec 5) (b : BitVec 5) : Statement (.div d a b) := by
  refine of_slot 0 rfl rfl ?_
  obtain ⟨w, h0⟩ : ∃ w, w = 805306368 + d.toNat * 2097152 + a.toNat * 65536 + b.toNat * 2048 := ⟨_, rfl⟩
  have he : encode (.div d a b) = w := h0.symm
  have hw : w = pack [0, b.toNat, a.toNat, d.toNat, 12] [11, 5, 5, 5, 6] := by rw [h0]; simp only [pack]; omega
  have hf : Fits [0, b.toNat, a.toNat, d.toNat, 12] [11, 5, 5, 5, 6] := ⟨by decide, b.isLt, a.isLt, d.isLt, by decide, trivial⟩
  rw [he]; show decC w = _; rw [opC12 (top _ _ 4 67108864 hw hf rfl rfl rfl (by decide))]; unfold decC12
  have e0 : w % 2048 = 0 := low hw hf
  rw [if_pos e0,
    field d (digit _ _ 3 2097152 hw hf rfl rfl rfl (by decide)),
    field a (digit _ _ 2 65536 hw hf rfl rfl rfl (by decide)),
    field b (digit _ _ 1 2048 hw hf rfl rfl rfl (by decide))]

theorem divu (d : BitVec 5) (a : BitVec 5) (b : BitVec 5) : Statement (.divu d a b) := by
  refine of_slot 0 rfl rfl ?_
  obtain ⟨w, h0⟩ : ∃ w, w = 805306369 + d.toNat * 2097152 + a.toNat * 65536 + b.toNat * 2048 := ⟨_, rfl⟩
  have he : encode (.divu d a b) = w := h0.symm
  have hw : w = pack [1, b.toNat, a.toNat, d.toNat, 12] [11, 5, 5, 5, 6] := by rw [h0]; simp only [pack]; omega
  have hf : Fits [1, b.toNat, a.toNat, d.toNat, 12] [11, 5, 5, 5, 6] := ⟨by decide, b.isLt, a.isLt, d.isLt, by decide, trivial⟩
  rw [he]; show decC w = _; rw [opC12 (top _ _ 4 67108864 hw hf rfl rfl rfl (by decide))]; unfold decC12
  have e0 : w % 2048 = 1 := low hw hf
  rw [if_neg (fun h => absurd (e0.symm.trans h) (by decide)),
    if_pos e0,
    field d (digit _ _ 3 2097152 hw hf rfl rfl rfl (by decide)),
    field a (digit _ _ 2 65536 hw hf rfl rfl rfl (by decide)),
    field b (digit _ _ 1 2048 hw hf rfl rfl rfl (by decide))]

theorem rem (d : BitVec 5) (a : BitVec 5) (b : BitVec 5) : Statement (.rem d a b) := by
  refine of_slot 0 rfl rfl ?_
  obtain ⟨w, h0⟩ : ∃ w, w = 805306370 + d.toNat * 2097152 + a.toNat * 65536 + b.toNat * 2048 := ⟨_, rfl⟩
  have he : encode (.rem d a b) = w := h0.symm
  have hw : w = pack [2, b.toNat, a.toNat, d.toNat, 12] [11, 5, 5, 5, 6] := by rw [h0]; simp only [pack]; omega
  have hf : Fits [2, b.toNat, a.toNat, d.toNat, 12] [11, 5, 5, 5, 6] := ⟨by decide, b.isLt, a.isLt, d.isLt, by decide, trivial⟩
  rw [he]; show decC w = _; rw [opC12 (top _ _ 4 67108864 hw hf rfl rfl rfl (by decide))]; unfold decC12
  have e0 : w % 2048 = 2 := low hw hf
  rw [if_neg (fun h => absurd (e0.symm.trans h) (by decide)),
    if_neg (fun h => absurd (e0.symm.trans h) (by decide)),
    if_pos e0,
    field d (digit _ _ 3 2097152 hw hf rfl rfl rfl (by decide)),
    field a (digit _ _ 2 65536 hw hf rfl rfl rfl (by decide)),
    field b (digit _ _ 1 2048 hw hf rfl rfl rfl (by decide))]

theorem remu (d : BitVec 5) (a : BitVec 5) (b : BitVec 5) : Statement (.remu d a b) := by
  refine of_slot 0 rfl rfl ?_
  obtain ⟨w, h0⟩ : ∃ w, w = 805306371 + d.toNat * 2097152 + a.toNat * 65536 + b.toNat * 2048 := ⟨_, rfl⟩
  have he : encode (.remu d a b) = w := h0.symm
  have hw : w = pack [3, b.toNat, a.toNat, d.toNat, 12] [11, 5, 5, 5, 6] := by rw [h0]; simp only [pack]; omega
  have hf : Fits [3, b.toNat, a.toNat, d.toNat, 12] [11, 5, 5, 5, 6] := ⟨by decide, b.isLt, a.isLt, d.isLt, by decide, trivial⟩
  rw [he]; show decC w = _; rw [opC12 (top _ _ 4 67108864 hw hf rfl rfl rfl (by decide))]; unfold decC12
  have e0 : w % 2048 = 3 := low hw hf
  rw [if_neg (fun h => absurd (e0.symm.trans h) (by decide)),
    if_neg (fun h => absurd (e0.symm.trans h) (by decide)),
    if_neg (fun h => absurd (e0.symm.trans h) (by decide)),
    if_pos e0,
    field d (digit _ _ 3 2097152 hw hf rfl rfl rfl (by decide)),
    field a (digit _ _ 2 65536 hw hf rfl rfl rfl (by decide)),
    field b (digit _ _ 1 2048 hw hf rfl rfl rfl (by decide))]

theorem clz (d : BitVec 5) (a : BitVec 5) : Statement (.clz d a) := by
  refine of_slot 0 rfl rfl ?_
  obtain ⟨w, h0⟩ : ∃ w, w = 872415232 + d.toNat * 2097152 + a.toNat * 65536 := ⟨_, rfl⟩
  have he : encode (.clz d a) = w := h0.symm
  have hw : w = pack [0, a.toNat, d.toNat, 13] [16, 5, 5, 6] := by rw [h0]; simp only [pack]; omega
  have hf : Fits [0, a.toNat, d.toNat, 13] [16, 5, 5, 6] := ⟨by decide, a.isLt, d.isLt, by decide, trivial⟩
  rw [he]; show decC w = _; rw [opC13 (top _ _ 3 67108864 hw hf rfl rfl rfl (by decide))]; unfold decC13
  have e0 : w % 65536 = 0 := low hw hf
  rw [if_pos e0,
    field d (digit _ _ 2 2097152 hw hf rfl rfl rfl (by decide)),
    field a (digit _ _ 1 65536 hw hf rfl rfl rfl (by decide))]

theorem ctz (d : BitVec 5) (a : BitVec 5) : Statement (.ctz d a) := by
  refine of_slot 0 rfl rfl ?_
  obtain ⟨w, h0⟩ : ∃ w, w = 872415233 + d.toNat * 2097152 + a.toNat * 65536 := ⟨_, rfl⟩
  have he : encode (.ctz d a) = w := h0.symm
  have hw : w = pack [1, a.toNat, d.toNat, 13] [16, 5, 5, 6] := by rw [h0]; simp only [pack]; omega
  have hf : Fits [1, a.toNat, d.toNat, 13] [16, 5, 5, 6] := ⟨by decide, a.isLt, d.isLt, by decide, trivial⟩
  rw [he]; show decC w = _; rw [opC13 (top _ _ 3 67108864 hw hf rfl rfl rfl (by decide))]; unfold decC13
  have e0 : w % 65536 = 1 := low hw hf
  rw [if_neg (fun h => absurd (e0.symm.trans h) (by decide)),
    if_pos e0,
    field d (digit _ _ 2 2097152 hw hf rfl rfl rfl (by decide)),
    field a (digit _ _ 1 65536 hw hf rfl rfl rfl (by decide))]

theorem popc (d : BitVec 5) (a : BitVec 5) : Statement (.popc d a) := by
  refine of_slot 0 rfl rfl ?_
  obtain ⟨w, h0⟩ : ∃ w, w = 872415234 + d.toNat * 2097152 + a.toNat * 65536 := ⟨_, rfl⟩
  have he : encode (.popc d a) = w := h0.symm
  have hw : w = pack [2, a.toNat, d.toNat, 13] [16, 5, 5, 6] := by rw [h0]; simp only [pack]; omega
  have hf : Fits [2, a.toNat, d.toNat, 13] [16, 5, 5, 6] := ⟨by decide, a.isLt, d.isLt, by decide, trivial⟩
  rw [he]; show decC w = _; rw [opC13 (top _ _ 3 67108864 hw hf rfl rfl rfl (by decide))]; unfold decC13
  have e0 : w % 65536 = 2 := low hw hf
  rw [if_neg (fun h => absurd (e0.symm.trans h) (by decide)),
    if_neg (fun h => absurd (e0.symm.trans h) (by decide)),
    if_pos e0,
    field d (digit _ _ 2 2097152 hw hf rfl rfl rfl (by decide)),
    field a (digit _ _ 1 65536 hw hf rfl rfl rfl (by decide))]

theorem brev (d : BitVec 5) (a : BitVec 5) : Statement (.brev d a) := by
  refine of_slot 0 rfl rfl ?_
  obtain ⟨w, h0⟩ : ∃ w, w = 872415235 + d.toNat * 2097152 + a.toNat * 65536 := ⟨_, rfl⟩
  have he : encode (.brev d a) = w := h0.symm
  have hw : w = pack [3, a.toNat, d.toNat, 13] [16, 5, 5, 6] := by rw [h0]; simp only [pack]; omega
  have hf : Fits [3, a.toNat, d.toNat, 13] [16, 5, 5, 6] := ⟨by decide, a.isLt, d.isLt, by decide, trivial⟩
  rw [he]; show decC w = _; rw [opC13 (top _ _ 3 67108864 hw hf rfl rfl rfl (by decide))]; unfold decC13
  have e0 : w % 65536 = 3 := low hw hf
  rw [if_neg (fun h => absurd (e0.symm.trans h) (by decide)),
    if_neg (fun h => absurd (e0.symm.trans h) (by decide)),
    if_neg (fun h => absurd (e0.symm.trans h) (by decide)),
    if_pos e0,
    field d (digit _ _ 2 2097152 hw hf rfl rfl rfl (by decide)),
    field a (digit _ _ 1 65536 hw hf rfl rfl rfl (by decide))]

theorem bytrev (d : BitVec 5) (a : BitVec 5) : Statement (.bytrev d a) := by
  refine of_slot 0 rfl rfl ?_
  obtain ⟨w, h0⟩ : ∃ w, w = 872415236 + d.toNat * 2097152 + a.toNat * 65536 := ⟨_, rfl⟩
  have he : encode (.bytrev d a) = w := h0.symm
  have hw : w = pack [4, a.toNat, d.toNat, 13] [16, 5, 5, 6] := by rw [h0]; simp only [pack]; omega
  have hf : Fits [4, a.toNat, d.toNat, 13] [16, 5, 5, 6] := ⟨by decide, a.isLt, d.isLt, by decide, trivial⟩
  rw [he]; show decC w = _; rw [opC13 (top _ _ 3 67108864 hw hf rfl rfl rfl (by decide))]; unfold decC13
  have e0 : w % 65536 = 4 := low hw hf
  rw [if_neg (fun h => absurd (e0.symm.trans h) (by decide)),
    if_neg (fun h => absurd (e0.symm.trans h) (by decide)),
    if_neg (fun h => absurd (e0.symm.trans h) (by decide)),
    if_neg (fun h => absurd (e0.symm.trans h) (by decide)),
    if_pos e0,
    field d (digit _ _ 2 2097152 hw hf rfl rfl rfl (by decide)),
    field a (digit _ _ 1 65536 hw hf rfl rfl rfl (by decide))]

theorem bfx (d : BitVec 5) (a : BitVec 5) (b : BitVec 5) : Statement (.bfx d a b) := by
  refine of_slot 0 rfl rfl ?_
  obtain ⟨w, h0⟩ : ∃ w, w = 939524096 + d.toNat * 2097152 + a.toNat * 65536 + b.toNat * 2048 := ⟨_, rfl⟩
  have he : encode (.bfx d a b) = w := h0.symm
  have hw : w = pack [0, b.toNat, a.toNat, d.toNat, 14] [11, 5, 5, 5, 6] := by rw [h0]; simp only [pack]; omega
  have hf : Fits [0, b.toNat, a.toNat, d.toNat, 14] [11, 5, 5, 5, 6] := ⟨by decide, b.isLt, a.isLt, d.isLt, by decide, trivial⟩
  rw [he]; show decC w = _; rw [opC14 (top _ _ 4 67108864 hw hf rfl rfl rfl (by decide))]; unfold decC14
  have e0 : w % 2048 = 0 := low hw hf
  rw [if_pos e0,
    field d (digit _ _ 3 2097152 hw hf rfl rfl rfl (by decide)),
    field a (digit _ _ 2 65536 hw hf rfl rfl rfl (by decide)),
    field b (digit _ _ 1 2048 hw hf rfl rfl rfl (by decide))]

theorem bfxz (d : BitVec 5) (a : BitVec 5) (b : BitVec 5) : Statement (.bfxz d a b) := by
  refine of_slot 0 rfl rfl ?_
  obtain ⟨w, h0⟩ : ∃ w, w = 939524097 + d.toNat * 2097152 + a.toNat * 65536 + b.toNat * 2048 := ⟨_, rfl⟩
  have he : encode (.bfxz d a b) = w := h0.symm
  have hw : w = pack [1, b.toNat, a.toNat, d.toNat, 14] [11, 5, 5, 5, 6] := by rw [h0]; simp only [pack]; omega
  have hf : Fits [1, b.toNat, a.toNat, d.toNat, 14] [11, 5, 5, 5, 6] := ⟨by decide, b.isLt, a.isLt, d.isLt, by decide, trivial⟩
  rw [he]; show decC w = _; rw [opC14 (top _ _ 4 67108864 hw hf rfl rfl rfl (by decide))]; unfold decC14
  have e0 : w % 2048 = 1 := low hw hf
  rw [if_neg (fun h => absurd (e0.symm.trans h) (by decide)),
    if_pos e0,
    field d (digit _ _ 3 2097152 hw hf rfl rfl rfl (by decide)),
    field a (digit _ _ 2 65536 hw hf rfl rfl rfl (by decide)),
    field b (digit _ _ 1 2048 hw hf rfl rfl rfl (by decide))]

theorem bfxi (d : BitVec 5) (a : BitVec 5) (w : BitVec 7) (o : BitVec 6) : Statement (.bfxi d a w o) := by
  refine of_slot 0 rfl rfl ?_
  obtain ⟨u, h0⟩ : ∃ u, u = 1006632960 + d.toNat * 2097152 + a.toNat * 65536 + w.toNat * 64 + o.toNat := ⟨_, rfl⟩
  have he : encode (.bfxi d a w o) = u := h0.symm
  have hw : u = pack [o.toNat, w.toNat, 0, a.toNat, d.toNat, 15] [6, 7, 3, 5, 5, 6] := by rw [h0]; simp only [pack]; omega
  have hf : Fits [o.toNat, w.toNat, 0, a.toNat, d.toNat, 15] [6, 7, 3, 5, 5, 6] := ⟨o.isLt, w.isLt, by decide, a.isLt, d.isLt, by decide, trivial⟩
  rw [he]; show decC u = _; rw [opC15 (top _ _ 5 67108864 hw hf rfl rfl rfl (by decide))]; unfold decC15
  have e0 : u / 8192 % 8 = 0 := digit _ _ 2 8192 hw hf rfl rfl rfl (by decide)
  rw [if_pos e0,
    field d (digit _ _ 4 2097152 hw hf rfl rfl rfl (by decide)),
    field a (digit _ _ 3 65536 hw hf rfl rfl rfl (by decide)),
    field w (digit _ _ 1 64 hw hf rfl rfl rfl (by decide)),
    field o (low hw hf)]

theorem bfi (d : BitVec 5) (a : BitVec 5) (b : BitVec 5) : Statement (.bfi d a b) := by
  refine of_slot 0 rfl rfl ?_
  obtain ⟨w, h0⟩ : ∃ w, w = 1073741824 + d.toNat * 2097152 + a.toNat * 65536 + b.toNat * 2048 := ⟨_, rfl⟩
  have he : encode (.bfi d a b) = w := h0.symm
  have hw : w = pack [0, b.toNat, a.toNat, d.toNat, 16] [11, 5, 5, 5, 6] := by rw [h0]; simp only [pack]; omega
  have hf : Fits [0, b.toNat, a.toNat, d.toNat, 16] [11, 5, 5, 5, 6] := ⟨by decide, b.isLt, a.isLt, d.isLt, by decide, trivial⟩
  rw [he]; show decC w = _; rw [opC16 (top _ _ 4 67108864 hw hf rfl rfl rfl (by decide))]; unfold decC16
  have e0 : w % 2048 = 0 := low hw hf
  rw [if_pos e0,
    field d (digit _ _ 3 2097152 hw hf rfl rfl rfl (by decide)),
    field a (digit _ _ 2 65536 hw hf rfl rfl rfl (by decide)),
    field b (digit _ _ 1 2048 hw hf rfl rfl rfl (by decide))]

theorem bfii (d : BitVec 5) (a : BitVec 5) (w : BitVec 7) (o : BitVec 6) : Statement (.bfii d a w o) := by
  refine of_slot 0 rfl rfl ?_
  obtain ⟨u, h0⟩ : ∃ u, u = 1140850688 + d.toNat * 2097152 + a.toNat * 65536 + w.toNat * 64 + o.toNat := ⟨_, rfl⟩
  have he : encode (.bfii d a w o) = u := h0.symm
  have hw : u = pack [o.toNat, w.toNat, 0, a.toNat, d.toNat, 17] [6, 7, 3, 5, 5, 6] := by rw [h0]; simp only [pack]; omega
  have hf : Fits [o.toNat, w.toNat, 0, a.toNat, d.toNat, 17] [6, 7, 3, 5, 5, 6] := ⟨o.isLt, w.isLt, by decide, a.isLt, d.isLt, by decide, trivial⟩
  rw [he]; show decC u = _; rw [opC17 (top _ _ 5 67108864 hw hf rfl rfl rfl (by decide))]; unfold decC17
  have e0 : u / 8192 % 8 = 0 := digit _ _ 2 8192 hw hf rfl rfl rfl (by decide)
  rw [if_pos e0,
    field d (digit _ _ 4 2097152 hw hf rfl rfl rfl (by decide)),
    field a (digit _ _ 3 65536 hw hf rfl rfl rfl (by decide)),
    field w (digit _ _ 1 64 hw hf rfl rfl rfl (by decide)),
    field o (low hw hf)]

theorem sel (d : BitVec 5) (a : BitVec 5) (b : BitVec 5) (c : BitVec 5) : Statement (.sel d a b c) := by
  refine of_slot 0 rfl rfl ?_
  obtain ⟨w, h0⟩ : ∃ w, w = 1207959552 + d.toNat * 2097152 + a.toNat * 65536 + b.toNat * 2048 + c.toNat * 64 := ⟨_, rfl⟩
  have he : encode (.sel d a b c) = w := h0.symm
  have hw : w = pack [0, c.toNat, b.toNat, a.toNat, d.toNat, 18] [6, 5, 5, 5, 5, 6] := by rw [h0]; simp only [pack]; omega
  have hf : Fits [0, c.toNat, b.toNat, a.toNat, d.toNat, 18] [6, 5, 5, 5, 5, 6] := ⟨by decide, c.isLt, b.isLt, a.isLt, d.isLt, by decide, trivial⟩
  rw [he]; show decC w = _; rw [opC18 (top _ _ 5 67108864 hw hf rfl rfl rfl (by decide))]; unfold decC18
  have e0 : w % 64 = 0 := low hw hf
  rw [if_pos e0,
    field d (digit _ _ 4 2097152 hw hf rfl rfl rfl (by decide)),
    field a (digit _ _ 3 65536 hw hf rfl rfl rfl (by decide)),
    field b (digit _ _ 2 2048 hw hf rfl rfl rfl (by decide)),
    field c (digit _ _ 1 64 hw hf rfl rfl rfl (by decide))]

theorem beq (a : BitVec 5) (b : BitVec 5) (o : BitVec 13) : Statement (.beq a b o) := by
  refine of_slot 0 rfl rfl ?_
  obtain ⟨w, h0⟩ : ∃ w, w = 1275068416 + a.toNat * 2097152 + b.toNat * 65536 + o.toNat := ⟨_, rfl⟩
  have he : encode (.beq a b o) = w := h0.symm
  have hw : w = pack [o.toNat, 0, b.toNat, a.toNat, 19] [13, 3, 5, 5, 6] := by rw [h0]; simp only [pack]; omega
  have hf : Fits [o.toNat, 0, b.toNat, a.toNat, 19] [13, 3, 5, 5, 6] := ⟨o.isLt, by decide, b.isLt, a.isLt, by decide, trivial⟩
  rw [he]; show decC w = _; rw [opC19 (top _ _ 4 67108864 hw hf rfl rfl rfl (by decide))]; unfold decC19
  have e0 : w / 8192 % 8 = 0 := digit _ _ 1 8192 hw hf rfl rfl rfl (by decide)
  rw [if_pos e0,
    field a (digit _ _ 3 2097152 hw hf rfl rfl rfl (by decide)),
    field b (digit _ _ 2 65536 hw hf rfl rfl rfl (by decide)),
    field o (low hw hf)]

theorem bne (a : BitVec 5) (b : BitVec 5) (o : BitVec 13) : Statement (.bne a b o) := by
  refine of_slot 0 rfl rfl ?_
  obtain ⟨w, h0⟩ : ∃ w, w = 1275076608 + a.toNat * 2097152 + b.toNat * 65536 + o.toNat := ⟨_, rfl⟩
  have he : encode (.bne a b o) = w := h0.symm
  have hw : w = pack [o.toNat, 1, b.toNat, a.toNat, 19] [13, 3, 5, 5, 6] := by rw [h0]; simp only [pack]; omega
  have hf : Fits [o.toNat, 1, b.toNat, a.toNat, 19] [13, 3, 5, 5, 6] := ⟨o.isLt, by decide, b.isLt, a.isLt, by decide, trivial⟩
  rw [he]; show decC w = _; rw [opC19 (top _ _ 4 67108864 hw hf rfl rfl rfl (by decide))]; unfold decC19
  have e0 : w / 8192 % 8 = 1 := digit _ _ 1 8192 hw hf rfl rfl rfl (by decide)
  rw [if_neg (fun h => absurd (e0.symm.trans h) (by decide)),
    if_pos e0,
    field a (digit _ _ 3 2097152 hw hf rfl rfl rfl (by decide)),
    field b (digit _ _ 2 65536 hw hf rfl rfl rfl (by decide)),
    field o (low hw hf)]

theorem blt (a : BitVec 5) (b : BitVec 5) (o : BitVec 13) : Statement (.blt a b o) := by
  refine of_slot 0 rfl rfl ?_
  obtain ⟨w, h0⟩ : ∃ w, w = 1275084800 + a.toNat * 2097152 + b.toNat * 65536 + o.toNat := ⟨_, rfl⟩
  have he : encode (.blt a b o) = w := h0.symm
  have hw : w = pack [o.toNat, 2, b.toNat, a.toNat, 19] [13, 3, 5, 5, 6] := by rw [h0]; simp only [pack]; omega
  have hf : Fits [o.toNat, 2, b.toNat, a.toNat, 19] [13, 3, 5, 5, 6] := ⟨o.isLt, by decide, b.isLt, a.isLt, by decide, trivial⟩
  rw [he]; show decC w = _; rw [opC19 (top _ _ 4 67108864 hw hf rfl rfl rfl (by decide))]; unfold decC19
  have e0 : w / 8192 % 8 = 2 := digit _ _ 1 8192 hw hf rfl rfl rfl (by decide)
  rw [if_neg (fun h => absurd (e0.symm.trans h) (by decide)),
    if_neg (fun h => absurd (e0.symm.trans h) (by decide)),
    if_pos e0,
    field a (digit _ _ 3 2097152 hw hf rfl rfl rfl (by decide)),
    field b (digit _ _ 2 65536 hw hf rfl rfl rfl (by decide)),
    field o (low hw hf)]

theorem bge (a : BitVec 5) (b : BitVec 5) (o : BitVec 13) : Statement (.bge a b o) := by
  refine of_slot 0 rfl rfl ?_
  obtain ⟨w, h0⟩ : ∃ w, w = 1275092992 + a.toNat * 2097152 + b.toNat * 65536 + o.toNat := ⟨_, rfl⟩
  have he : encode (.bge a b o) = w := h0.symm
  have hw : w = pack [o.toNat, 3, b.toNat, a.toNat, 19] [13, 3, 5, 5, 6] := by rw [h0]; simp only [pack]; omega
  have hf : Fits [o.toNat, 3, b.toNat, a.toNat, 19] [13, 3, 5, 5, 6] := ⟨o.isLt, by decide, b.isLt, a.isLt, by decide, trivial⟩
  rw [he]; show decC w = _; rw [opC19 (top _ _ 4 67108864 hw hf rfl rfl rfl (by decide))]; unfold decC19
  have e0 : w / 8192 % 8 = 3 := digit _ _ 1 8192 hw hf rfl rfl rfl (by decide)
  rw [if_neg (fun h => absurd (e0.symm.trans h) (by decide)),
    if_neg (fun h => absurd (e0.symm.trans h) (by decide)),
    if_neg (fun h => absurd (e0.symm.trans h) (by decide)),
    if_pos e0,
    field a (digit _ _ 3 2097152 hw hf rfl rfl rfl (by decide)),
    field b (digit _ _ 2 65536 hw hf rfl rfl rfl (by decide)),
    field o (low hw hf)]

theorem bltu (a : BitVec 5) (b : BitVec 5) (o : BitVec 13) : Statement (.bltu a b o) := by
  refine of_slot 0 rfl rfl ?_
  obtain ⟨w, h0⟩ : ∃ w, w = 1275101184 + a.toNat * 2097152 + b.toNat * 65536 + o.toNat := ⟨_, rfl⟩
  have he : encode (.bltu a b o) = w := h0.symm
  have hw : w = pack [o.toNat, 4, b.toNat, a.toNat, 19] [13, 3, 5, 5, 6] := by rw [h0]; simp only [pack]; omega
  have hf : Fits [o.toNat, 4, b.toNat, a.toNat, 19] [13, 3, 5, 5, 6] := ⟨o.isLt, by decide, b.isLt, a.isLt, by decide, trivial⟩
  rw [he]; show decC w = _; rw [opC19 (top _ _ 4 67108864 hw hf rfl rfl rfl (by decide))]; unfold decC19
  have e0 : w / 8192 % 8 = 4 := digit _ _ 1 8192 hw hf rfl rfl rfl (by decide)
  rw [if_neg (fun h => absurd (e0.symm.trans h) (by decide)),
    if_neg (fun h => absurd (e0.symm.trans h) (by decide)),
    if_neg (fun h => absurd (e0.symm.trans h) (by decide)),
    if_neg (fun h => absurd (e0.symm.trans h) (by decide)),
    if_pos e0,
    field a (digit _ _ 3 2097152 hw hf rfl rfl rfl (by decide)),
    field b (digit _ _ 2 65536 hw hf rfl rfl rfl (by decide)),
    field o (low hw hf)]

theorem bgeu (a : BitVec 5) (b : BitVec 5) (o : BitVec 13) : Statement (.bgeu a b o) := by
  refine of_slot 0 rfl rfl ?_
  obtain ⟨w, h0⟩ : ∃ w, w = 1275109376 + a.toNat * 2097152 + b.toNat * 65536 + o.toNat := ⟨_, rfl⟩
  have he : encode (.bgeu a b o) = w := h0.symm
  have hw : w = pack [o.toNat, 5, b.toNat, a.toNat, 19] [13, 3, 5, 5, 6] := by rw [h0]; simp only [pack]; omega
  have hf : Fits [o.toNat, 5, b.toNat, a.toNat, 19] [13, 3, 5, 5, 6] := ⟨o.isLt, by decide, b.isLt, a.isLt, by decide, trivial⟩
  rw [he]; show decC w = _; rw [opC19 (top _ _ 4 67108864 hw hf rfl rfl rfl (by decide))]; unfold decC19
  have e0 : w / 8192 % 8 = 5 := digit _ _ 1 8192 hw hf rfl rfl rfl (by decide)
  rw [if_neg (fun h => absurd (e0.symm.trans h) (by decide)),
    if_neg (fun h => absurd (e0.symm.trans h) (by decide)),
    if_neg (fun h => absurd (e0.symm.trans h) (by decide)),
    if_neg (fun h => absurd (e0.symm.trans h) (by decide)),
    if_neg (fun h => absurd (e0.symm.trans h) (by decide)),
    if_pos e0,
    field a (digit _ _ 3 2097152 hw hf rfl rfl rfl (by decide)),
    field b (digit _ _ 2 65536 hw hf rfl rfl rfl (by decide)),
    field o (low hw hf)]

theorem j (o : BitVec 26) : Statement (.j o) := by
  refine of_slot 0 rfl rfl ?_
  obtain ⟨w, h0⟩ : ∃ w, w = 1342177280 + o.toNat := ⟨_, rfl⟩
  have he : encode (.j o) = w := h0.symm
  have hw : w = pack [o.toNat, 20] [26, 6] := by rw [h0]; simp only [pack]; omega
  have hf : Fits [o.toNat, 20] [26, 6] := ⟨o.isLt, by decide, trivial⟩
  rw [he]; show decC w = _; rw [opC20 (top _ _ 1 67108864 hw hf rfl rfl rfl (by decide))]; unfold decC20
  rw [field o (low hw hf)]

theorem jal (o : BitVec 26) : Statement (.jal o) := by
  refine of_slot 0 rfl rfl ?_
  obtain ⟨w, h0⟩ : ∃ w, w = 1409286144 + o.toNat := ⟨_, rfl⟩
  have he : encode (.jal o) = w := h0.symm
  have hw : w = pack [o.toNat, 21] [26, 6] := by rw [h0]; simp only [pack]; omega
  have hf : Fits [o.toNat, 21] [26, 6] := ⟨o.isLt, by decide, trivial⟩
  rw [he]; show decC w = _; rw [opC21 (top _ _ 1 67108864 hw hf rfl rfl rfl (by decide))]; unfold decC21
  rw [field o (low hw hf)]

theorem jr (d : BitVec 5) (a : BitVec 5) : Statement (.jr d a) := by
  refine of_slot 0 rfl rfl ?_
  obtain ⟨w, h0⟩ : ∃ w, w = 1476395008 + d.toNat * 2097152 + a.toNat * 65536 := ⟨_, rfl⟩
  have he : encode (.jr d a) = w := h0.symm
  have hw : w = pack [0, a.toNat, d.toNat, 22] [16, 5, 5, 6] := by rw [h0]; simp only [pack]; omega
  have hf : Fits [0, a.toNat, d.toNat, 22] [16, 5, 5, 6] := ⟨by decide, a.isLt, d.isLt, by decide, trivial⟩
  rw [he]; show decC w = _; rw [opC22 (top _ _ 3 67108864 hw hf rfl rfl rfl (by decide))]; unfold decC22
  have e0 : w % 65536 = 0 := low hw hf
  rw [if_pos e0,
    field d (digit _ _ 2 2097152 hw hf rfl rfl rfl (by decide)),
    field a (digit _ _ 1 65536 hw hf rfl rfl rfl (by decide))]

theorem loop (a : BitVec 5) (o : BitVec 13) : Statement (.loop a o) := by
  refine of_slot 0 rfl rfl ?_
  obtain ⟨w, h0⟩ : ∃ w, w = 1543503872 + a.toNat * 2097152 + o.toNat := ⟨_, rfl⟩
  have he : encode (.loop a o) = w := h0.symm
  have hw : w = pack [o.toNat, 0, a.toNat, 23] [13, 8, 5, 6] := by rw [h0]; simp only [pack]; omega
  have hf : Fits [o.toNat, 0, a.toNat, 23] [13, 8, 5, 6] := ⟨o.isLt, by decide, a.isLt, by decide, trivial⟩
  rw [he]; show decC w = _; rw [opC23 (top _ _ 3 67108864 hw hf rfl rfl rfl (by decide))]; unfold decC23
  have e0 : w / 8192 % 256 = 0 := digit _ _ 1 8192 hw hf rfl rfl rfl (by decide)
  rw [if_pos e0,
    field a (digit _ _ 2 2097152 hw hf rfl rfl rfl (by decide)),
    field o (low hw hf)]

theorem loopi (n : BitVec 13) (o : BitVec 13) : Statement (.loopi n o) := by
  refine of_slot 0 rfl rfl ?_
  obtain ⟨w, h0⟩ : ∃ w, w = 1610612736 + n.toNat * 8192 + o.toNat := ⟨_, rfl⟩
  have he : encode (.loopi n o) = w := h0.symm
  have hw : w = pack [o.toNat, n.toNat, 24] [13, 13, 6] := by rw [h0]; simp only [pack]; omega
  have hf : Fits [o.toNat, n.toNat, 24] [13, 13, 6] := ⟨o.isLt, n.isLt, by decide, trivial⟩
  rw [he]; show decC w = _; rw [opC24 (top _ _ 2 67108864 hw hf rfl rfl rfl (by decide))]; unfold decC24
  rw [field n (digit _ _ 1 8192 hw hf rfl rfl rfl (by decide)),
    field o (low hw hf)]

theorem jbank (d : BitVec 5) (i : BitVec 21) : Statement (.jbank d i) := by
  refine of_slot 0 rfl rfl ?_
  obtain ⟨w, h0⟩ : ∃ w, w = 1677721600 + d.toNat * 2097152 + i.toNat := ⟨_, rfl⟩
  have he : encode (.jbank d i) = w := h0.symm
  have hw : w = pack [i.toNat, d.toNat, 25] [21, 5, 6] := by rw [h0]; simp only [pack]; omega
  have hf : Fits [i.toNat, d.toNat, 25] [21, 5, 6] := ⟨i.isLt, d.isLt, by decide, trivial⟩
  rw [he]; show decC w = _; rw [opC25 (top _ _ 2 67108864 hw hf rfl rfl rfl (by decide))]; unfold decC25
  rw [field d (digit _ _ 1 2097152 hw hf rfl rfl rfl (by decide)),
    field i (low hw hf)]

theorem mfs (d : BitVec 5) (i : BitVec 16) : Statement (.mfs d i) := by
  refine of_slot 0 rfl rfl ?_
  obtain ⟨w, h0⟩ : ∃ w, w = 1744830464 + d.toNat * 2097152 + i.toNat := ⟨_, rfl⟩
  have he : encode (.mfs d i) = w := h0.symm
  have hw : w = pack [i.toNat, 0, d.toNat, 26] [16, 5, 5, 6] := by rw [h0]; simp only [pack]; omega
  have hf : Fits [i.toNat, 0, d.toNat, 26] [16, 5, 5, 6] := ⟨i.isLt, by decide, d.isLt, by decide, trivial⟩
  rw [he]; show decC w = _; rw [opC26 (top _ _ 3 67108864 hw hf rfl rfl rfl (by decide))]; unfold decC26
  have e0 : w / 65536 % 32 = 0 := digit _ _ 1 65536 hw hf rfl rfl rfl (by decide)
  rw [if_pos e0,
    field d (digit _ _ 2 2097152 hw hf rfl rfl rfl (by decide)),
    field i (low hw hf)]

theorem mts (a : BitVec 5) (i : BitVec 16) : Statement (.mts a i) := by
  refine of_slot 0 rfl rfl ?_
  obtain ⟨w, h0⟩ : ∃ w, w = 1811939328 + a.toNat * 65536 + i.toNat := ⟨_, rfl⟩
  have he : encode (.mts a i) = w := h0.symm
  have hw : w = pack [i.toNat, a.toNat, 0, 27] [16, 5, 5, 6] := by rw [h0]; simp only [pack]; omega
  have hf : Fits [i.toNat, a.toNat, 0, 27] [16, 5, 5, 6] := ⟨i.isLt, a.isLt, by decide, by decide, trivial⟩
  rw [he]; show decC w = _; rw [opC27 (top _ _ 3 67108864 hw hf rfl rfl rfl (by decide))]; unfold decC27
  have e0 : w / 2097152 % 32 = 0 := digit _ _ 2 2097152 hw hf rfl rfl rfl (by decide)
  rw [if_pos e0,
    field a (digit _ _ 1 65536 hw hf rfl rfl rfl (by decide)),
    field i (low hw hf)]

theorem stop : Statement .stop := by
  refine of_slot 0 rfl rfl ?_
  obtain ⟨w, h0⟩ : ∃ w, w = 1879048192 := ⟨_, rfl⟩
  have he : encode .stop = w := h0.symm
  have hw : w = pack [0, 28] [26, 6] := by rw [h0]; rfl
  have hf : Fits [0, 28] [26, 6] := ⟨by decide, by decide, trivial⟩
  rw [he]; show decC w = _; rw [opC28 (top _ _ 1 67108864 hw hf rfl rfl rfl (by decide))]; unfold decC28
  have e0 : w % 67108864 = 0 := low hw hf
  rw [if_pos e0]

theorem yield : Statement .yield := by
  refine of_slot 0 rfl rfl ?_
  obtain ⟨w, h0⟩ : ∃ w, w = 1879048193 := ⟨_, rfl⟩
  have he : encode .yield = w := h0.symm
  have hw : w = pack [1, 28] [26, 6] := by rw [h0]; rfl
  have hf : Fits [1, 28] [26, 6] := ⟨by decide, by decide, trivial⟩
  rw [he]; show decC w = _; rw [opC28 (top _ _ 1 67108864 hw hf rfl rfl rfl (by decide))]; unfold decC28
  have e0 : w % 67108864 = 1 := low hw hf
  rw [if_neg (fun h => absurd (e0.symm.trans h) (by decide)),
    if_pos e0]

theorem brk : Statement .brk := by
  refine of_slot 0 rfl rfl ?_
  obtain ⟨w, h0⟩ : ∃ w, w = 1879048194 := ⟨_, rfl⟩
  have he : encode .brk = w := h0.symm
  have hw : w = pack [2, 28] [26, 6] := by rw [h0]; rfl
  have hf : Fits [2, 28] [26, 6] := ⟨by decide, by decide, trivial⟩
  rw [he]; show decC w = _; rw [opC28 (top _ _ 1 67108864 hw hf rfl rfl rfl (by decide))]; unfold decC28
  have e0 : w % 67108864 = 2 := low hw hf
  rw [if_neg (fun h => absurd (e0.symm.trans h) (by decide)),
    if_neg (fun h => absurd (e0.symm.trans h) (by decide)),
    if_pos e0]

theorem trap (a : BitVec 5) : Statement (.trap a) := by
  refine of_slot 0 rfl rfl ?_
  have h_a := a.isLt
  obtain ⟨w, hw⟩ : ∃ w, w = 1879048195 + a.toNat * 65536 := ⟨_, rfl⟩
  have he : encode (.trap a) = w := hw.symm
  rw [he]; show decC w = _; rw [opC28 (by omega)]; unfold decC28
  have e0 : w % 65536 = 3 := by omega
  have e1 : w / 2097152 % 32 = 0 := by omega
  rw [if_neg (by omega),
    if_neg (by omega),
    if_neg (by omega),
    if_pos ⟨e0, e1⟩,
    field a (by omega)]

theorem ecall (i : BitVec 16) : Statement (.ecall i) := by
  refine of_slot 0 rfl rfl ?_
  obtain ⟨w, h0⟩ : ∃ w, w = 1946157056 + i.toNat := ⟨_, rfl⟩
  have he : encode (.ecall i) = w := h0.symm
  have hw : w = pack [i.toNat, 0, 29] [16, 10, 6] := by rw [h0]; simp only [pack]; omega
  have hf : Fits [i.toNat, 0, 29] [16, 10, 6] := ⟨i.isLt, by decide, by decide, trivial⟩
  rw [he]; show decC w = _; rw [opC29 (top _ _ 2 67108864 hw hf rfl rfl rfl (by decide))]; unfold decC29
  have e0 : w / 65536 % 1024 = 0 := digit _ _ 1 65536 hw hf rfl rfl rfl (by decide)
  rw [if_pos e0,
    field i (low hw hf)]

theorem vadd (d : BitVec 5) (a : BitVec 5) (b : BitVec 5) (p : BitVec 3) (t : BitVec 3) : Statement (.vadd d a b p t) := by
  refine of_slot 1 rfl rfl ?_
  obtain ⟨w, h0⟩ : ∃ w, w = 67108864 + d.toNat * 2097152 + a.toNat * 65536 + b.toNat * 2048 + p.toNat * 256 + t.toNat * 32 := ⟨_, rfl⟩
  have he : encode (.vadd d a b p t) = w := h0.symm
  have hw : w = pack [0, t.toNat, p.toNat, b.toNat, a.toNat, d.toNat, 1] [5, 3, 3, 5, 5, 5, 6] := by rw [h0]; simp only [pack]; omega
  have hf : Fits [0, t.toNat, p.toNat, b.toNat, a.toNat, d.toNat, 1] [5, 3, 3, 5, 5, 5, 6] := ⟨by decide, t.isLt, p.isLt, b.isLt, a.isLt, d.isLt, by decide, trivial⟩
  rw [he]; show decV w = _; rw [opV1 (top _ _ 6 67108864 hw hf rfl rfl rfl (by decide))]; unfold decV1
  have e0 : w % 32 = 0 := low hw hf
  rw [if_pos e0,
    field d (digit _ _ 5 2097152 hw hf rfl rfl rfl (by decide)),
    field a (digit _ _ 4 65536 hw hf rfl rfl rfl (by decide)),
    field b (digit _ _ 3 2048 hw hf rfl rfl rfl (by decide)),
    field p (digit _ _ 2 256 hw hf rfl rfl rfl (by decide)),
    field t (digit _ _ 1 32 hw hf rfl rfl rfl (by decide))]

theorem vsub (d : BitVec 5) (a : BitVec 5) (b : BitVec 5) (p : BitVec 3) (t : BitVec 3) : Statement (.vsub d a b p t) := by
  refine of_slot 1 rfl rfl ?_
  obtain ⟨w, h0⟩ : ∃ w, w = 134217728 + d.toNat * 2097152 + a.toNat * 65536 + b.toNat * 2048 + p.toNat * 256 + t.toNat * 32 := ⟨_, rfl⟩
  have he : encode (.vsub d a b p t) = w := h0.symm
  have hw : w = pack [0, t.toNat, p.toNat, b.toNat, a.toNat, d.toNat, 2] [5, 3, 3, 5, 5, 5, 6] := by rw [h0]; simp only [pack]; omega
  have hf : Fits [0, t.toNat, p.toNat, b.toNat, a.toNat, d.toNat, 2] [5, 3, 3, 5, 5, 5, 6] := ⟨by decide, t.isLt, p.isLt, b.isLt, a.isLt, d.isLt, by decide, trivial⟩
  rw [he]; show decV w = _; rw [opV2 (top _ _ 6 67108864 hw hf rfl rfl rfl (by decide))]; unfold decV2
  have e0 : w % 32 = 0 := low hw hf
  rw [if_pos e0,
    field d (digit _ _ 5 2097152 hw hf rfl rfl rfl (by decide)),
    field a (digit _ _ 4 65536 hw hf rfl rfl rfl (by decide)),
    field b (digit _ _ 3 2048 hw hf rfl rfl rfl (by decide)),
    field p (digit _ _ 2 256 hw hf rfl rfl rfl (by decide)),
    field t (digit _ _ 1 32 hw hf rfl rfl rfl (by decide))]

theorem vmul (d : BitVec 5) (a : BitVec 5) (b : BitVec 5) (p : BitVec 3) (t : BitVec 3) : Statement (.vmul d a b p t) := by
  refine of_slot 1 rfl rfl ?_
  obtain ⟨w, h0⟩ : ∃ w, w = 201326592 + d.toNat * 2097152 + a.toNat * 65536 + b.toNat * 2048 + p.toNat * 256 + t.toNat * 32 := ⟨_, rfl⟩
  have he : encode (.vmul d a b p t) = w := h0.symm
  have hw : w = pack [0, t.toNat, p.toNat, b.toNat, a.toNat, d.toNat, 3] [5, 3, 3, 5, 5, 5, 6] := by rw [h0]; simp only [pack]; omega
  have hf : Fits [0, t.toNat, p.toNat, b.toNat, a.toNat, d.toNat, 3] [5, 3, 3, 5, 5, 5, 6] := ⟨by decide, t.isLt, p.isLt, b.isLt, a.isLt, d.isLt, by decide, trivial⟩
  rw [he]; show decV w = _; rw [opV3 (top _ _ 6 67108864 hw hf rfl rfl rfl (by decide))]; unfold decV3
  have e0 : w % 32 = 0 := low hw hf
  rw [if_pos e0,
    field d (digit _ _ 5 2097152 hw hf rfl rfl rfl (by decide)),
    field a (digit _ _ 4 65536 hw hf rfl rfl rfl (by decide)),
    field b (digit _ _ 3 2048 hw hf rfl rfl rfl (by decide)),
    field p (digit _ _ 2 256 hw hf rfl rfl rfl (by decide)),
    field t (digit _ _ 1 32 hw hf rfl rfl rfl (by decide))]

theorem vfma (d : BitVec 5) (a : BitVec 5) (b : BitVec 5) (p : BitVec 3) (t : BitVec 3) : Statement (.vfma d a b p t) := by
  refine of_slot 1 rfl rfl ?_
  obtain ⟨w, h0⟩ : ∃ w, w = 268435456 + d.toNat * 2097152 + a.toNat * 65536 + b.toNat * 2048 + p.toNat * 256 + t.toNat * 32 := ⟨_, rfl⟩
  have he : encode (.vfma d a b p t) = w := h0.symm
  have hw : w = pack [0, t.toNat, p.toNat, b.toNat, a.toNat, d.toNat, 4] [5, 3, 3, 5, 5, 5, 6] := by rw [h0]; simp only [pack]; omega
  have hf : Fits [0, t.toNat, p.toNat, b.toNat, a.toNat, d.toNat, 4] [5, 3, 3, 5, 5, 5, 6] := ⟨by decide, t.isLt, p.isLt, b.isLt, a.isLt, d.isLt, by decide, trivial⟩
  rw [he]; show decV w = _; rw [opV4 (top _ _ 6 67108864 hw hf rfl rfl rfl (by decide))]; unfold decV4
  have e0 : w % 32 = 0 := low hw hf
  rw [if_pos e0,
    field d (digit _ _ 5 2097152 hw hf rfl rfl rfl (by decide)),
    field a (digit _ _ 4 65536 hw hf rfl rfl rfl (by decide)),
    field b (digit _ _ 3 2048 hw hf rfl rfl rfl (by decide)),
    field p (digit _ _ 2 256 hw hf rfl rfl rfl (by decide)),
    field t (digit _ _ 1 32 hw hf rfl rfl rfl (by decide))]

theorem vfms (d : BitVec 5) (a : BitVec 5) (b : BitVec 5) (p : BitVec 3) (t : BitVec 3) : Statement (.vfms d a b p t) := by
  refine of_slot 1 rfl rfl ?_
  obtain ⟨w, h0⟩ : ∃ w, w = 335544320 + d.toNat * 2097152 + a.toNat * 65536 + b.toNat * 2048 + p.toNat * 256 + t.toNat * 32 := ⟨_, rfl⟩
  have he : encode (.vfms d a b p t) = w := h0.symm
  have hw : w = pack [0, t.toNat, p.toNat, b.toNat, a.toNat, d.toNat, 5] [5, 3, 3, 5, 5, 5, 6] := by rw [h0]; simp only [pack]; omega
  have hf : Fits [0, t.toNat, p.toNat, b.toNat, a.toNat, d.toNat, 5] [5, 3, 3, 5, 5, 5, 6] := ⟨by decide, t.isLt, p.isLt, b.isLt, a.isLt, d.isLt, by decide, trivial⟩
  rw [he]; show decV w = _; rw [opV5 (top _ _ 6 67108864 hw hf rfl rfl rfl (by decide))]; unfold decV5
  have e0 : w % 32 = 0 := low hw hf
  rw [if_pos e0,
    field d (digit _ _ 5 2097152 hw hf rfl rfl rfl (by decide)),
    field a (digit _ _ 4 65536 hw hf rfl rfl rfl (by decide)),
    field b (digit _ _ 3 2048 hw hf rfl rfl rfl (by decide)),
    field p (digit _ _ 2 256 hw hf rfl rfl rfl (by decide)),
    field t (digit _ _ 1 32 hw hf rfl rfl rfl (by decide))]

theorem vfnma (d : BitVec 5) (a : BitVec 5) (b : BitVec 5) (p : BitVec 3) (t : BitVec 3) : Statement (.vfnma d a b p t) := by
  refine of_slot 1 rfl rfl ?_
  obtain ⟨w, h0⟩ : ∃ w, w = 402653184 + d.toNat * 2097152 + a.toNat * 65536 + b.toNat * 2048 + p.toNat * 256 + t.toNat * 32 := ⟨_, rfl⟩
  have he : encode (.vfnma d a b p t) = w := h0.symm
  have hw : w = pack [0, t.toNat, p.toNat, b.toNat, a.toNat, d.toNat, 6] [5, 3, 3, 5, 5, 5, 6] := by rw [h0]; simp only [pack]; omega
  have hf : Fits [0, t.toNat, p.toNat, b.toNat, a.toNat, d.toNat, 6] [5, 3, 3, 5, 5, 5, 6] := ⟨by decide, t.isLt, p.isLt, b.isLt, a.isLt, d.isLt, by decide, trivial⟩
  rw [he]; show decV w = _; rw [opV6 (top _ _ 6 67108864 hw hf rfl rfl rfl (by decide))]; unfold decV6
  have e0 : w % 32 = 0 := low hw hf
  rw [if_pos e0,
    field d (digit _ _ 5 2097152 hw hf rfl rfl rfl (by decide)),
    field a (digit _ _ 4 65536 hw hf rfl rfl rfl (by decide)),
    field b (digit _ _ 3 2048 hw hf rfl rfl rfl (by decide)),
    field p (digit _ _ 2 256 hw hf rfl rfl rfl (by decide)),
    field t (digit _ _ 1 32 hw hf rfl rfl rfl (by decide))]

theorem vmin (d : BitVec 5) (a : BitVec 5) (b : BitVec 5) (p : BitVec 3) (t : BitVec 3) : Statement (.vmin d a b p t) := by
  refine of_slot 1 rfl rfl ?_
  obtain ⟨w, h0⟩ : ∃ w, w = 469762048 + d.toNat * 2097152 + a.toNat * 65536 + b.toNat * 2048 + p.toNat * 256 + t.toNat * 32 := ⟨_, rfl⟩
  have he : encode (.vmin d a b p t) = w := h0.symm
  have hw : w = pack [0, t.toNat, p.toNat, b.toNat, a.toNat, d.toNat, 7] [5, 3, 3, 5, 5, 5, 6] := by rw [h0]; simp only [pack]; omega
  have hf : Fits [0, t.toNat, p.toNat, b.toNat, a.toNat, d.toNat, 7] [5, 3, 3, 5, 5, 5, 6] := ⟨by decide, t.isLt, p.isLt, b.isLt, a.isLt, d.isLt, by decide, trivial⟩
  rw [he]; show decV w = _; rw [opV7 (top _ _ 6 67108864 hw hf rfl rfl rfl (by decide))]; unfold decV7
  have e0 : w % 32 = 0 := low hw hf
  rw [if_pos e0,
    field d (digit _ _ 5 2097152 hw hf rfl rfl rfl (by decide)),
    field a (digit _ _ 4 65536 hw hf rfl rfl rfl (by decide)),
    field b (digit _ _ 3 2048 hw hf rfl rfl rfl (by decide)),
    field p (digit _ _ 2 256 hw hf rfl rfl rfl (by decide)),
    field t (digit _ _ 1 32 hw hf rfl rfl rfl (by decide))]

theorem vmax (d : BitVec 5) (a : BitVec 5) (b : BitVec 5) (p : BitVec 3) (t : BitVec 3) : Statement (.vmax d a b p t) := by
  refine of_slot 1 rfl rfl ?_
  obtain ⟨w, h0⟩ : ∃ w, w = 536870912 + d.toNat * 2097152 + a.toNat * 65536 + b.toNat * 2048 + p.toNat * 256 + t.toNat * 32 := ⟨_, rfl⟩
  have he : encode (.vmax d a b p t) = w := h0.symm
  have hw : w = pack [0, t.toNat, p.toNat, b.toNat, a.toNat, d.toNat, 8] [5, 3, 3, 5, 5, 5, 6] := by rw [h0]; simp only [pack]; omega
  have hf : Fits [0, t.toNat, p.toNat, b.toNat, a.toNat, d.toNat, 8] [5, 3, 3, 5, 5, 5, 6] := ⟨by decide, t.isLt, p.isLt, b.isLt, a.isLt, d.isLt, by decide, trivial⟩
  rw [he]; show decV w = _; rw [opV8 (top _ _ 6 67108864 hw hf rfl rfl rfl (by decide))]; unfold decV8
  have e0 : w % 32 = 0 := low hw hf
  rw [if_pos e0,
    field d (digit _ _ 5 2097152 hw hf rfl rfl rfl (by decide)),
    field a (digit _ _ 4 65536 hw hf rfl rfl rfl (by decide)),
    field b (digit _ _ 3 2048 hw hf rfl rfl rfl (by decide)),
    field p (digit _ _ 2 256 hw hf rfl rfl rfl (by decide)),
    field t (digit _ _ 1 32 hw hf rfl rfl rfl (by decide))]

theorem vdiv (d : BitVec 5) (a : BitVec 5) (b : BitVec 5) (p : BitVec 3) (t : BitVec 3) : Statement (.vdiv d a b p t) := by
  refine of_slot 1 rfl rfl ?_
  obtain ⟨w, h0⟩ : ∃ w, w = 603979776 + d.toNat * 2097152 + a.toNat * 65536 + b.toNat * 2048 + p.toNat * 256 + t.toNat * 32 := ⟨_, rfl⟩
  have he : encode (.vdiv d a b p t) = w := h0.symm
  have hw : w = pack [0, t.toNat, p.toNat, b.toNat, a.toNat, d.toNat, 9] [5, 3, 3, 5, 5, 5, 6] := by rw [h0]; simp only [pack]; omega
  have hf : Fits [0, t.toNat, p.toNat, b.toNat, a.toNat, d.toNat, 9] [5, 3, 3, 5, 5, 5, 6] := ⟨by decide, t.isLt, p.isLt, b.isLt, a.isLt, d.isLt, by decide, trivial⟩
  rw [he]; show decV w = _; rw [opV9 (top _ _ 6 67108864 hw hf rfl rfl rfl (by decide))]; unfold decV9
  have e0 : w % 32 = 0 := low hw hf
  rw [if_pos e0,
    field d (digit _ _ 5 2097152 hw hf rfl rfl rfl (by decide)),
    field a (digit _ _ 4 65536 hw hf rfl rfl rfl (by decide)),
    field b (digit _ _ 3 2048 hw hf rfl rfl rfl (by decide)),
    field p (digit _ _ 2 256 hw hf rfl rfl rfl (by decide)),
    field t (digit _ _ 1 32 hw hf rfl rfl rfl (by decide))]

theorem vsqrt (d : BitVec 5) (a : BitVec 5) (p : BitVec 3) (t : BitVec 3) : Statement (.vsqrt d a p t) := by
  refine of_slot 1 rfl rfl ?_
  obtain ⟨w, h0⟩ : ∃ w, w = 671088640 + d.toNat * 2097152 + a.toNat * 65536 + p.toNat * 256 + t.toNat * 32 := ⟨_, rfl⟩
  have he : encode (.vsqrt d a p t) = w := h0.symm
  have hw : w = pack [0, t.toNat, p.toNat, 0, a.toNat, d.toNat, 10] [5, 3, 3, 5, 5, 5, 6] := by rw [h0]; simp only [pack]; omega
  have hf : Fits [0, t.toNat, p.toNat, 0, a.toNat, d.toNat, 10] [5, 3, 3, 5, 5, 5, 6] := ⟨by decide, t.isLt, p.isLt, by decide, a.isLt, d.isLt, by decide, trivial⟩
  rw [he]; show decV w = _; rw [opV10 (top _ _ 6 67108864 hw hf rfl rfl rfl (by decide))]; unfold decV10
  have e0 : w % 32 = 0 := low hw hf
  have e1 : w / 2048 % 32 = 0 := digit _ _ 3 2048 hw hf rfl rfl rfl (by decide)
  rw [if_pos ⟨e0, e1⟩,
    field d (digit _ _ 5 2097152 hw hf rfl rfl rfl (by decide)),
    field a (digit _ _ 4 65536 hw hf rfl rfl rfl (by decide)),
    field p (digit _ _ 2 256 hw hf rfl rfl rfl (by decide)),
    field t (digit _ _ 1 32 hw hf rfl rfl rfl (by decide))]

theorem vrcp (d : BitVec 5) (a : BitVec 5) (p : BitVec 3) (t : BitVec 3) : Statement (.vrcp d a p t) := by
  refine of_slot 1 rfl rfl ?_
  obtain ⟨w, h0⟩ : ∃ w, w = 738197504 + d.toNat * 2097152 + a.toNat * 65536 + p.toNat * 256 + t.toNat * 32 := ⟨_, rfl⟩
  have he : encode (.vrcp d a p t) = w := h0.symm
  have hw : w = pack [0, t.toNat, p.toNat, 0, a.toNat, d.toNat, 11] [5, 3, 3, 5, 5, 5, 6] := by rw [h0]; simp only [pack]; omega
  have hf : Fits [0, t.toNat, p.toNat, 0, a.toNat, d.toNat, 11] [5, 3, 3, 5, 5, 5, 6] := ⟨by decide, t.isLt, p.isLt, by decide, a.isLt, d.isLt, by decide, trivial⟩
  rw [he]; show decV w = _; rw [opV11 (top _ _ 6 67108864 hw hf rfl rfl rfl (by decide))]; unfold decV11
  have e0 : w % 32 = 0 := low hw hf
  have e1 : w / 2048 % 32 = 0 := digit _ _ 3 2048 hw hf rfl rfl rfl (by decide)
  rw [if_pos ⟨e0, e1⟩,
    field d (digit _ _ 5 2097152 hw hf rfl rfl rfl (by decide)),
    field a (digit _ _ 4 65536 hw hf rfl rfl rfl (by decide)),
    field p (digit _ _ 2 256 hw hf rfl rfl rfl (by decide)),
    field t (digit _ _ 1 32 hw hf rfl rfl rfl (by decide))]

theorem vrsq (d : BitVec 5) (a : BitVec 5) (p : BitVec 3) (t : BitVec 3) : Statement (.vrsq d a p t) := by
  refine of_slot 1 rfl rfl ?_
  obtain ⟨w, h0⟩ : ∃ w, w = 738197505 + d.toNat * 2097152 + a.toNat * 65536 + p.toNat * 256 + t.toNat * 32 := ⟨_, rfl⟩
  have he : encode (.vrsq d a p t) = w := h0.symm
  have hw : w = pack [1, t.toNat, p.toNat, 0, a.toNat, d.toNat, 11] [5, 3, 3, 5, 5, 5, 6] := by rw [h0]; simp only [pack]; omega
  have hf : Fits [1, t.toNat, p.toNat, 0, a.toNat, d.toNat, 11] [5, 3, 3, 5, 5, 5, 6] := ⟨by decide, t.isLt, p.isLt, by decide, a.isLt, d.isLt, by decide, trivial⟩
  rw [he]; show decV w = _; rw [opV11 (top _ _ 6 67108864 hw hf rfl rfl rfl (by decide))]; unfold decV11
  have e0 : w % 32 = 1 := low hw hf
  have e1 : w / 2048 % 32 = 0 := digit _ _ 3 2048 hw hf rfl rfl rfl (by decide)
  rw [if_neg (fun h => absurd (e0.symm.trans h.1) (by decide)),
    if_pos ⟨e0, e1⟩,
    field d (digit _ _ 5 2097152 hw hf rfl rfl rfl (by decide)),
    field a (digit _ _ 4 65536 hw hf rfl rfl rfl (by decide)),
    field p (digit _ _ 2 256 hw hf rfl rfl rfl (by decide)),
    field t (digit _ _ 1 32 hw hf rfl rfl rfl (by decide))]

theorem vexp2 (d : BitVec 5) (a : BitVec 5) (p : BitVec 3) (t : BitVec 3) : Statement (.vexp2 d a p t) := by
  refine of_slot 1 rfl rfl ?_
  obtain ⟨w, h0⟩ : ∃ w, w = 738197506 + d.toNat * 2097152 + a.toNat * 65536 + p.toNat * 256 + t.toNat * 32 := ⟨_, rfl⟩
  have he : encode (.vexp2 d a p t) = w := h0.symm
  have hw : w = pack [2, t.toNat, p.toNat, 0, a.toNat, d.toNat, 11] [5, 3, 3, 5, 5, 5, 6] := by rw [h0]; simp only [pack]; omega
  have hf : Fits [2, t.toNat, p.toNat, 0, a.toNat, d.toNat, 11] [5, 3, 3, 5, 5, 5, 6] := ⟨by decide, t.isLt, p.isLt, by decide, a.isLt, d.isLt, by decide, trivial⟩
  rw [he]; show decV w = _; rw [opV11 (top _ _ 6 67108864 hw hf rfl rfl rfl (by decide))]; unfold decV11
  have e0 : w % 32 = 2 := low hw hf
  have e1 : w / 2048 % 32 = 0 := digit _ _ 3 2048 hw hf rfl rfl rfl (by decide)
  rw [if_neg (fun h => absurd (e0.symm.trans h.1) (by decide)),
    if_neg (fun h => absurd (e0.symm.trans h.1) (by decide)),
    if_pos ⟨e0, e1⟩,
    field d (digit _ _ 5 2097152 hw hf rfl rfl rfl (by decide)),
    field a (digit _ _ 4 65536 hw hf rfl rfl rfl (by decide)),
    field p (digit _ _ 2 256 hw hf rfl rfl rfl (by decide)),
    field t (digit _ _ 1 32 hw hf rfl rfl rfl (by decide))]

theorem vlog2 (d : BitVec 5) (a : BitVec 5) (p : BitVec 3) (t : BitVec 3) : Statement (.vlog2 d a p t) := by
  refine of_slot 1 rfl rfl ?_
  obtain ⟨w, h0⟩ : ∃ w, w = 738197507 + d.toNat * 2097152 + a.toNat * 65536 + p.toNat * 256 + t.toNat * 32 := ⟨_, rfl⟩
  have he : encode (.vlog2 d a p t) = w := h0.symm
  have hw : w = pack [3, t.toNat, p.toNat, 0, a.toNat, d.toNat, 11] [5, 3, 3, 5, 5, 5, 6] := by rw [h0]; simp only [pack]; omega
  have hf : Fits [3, t.toNat, p.toNat, 0, a.toNat, d.toNat, 11] [5, 3, 3, 5, 5, 5, 6] := ⟨by decide, t.isLt, p.isLt, by decide, a.isLt, d.isLt, by decide, trivial⟩
  rw [he]; show decV w = _; rw [opV11 (top _ _ 6 67108864 hw hf rfl rfl rfl (by decide))]; unfold decV11
  have e0 : w % 32 = 3 := low hw hf
  have e1 : w / 2048 % 32 = 0 := digit _ _ 3 2048 hw hf rfl rfl rfl (by decide)
  rw [if_neg (fun h => absurd (e0.symm.trans h.1) (by decide)),
    if_neg (fun h => absurd (e0.symm.trans h.1) (by decide)),
    if_neg (fun h => absurd (e0.symm.trans h.1) (by decide)),
    if_pos ⟨e0, e1⟩,
    field d (digit _ _ 5 2097152 hw hf rfl rfl rfl (by decide)),
    field a (digit _ _ 4 65536 hw hf rfl rfl rfl (by decide)),
    field p (digit _ _ 2 256 hw hf rfl rfl rfl (by decide)),
    field t (digit _ _ 1 32 hw hf rfl rfl rfl (by decide))]

theorem vtanh (d : BitVec 5) (a : BitVec 5) (p : BitVec 3) (t : BitVec 3) : Statement (.vtanh d a p t) := by
  refine of_slot 1 rfl rfl ?_
  obtain ⟨w, h0⟩ : ∃ w, w = 738197508 + d.toNat * 2097152 + a.toNat * 65536 + p.toNat * 256 + t.toNat * 32 := ⟨_, rfl⟩
  have he : encode (.vtanh d a p t) = w := h0.symm
  have hw : w = pack [4, t.toNat, p.toNat, 0, a.toNat, d.toNat, 11] [5, 3, 3, 5, 5, 5, 6] := by rw [h0]; simp only [pack]; omega
  have hf : Fits [4, t.toNat, p.toNat, 0, a.toNat, d.toNat, 11] [5, 3, 3, 5, 5, 5, 6] := ⟨by decide, t.isLt, p.isLt, by decide, a.isLt, d.isLt, by decide, trivial⟩
  rw [he]; show decV w = _; rw [opV11 (top _ _ 6 67108864 hw hf rfl rfl rfl (by decide))]; unfold decV11
  have e0 : w % 32 = 4 := low hw hf
  have e1 : w / 2048 % 32 = 0 := digit _ _ 3 2048 hw hf rfl rfl rfl (by decide)
  rw [if_neg (fun h => absurd (e0.symm.trans h.1) (by decide)),
    if_neg (fun h => absurd (e0.symm.trans h.1) (by decide)),
    if_neg (fun h => absurd (e0.symm.trans h.1) (by decide)),
    if_neg (fun h => absurd (e0.symm.trans h.1) (by decide)),
    if_pos ⟨e0, e1⟩,
    field d (digit _ _ 5 2097152 hw hf rfl rfl rfl (by decide)),
    field a (digit _ _ 4 65536 hw hf rfl rfl rfl (by decide)),
    field p (digit _ _ 2 256 hw hf rfl rfl rfl (by decide)),
    field t (digit _ _ 1 32 hw hf rfl rfl rfl (by decide))]

theorem vcvt (d : BitVec 5) (a : BitVec 5) (k : BitVec 5) (p : BitVec 3) (t : BitVec 3) (u : BitVec 3) (r : BitVec 2) : Statement (.vcvt d a k p t u r) := by
  refine of_slot 1 rfl rfl ?_
  obtain ⟨w, h0⟩ : ∃ w, w = 805306368 + d.toNat * 2097152 + a.toNat * 65536 + k.toNat * 2048 + p.toNat * 256 + t.toNat * 32 + u.toNat * 4 + r.toNat := ⟨_, rfl⟩
  have he : encode (.vcvt d a k p t u r) = w := h0.symm
  have hw : w = pack [r.toNat, u.toNat, t.toNat, p.toNat, k.toNat, a.toNat, d.toNat, 12] [2, 3, 3, 3, 5, 5, 5, 6] := by rw [h0]; simp only [pack]; omega
  have hf : Fits [r.toNat, u.toNat, t.toNat, p.toNat, k.toNat, a.toNat, d.toNat, 12] [2, 3, 3, 3, 5, 5, 5, 6] := ⟨r.isLt, u.isLt, t.isLt, p.isLt, k.isLt, a.isLt, d.isLt, by decide, trivial⟩
  rw [he]; show decV w = _; rw [opV12 (top _ _ 7 67108864 hw hf rfl rfl rfl (by decide))]; unfold decV12
  rw [field d (digit _ _ 6 2097152 hw hf rfl rfl rfl (by decide)),
    field a (digit _ _ 5 65536 hw hf rfl rfl rfl (by decide)),
    field k (digit _ _ 4 2048 hw hf rfl rfl rfl (by decide)),
    field p (digit _ _ 3 256 hw hf rfl rfl rfl (by decide)),
    field t (digit _ _ 2 32 hw hf rfl rfl rfl (by decide)),
    field u (digit _ _ 1 4 hw hf rfl rfl rfl (by decide)),
    field r (low hw hf)]

theorem vcmpEq (q : BitVec 3) (a : BitVec 5) (b : BitVec 5) (p : BitVec 3) (t : BitVec 3) : Statement (.vcmpEq q a b p t) := by
  refine of_slot 1 rfl rfl ?_
  obtain ⟨w, h0⟩ : ∃ w, w = 872415232 + q.toNat * 2097152 + a.toNat * 65536 + b.toNat * 2048 + p.toNat * 256 + t.toNat * 32 := ⟨_, rfl⟩
  have he : encode (.vcmpEq q a b p t) = w := h0.symm
  have hw : w = pack [0, t.toNat, p.toNat, b.toNat, a.toNat, q.toNat, 0, 13] [5, 3, 3, 5, 5, 3, 2, 6] := by rw [h0]; simp only [pack]; omega
  have hf : Fits [0, t.toNat, p.toNat, b.toNat, a.toNat, q.toNat, 0, 13] [5, 3, 3, 5, 5, 3, 2, 6] := ⟨by decide, t.isLt, p.isLt, b.isLt, a.isLt, q.isLt, by decide, by decide, trivial⟩
  rw [he]; show decV w = _; rw [opV13 (top _ _ 7 67108864 hw hf rfl rfl rfl (by decide))]; unfold decV13
  have e0 : w % 32 = 0 := low hw hf
  have e1 : w / 16777216 % 4 = 0 := digit _ _ 6 16777216 hw hf rfl rfl rfl (by decide)
  rw [if_pos ⟨e0, e1⟩,
    field q (digit _ _ 5 2097152 hw hf rfl rfl rfl (by decide)),
    field a (digit _ _ 4 65536 hw hf rfl rfl rfl (by decide)),
    field b (digit _ _ 3 2048 hw hf rfl rfl rfl (by decide)),
    field p (digit _ _ 2 256 hw hf rfl rfl rfl (by decide)),
    field t (digit _ _ 1 32 hw hf rfl rfl rfl (by decide))]

theorem vcmpNe (q : BitVec 3) (a : BitVec 5) (b : BitVec 5) (p : BitVec 3) (t : BitVec 3) : Statement (.vcmpNe q a b p t) := by
  refine of_slot 1 rfl rfl ?_
  obtain ⟨w, h0⟩ : ∃ w, w = 872415233 + q.toNat * 2097152 + a.toNat * 65536 + b.toNat * 2048 + p.toNat * 256 + t.toNat * 32 := ⟨_, rfl⟩
  have he : encode (.vcmpNe q a b p t) = w := h0.symm
  have hw : w = pack [1, t.toNat, p.toNat, b.toNat, a.toNat, q.toNat, 0, 13] [5, 3, 3, 5, 5, 3, 2, 6] := by rw [h0]; simp only [pack]; omega
  have hf : Fits [1, t.toNat, p.toNat, b.toNat, a.toNat, q.toNat, 0, 13] [5, 3, 3, 5, 5, 3, 2, 6] := ⟨by decide, t.isLt, p.isLt, b.isLt, a.isLt, q.isLt, by decide, by decide, trivial⟩
  rw [he]; show decV w = _; rw [opV13 (top _ _ 7 67108864 hw hf rfl rfl rfl (by decide))]; unfold decV13
  have e0 : w % 32 = 1 := low hw hf
  have e1 : w / 16777216 % 4 = 0 := digit _ _ 6 16777216 hw hf rfl rfl rfl (by decide)
  rw [if_neg (fun h => absurd (e0.symm.trans h.1) (by decide)),
    if_pos ⟨e0, e1⟩,
    field q (digit _ _ 5 2097152 hw hf rfl rfl rfl (by decide)),
    field a (digit _ _ 4 65536 hw hf rfl rfl rfl (by decide)),
    field b (digit _ _ 3 2048 hw hf rfl rfl rfl (by decide)),
    field p (digit _ _ 2 256 hw hf rfl rfl rfl (by decide)),
    field t (digit _ _ 1 32 hw hf rfl rfl rfl (by decide))]

theorem vcmpLt (q : BitVec 3) (a : BitVec 5) (b : BitVec 5) (p : BitVec 3) (t : BitVec 3) : Statement (.vcmpLt q a b p t) := by
  refine of_slot 1 rfl rfl ?_
  obtain ⟨w, h0⟩ : ∃ w, w = 872415234 + q.toNat * 2097152 + a.toNat * 65536 + b.toNat * 2048 + p.toNat * 256 + t.toNat * 32 := ⟨_, rfl⟩
  have he : encode (.vcmpLt q a b p t) = w := h0.symm
  have hw : w = pack [2, t.toNat, p.toNat, b.toNat, a.toNat, q.toNat, 0, 13] [5, 3, 3, 5, 5, 3, 2, 6] := by rw [h0]; simp only [pack]; omega
  have hf : Fits [2, t.toNat, p.toNat, b.toNat, a.toNat, q.toNat, 0, 13] [5, 3, 3, 5, 5, 3, 2, 6] := ⟨by decide, t.isLt, p.isLt, b.isLt, a.isLt, q.isLt, by decide, by decide, trivial⟩
  rw [he]; show decV w = _; rw [opV13 (top _ _ 7 67108864 hw hf rfl rfl rfl (by decide))]; unfold decV13
  have e0 : w % 32 = 2 := low hw hf
  have e1 : w / 16777216 % 4 = 0 := digit _ _ 6 16777216 hw hf rfl rfl rfl (by decide)
  rw [if_neg (fun h => absurd (e0.symm.trans h.1) (by decide)),
    if_neg (fun h => absurd (e0.symm.trans h.1) (by decide)),
    if_pos ⟨e0, e1⟩,
    field q (digit _ _ 5 2097152 hw hf rfl rfl rfl (by decide)),
    field a (digit _ _ 4 65536 hw hf rfl rfl rfl (by decide)),
    field b (digit _ _ 3 2048 hw hf rfl rfl rfl (by decide)),
    field p (digit _ _ 2 256 hw hf rfl rfl rfl (by decide)),
    field t (digit _ _ 1 32 hw hf rfl rfl rfl (by decide))]

theorem vcmpLe (q : BitVec 3) (a : BitVec 5) (b : BitVec 5) (p : BitVec 3) (t : BitVec 3) : Statement (.vcmpLe q a b p t) := by
  refine of_slot 1 rfl rfl ?_
  obtain ⟨w, h0⟩ : ∃ w, w = 872415235 + q.toNat * 2097152 + a.toNat * 65536 + b.toNat * 2048 + p.toNat * 256 + t.toNat * 32 := ⟨_, rfl⟩
  have he : encode (.vcmpLe q a b p t) = w := h0.symm
  have hw : w = pack [3, t.toNat, p.toNat, b.toNat, a.toNat, q.toNat, 0, 13] [5, 3, 3, 5, 5, 3, 2, 6] := by rw [h0]; simp only [pack]; omega
  have hf : Fits [3, t.toNat, p.toNat, b.toNat, a.toNat, q.toNat, 0, 13] [5, 3, 3, 5, 5, 3, 2, 6] := ⟨by decide, t.isLt, p.isLt, b.isLt, a.isLt, q.isLt, by decide, by decide, trivial⟩
  rw [he]; show decV w = _; rw [opV13 (top _ _ 7 67108864 hw hf rfl rfl rfl (by decide))]; unfold decV13
  have e0 : w % 32 = 3 := low hw hf
  have e1 : w / 16777216 % 4 = 0 := digit _ _ 6 16777216 hw hf rfl rfl rfl (by decide)
  rw [if_neg (fun h => absurd (e0.symm.trans h.1) (by decide)),
    if_neg (fun h => absurd (e0.symm.trans h.1) (by decide)),
    if_neg (fun h => absurd (e0.symm.trans h.1) (by decide)),
    if_pos ⟨e0, e1⟩,
    field q (digit _ _ 5 2097152 hw hf rfl rfl rfl (by decide)),
    field a (digit _ _ 4 65536 hw hf rfl rfl rfl (by decide)),
    field b (digit _ _ 3 2048 hw hf rfl rfl rfl (by decide)),
    field p (digit _ _ 2 256 hw hf rfl rfl rfl (by decide)),
    field t (digit _ _ 1 32 hw hf rfl rfl rfl (by decide))]

theorem vcmpGt (q : BitVec 3) (a : BitVec 5) (b : BitVec 5) (p : BitVec 3) (t : BitVec 3) : Statement (.vcmpGt q a b p t) := by
  refine of_slot 1 rfl rfl ?_
  obtain ⟨w, h0⟩ : ∃ w, w = 872415236 + q.toNat * 2097152 + a.toNat * 65536 + b.toNat * 2048 + p.toNat * 256 + t.toNat * 32 := ⟨_, rfl⟩
  have he : encode (.vcmpGt q a b p t) = w := h0.symm
  have hw : w = pack [4, t.toNat, p.toNat, b.toNat, a.toNat, q.toNat, 0, 13] [5, 3, 3, 5, 5, 3, 2, 6] := by rw [h0]; simp only [pack]; omega
  have hf : Fits [4, t.toNat, p.toNat, b.toNat, a.toNat, q.toNat, 0, 13] [5, 3, 3, 5, 5, 3, 2, 6] := ⟨by decide, t.isLt, p.isLt, b.isLt, a.isLt, q.isLt, by decide, by decide, trivial⟩
  rw [he]; show decV w = _; rw [opV13 (top _ _ 7 67108864 hw hf rfl rfl rfl (by decide))]; unfold decV13
  have e0 : w % 32 = 4 := low hw hf
  have e1 : w / 16777216 % 4 = 0 := digit _ _ 6 16777216 hw hf rfl rfl rfl (by decide)
  rw [if_neg (fun h => absurd (e0.symm.trans h.1) (by decide)),
    if_neg (fun h => absurd (e0.symm.trans h.1) (by decide)),
    if_neg (fun h => absurd (e0.symm.trans h.1) (by decide)),
    if_neg (fun h => absurd (e0.symm.trans h.1) (by decide)),
    if_pos ⟨e0, e1⟩,
    field q (digit _ _ 5 2097152 hw hf rfl rfl rfl (by decide)),
    field a (digit _ _ 4 65536 hw hf rfl rfl rfl (by decide)),
    field b (digit _ _ 3 2048 hw hf rfl rfl rfl (by decide)),
    field p (digit _ _ 2 256 hw hf rfl rfl rfl (by decide)),
    field t (digit _ _ 1 32 hw hf rfl rfl rfl (by decide))]

theorem vcmpGe (q : BitVec 3) (a : BitVec 5) (b : BitVec 5) (p : BitVec 3) (t : BitVec 3) : Statement (.vcmpGe q a b p t) := by
  refine of_slot 1 rfl rfl ?_
  obtain ⟨w, h0⟩ : ∃ w, w = 872415237 + q.toNat * 2097152 + a.toNat * 65536 + b.toNat * 2048 + p.toNat * 256 + t.toNat * 32 := ⟨_, rfl⟩
  have he : encode (.vcmpGe q a b p t) = w := h0.symm
  have hw : w = pack [5, t.toNat, p.toNat, b.toNat, a.toNat, q.toNat, 0, 13] [5, 3, 3, 5, 5, 3, 2, 6] := by rw [h0]; simp only [pack]; omega
  have hf : Fits [5, t.toNat, p.toNat, b.toNat, a.toNat, q.toNat, 0, 13] [5, 3, 3, 5, 5, 3, 2, 6] := ⟨by decide, t.isLt, p.isLt, b.isLt, a.isLt, q.isLt, by decide, by decide, trivial⟩
  rw [he]; show decV w = _; rw [opV13 (top _ _ 7 67108864 hw hf rfl rfl rfl (by decide))]; unfold decV13
  have e0 : w % 32 = 5 := low hw hf
  have e1 : w / 16777216 % 4 = 0 := digit _ _ 6 16777216 hw hf rfl rfl rfl (by decide)
  rw [if_neg (fun h => absurd (e0.symm.trans h.1) (by decide)),
    if_neg (fun h => absurd (e0.symm.trans h.1) (by decide)),
    if_neg (fun h => absurd (e0.symm.trans h.1) (by decide)),
    if_neg (fun h => absurd (e0.symm.trans h.1) (by decide)),
    if_neg (fun h => absurd (e0.symm.trans h.1) (by decide)),
    if_pos ⟨e0, e1⟩,
    field q (digit _ _ 5 2097152 hw hf rfl rfl rfl (by decide)),
    field a (digit _ _ 4 65536 hw hf rfl rfl rfl (by decide)),
    field b (digit _ _ 3 2048 hw hf rfl rfl rfl (by decide)),
    field p (digit _ _ 2 256 hw hf rfl rfl rfl (by decide)),
    field t (digit _ _ 1 32 hw hf rfl rfl rfl (by decide))]

theorem vcmpUnord (q : BitVec 3) (a : BitVec 5) (b : BitVec 5) (p : BitVec 3) (t : BitVec 3) : Statement (.vcmpUnord q a b p t) := by
  refine of_slot 1 rfl rfl ?_
  obtain ⟨w, h0⟩ : ∃ w, w = 872415238 + q.toNat * 2097152 + a.toNat * 65536 + b.toNat * 2048 + p.toNat * 256 + t.toNat * 32 := ⟨_, rfl⟩
  have he : encode (.vcmpUnord q a b p t) = w := h0.symm
  have hw : w = pack [6, t.toNat, p.toNat, b.toNat, a.toNat, q.toNat, 0, 13] [5, 3, 3, 5, 5, 3, 2, 6] := by rw [h0]; simp only [pack]; omega
  have hf : Fits [6, t.toNat, p.toNat, b.toNat, a.toNat, q.toNat, 0, 13] [5, 3, 3, 5, 5, 3, 2, 6] := ⟨by decide, t.isLt, p.isLt, b.isLt, a.isLt, q.isLt, by decide, by decide, trivial⟩
  rw [he]; show decV w = _; rw [opV13 (top _ _ 7 67108864 hw hf rfl rfl rfl (by decide))]; unfold decV13
  have e0 : w % 32 = 6 := low hw hf
  have e1 : w / 16777216 % 4 = 0 := digit _ _ 6 16777216 hw hf rfl rfl rfl (by decide)
  rw [if_neg (fun h => absurd (e0.symm.trans h.1) (by decide)),
    if_neg (fun h => absurd (e0.symm.trans h.1) (by decide)),
    if_neg (fun h => absurd (e0.symm.trans h.1) (by decide)),
    if_neg (fun h => absurd (e0.symm.trans h.1) (by decide)),
    if_neg (fun h => absurd (e0.symm.trans h.1) (by decide)),
    if_neg (fun h => absurd (e0.symm.trans h.1) (by decide)),
    if_pos ⟨e0, e1⟩,
    field q (digit _ _ 5 2097152 hw hf rfl rfl rfl (by decide)),
    field a (digit _ _ 4 65536 hw hf rfl rfl rfl (by decide)),
    field b (digit _ _ 3 2048 hw hf rfl rfl rfl (by decide)),
    field p (digit _ _ 2 256 hw hf rfl rfl rfl (by decide)),
    field t (digit _ _ 1 32 hw hf rfl rfl rfl (by decide))]

theorem vcmpOrd (q : BitVec 3) (a : BitVec 5) (b : BitVec 5) (p : BitVec 3) (t : BitVec 3) : Statement (.vcmpOrd q a b p t) := by
  refine of_slot 1 rfl rfl ?_
  obtain ⟨w, h0⟩ : ∃ w, w = 872415239 + q.toNat * 2097152 + a.toNat * 65536 + b.toNat * 2048 + p.toNat * 256 + t.toNat * 32 := ⟨_, rfl⟩
  have he : encode (.vcmpOrd q a b p t) = w := h0.symm
  have hw : w = pack [7, t.toNat, p.toNat, b.toNat, a.toNat, q.toNat, 0, 13] [5, 3, 3, 5, 5, 3, 2, 6] := by rw [h0]; simp only [pack]; omega
  have hf : Fits [7, t.toNat, p.toNat, b.toNat, a.toNat, q.toNat, 0, 13] [5, 3, 3, 5, 5, 3, 2, 6] := ⟨by decide, t.isLt, p.isLt, b.isLt, a.isLt, q.isLt, by decide, by decide, trivial⟩
  rw [he]; show decV w = _; rw [opV13 (top _ _ 7 67108864 hw hf rfl rfl rfl (by decide))]; unfold decV13
  have e0 : w % 32 = 7 := low hw hf
  have e1 : w / 16777216 % 4 = 0 := digit _ _ 6 16777216 hw hf rfl rfl rfl (by decide)
  rw [if_neg (fun h => absurd (e0.symm.trans h.1) (by decide)),
    if_neg (fun h => absurd (e0.symm.trans h.1) (by decide)),
    if_neg (fun h => absurd (e0.symm.trans h.1) (by decide)),
    if_neg (fun h => absurd (e0.symm.trans h.1) (by decide)),
    if_neg (fun h => absurd (e0.symm.trans h.1) (by decide)),
    if_neg (fun h => absurd (e0.symm.trans h.1) (by decide)),
    if_neg (fun h => absurd (e0.symm.trans h.1) (by decide)),
    if_pos ⟨e0, e1⟩,
    field q (digit _ _ 5 2097152 hw hf rfl rfl rfl (by decide)),
    field a (digit _ _ 4 65536 hw hf rfl rfl rfl (by decide)),
    field b (digit _ _ 3 2048 hw hf rfl rfl rfl (by decide)),
    field p (digit _ _ 2 256 hw hf rfl rfl rfl (by decide)),
    field t (digit _ _ 1 32 hw hf rfl rfl rfl (by decide))]

theorem vsel (d : BitVec 5) (a : BitVec 5) (b : BitVec 5) (p : BitVec 3) : Statement (.vsel d a b p) := by
  refine of_slot 1 rfl rfl ?_
  obtain ⟨w, h0⟩ : ∃ w, w = 939524096 + d.toNat * 2097152 + a.toNat * 65536 + b.toNat * 2048 + p.toNat * 256 := ⟨_, rfl⟩
  have he : encode (.vsel d a b p) = w := h0.symm
  have hw : w = pack [0, p.toNat, b.toNat, a.toNat, d.toNat, 14] [8, 3, 5, 5, 5, 6] := by rw [h0]; simp only [pack]; omega
  have hf : Fits [0, p.toNat, b.toNat, a.toNat, d.toNat, 14] [8, 3, 5, 5, 5, 6] := ⟨by decide, p.isLt, b.isLt, a.isLt, d.isLt, by decide, trivial⟩
  rw [he]; show decV w = _; rw [opV14 (top _ _ 5 67108864 hw hf rfl rfl rfl (by decide))]; unfold decV14
  have e0 : w % 256 = 0 := low hw hf
  rw [if_pos e0,
    field d (digit _ _ 4 2097152 hw hf rfl rfl rfl (by decide)),
    field a (digit _ _ 3 65536 hw hf rfl rfl rfl (by decide)),
    field b (digit _ _ 2 2048 hw hf rfl rfl rfl (by decide)),
    field p (digit _ _ 1 256 hw hf rfl rfl rfl (by decide))]

theorem vand (d : BitVec 5) (a : BitVec 5) (b : BitVec 5) (p : BitVec 3) : Statement (.vand d a b p) := by
  refine of_slot 1 rfl rfl ?_
  obtain ⟨w, h0⟩ : ∃ w, w = 1006632960 + d.toNat * 2097152 + a.toNat * 65536 + b.toNat * 2048 + p.toNat * 256 := ⟨_, rfl⟩
  have he : encode (.vand d a b p) = w := h0.symm
  have hw : w = pack [0, p.toNat, b.toNat, a.toNat, d.toNat, 15] [8, 3, 5, 5, 5, 6] := by rw [h0]; simp only [pack]; omega
  have hf : Fits [0, p.toNat, b.toNat, a.toNat, d.toNat, 15] [8, 3, 5, 5, 5, 6] := ⟨by decide, p.isLt, b.isLt, a.isLt, d.isLt, by decide, trivial⟩
  rw [he]; show decV w = _; rw [opV15 (top _ _ 5 67108864 hw hf rfl rfl rfl (by decide))]; unfold decV15
  have e0 : w % 256 = 0 := low hw hf
  rw [if_pos e0,
    field d (digit _ _ 4 2097152 hw hf rfl rfl rfl (by decide)),
    field a (digit _ _ 3 65536 hw hf rfl rfl rfl (by decide)),
    field b (digit _ _ 2 2048 hw hf rfl rfl rfl (by decide)),
    field p (digit _ _ 1 256 hw hf rfl rfl rfl (by decide))]

theorem vor (d : BitVec 5) (a : BitVec 5) (b : BitVec 5) (p : BitVec 3) : Statement (.vor d a b p) := by
  refine of_slot 1 rfl rfl ?_
  obtain ⟨w, h0⟩ : ∃ w, w = 1006632961 + d.toNat * 2097152 + a.toNat * 65536 + b.toNat * 2048 + p.toNat * 256 := ⟨_, rfl⟩
  have he : encode (.vor d a b p) = w := h0.symm
  have hw : w = pack [1, p.toNat, b.toNat, a.toNat, d.toNat, 15] [8, 3, 5, 5, 5, 6] := by rw [h0]; simp only [pack]; omega
  have hf : Fits [1, p.toNat, b.toNat, a.toNat, d.toNat, 15] [8, 3, 5, 5, 5, 6] := ⟨by decide, p.isLt, b.isLt, a.isLt, d.isLt, by decide, trivial⟩
  rw [he]; show decV w = _; rw [opV15 (top _ _ 5 67108864 hw hf rfl rfl rfl (by decide))]; unfold decV15
  have e0 : w % 256 = 1 := low hw hf
  rw [if_neg (fun h => absurd (e0.symm.trans h) (by decide)),
    if_pos e0,
    field d (digit _ _ 4 2097152 hw hf rfl rfl rfl (by decide)),
    field a (digit _ _ 3 65536 hw hf rfl rfl rfl (by decide)),
    field b (digit _ _ 2 2048 hw hf rfl rfl rfl (by decide)),
    field p (digit _ _ 1 256 hw hf rfl rfl rfl (by decide))]

theorem vxor (d : BitVec 5) (a : BitVec 5) (b : BitVec 5) (p : BitVec 3) : Statement (.vxor d a b p) := by
  refine of_slot 1 rfl rfl ?_
  obtain ⟨w, h0⟩ : ∃ w, w = 1006632962 + d.toNat * 2097152 + a.toNat * 65536 + b.toNat * 2048 + p.toNat * 256 := ⟨_, rfl⟩
  have he : encode (.vxor d a b p) = w := h0.symm
  have hw : w = pack [2, p.toNat, b.toNat, a.toNat, d.toNat, 15] [8, 3, 5, 5, 5, 6] := by rw [h0]; simp only [pack]; omega
  have hf : Fits [2, p.toNat, b.toNat, a.toNat, d.toNat, 15] [8, 3, 5, 5, 5, 6] := ⟨by decide, p.isLt, b.isLt, a.isLt, d.isLt, by decide, trivial⟩
  rw [he]; show decV w = _; rw [opV15 (top _ _ 5 67108864 hw hf rfl rfl rfl (by decide))]; unfold decV15
  have e0 : w % 256 = 2 := low hw hf
  rw [if_neg (fun h => absurd (e0.symm.trans h) (by decide)),
    if_neg (fun h => absurd (e0.symm.trans h) (by decide)),
    if_pos e0,
    field d (digit _ _ 4 2097152 hw hf rfl rfl rfl (by decide)),
    field a (digit _ _ 3 65536 hw hf rfl rfl rfl (by decide)),
    field b (digit _ _ 2 2048 hw hf rfl rfl rfl (by decide)),
    field p (digit _ _ 1 256 hw hf rfl rfl rfl (by decide))]

theorem vandn (d : BitVec 5) (a : BitVec 5) (b : BitVec 5) (p : BitVec 3) : Statement (.vandn d a b p) := by
  refine of_slot 1 rfl rfl ?_
  obtain ⟨w, h0⟩ : ∃ w, w = 1006632963 + d.toNat * 2097152 + a.toNat * 65536 + b.toNat * 2048 + p.toNat * 256 := ⟨_, rfl⟩
  have he : encode (.vandn d a b p) = w := h0.symm
  have hw : w = pack [3, p.toNat, b.toNat, a.toNat, d.toNat, 15] [8, 3, 5, 5, 5, 6] := by rw [h0]; simp only [pack]; omega
  have hf : Fits [3, p.toNat, b.toNat, a.toNat, d.toNat, 15] [8, 3, 5, 5, 5, 6] := ⟨by decide, p.isLt, b.isLt, a.isLt, d.isLt, by decide, trivial⟩
  rw [he]; show decV w = _; rw [opV15 (top _ _ 5 67108864 hw hf rfl rfl rfl (by decide))]; unfold decV15
  have e0 : w % 256 = 3 := low hw hf
  rw [if_neg (fun h => absurd (e0.symm.trans h) (by decide)),
    if_neg (fun h => absurd (e0.symm.trans h) (by decide)),
    if_neg (fun h => absurd (e0.symm.trans h) (by decide)),
    if_pos e0,
    field d (digit _ _ 4 2097152 hw hf rfl rfl rfl (by decide)),
    field a (digit _ _ 3 65536 hw hf rfl rfl rfl (by decide)),
    field b (digit _ _ 2 2048 hw hf rfl rfl rfl (by decide)),
    field p (digit _ _ 1 256 hw hf rfl rfl rfl (by decide))]

theorem vnot (d : BitVec 5) (a : BitVec 5) (p : BitVec 3) : Statement (.vnot d a p) := by
  refine of_slot 1 rfl rfl ?_
  obtain ⟨w, h0⟩ : ∃ w, w = 1006632964 + d.toNat * 2097152 + a.toNat * 65536 + p.toNat * 256 := ⟨_, rfl⟩
  have he : encode (.vnot d a p) = w := h0.symm
  have hw : w = pack [4, p.toNat, 0, a.toNat, d.toNat, 15] [8, 3, 5, 5, 5, 6] := by rw [h0]; simp only [pack]; omega
  have hf : Fits [4, p.toNat, 0, a.toNat, d.toNat, 15] [8, 3, 5, 5, 5, 6] := ⟨by decide, p.isLt, by decide, a.isLt, d.isLt, by decide, trivial⟩
  rw [he]; show decV w = _; rw [opV15 (top _ _ 5 67108864 hw hf rfl rfl rfl (by decide))]; unfold decV15
  have e0 : w % 256 = 4 := low hw hf
  have e1 : w / 2048 % 32 = 0 := digit _ _ 2 2048 hw hf rfl rfl rfl (by decide)
  rw [if_neg (fun h => absurd (e0.symm.trans h) (by decide)),
    if_neg (fun h => absurd (e0.symm.trans h) (by decide)),
    if_neg (fun h => absurd (e0.symm.trans h) (by decide)),
    if_neg (fun h => absurd (e0.symm.trans h) (by decide)),
    if_pos ⟨e0, e1⟩,
    field d (digit _ _ 4 2097152 hw hf rfl rfl rfl (by decide)),
    field a (digit _ _ 3 65536 hw hf rfl rfl rfl (by decide)),
    field p (digit _ _ 1 256 hw hf rfl rfl rfl (by decide))]

theorem vshl (d : BitVec 5) (a : BitVec 5) (b : BitVec 5) (p : BitVec 3) (t : BitVec 3) : Statement (.vshl d a b p t) := by
  refine of_slot 1 rfl rfl ?_
  obtain ⟨w, h0⟩ : ∃ w, w = 1073741824 + d.toNat * 2097152 + a.toNat * 65536 + b.toNat * 2048 + p.toNat * 256 + t.toNat * 32 := ⟨_, rfl⟩
  have he : encode (.vshl d a b p t) = w := h0.symm
  have hw : w = pack [0, t.toNat, p.toNat, b.toNat, a.toNat, d.toNat, 16] [5, 3, 3, 5, 5, 5, 6] := by rw [h0]; simp only [pack]; omega
  have hf : Fits [0, t.toNat, p.toNat, b.toNat, a.toNat, d.toNat, 16] [5, 3, 3, 5, 5, 5, 6] := ⟨by decide, t.isLt, p.isLt, b.isLt, a.isLt, d.isLt, by decide, trivial⟩
  rw [he]; show decV w = _; rw [opV16 (top _ _ 6 67108864 hw hf rfl rfl rfl (by decide))]; unfold decV16
  have e0 : w % 32 = 0 := low hw hf
  rw [if_pos e0,
    field d (digit _ _ 5 2097152 hw hf rfl rfl rfl (by decide)),
    field a (digit _ _ 4 65536 hw hf rfl rfl rfl (by decide)),
    field b (digit _ _ 3 2048 hw hf rfl rfl rfl (by decide)),
    field p (digit _ _ 2 256 hw hf rfl rfl rfl (by decide)),
    field t (digit _ _ 1 32 hw hf rfl rfl rfl (by decide))]

theorem vshr (d : BitVec 5) (a : BitVec 5) (b : BitVec 5) (p : BitVec 3) (t : BitVec 3) : Statement (.vshr d a b p t) := by
  refine of_slot 1 rfl rfl ?_
  obtain ⟨w, h0⟩ : ∃ w, w = 1073741825 + d.toNat * 2097152 + a.toNat * 65536 + b.toNat * 2048 + p.toNat * 256 + t.toNat * 32 := ⟨_, rfl⟩
  have he : encode (.vshr d a b p t) = w := h0.symm
  have hw : w = pack [1, t.toNat, p.toNat, b.toNat, a.toNat, d.toNat, 16] [5, 3, 3, 5, 5, 5, 6] := by rw [h0]; simp only [pack]; omega
  have hf : Fits [1, t.toNat, p.toNat, b.toNat, a.toNat, d.toNat, 16] [5, 3, 3, 5, 5, 5, 6] := ⟨by decide, t.isLt, p.isLt, b.isLt, a.isLt, d.isLt, by decide, trivial⟩
  rw [he]; show decV w = _; rw [opV16 (top _ _ 6 67108864 hw hf rfl rfl rfl (by decide))]; unfold decV16
  have e0 : w % 32 = 1 := low hw hf
  rw [if_neg (fun h => absurd (e0.symm.trans h) (by decide)),
    if_pos e0,
    field d (digit _ _ 5 2097152 hw hf rfl rfl rfl (by decide)),
    field a (digit _ _ 4 65536 hw hf rfl rfl rfl (by decide)),
    field b (digit _ _ 3 2048 hw hf rfl rfl rfl (by decide)),
    field p (digit _ _ 2 256 hw hf rfl rfl rfl (by decide)),
    field t (digit _ _ 1 32 hw hf rfl rfl rfl (by decide))]

theorem vsar (d : BitVec 5) (a : BitVec 5) (b : BitVec 5) (p : BitVec 3) (t : BitVec 3) : Statement (.vsar d a b p t) := by
  refine of_slot 1 rfl rfl ?_
  obtain ⟨w, h0⟩ : ∃ w, w = 1073741826 + d.toNat * 2097152 + a.toNat * 65536 + b.toNat * 2048 + p.toNat * 256 + t.toNat * 32 := ⟨_, rfl⟩
  have he : encode (.vsar d a b p t) = w := h0.symm
  have hw : w = pack [2, t.toNat, p.toNat, b.toNat, a.toNat, d.toNat, 16] [5, 3, 3, 5, 5, 5, 6] := by rw [h0]; simp only [pack]; omega
  have hf : Fits [2, t.toNat, p.toNat, b.toNat, a.toNat, d.toNat, 16] [5, 3, 3, 5, 5, 5, 6] := ⟨by decide, t.isLt, p.isLt, b.isLt, a.isLt, d.isLt, by decide, trivial⟩
  rw [he]; show decV w = _; rw [opV16 (top _ _ 6 67108864 hw hf rfl rfl rfl (by decide))]; unfold decV16
  have e0 : w % 32 = 2 := low hw hf
  rw [if_neg (fun h => absurd (e0.symm.trans h) (by decide)),
    if_neg (fun h => absurd (e0.symm.trans h) (by decide)),
    if_pos e0,
    field d (digit _ _ 5 2097152 hw hf rfl rfl rfl (by decide)),
    field a (digit _ _ 4 65536 hw hf rfl rfl rfl (by decide)),
    field b (digit _ _ 3 2048 hw hf rfl rfl rfl (by decide)),
    field p (digit _ _ 2 256 hw hf rfl rfl rfl (by decide)),
    field t (digit _ _ 1 32 hw hf rfl rfl rfl (by decide))]

theorem vshli (d : BitVec 5) (a : BitVec 5) (c : BitVec 6) (t : BitVec 3) : Statement (.vshli d a c t) := by
  refine of_slot 1 rfl rfl ?_
  obtain ⟨w, h0⟩ : ∃ w, w = 1140850688 + d.toNat * 2097152 + a.toNat * 65536 + c.toNat * 256 + t.toNat * 32 := ⟨_, rfl⟩
  have he : encode (.vshli d a c t) = w := h0.symm
  have hw : w = pack [0, t.toNat, c.toNat, 0, a.toNat, d.toNat, 17] [5, 3, 6, 2, 5, 5, 6] := by rw [h0]; simp only [pack]; omega
  have hf : Fits [0, t.toNat, c.toNat, 0, a.toNat, d.toNat, 17] [5, 3, 6, 2, 5, 5, 6] := ⟨by decide, t.isLt, c.isLt, by decide, a.isLt, d.isLt, by decide, trivial⟩
  rw [he]; show decV w = _; rw [opV17 (top _ _ 6 67108864 hw hf rfl rfl rfl (by decide))]; unfold decV17
  have e0 : w % 32 = 0 := low hw hf
  have e1 : w / 16384 % 4 = 0 := digit _ _ 3 16384 hw hf rfl rfl rfl (by decide)
  rw [if_pos ⟨e0, e1⟩,
    field d (digit _ _ 5 2097152 hw hf rfl rfl rfl (by decide)),
    field a (digit _ _ 4 65536 hw hf rfl rfl rfl (by decide)),
    field c (digit _ _ 2 256 hw hf rfl rfl rfl (by decide)),
    field t (digit _ _ 1 32 hw hf rfl rfl rfl (by decide))]

theorem vshri (d : BitVec 5) (a : BitVec 5) (c : BitVec 6) (t : BitVec 3) : Statement (.vshri d a c t) := by
  refine of_slot 1 rfl rfl ?_
  obtain ⟨w, h0⟩ : ∃ w, w = 1140850689 + d.toNat * 2097152 + a.toNat * 65536 + c.toNat * 256 + t.toNat * 32 := ⟨_, rfl⟩
  have he : encode (.vshri d a c t) = w := h0.symm
  have hw : w = pack [1, t.toNat, c.toNat, 0, a.toNat, d.toNat, 17] [5, 3, 6, 2, 5, 5, 6] := by rw [h0]; simp only [pack]; omega
  have hf : Fits [1, t.toNat, c.toNat, 0, a.toNat, d.toNat, 17] [5, 3, 6, 2, 5, 5, 6] := ⟨by decide, t.isLt, c.isLt, by decide, a.isLt, d.isLt, by decide, trivial⟩
  rw [he]; show decV w = _; rw [opV17 (top _ _ 6 67108864 hw hf rfl rfl rfl (by decide))]; unfold decV17
  have e0 : w % 32 = 1 := low hw hf
  have e1 : w / 16384 % 4 = 0 := digit _ _ 3 16384 hw hf rfl rfl rfl (by decide)
  rw [if_neg (fun h => absurd (e0.symm.trans h.1) (by decide)),
    if_pos ⟨e0, e1⟩,
    field d (digit _ _ 5 2097152 hw hf rfl rfl rfl (by decide)),
    field a (digit _ _ 4 65536 hw hf rfl rfl rfl (by decide)),
    field c (digit _ _ 2 256 hw hf rfl rfl rfl (by decide)),
    field t (digit _ _ 1 32 hw hf rfl rfl rfl (by decide))]

theorem vsari (d : BitVec 5) (a : BitVec 5) (c : BitVec 6) (t : BitVec 3) : Statement (.vsari d a c t) := by
  refine of_slot 1 rfl rfl ?_
  obtain ⟨w, h0⟩ : ∃ w, w = 1140850690 + d.toNat * 2097152 + a.toNat * 65536 + c.toNat * 256 + t.toNat * 32 := ⟨_, rfl⟩
  have he : encode (.vsari d a c t) = w := h0.symm
  have hw : w = pack [2, t.toNat, c.toNat, 0, a.toNat, d.toNat, 17] [5, 3, 6, 2, 5, 5, 6] := by rw [h0]; simp only [pack]; omega
  have hf : Fits [2, t.toNat, c.toNat, 0, a.toNat, d.toNat, 17] [5, 3, 6, 2, 5, 5, 6] := ⟨by decide, t.isLt, c.isLt, by decide, a.isLt, d.isLt, by decide, trivial⟩
  rw [he]; show decV w = _; rw [opV17 (top _ _ 6 67108864 hw hf rfl rfl rfl (by decide))]; unfold decV17
  have e0 : w % 32 = 2 := low hw hf
  have e1 : w / 16384 % 4 = 0 := digit _ _ 3 16384 hw hf rfl rfl rfl (by decide)
  rw [if_neg (fun h => absurd (e0.symm.trans h.1) (by decide)),
    if_neg (fun h => absurd (e0.symm.trans h.1) (by decide)),
    if_pos ⟨e0, e1⟩,
    field d (digit _ _ 5 2097152 hw hf rfl rfl rfl (by decide)),
    field a (digit _ _ 4 65536 hw hf rfl rfl rfl (by decide)),
    field c (digit _ _ 2 256 hw hf rfl rfl rfl (by decide)),
    field t (digit _ _ 1 32 hw hf rfl rfl rfl (by decide))]

theorem vadds (d : BitVec 5) (a : BitVec 5) (b : BitVec 5) (p : BitVec 3) (t : BitVec 3) : Statement (.vadds d a b p t) := by
  refine of_slot 1 rfl rfl ?_
  obtain ⟨w, h0⟩ : ∃ w, w = 1207959552 + d.toNat * 2097152 + a.toNat * 65536 + b.toNat * 2048 + p.toNat * 256 + t.toNat * 32 := ⟨_, rfl⟩
  have he : encode (.vadds d a b p t) = w := h0.symm
  have hw : w = pack [0, t.toNat, p.toNat, b.toNat, a.toNat, d.toNat, 18] [5, 3, 3, 5, 5, 5, 6] := by rw [h0]; simp only [pack]; omega
  have hf : Fits [0, t.toNat, p.toNat, b.toNat, a.toNat, d.toNat, 18] [5, 3, 3, 5, 5, 5, 6] := ⟨by decide, t.isLt, p.isLt, b.isLt, a.isLt, d.isLt, by decide, trivial⟩
  rw [he]; show decV w = _; rw [opV18 (top _ _ 6 67108864 hw hf rfl rfl rfl (by decide))]; unfold decV18
  have e0 : w % 32 = 0 := low hw hf
  rw [if_pos e0,
    field d (digit _ _ 5 2097152 hw hf rfl rfl rfl (by decide)),
    field a (digit _ _ 4 65536 hw hf rfl rfl rfl (by decide)),
    field b (digit _ _ 3 2048 hw hf rfl rfl rfl (by decide)),
    field p (digit _ _ 2 256 hw hf rfl rfl rfl (by decide)),
    field t (digit _ _ 1 32 hw hf rfl rfl rfl (by decide))]

theorem vsubs (d : BitVec 5) (a : BitVec 5) (b : BitVec 5) (p : BitVec 3) (t : BitVec 3) : Statement (.vsubs d a b p t) := by
  refine of_slot 1 rfl rfl ?_
  obtain ⟨w, h0⟩ : ∃ w, w = 1207959553 + d.toNat * 2097152 + a.toNat * 65536 + b.toNat * 2048 + p.toNat * 256 + t.toNat * 32 := ⟨_, rfl⟩
  have he : encode (.vsubs d a b p t) = w := h0.symm
  have hw : w = pack [1, t.toNat, p.toNat, b.toNat, a.toNat, d.toNat, 18] [5, 3, 3, 5, 5, 5, 6] := by rw [h0]; simp only [pack]; omega
  have hf : Fits [1, t.toNat, p.toNat, b.toNat, a.toNat, d.toNat, 18] [5, 3, 3, 5, 5, 5, 6] := ⟨by decide, t.isLt, p.isLt, b.isLt, a.isLt, d.isLt, by decide, trivial⟩
  rw [he]; show decV w = _; rw [opV18 (top _ _ 6 67108864 hw hf rfl rfl rfl (by decide))]; unfold decV18
  have e0 : w % 32 = 1 := low hw hf
  rw [if_neg (fun h => absurd (e0.symm.trans h) (by decide)),
    if_pos e0,
    field d (digit _ _ 5 2097152 hw hf rfl rfl rfl (by decide)),
    field a (digit _ _ 4 65536 hw hf rfl rfl rfl (by decide)),
    field b (digit _ _ 3 2048 hw hf rfl rfl rfl (by decide)),
    field p (digit _ _ 2 256 hw hf rfl rfl rfl (by decide)),
    field t (digit _ _ 1 32 hw hf rfl rfl rfl (by decide))]

theorem vabs (d : BitVec 5) (a : BitVec 5) (p : BitVec 3) (t : BitVec 3) : Statement (.vabs d a p t) := by
  refine of_slot 1 rfl rfl ?_
  obtain ⟨w, h0⟩ : ∃ w, w = 1275068416 + d.toNat * 2097152 + a.toNat * 65536 + p.toNat * 256 + t.toNat * 32 := ⟨_, rfl⟩
  have he : encode (.vabs d a p t) = w := h0.symm
  have hw : w = pack [0, t.toNat, p.toNat, 0, a.toNat, d.toNat, 19] [5, 3, 3, 5, 5, 5, 6] := by rw [h0]; simp only [pack]; omega
  have hf : Fits [0, t.toNat, p.toNat, 0, a.toNat, d.toNat, 19] [5, 3, 3, 5, 5, 5, 6] := ⟨by decide, t.isLt, p.isLt, by decide, a.isLt, d.isLt, by decide, trivial⟩
  rw [he]; show decV w = _; rw [opV19 (top _ _ 6 67108864 hw hf rfl rfl rfl (by decide))]; unfold decV19
  have e0 : w % 32 = 0 := low hw hf
  have e1 : w / 2048 % 32 = 0 := digit _ _ 3 2048 hw hf rfl rfl rfl (by decide)
  rw [if_pos ⟨e0, e1⟩,
    field d (digit _ _ 5 2097152 hw hf rfl rfl rfl (by decide)),
    field a (digit _ _ 4 65536 hw hf rfl rfl rfl (by decide)),
    field p (digit _ _ 2 256 hw hf rfl rfl rfl (by decide)),
    field t (digit _ _ 1 32 hw hf rfl rfl rfl (by decide))]

theorem vneg (d : BitVec 5) (a : BitVec 5) (p : BitVec 3) (t : BitVec 3) : Statement (.vneg d a p t) := by
  refine of_slot 1 rfl rfl ?_
  obtain ⟨w, h0⟩ : ∃ w, w = 1275068417 + d.toNat * 2097152 + a.toNat * 65536 + p.toNat * 256 + t.toNat * 32 := ⟨_, rfl⟩
  have he : encode (.vneg d a p t) = w := h0.symm
  have hw : w = pack [1, t.toNat, p.toNat, 0, a.toNat, d.toNat, 19] [5, 3, 3, 5, 5, 5, 6] := by rw [h0]; simp only [pack]; omega
  have hf : Fits [1, t.toNat, p.toNat, 0, a.toNat, d.toNat, 19] [5, 3, 3, 5, 5, 5, 6] := ⟨by decide, t.isLt, p.isLt, by decide, a.isLt, d.isLt, by decide, trivial⟩
  rw [he]; show decV w = _; rw [opV19 (top _ _ 6 67108864 hw hf rfl rfl rfl (by decide))]; unfold decV19
  have e0 : w % 32 = 1 := low hw hf
  have e1 : w / 2048 % 32 = 0 := digit _ _ 3 2048 hw hf rfl rfl rfl (by decide)
  rw [if_neg (fun h => absurd (e0.symm.trans h.1) (by decide)),
    if_pos ⟨e0, e1⟩,
    field d (digit _ _ 5 2097152 hw hf rfl rfl rfl (by decide)),
    field a (digit _ _ 4 65536 hw hf rfl rfl rfl (by decide)),
    field p (digit _ _ 2 256 hw hf rfl rfl rfl (by decide)),
    field t (digit _ _ 1 32 hw hf rfl rfl rfl (by decide))]

theorem vclz (d : BitVec 5) (a : BitVec 5) (p : BitVec 3) (t : BitVec 3) : Statement (.vclz d a p t) := by
  refine of_slot 1 rfl rfl ?_
  obtain ⟨w, h0⟩ : ∃ w, w = 1275068418 + d.toNat * 2097152 + a.toNat * 65536 + p.toNat * 256 + t.toNat * 32 := ⟨_, rfl⟩
  have he : encode (.vclz d a p t) = w := h0.symm
  have hw : w = pack [2, t.toNat, p.toNat, 0, a.toNat, d.toNat, 19] [5, 3, 3, 5, 5, 5, 6] := by rw [h0]; simp only [pack]; omega
  have hf : Fits [2, t.toNat, p.toNat, 0, a.toNat, d.toNat, 19] [5, 3, 3, 5, 5, 5, 6] := ⟨by decide, t.isLt, p.isLt, by decide, a.isLt, d.isLt, by decide, trivial⟩
  rw [he]; show decV w = _; rw [opV19 (top _ _ 6 67108864 hw hf rfl rfl rfl (by decide))]; unfold decV19
  have e0 : w % 32 = 2 := low hw hf
  have e1 : w / 2048 % 32 = 0 := digit _ _ 3 2048 hw hf rfl rfl rfl (by decide)
  rw [if_neg (fun h => absurd (e0.symm.trans h.1) (by decide)),
    if_neg (fun h => absurd (e0.symm.trans h.1) (by decide)),
    if_pos ⟨e0, e1⟩,
    field d (digit _ _ 5 2097152 hw hf rfl rfl rfl (by decide)),
    field a (digit _ _ 4 65536 hw hf rfl rfl rfl (by decide)),
    field p (digit _ _ 2 256 hw hf rfl rfl rfl (by decide)),
    field t (digit _ _ 1 32 hw hf rfl rfl rfl (by decide))]

theorem vpopc (d : BitVec 5) (a : BitVec 5) (p : BitVec 3) (t : BitVec 3) : Statement (.vpopc d a p t) := by
  refine of_slot 1 rfl rfl ?_
  obtain ⟨w, h0⟩ : ∃ w, w = 1275068419 + d.toNat * 2097152 + a.toNat * 65536 + p.toNat * 256 + t.toNat * 32 := ⟨_, rfl⟩
  have he : encode (.vpopc d a p t) = w := h0.symm
  have hw : w = pack [3, t.toNat, p.toNat, 0, a.toNat, d.toNat, 19] [5, 3, 3, 5, 5, 5, 6] := by rw [h0]; simp only [pack]; omega
  have hf : Fits [3, t.toNat, p.toNat, 0, a.toNat, d.toNat, 19] [5, 3, 3, 5, 5, 5, 6] := ⟨by decide, t.isLt, p.isLt, by decide, a.isLt, d.isLt, by decide, trivial⟩
  rw [he]; show decV w = _; rw [opV19 (top _ _ 6 67108864 hw hf rfl rfl rfl (by decide))]; unfold decV19
  have e0 : w % 32 = 3 := low hw hf
  have e1 : w / 2048 % 32 = 0 := digit _ _ 3 2048 hw hf rfl rfl rfl (by decide)
  rw [if_neg (fun h => absurd (e0.symm.trans h.1) (by decide)),
    if_neg (fun h => absurd (e0.symm.trans h.1) (by decide)),
    if_neg (fun h => absurd (e0.symm.trans h.1) (by decide)),
    if_pos ⟨e0, e1⟩,
    field d (digit _ _ 5 2097152 hw hf rfl rfl rfl (by decide)),
    field a (digit _ _ 4 65536 hw hf rfl rfl rfl (by decide)),
    field p (digit _ _ 2 256 hw hf rfl rfl rfl (by decide)),
    field t (digit _ _ 1 32 hw hf rfl rfl rfl (by decide))]

theorem vmov (d : BitVec 5) (a : BitVec 5) (p : BitVec 3) : Statement (.vmov d a p) := by
  refine of_slot 1 rfl rfl ?_
  obtain ⟨w, h0⟩ : ∃ w, w = 1342177280 + d.toNat * 2097152 + a.toNat * 65536 + p.toNat * 256 := ⟨_, rfl⟩
  have he : encode (.vmov d a p) = w := h0.symm
  have hw : w = pack [0, p.toNat, 0, a.toNat, d.toNat, 20] [8, 3, 5, 5, 5, 6] := by rw [h0]; simp only [pack]; omega
  have hf : Fits [0, p.toNat, 0, a.toNat, d.toNat, 20] [8, 3, 5, 5, 5, 6] := ⟨by decide, p.isLt, by decide, a.isLt, d.isLt, by decide, trivial⟩
  rw [he]; show decV w = _; rw [opV20 (top _ _ 5 67108864 hw hf rfl rfl rfl (by decide))]; unfold decV20
  have e0 : w % 256 = 0 := low hw hf
  have e1 : w / 2048 % 32 = 0 := digit _ _ 2 2048 hw hf rfl rfl rfl (by decide)
  rw [if_pos ⟨e0, e1⟩,
    field d (digit _ _ 4 2097152 hw hf rfl rfl rfl (by decide)),
    field a (digit _ _ 3 65536 hw hf rfl rfl rfl (by decide)),
    field p (digit _ _ 1 256 hw hf rfl rfl rfl (by decide))]

theorem vbcast (d : BitVec 5) (sf : BitVec 5) (p : BitVec 3) (t : BitVec 3) : Statement (.vbcast d sf p t) := by
  refine of_slot 1 rfl rfl ?_
  obtain ⟨w, h0⟩ : ∃ w, w = 1409286144 + d.toNat * 2097152 + sf.toNat * 65536 + p.toNat * 256 + t.toNat * 32 := ⟨_, rfl⟩
  have he : encode (.vbcast d sf p t) = w := h0.symm
  have hw : w = pack [0, t.toNat, p.toNat, 0, sf.toNat, d.toNat, 21] [5, 3, 3, 5, 5, 5, 6] := by rw [h0]; simp only [pack]; omega
  have hf : Fits [0, t.toNat, p.toNat, 0, sf.toNat, d.toNat, 21] [5, 3, 3, 5, 5, 5, 6] := ⟨by decide, t.isLt, p.isLt, by decide, sf.isLt, d.isLt, by decide, trivial⟩
  rw [he]; show decV w = _; rw [opV21 (top _ _ 6 67108864 hw hf rfl rfl rfl (by decide))]; unfold decV21
  have e0 : w % 32 = 0 := low hw hf
  have e1 : w / 2048 % 32 = 0 := digit _ _ 3 2048 hw hf rfl rfl rfl (by decide)
  rw [if_pos ⟨e0, e1⟩,
    field d (digit _ _ 5 2097152 hw hf rfl rfl rfl (by decide)),
    field sf (digit _ _ 4 65536 hw hf rfl rfl rfl (by decide)),
    field p (digit _ _ 2 256 hw hf rfl rfl rfl (by decide)),
    field t (digit _ _ 1 32 hw hf rfl rfl rfl (by decide))]

theorem vext (d : BitVec 5) (a : BitVec 5) (b : BitVec 5) (t : BitVec 3) : Statement (.vext d a b t) := by
  refine of_slot 1 rfl rfl ?_
  obtain ⟨w, h0⟩ : ∃ w, w = 1476395008 + d.toNat * 2097152 + a.toNat * 65536 + b.toNat * 2048 + t.toNat * 32 := ⟨_, rfl⟩
  have he : encode (.vext d a b t) = w := h0.symm
  have hw : w = pack [0, t.toNat, 0, b.toNat, a.toNat, d.toNat, 22] [5, 3, 3, 5, 5, 5, 6] := by rw [h0]; simp only [pack]; omega
  have hf : Fits [0, t.toNat, 0, b.toNat, a.toNat, d.toNat, 22] [5, 3, 3, 5, 5, 5, 6] := ⟨by decide, t.isLt, by decide, b.isLt, a.isLt, d.isLt, by decide, trivial⟩
  rw [he]; show decV w = _; rw [opV22 (top _ _ 6 67108864 hw hf rfl rfl rfl (by decide))]; unfold decV22
  have e0 : w % 32 = 0 := low hw hf
  have e1 : w / 256 % 8 = 0 := digit _ _ 2 256 hw hf rfl rfl rfl (by decide)
  rw [if_pos ⟨e0, e1⟩,
    field d (digit _ _ 5 2097152 hw hf rfl rfl rfl (by decide)),
    field a (digit _ _ 4 65536 hw hf rfl rfl rfl (by decide)),
    field b (digit _ _ 3 2048 hw hf rfl rfl rfl (by decide)),
    field t (digit _ _ 1 32 hw hf rfl rfl rfl (by decide))]

theorem vins (d : BitVec 5) (sf : BitVec 5) (b : BitVec 5) (p : BitVec 3) (t : BitVec 3) : Statement (.vins d sf b p t) := by
  refine of_slot 1 rfl rfl ?_
  obtain ⟨w, h0⟩ : ∃ w, w = 1543503872 + d.toNat * 2097152 + sf.toNat * 65536 + b.toNat * 2048 + p.toNat * 256 + t.toNat * 32 := ⟨_, rfl⟩
  have he : encode (.vins d sf b p t) = w := h0.symm
  have hw : w = pack [0, t.toNat, p.toNat, b.toNat, sf.toNat, d.toNat, 23] [5, 3, 3, 5, 5, 5, 6] := by rw [h0]; simp only [pack]; omega
  have hf : Fits [0, t.toNat, p.toNat, b.toNat, sf.toNat, d.toNat, 23] [5, 3, 3, 5, 5, 5, 6] := ⟨by decide, t.isLt, p.isLt, b.isLt, sf.isLt, d.isLt, by decide, trivial⟩
  rw [he]; show decV w = _; rw [opV23 (top _ _ 6 67108864 hw hf rfl rfl rfl (by decide))]; unfold decV23
  have e0 : w % 32 = 0 := low hw hf
  rw [if_pos e0,
    field d (digit _ _ 5 2097152 hw hf rfl rfl rfl (by decide)),
    field sf (digit _ _ 4 65536 hw hf rfl rfl rfl (by decide)),
    field b (digit _ _ 3 2048 hw hf rfl rfl rfl (by decide)),
    field p (digit _ _ 2 256 hw hf rfl rfl rfl (by decide)),
    field t (digit _ _ 1 32 hw hf rfl rfl rfl (by decide))]

theorem vimm (d : BitVec 5) (i : BitVec 8) (t : BitVec 3) : Statement (.vimm d i t) := by
  refine of_slot 1 rfl rfl ?_
  obtain ⟨w, h0⟩ : ∃ w, w = 1610612736 + d.toNat * 2097152 + i.toNat * 256 + t.toNat * 32 := ⟨_, rfl⟩
  have he : encode (.vimm d i t) = w := h0.symm
  have hw : w = pack [0, t.toNat, i.toNat, 0, d.toNat, 24] [5, 3, 8, 5, 5, 6] := by rw [h0]; simp only [pack]; omega
  have hf : Fits [0, t.toNat, i.toNat, 0, d.toNat, 24] [5, 3, 8, 5, 5, 6] := ⟨by decide, t.isLt, i.isLt, by decide, d.isLt, by decide, trivial⟩
  rw [he]; show decV w = _; rw [opV24 (top _ _ 5 67108864 hw hf rfl rfl rfl (by decide))]; unfold decV24
  have e0 : w % 32 = 0 := low hw hf
  have e1 : w / 65536 % 32 = 0 := digit _ _ 3 65536 hw hf rfl rfl rfl (by decide)
  rw [if_pos ⟨e0, e1⟩,
    field d (digit _ _ 4 2097152 hw hf rfl rfl rfl (by decide)),
    field i (digit _ _ 2 256 hw hf rfl rfl rfl (by decide)),
    field t (digit _ _ 1 32 hw hf rfl rfl rfl (by decide))]

theorem vredAdd (d : BitVec 5) (a : BitVec 5) (p : BitVec 3) (t : BitVec 3) (sf : BitVec 1) : Statement (.vredAdd d a p t sf) := by
  refine of_slot 1 rfl rfl ?_
  obtain ⟨w, h0⟩ : ∃ w, w = 1677721600 + d.toNat * 2097152 + a.toNat * 65536 + p.toNat * 256 + t.toNat * 32 + sf.toNat * 8 := ⟨_, rfl⟩
  have he : encode (.vredAdd d a p t sf) = w := h0.symm
  have hw : w = pack [0, sf.toNat, 0, t.toNat, p.toNat, 0, a.toNat, d.toNat, 25] [3, 1, 1, 3, 3, 5, 5, 5, 6] := by rw [h0]; simp only [pack]; omega
  have hf : Fits [0, sf.toNat, 0, t.toNat, p.toNat, 0, a.toNat, d.toNat, 25] [3, 1, 1, 3, 3, 5, 5, 5, 6] := ⟨by decide, sf.isLt, by decide, t.isLt, p.isLt, by decide, a.isLt, d.isLt, by decide, trivial⟩
  rw [he]; show decV w = _; rw [opV25 (top _ _ 8 67108864 hw hf rfl rfl rfl (by decide))]; unfold decV25
  have e0 : w % 8 = 0 := low hw hf
  have e1 : w / 16 % 2 = 0 := digit _ _ 2 16 hw hf rfl rfl rfl (by decide)
  have e2 : w / 2048 % 32 = 0 := digit _ _ 5 2048 hw hf rfl rfl rfl (by decide)
  rw [if_pos ⟨e0, e1, e2⟩,
    field d (digit _ _ 7 2097152 hw hf rfl rfl rfl (by decide)),
    field a (digit _ _ 6 65536 hw hf rfl rfl rfl (by decide)),
    field p (digit _ _ 4 256 hw hf rfl rfl rfl (by decide)),
    field t (digit _ _ 3 32 hw hf rfl rfl rfl (by decide)),
    field sf (digit _ _ 1 8 hw hf rfl rfl rfl (by decide))]

theorem vredMin (d : BitVec 5) (a : BitVec 5) (p : BitVec 3) (t : BitVec 3) (sf : BitVec 1) : Statement (.vredMin d a p t sf) := by
  refine of_slot 1 rfl rfl ?_
  obtain ⟨w, h0⟩ : ∃ w, w = 1677721601 + d.toNat * 2097152 + a.toNat * 65536 + p.toNat * 256 + t.toNat * 32 + sf.toNat * 8 := ⟨_, rfl⟩
  have he : encode (.vredMin d a p t sf) = w := h0.symm
  have hw : w = pack [1, sf.toNat, 0, t.toNat, p.toNat, 0, a.toNat, d.toNat, 25] [3, 1, 1, 3, 3, 5, 5, 5, 6] := by rw [h0]; simp only [pack]; omega
  have hf : Fits [1, sf.toNat, 0, t.toNat, p.toNat, 0, a.toNat, d.toNat, 25] [3, 1, 1, 3, 3, 5, 5, 5, 6] := ⟨by decide, sf.isLt, by decide, t.isLt, p.isLt, by decide, a.isLt, d.isLt, by decide, trivial⟩
  rw [he]; show decV w = _; rw [opV25 (top _ _ 8 67108864 hw hf rfl rfl rfl (by decide))]; unfold decV25
  have e0 : w % 8 = 1 := low hw hf
  have e1 : w / 16 % 2 = 0 := digit _ _ 2 16 hw hf rfl rfl rfl (by decide)
  have e2 : w / 2048 % 32 = 0 := digit _ _ 5 2048 hw hf rfl rfl rfl (by decide)
  rw [if_neg (fun h => absurd (e0.symm.trans h.1) (by decide)),
    if_pos ⟨e0, e1, e2⟩,
    field d (digit _ _ 7 2097152 hw hf rfl rfl rfl (by decide)),
    field a (digit _ _ 6 65536 hw hf rfl rfl rfl (by decide)),
    field p (digit _ _ 4 256 hw hf rfl rfl rfl (by decide)),
    field t (digit _ _ 3 32 hw hf rfl rfl rfl (by decide)),
    field sf (digit _ _ 1 8 hw hf rfl rfl rfl (by decide))]

theorem vredMax (d : BitVec 5) (a : BitVec 5) (p : BitVec 3) (t : BitVec 3) (sf : BitVec 1) : Statement (.vredMax d a p t sf) := by
  refine of_slot 1 rfl rfl ?_
  obtain ⟨w, h0⟩ : ∃ w, w = 1677721602 + d.toNat * 2097152 + a.toNat * 65536 + p.toNat * 256 + t.toNat * 32 + sf.toNat * 8 := ⟨_, rfl⟩
  have he : encode (.vredMax d a p t sf) = w := h0.symm
  have hw : w = pack [2, sf.toNat, 0, t.toNat, p.toNat, 0, a.toNat, d.toNat, 25] [3, 1, 1, 3, 3, 5, 5, 5, 6] := by rw [h0]; simp only [pack]; omega
  have hf : Fits [2, sf.toNat, 0, t.toNat, p.toNat, 0, a.toNat, d.toNat, 25] [3, 1, 1, 3, 3, 5, 5, 5, 6] := ⟨by decide, sf.isLt, by decide, t.isLt, p.isLt, by decide, a.isLt, d.isLt, by decide, trivial⟩
  rw [he]; show decV w = _; rw [opV25 (top _ _ 8 67108864 hw hf rfl rfl rfl (by decide))]; unfold decV25
  have e0 : w % 8 = 2 := low hw hf
  have e1 : w / 16 % 2 = 0 := digit _ _ 2 16 hw hf rfl rfl rfl (by decide)
  have e2 : w / 2048 % 32 = 0 := digit _ _ 5 2048 hw hf rfl rfl rfl (by decide)
  rw [if_neg (fun h => absurd (e0.symm.trans h.1) (by decide)),
    if_neg (fun h => absurd (e0.symm.trans h.1) (by decide)),
    if_pos ⟨e0, e1, e2⟩,
    field d (digit _ _ 7 2097152 hw hf rfl rfl rfl (by decide)),
    field a (digit _ _ 6 65536 hw hf rfl rfl rfl (by decide)),
    field p (digit _ _ 4 256 hw hf rfl rfl rfl (by decide)),
    field t (digit _ _ 3 32 hw hf rfl rfl rfl (by decide)),
    field sf (digit _ _ 1 8 hw hf rfl rfl rfl (by decide))]

theorem vshuf (d : BitVec 5) (a : BitVec 5) (b : BitVec 5) (p : BitVec 3) : Statement (.vshuf d a b p) := by
  refine of_slot 1 rfl rfl ?_
  obtain ⟨w, h0⟩ : ∃ w, w = 1744830464 + d.toNat * 2097152 + a.toNat * 65536 + b.toNat * 2048 + p.toNat * 256 := ⟨_, rfl⟩
  have he : encode (.vshuf d a b p) = w := h0.symm
  have hw : w = pack [0, p.toNat, b.toNat, a.toNat, d.toNat, 26] [8, 3, 5, 5, 5, 6] := by rw [h0]; simp only [pack]; omega
  have hf : Fits [0, p.toNat, b.toNat, a.toNat, d.toNat, 26] [8, 3, 5, 5, 5, 6] := ⟨by decide, p.isLt, b.isLt, a.isLt, d.isLt, by decide, trivial⟩
  rw [he]; show decV w = _; rw [opV26 (top _ _ 5 67108864 hw hf rfl rfl rfl (by decide))]; unfold decV26
  have e0 : w % 256 = 0 := low hw hf
  rw [if_pos e0,
    field d (digit _ _ 4 2097152 hw hf rfl rfl rfl (by decide)),
    field a (digit _ _ 3 65536 hw hf rfl rfl rfl (by decide)),
    field b (digit _ _ 2 2048 hw hf rfl rfl rfl (by decide)),
    field p (digit _ _ 1 256 hw hf rfl rfl rfl (by decide))]

theorem vpat (d : BitVec 5) (a : BitVec 5) (n : BitVec 5) (p : BitVec 3) (w : BitVec 1) (h : BitVec 1) : Statement (.vpat d a n p w h) := by
  refine of_slot 1 rfl rfl ?_
  obtain ⟨u, h0⟩ : ∃ u, u = 1811939328 + d.toNat * 2097152 + a.toNat * 65536 + n.toNat * 2048 + p.toNat * 256 + w.toNat * 2 + h.toNat := ⟨_, rfl⟩
  have he : encode (.vpat d a n p w h) = u := h0.symm
  have hw : u = pack [h.toNat, w.toNat, 0, p.toNat, n.toNat, a.toNat, d.toNat, 27] [1, 1, 6, 3, 5, 5, 5, 6] := by rw [h0]; simp only [pack]; omega
  have hf : Fits [h.toNat, w.toNat, 0, p.toNat, n.toNat, a.toNat, d.toNat, 27] [1, 1, 6, 3, 5, 5, 5, 6] := ⟨h.isLt, w.isLt, by decide, p.isLt, n.isLt, a.isLt, d.isLt, by decide, trivial⟩
  rw [he]; show decV u = _; rw [opV27 (top _ _ 7 67108864 hw hf rfl rfl rfl (by decide))]; unfold decV27
  have e0 : u / 4 % 64 = 0 := digit _ _ 2 4 hw hf rfl rfl rfl (by decide)
  rw [if_pos e0,
    field d (digit _ _ 6 2097152 hw hf rfl rfl rfl (by decide)),
    field a (digit _ _ 5 65536 hw hf rfl rfl rfl (by decide)),
    field n (digit _ _ 4 2048 hw hf rfl rfl rfl (by decide)),
    field p (digit _ _ 3 256 hw hf rfl rfl rfl (by decide)),
    field w (digit _ _ 1 2 hw hf rfl rfl rfl (by decide)),
    field h (low hw hf)]

theorem xcopy (d : BitVec 5) (a : BitVec 5) (b : BitVec 5) (p : BitVec 3) (c : BitVec 3) : Statement (.xcopy d a b p c) := by
  refine of_slot 1 rfl rfl ?_
  obtain ⟨w, h0⟩ : ∃ w, w = 1879048192 + d.toNat * 2097152 + a.toNat * 65536 + b.toNat * 2048 + p.toNat * 256 + c.toNat := ⟨_, rfl⟩
  have he : encode (.xcopy d a b p c) = w := h0.symm
  have hw : w = pack [c.toNat, 0, p.toNat, b.toNat, a.toNat, d.toNat, 28] [3, 5, 3, 5, 5, 5, 6] := by rw [h0]; simp only [pack]; omega
  have hf : Fits [c.toNat, 0, p.toNat, b.toNat, a.toNat, d.toNat, 28] [3, 5, 3, 5, 5, 5, 6] := ⟨c.isLt, by decide, p.isLt, b.isLt, a.isLt, d.isLt, by decide, trivial⟩
  rw [he]; show decV w = _; rw [opV28 (top _ _ 6 67108864 hw hf rfl rfl rfl (by decide))]; unfold decV28
  have e0 : w / 8 % 32 = 0 := digit _ _ 1 8 hw hf rfl rfl rfl (by decide)
  rw [if_pos e0,
    field d (digit _ _ 5 2097152 hw hf rfl rfl rfl (by decide)),
    field a (digit _ _ 4 65536 hw hf rfl rfl rfl (by decide)),
    field b (digit _ _ 3 2048 hw hf rfl rfl rfl (by decide)),
    field p (digit _ _ 2 256 hw hf rfl rfl rfl (by decide)),
    field c (low hw hf)]

theorem vtopk (d : BitVec 5) (a : BitVec 5) (p : BitVec 3) (t : BitVec 3) (sf : BitVec 1) (k : BitVec 3) : Statement (.vtopk d a p t sf k) := by
  refine of_slot 1 rfl rfl ?_
  obtain ⟨w, h0⟩ : ∃ w, w = 1946157056 + d.toNat * 2097152 + a.toNat * 65536 + p.toNat * 256 + t.toNat * 32 + sf.toNat * 8 + k.toNat := ⟨_, rfl⟩
  have he : encode (.vtopk d a p t sf k) = w := h0.symm
  have hw : w = pack [k.toNat, sf.toNat, 0, t.toNat, p.toNat, 0, a.toNat, d.toNat, 29] [3, 1, 1, 3, 3, 5, 5, 5, 6] := by rw [h0]; simp only [pack]; omega
  have hf : Fits [k.toNat, sf.toNat, 0, t.toNat, p.toNat, 0, a.toNat, d.toNat, 29] [3, 1, 1, 3, 3, 5, 5, 5, 6] := ⟨k.isLt, sf.isLt, by decide, t.isLt, p.isLt, by decide, a.isLt, d.isLt, by decide, trivial⟩
  rw [he]; show decV w = _; rw [opV29 (top _ _ 8 67108864 hw hf rfl rfl rfl (by decide))]; unfold decV29
  have e0 : w / 16 % 2 = 0 := digit _ _ 2 16 hw hf rfl rfl rfl (by decide)
  have e1 : w / 2048 % 32 = 0 := digit _ _ 5 2048 hw hf rfl rfl rfl (by decide)
  rw [if_pos ⟨e0, e1⟩,
    field d (digit _ _ 7 2097152 hw hf rfl rfl rfl (by decide)),
    field a (digit _ _ 6 65536 hw hf rfl rfl rfl (by decide)),
    field p (digit _ _ 4 256 hw hf rfl rfl rfl (by decide)),
    field t (digit _ _ 3 32 hw hf rfl rfl rfl (by decide)),
    field sf (digit _ _ 1 8 hw hf rfl rfl rfl (by decide)),
    field k (low hw hf)]

theorem viota (d : BitVec 5) (p : BitVec 3) (t : BitVec 3) : Statement (.viota d p t) := by
  refine of_slot 1 rfl rfl ?_
  obtain ⟨w, h0⟩ : ∃ w, w = 2013265920 + d.toNat * 2097152 + p.toNat * 256 + t.toNat * 32 := ⟨_, rfl⟩
  have he : encode (.viota d p t) = w := h0.symm
  have hw : w = pack [0, t.toNat, p.toNat, 0, d.toNat, 30] [5, 3, 3, 10, 5, 6] := by rw [h0]; simp only [pack]; omega
  have hf : Fits [0, t.toNat, p.toNat, 0, d.toNat, 30] [5, 3, 3, 10, 5, 6] := ⟨by decide, t.isLt, p.isLt, by decide, d.isLt, by decide, trivial⟩
  rw [he]; show decV w = _; rw [opV30 (top _ _ 5 67108864 hw hf rfl rfl rfl (by decide))]; unfold decV30
  have e0 : w % 32 = 0 := low hw hf
  have e1 : w / 2048 % 1024 = 0 := digit _ _ 3 2048 hw hf rfl rfl rfl (by decide)
  rw [if_pos ⟨e0, e1⟩,
    field d (digit _ _ 4 2097152 hw hf rfl rfl rfl (by decide)),
    field p (digit _ _ 2 256 hw hf rfl rfl rfl (by decide)),
    field t (digit _ _ 1 32 hw hf rfl rfl rfl (by decide))]

theorem viotaCnt (d : BitVec 5) (p : BitVec 3) (t : BitVec 3) : Statement (.viotaCnt d p t) := by
  refine of_slot 1 rfl rfl ?_
  obtain ⟨w, h0⟩ : ∃ w, w = 2013265921 + d.toNat * 2097152 + p.toNat * 256 + t.toNat * 32 := ⟨_, rfl⟩
  have he : encode (.viotaCnt d p t) = w := h0.symm
  have hw : w = pack [1, t.toNat, p.toNat, 0, d.toNat, 30] [5, 3, 3, 10, 5, 6] := by rw [h0]; simp only [pack]; omega
  have hf : Fits [1, t.toNat, p.toNat, 0, d.toNat, 30] [5, 3, 3, 10, 5, 6] := ⟨by decide, t.isLt, p.isLt, by decide, d.isLt, by decide, trivial⟩
  rw [he]; show decV w = _; rw [opV30 (top _ _ 5 67108864 hw hf rfl rfl rfl (by decide))]; unfold decV30
  have e0 : w % 32 = 1 := low hw hf
  have e1 : w / 2048 % 1024 = 0 := digit _ _ 3 2048 hw hf rfl rfl rfl (by decide)
  rw [if_neg (fun h => absurd (e0.symm.trans h.1) (by decide)),
    if_pos ⟨e0, e1⟩,
    field d (digit _ _ 4 2097152 hw hf rfl rfl rfl (by decide)),
    field p (digit _ _ 2 256 hw hf rfl rfl rfl (by decide)),
    field t (digit _ _ 1 32 hw hf rfl rfl rfl (by decide))]

theorem pand (d : BitVec 5) (a : BitVec 5) (b : BitVec 5) : Statement (.pand d a b) := by
  refine of_slot 1 rfl rfl ?_
  obtain ⟨w, h0⟩ : ∃ w, w = 2080374784 + d.toNat * 2097152 + a.toNat * 65536 + b.toNat * 2048 := ⟨_, rfl⟩
  have he : encode (.pand d a b) = w := h0.symm
  have hw : w = pack [0, b.toNat, a.toNat, d.toNat, 31] [11, 5, 5, 5, 6] := by rw [h0]; simp only [pack]; omega
  have hf : Fits [0, b.toNat, a.toNat, d.toNat, 31] [11, 5, 5, 5, 6] := ⟨by decide, b.isLt, a.isLt, d.isLt, by decide, trivial⟩
  rw [he]; show decV w = _; rw [opV31 (top _ _ 4 67108864 hw hf rfl rfl rfl (by decide))]; unfold decV31
  have e0 : w % 2048 = 0 := low hw hf
  rw [if_pos e0,
    field d (digit _ _ 3 2097152 hw hf rfl rfl rfl (by decide)),
    field a (digit _ _ 2 65536 hw hf rfl rfl rfl (by decide)),
    field b (digit _ _ 1 2048 hw hf rfl rfl rfl (by decide))]

theorem por (d : BitVec 5) (a : BitVec 5) (b : BitVec 5) : Statement (.por d a b) := by
  refine of_slot 1 rfl rfl ?_
  obtain ⟨w, h0⟩ : ∃ w, w = 2080374785 + d.toNat * 2097152 + a.toNat * 65536 + b.toNat * 2048 := ⟨_, rfl⟩
  have he : encode (.por d a b) = w := h0.symm
  have hw : w = pack [1, b.toNat, a.toNat, d.toNat, 31] [11, 5, 5, 5, 6] := by rw [h0]; simp only [pack]; omega
  have hf : Fits [1, b.toNat, a.toNat, d.toNat, 31] [11, 5, 5, 5, 6] := ⟨by decide, b.isLt, a.isLt, d.isLt, by decide, trivial⟩
  rw [he]; show decV w = _; rw [opV31 (top _ _ 4 67108864 hw hf rfl rfl rfl (by decide))]; unfold decV31
  have e0 : w % 2048 = 1 := low hw hf
  rw [if_neg (fun h => absurd (e0.symm.trans h) (by decide)),
    if_pos e0,
    field d (digit _ _ 3 2097152 hw hf rfl rfl rfl (by decide)),
    field a (digit _ _ 2 65536 hw hf rfl rfl rfl (by decide)),
    field b (digit _ _ 1 2048 hw hf rfl rfl rfl (by decide))]

theorem pxor (d : BitVec 5) (a : BitVec 5) (b : BitVec 5) : Statement (.pxor d a b) := by
  refine of_slot 1 rfl rfl ?_
  obtain ⟨w, h0⟩ : ∃ w, w = 2080374786 + d.toNat * 2097152 + a.toNat * 65536 + b.toNat * 2048 := ⟨_, rfl⟩
  have he : encode (.pxor d a b) = w := h0.symm
  have hw : w = pack [2, b.toNat, a.toNat, d.toNat, 31] [11, 5, 5, 5, 6] := by rw [h0]; simp only [pack]; omega
  have hf : Fits [2, b.toNat, a.toNat, d.toNat, 31] [11, 5, 5, 5, 6] := ⟨by decide, b.isLt, a.isLt, d.isLt, by decide, trivial⟩
  rw [he]; show decV w = _; rw [opV31 (top _ _ 4 67108864 hw hf rfl rfl rfl (by decide))]; unfold decV31
  have e0 : w % 2048 = 2 := low hw hf
  rw [if_neg (fun h => absurd (e0.symm.trans h) (by decide)),
    if_neg (fun h => absurd (e0.symm.trans h) (by decide)),
    if_pos e0,
    field d (digit _ _ 3 2097152 hw hf rfl rfl rfl (by decide)),
    field a (digit _ _ 2 65536 hw hf rfl rfl rfl (by decide)),
    field b (digit _ _ 1 2048 hw hf rfl rfl rfl (by decide))]

theorem pnot (d : BitVec 5) (a : BitVec 5) : Statement (.pnot d a) := by
  refine of_slot 1 rfl rfl ?_
  obtain ⟨w, h0⟩ : ∃ w, w = 2080374787 + d.toNat * 2097152 + a.toNat * 65536 := ⟨_, rfl⟩
  have h_d := d.isLt; have h_a := a.isLt
  have he : encode (.pnot d a) = w := h0.symm
  have hw : w = pack [3, 0, a.toNat, d.toNat, 31] [11, 5, 5, 5, 6] := by rw [h0]; simp only [pack]; omega
  have hf : Fits [3, 0, a.toNat, d.toNat, 31] [11, 5, 5, 5, 6] := ⟨by decide, by decide, a.isLt, d.isLt, by decide, trivial⟩
  rw [he]; show decV w = _; rw [opV31 (top _ _ 4 67108864 hw hf rfl rfl rfl (by decide))]; unfold decV31
  have e0 : w % 2048 = 3 := low hw hf
  have e1 : w % 65536 = 3 := by rw [h0]; omega
  rw [if_neg (fun h => absurd (e0.symm.trans h) (by decide)),
    if_neg (fun h => absurd (e0.symm.trans h) (by decide)),
    if_neg (fun h => absurd (e0.symm.trans h) (by decide)),
    if_pos e1,
    field d (digit _ _ 3 2097152 hw hf rfl rfl rfl (by decide)),
    field a (digit _ _ 2 65536 hw hf rfl rfl rfl (by decide))]

theorem pmov (d : BitVec 5) (a : BitVec 5) : Statement (.pmov d a) := by
  refine of_slot 1 rfl rfl ?_
  obtain ⟨w, h0⟩ : ∃ w, w = 2080374788 + d.toNat * 2097152 + a.toNat * 65536 := ⟨_, rfl⟩
  have h_d := d.isLt; have h_a := a.isLt
  have he : encode (.pmov d a) = w := h0.symm
  have hw : w = pack [4, 0, a.toNat, d.toNat, 31] [11, 5, 5, 5, 6] := by rw [h0]; simp only [pack]; omega
  have hf : Fits [4, 0, a.toNat, d.toNat, 31] [11, 5, 5, 5, 6] := ⟨by decide, by decide, a.isLt, d.isLt, by decide, trivial⟩
  rw [he]; show decV w = _; rw [opV31 (top _ _ 4 67108864 hw hf rfl rfl rfl (by decide))]; unfold decV31
  have e0 : w % 2048 = 4 := low hw hf
  have e1 : w % 65536 = 4 := by rw [h0]; omega
  rw [if_neg (fun h => absurd (e0.symm.trans h) (by decide)),
    if_neg (fun h => absurd (e0.symm.trans h) (by decide)),
    if_neg (fun h => absurd (e0.symm.trans h) (by decide)),
    if_neg (fun h => absurd (e1.symm.trans h) (by decide)),
    if_pos e1,
    field d (digit _ _ 3 2097152 hw hf rfl rfl rfl (by decide)),
    field a (digit _ _ 2 65536 hw hf rfl rfl rfl (by decide))]

theorem pcnt (d : BitVec 5) (a : BitVec 5) (p : BitVec 3) : Statement (.pcnt d a p) := by
  refine of_slot 1 rfl rfl ?_
  obtain ⟨w, h0⟩ : ∃ w, w = 2147483648 + d.toNat * 2097152 + a.toNat * 65536 + p.toNat * 256 := ⟨_, rfl⟩
  have he : encode (.pcnt d a p) = w := h0.symm
  have hw : w = pack [0, p.toNat, 0, a.toNat, d.toNat, 32] [8, 3, 5, 5, 5, 6] := by rw [h0]; simp only [pack]; omega
  have hf : Fits [0, p.toNat, 0, a.toNat, d.toNat, 32] [8, 3, 5, 5, 5, 6] := ⟨by decide, p.isLt, by decide, a.isLt, d.isLt, by decide, trivial⟩
  rw [he]; show decV w = _; rw [opV32 (top _ _ 5 67108864 hw hf rfl rfl rfl (by decide))]; unfold decV32
  have e0 : w % 256 = 0 := low hw hf
  have e1 : w / 2048 % 32 = 0 := digit _ _ 2 2048 hw hf rfl rfl rfl (by decide)
  rw [if_pos ⟨e0, e1⟩,
    field d (digit _ _ 4 2097152 hw hf rfl rfl rfl (by decide)),
    field a (digit _ _ 3 65536 hw hf rfl rfl rfl (by decide)),
    field p (digit _ _ 1 256 hw hf rfl rfl rfl (by decide))]

theorem pfirst (d : BitVec 5) (a : BitVec 5) (p : BitVec 3) : Statement (.pfirst d a p) := by
  refine of_slot 1 rfl rfl ?_
  obtain ⟨w, h0⟩ : ∃ w, w = 2147483649 + d.toNat * 2097152 + a.toNat * 65536 + p.toNat * 256 := ⟨_, rfl⟩
  have he : encode (.pfirst d a p) = w := h0.symm
  have hw : w = pack [1, p.toNat, 0, a.toNat, d.toNat, 32] [8, 3, 5, 5, 5, 6] := by rw [h0]; simp only [pack]; omega
  have hf : Fits [1, p.toNat, 0, a.toNat, d.toNat, 32] [8, 3, 5, 5, 5, 6] := ⟨by decide, p.isLt, by decide, a.isLt, d.isLt, by decide, trivial⟩
  rw [he]; show decV w = _; rw [opV32 (top _ _ 5 67108864 hw hf rfl rfl rfl (by decide))]; unfold decV32
  have e0 : w % 256 = 1 := low hw hf
  have e1 : w / 2048 % 32 = 0 := digit _ _ 2 2048 hw hf rfl rfl rfl (by decide)
  rw [if_neg (fun h => absurd (e0.symm.trans h.1) (by decide)),
    if_pos ⟨e0, e1⟩,
    field d (digit _ _ 4 2097152 hw hf rfl rfl rfl (by decide)),
    field a (digit _ _ 3 65536 hw hf rfl rfl rfl (by decide)),
    field p (digit _ _ 1 256 hw hf rfl rfl rfl (by decide))]

theorem rqpop (d : BitVec 5) (a : BitVec 5) (p : BitVec 3) (f : BitVec 1) (k : BitVec 3) : Statement (.rqpop d a p f k) := by
  refine of_slot 1 rfl rfl ?_
  obtain ⟨w, h0⟩ : ∃ w, w = 2214592512 + d.toNat * 2097152 + a.toNat * 65536 + p.toNat * 256 + f.toNat * 8 + k.toNat := ⟨_, rfl⟩
  have he : encode (.rqpop d a p f k) = w := h0.symm
  have hw : w = pack [k.toNat, f.toNat, 0, p.toNat, 0, a.toNat, d.toNat, 33] [3, 1, 4, 3, 5, 5, 5, 6] := by rw [h0]; simp only [pack]; omega
  have hf : Fits [k.toNat, f.toNat, 0, p.toNat, 0, a.toNat, d.toNat, 33] [3, 1, 4, 3, 5, 5, 5, 6] := ⟨k.isLt, f.isLt, by decide, p.isLt, by decide, a.isLt, d.isLt, by decide, trivial⟩
  rw [he]; show decV w = _; rw [opV33 (top _ _ 7 67108864 hw hf rfl rfl rfl (by decide))]; unfold decV33
  have e0 : w / 16 % 16 = 0 := digit _ _ 2 16 hw hf rfl rfl rfl (by decide)
  have e1 : w / 2048 % 32 = 0 := digit _ _ 4 2048 hw hf rfl rfl rfl (by decide)
  rw [if_pos ⟨e0, e1⟩,
    field d (digit _ _ 6 2097152 hw hf rfl rfl rfl (by decide)),
    field a (digit _ _ 5 65536 hw hf rfl rfl rfl (by decide)),
    field p (digit _ _ 3 256 hw hf rfl rfl rfl (by decide)),
    field f (digit _ _ 1 8 hw hf rfl rfl rfl (by decide)),
    field k (low hw hf)]

theorem tmmaWs (t : BitVec 4) (a : BitVec 4) (b : BitVec 4) (f : BitVec 2) (z : BitVec 1) (sf : BitVec 1) : Statement (.tmmaWs t a b f z sf) := by
  refine of_slot 2 rfl rfl ?_
  obtain ⟨w, h0⟩ : ∃ w, w = 67108864 + t.toNat * 4194304 + a.toNat * 262144 + b.toNat * 16384 + f.toNat * 4096 + z.toNat * 512 + sf.toNat * 256 := ⟨_, rfl⟩
  have he : encode (.tmmaWs t a b f z sf) = w := h0.symm
  have hw : w = pack [0, sf.toNat, z.toNat, 0, f.toNat, b.toNat, a.toNat, t.toNat, 1] [8, 1, 1, 2, 2, 4, 4, 4, 6] := by rw [h0]; simp only [pack]; omega
  have hf : Fits [0, sf.toNat, z.toNat, 0, f.toNat, b.toNat, a.toNat, t.toNat, 1] [8, 1, 1, 2, 2, 4, 4, 4, 6] := ⟨by decide, sf.isLt, z.isLt, by decide, f.isLt, b.isLt, a.isLt, t.isLt, by decide, trivial⟩
  rw [he]; show decT w = _; rw [opT1 (top _ _ 8 67108864 hw hf rfl rfl rfl (by decide))]; unfold decT1
  have e0 : w % 256 = 0 := low hw hf
  have e1 : w / 1024 % 4 = 0 := digit _ _ 3 1024 hw hf rfl rfl rfl (by decide)
  rw [if_pos ⟨e0, e1⟩,
    field t (digit _ _ 7 4194304 hw hf rfl rfl rfl (by decide)),
    field a (digit _ _ 6 262144 hw hf rfl rfl rfl (by decide)),
    field b (digit _ _ 5 16384 hw hf rfl rfl rfl (by decide)),
    field f (digit _ _ 4 4096 hw hf rfl rfl rfl (by decide)),
    field z (digit _ _ 2 512 hw hf rfl rfl rfl (by decide)),
    field sf (digit _ _ 1 256 hw hf rfl rfl rfl (by decide))]

theorem tmmaGr (t : BitVec 4) (a : BitVec 4) (b : BitVec 4) (f : BitVec 2) (z : BitVec 1) (sf : BitVec 1) : Statement (.tmmaGr t a b f z sf) := by
  refine of_slot 2 rfl rfl ?_
  obtain ⟨w, h0⟩ : ∃ w, w = 67109888 + t.toNat * 4194304 + a.toNat * 262144 + b.toNat * 16384 + f.toNat * 4096 + z.toNat * 512 + sf.toNat * 256 := ⟨_, rfl⟩
  have he : encode (.tmmaGr t a b f z sf) = w := h0.symm
  have hw : w = pack [0, sf.toNat, z.toNat, 1, f.toNat, b.toNat, a.toNat, t.toNat, 1] [8, 1, 1, 2, 2, 4, 4, 4, 6] := by rw [h0]; simp only [pack]; omega
  have hf : Fits [0, sf.toNat, z.toNat, 1, f.toNat, b.toNat, a.toNat, t.toNat, 1] [8, 1, 1, 2, 2, 4, 4, 4, 6] := ⟨by decide, sf.isLt, z.isLt, by decide, f.isLt, b.isLt, a.isLt, t.isLt, by decide, trivial⟩
  rw [he]; show decT w = _; rw [opT1 (top _ _ 8 67108864 hw hf rfl rfl rfl (by decide))]; unfold decT1
  have e0 : w / 1024 % 4 = 1 := digit _ _ 3 1024 hw hf rfl rfl rfl (by decide)
  have e1 : w % 256 = 0 := low hw hf
  rw [if_neg (fun h => absurd (e0.symm.trans h.2) (by decide)),
    if_pos ⟨e1, e0⟩,
    field t (digit _ _ 7 4194304 hw hf rfl rfl rfl (by decide)),
    field a (digit _ _ 6 262144 hw hf rfl rfl rfl (by decide)),
    field b (digit _ _ 5 16384 hw hf rfl rfl rfl (by decide)),
    field f (digit _ _ 4 4096 hw hf rfl rfl rfl (by decide)),
    field z (digit _ _ 2 512 hw hf rfl rfl rfl (by decide)),
    field sf (digit _ _ 1 256 hw hf rfl rfl rfl (by decide))]

theorem tmmaCs (t : BitVec 4) (a : BitVec 4) (b : BitVec 4) (f : BitVec 2) (z : BitVec 1) (sf : BitVec 1) : Statement (.tmmaCs t a b f z sf) := by
  refine of_slot 2 rfl rfl ?_
  obtain ⟨w, h0⟩ : ∃ w, w = 67110912 + t.toNat * 4194304 + a.toNat * 262144 + b.toNat * 16384 + f.toNat * 4096 + z.toNat * 512 + sf.toNat * 256 := ⟨_, rfl⟩
  have he : encode (.tmmaCs t a b f z sf) = w := h0.symm
  have hw : w = pack [0, sf.toNat, z.toNat, 2, f.toNat, b.toNat, a.toNat, t.toNat, 1] [8, 1, 1, 2, 2, 4, 4, 4, 6] := by rw [h0]; simp only [pack]; omega
  have hf : Fits [0, sf.toNat, z.toNat, 2, f.toNat, b.toNat, a.toNat, t.toNat, 1] [8, 1, 1, 2, 2, 4, 4, 4, 6] := ⟨by decide, sf.isLt, z.isLt, by decide, f.isLt, b.isLt, a.isLt, t.isLt, by decide, trivial⟩
  rw [he]; show decT w = _; rw [opT1 (top _ _ 8 67108864 hw hf rfl rfl rfl (by decide))]; unfold decT1
  have e0 : w / 1024 % 4 = 2 := digit _ _ 3 1024 hw hf rfl rfl rfl (by decide)
  have e1 : w % 256 = 0 := low hw hf
  rw [if_neg (fun h => absurd (e0.symm.trans h.2) (by decide)),
    if_neg (fun h => absurd (e0.symm.trans h.2) (by decide)),
    if_pos ⟨e1, e0⟩,
    field t (digit _ _ 7 4194304 hw hf rfl rfl rfl (by decide)),
    field a (digit _ _ 6 262144 hw hf rfl rfl rfl (by decide)),
    field b (digit _ _ 5 16384 hw hf rfl rfl rfl (by decide)),
    field f (digit _ _ 4 4096 hw hf rfl rfl rfl (by decide)),
    field z (digit _ _ 2 512 hw hf rfl rfl rfl (by decide)),
    field sf (digit _ _ 1 256 hw hf rfl rfl rfl (by decide))]

theorem tzero (t : BitVec 4) (k : BitVec 1) (sf : BitVec 1) : Statement (.tzero t k sf) := by
  refine of_slot 2 rfl rfl ?_
  obtain ⟨w, h0⟩ : ∃ w, w = 134217728 + t.toNat * 4194304 + k.toNat * 16 + sf.toNat := ⟨_, rfl⟩
  have he : encode (.tzero t k sf) = w := h0.symm
  have hw : w = pack [sf.toNat, 0, k.toNat, 0, t.toNat, 2] [1, 3, 1, 17, 4, 6] := by rw [h0]; simp only [pack]; omega
  have hf : Fits [sf.toNat, 0, k.toNat, 0, t.toNat, 2] [1, 3, 1, 17, 4, 6] := ⟨sf.isLt, by decide, k.isLt, by decide, t.isLt, by decide, trivial⟩
  rw [he]; show decT w = _; rw [opT2 (top _ _ 5 67108864 hw hf rfl rfl rfl (by decide))]; unfold decT2
  have e0 : w / 2 % 8 = 0 := digit _ _ 1 2 hw hf rfl rfl rfl (by decide)
  have e1 : w / 32 % 131072 = 0 := digit _ _ 3 32 hw hf rfl rfl rfl (by decide)
  rw [if_pos ⟨e0, e1⟩,
    field t (digit _ _ 4 4194304 hw hf rfl rfl rfl (by decide)),
    field k (digit _ _ 2 16 hw hf rfl rfl rfl (by decide)),
    field sf (low hw hf)]

theorem tldc (t : BitVec 4) (d : BitVec 5) (sf : BitVec 1) : Statement (.tldc t d sf) := by
  refine of_slot 2 rfl rfl ?_
  obtain ⟨w, h0⟩ : ∃ w, w = 201326592 + t.toNat * 4194304 + d.toNat * 131072 + sf.toNat := ⟨_, rfl⟩
  have he : encode (.tldc t d sf) = w := h0.symm
  have hw : w = pack [sf.toNat, 0, d.toNat, t.toNat, 3] [1, 16, 5, 4, 6] := by rw [h0]; simp only [pack]; omega
  have hf : Fits [sf.toNat, 0, d.toNat, t.toNat, 3] [1, 16, 5, 4, 6] := ⟨sf.isLt, by decide, d.isLt, t.isLt, by decide, trivial⟩
  rw [he]; show decT w = _; rw [opT3 (top _ _ 4 67108864 hw hf rfl rfl rfl (by decide))]; unfold decT3
  have e0 : w / 2 % 65536 = 0 := digit _ _ 1 2 hw hf rfl rfl rfl (by decide)
  rw [if_pos e0,
    field t (digit _ _ 3 4194304 hw hf rfl rfl rfl (by decide)),
    field d (digit _ _ 2 131072 hw hf rfl rfl rfl (by decide)),
    field sf (low hw hf)]

theorem tstc (t : BitVec 4) (d : BitVec 5) : Statement (.tstc t d) := by
  refine of_slot 2 rfl rfl ?_
  obtain ⟨w, h0⟩ : ∃ w, w = 268435456 + t.toNat * 4194304 + d.toNat * 131072 := ⟨_, rfl⟩
  have he : encode (.tstc t d) = w := h0.symm
  have hw : w = pack [0, d.toNat, t.toNat, 4] [17, 5, 4, 6] := by rw [h0]; simp only [pack]; omega
  have hf : Fits [0, d.toNat, t.toNat, 4] [17, 5, 4, 6] := ⟨by decide, d.isLt, t.isLt, by decide, trivial⟩
  rw [he]; show decT w = _; rw [opT4 (top _ _ 3 67108864 hw hf rfl rfl rfl (by decide))]; unfold decT4
  have e0 : w % 131072 = 0 := low hw hf
  rw [if_pos e0,
    field t (digit _ _ 2 4194304 hw hf rfl rfl rfl (by decide)),
    field d (digit _ _ 1 131072 hw hf rfl rfl rfl (by decide))]

theorem tdrainF (t : BitVec 4) (d : BitVec 5) (a : BitVec 5) (r : BitVec 1) (b : BitVec 1) : Statement (.tdrainF t d a r b) := by
  refine of_slot 2 rfl rfl ?_
  obtain ⟨w, h0⟩ : ∃ w, w = 335544320 + t.toNat * 4194304 + d.toNat * 131072 + a.toNat * 4096 + r.toNat * 2 + b.toNat := ⟨_, rfl⟩
  have he : encode (.tdrainF t d a r b) = w := h0.symm
  have hw : w = pack [b.toNat, r.toNat, 0, a.toNat, d.toNat, t.toNat, 5] [1, 1, 10, 5, 5, 4, 6] := by rw [h0]; simp only [pack]; omega
  have hf : Fits [b.toNat, r.toNat, 0, a.toNat, d.toNat, t.toNat, 5] [1, 1, 10, 5, 5, 4, 6] := ⟨b.isLt, r.isLt, by decide, a.isLt, d.isLt, t.isLt, by decide, trivial⟩
  rw [he]; show decT w = _; rw [opT5 (top _ _ 6 67108864 hw hf rfl rfl rfl (by decide))]; unfold decT5
  have e0 : w / 4 % 1024 = 0 := digit _ _ 2 4 hw hf rfl rfl rfl (by decide)
  rw [if_pos e0,
    field t (digit _ _ 5 4194304 hw hf rfl rfl rfl (by decide)),
    field d (digit _ _ 4 131072 hw hf rfl rfl rfl (by decide)),
    field a (digit _ _ 3 4096 hw hf rfl rfl rfl (by decide)),
    field r (digit _ _ 1 2 hw hf rfl rfl rfl (by decide)),
    field b (low hw hf)]

theorem tdrainBf (t : BitVec 4) (d : BitVec 5) (a : BitVec 5) (r : BitVec 1) (b : BitVec 1) : Statement (.tdrainBf t d a r b) := by
  refine of_slot 2 rfl rfl ?_
  obtain ⟨w, h0⟩ : ∃ w, w = 335544336 + t.toNat * 4194304 + d.toNat * 131072 + a.toNat * 4096 + r.toNat * 2 + b.toNat := ⟨_, rfl⟩
  have he : encode (.tdrainBf t d a r b) = w := h0.symm
  have hw : w = pack [b.toNat, r.toNat, 4, a.toNat, d.toNat, t.toNat, 5] [1, 1, 10, 5, 5, 4, 6] := by rw [h0]; simp only [pack]; omega
  have hf : Fits [b.toNat, r.toNat, 4, a.toNat, d.toNat, t.toNat, 5] [1, 1, 10, 5, 5, 4, 6] := ⟨b.isLt, r.isLt, by decide, a.isLt, d.isLt, t.isLt, by decide, trivial⟩
  rw [he]; show decT w = _; rw [opT5 (top _ _ 6 67108864 hw hf rfl rfl rfl (by decide))]; unfold decT5
  have e0 : w / 4 % 1024 = 4 := digit _ _ 2 4 hw hf rfl rfl rfl (by decide)
  rw [if_neg (fun h => absurd (e0.symm.trans h) (by decide)),
    if_pos e0,
    field t (digit _ _ 5 4194304 hw hf rfl rfl rfl (by decide)),
    field d (digit _ _ 4 131072 hw hf rfl rfl rfl (by decide)),
    field a (digit _ _ 3 4096 hw hf rfl rfl rfl (by decide)),
    field r (digit _ _ 1 2 hw hf rfl rfl rfl (by decide)),
    field b (low hw hf)]

theorem tdrainRaw (t : BitVec 4) (d : BitVec 5) : Statement (.tdrainRaw t d) := by
  refine of_slot 2 rfl rfl ?_
  obtain ⟨w, h0⟩ : ∃ w, w = 335544352 + t.toNat * 4194304 + d.toNat * 131072 := ⟨_, rfl⟩
  have h_t := t.isLt; have h_d := d.isLt
  have he : encode (.tdrainRaw t d) = w := h0.symm
  have hw : w = pack [0, 8, 0, d.toNat, t.toNat, 5] [2, 10, 5, 5, 4, 6] := by rw [h0]; simp only [pack]; omega
  have hf : Fits [0, 8, 0, d.toNat, t.toNat, 5] [2, 10, 5, 5, 4, 6] := ⟨by decide, by decide, by decide, d.isLt, t.isLt, by decide, trivial⟩
  rw [he]; show decT w = _; rw [opT5 (top _ _ 5 67108864 hw hf rfl rfl rfl (by decide))]; unfold decT5
  have e0 : w / 4 % 1024 = 8 := digit _ _ 1 4 hw hf rfl rfl rfl (by decide)
  have e1 : w % 131072 = 32 := by rw [h0]; omega
  rw [if_neg (fun h => absurd (e0.symm.trans h) (by decide)),
    if_neg (fun h => absurd (e0.symm.trans h) (by decide)),
    if_pos e1,
    field t (digit _ _ 4 4194304 hw hf rfl rfl rfl (by decide)),
    field d (digit _ _ 3 131072 hw hf rfl rfl rfl (by decide))]

theorem tsclA (t : BitVec 4) (d : BitVec 5) (k : BitVec 10) (g : BitVec 5) (h : BitVec 1) : Statement (.tsclA t d k g h) := by
  refine of_slot 2 rfl rfl ?_
  obtain ⟨w, h0⟩ : ∃ w, w = 402653184 + t.toNat * 4194304 + d.toNat * 131072 + k.toNat * 128 + g.toNat * 4 + h.toNat * 2 := ⟨_, rfl⟩
  have he : encode (.tsclA t d k g h) = w := h0.symm
  have hw : w = pack [0, h.toNat, g.toNat, k.toNat, d.toNat, t.toNat, 6] [1, 1, 5, 10, 5, 4, 6] := by rw [h0]; simp only [pack]; omega
  have hf : Fits [0, h.toNat, g.toNat, k.toNat, d.toNat, t.toNat, 6] [1, 1, 5, 10, 5, 4, 6] := ⟨by decide, h.isLt, g.isLt, k.isLt, d.isLt, t.isLt, by decide, trivial⟩
  rw [he]; show decT w = _; rw [opT6 (top _ _ 6 67108864 hw hf rfl rfl rfl (by decide))]; unfold decT6
  have e0 : w % 2 = 0 := low hw hf
  rw [if_pos e0,
    field t (digit _ _ 5 4194304 hw hf rfl rfl rfl (by decide)),
    field d (digit _ _ 4 131072 hw hf rfl rfl rfl (by decide)),
    field k (digit _ _ 3 128 hw hf rfl rfl rfl (by decide)),
    field g (digit _ _ 2 4 hw hf rfl rfl rfl (by decide)),
    field h (digit _ _ 1 2 hw hf rfl rfl rfl (by decide))]

theorem tsclB (t : BitVec 4) (d : BitVec 5) (k : BitVec 10) (g : BitVec 5) : Statement (.tsclB t d k g) := by
  refine of_slot 2 rfl rfl ?_
  obtain ⟨w, h0⟩ : ∃ w, w = 402653185 + t.toNat * 4194304 + d.toNat * 131072 + k.toNat * 128 + g.toNat * 4 := ⟨_, rfl⟩
  have h_t := t.isLt; have h_d := d.isLt; have h_k := k.isLt; have h_g := g.isLt
  have he : encode (.tsclB t d k g) = w := h0.symm
  have hw : w = pack [1, 0, g.toNat, k.toNat, d.toNat, t.toNat, 6] [1, 1, 5, 10, 5, 4, 6] := by rw [h0]; simp only [pack]; omega
  have hf : Fits [1, 0, g.toNat, k.toNat, d.toNat, t.toNat, 6] [1, 1, 5, 10, 5, 4, 6] := ⟨by decide, by decide, g.isLt, k.isLt, d.isLt, t.isLt, by decide, trivial⟩
  rw [he]; show decT w = _; rw [opT6 (top _ _ 6 67108864 hw hf rfl rfl rfl (by decide))]; unfold decT6
  have e0 : w % 2 = 1 := low hw hf
  have e1 : w % 4 = 1 := by rw [h0]; omega
  rw [if_neg (fun h => absurd (e0.symm.trans h) (by decide)),
    if_pos e1,
    field t (digit _ _ 5 4194304 hw hf rfl rfl rfl (by decide)),
    field d (digit _ _ 4 131072 hw hf rfl rfl rfl (by decide)),
    field k (digit _ _ 3 128 hw hf rfl rfl rfl (by decide)),
    field g (digit _ _ 2 4 hw hf rfl rfl rfl (by decide))]

theorem tldb (t : BitVec 4) (d : BitVec 5) : Statement (.tldb t d) := by
  refine of_slot 2 rfl rfl ?_
  obtain ⟨w, h0⟩ : ∃ w, w = 469762048 + t.toNat * 4194304 + d.toNat * 131072 := ⟨_, rfl⟩
  have he : encode (.tldb t d) = w := h0.symm
  have hw : w = pack [0, d.toNat, t.toNat, 7] [17, 5, 4, 6] := by rw [h0]; simp only [pack]; omega
  have hf : Fits [0, d.toNat, t.toNat, 7] [17, 5, 4, 6] := ⟨by decide, d.isLt, t.isLt, by decide, trivial⟩
  rw [he]; show decT w = _; rw [opT7 (top _ _ 3 67108864 hw hf rfl rfl rfl (by decide))]; unfold decT7
  have e0 : w % 131072 = 0 := low hw hf
  rw [if_pos e0,
    field t (digit _ _ 2 4194304 hw hf rfl rfl rfl (by decide)),
    field d (digit _ _ 1 131072 hw hf rfl rfl rfl (by decide))]

theorem setfmt (t : BitVec 4) (a : BitVec 5) : Statement (.setfmt t a) := by
  refine of_slot 2 rfl rfl ?_
  obtain ⟨w, h0⟩ : ∃ w, w = 536870912 + t.toNat * 4194304 + a.toNat * 4096 := ⟨_, rfl⟩
  have he : encode (.setfmt t a) = w := h0.symm
  have hw : w = pack [0, a.toNat, 0, t.toNat, 8] [12, 5, 5, 4, 6] := by rw [h0]; simp only [pack]; omega
  have hf : Fits [0, a.toNat, 0, t.toNat, 8] [12, 5, 5, 4, 6] := ⟨by decide, a.isLt, by decide, t.isLt, by decide, trivial⟩
  rw [he]; show decT w = _; rw [opT8 (top _ _ 4 67108864 hw hf rfl rfl rfl (by decide))]; unfold decT8
  have e0 : w % 4096 = 0 := low hw hf
  have e1 : w / 131072 % 32 = 0 := digit _ _ 2 131072 hw hf rfl rfl rfl (by decide)
  rw [if_pos ⟨e0, e1⟩,
    field t (digit _ _ 3 4194304 hw hf rfl rfl rfl (by decide)),
    field a (digit _ _ 1 4096 hw hf rfl rfl rfl (by decide))]

theorem tdld (t : BitVec 4) (d : BitVec 5) (i : BitVec 17) : Statement (.tdld t d i) := by
  refine of_slot 2 rfl rfl ?_
  obtain ⟨w, h0⟩ : ∃ w, w = 603979776 + t.toNat * 4194304 + d.toNat * 131072 + i.toNat := ⟨_, rfl⟩
  have he : encode (.tdld t d i) = w := h0.symm
  have hw : w = pack [i.toNat, d.toNat, t.toNat, 9] [17, 5, 4, 6] := by rw [h0]; simp only [pack]; omega
  have hf : Fits [i.toNat, d.toNat, t.toNat, 9] [17, 5, 4, 6] := ⟨i.isLt, d.isLt, t.isLt, by decide, trivial⟩
  rw [he]; show decT w = _; rw [opT9 (top _ _ 3 67108864 hw hf rfl rfl rfl (by decide))]; unfold decT9
  rw [field t (digit _ _ 2 4194304 hw hf rfl rfl rfl (by decide)),
    field d (digit _ _ 1 131072 hw hf rfl rfl rfl (by decide)),
    field i (low hw hf)]

theorem tdsetBase (t : BitVec 4) (a : BitVec 5) : Statement (.tdsetBase t a) := by
  refine of_slot 2 rfl rfl ?_
  obtain ⟨w, h0⟩ : ∃ w, w = 671088640 + t.toNat * 4194304 + a.toNat * 4096 := ⟨_, rfl⟩
  have he : encode (.tdsetBase t a) = w := h0.symm
  have hw : w = pack [0, a.toNat, 0, t.toNat, 10] [12, 5, 5, 4, 6] := by rw [h0]; simp only [pack]; omega
  have hf : Fits [0, a.toNat, 0, t.toNat, 10] [12, 5, 5, 4, 6] := ⟨by decide, a.isLt, by decide, t.isLt, by decide, trivial⟩
  rw [he]; show decT w = _; rw [opT10 (top _ _ 4 67108864 hw hf rfl rfl rfl (by decide))]; unfold decT10
  have e0 : w % 4096 = 0 := low hw hf
  have e1 : w / 131072 % 32 = 0 := digit _ _ 2 131072 hw hf rfl rfl rfl (by decide)
  rw [if_pos ⟨e0, e1⟩,
    field t (digit _ _ 3 4194304 hw hf rfl rfl rfl (by decide)),
    field a (digit _ _ 1 4096 hw hf rfl rfl rfl (by decide))]

theorem tdsetShape (t : BitVec 4) (a : BitVec 5) : Statement (.tdsetShape t a) := by
  refine of_slot 2 rfl rfl ?_
  obtain ⟨w, h0⟩ : ∃ w, w = 671088656 + t.toNat * 4194304 + a.toNat * 4096 := ⟨_, rfl⟩
  have he : encode (.tdsetShape t a) = w := h0.symm
  have hw : w = pack [16, a.toNat, 0, t.toNat, 10] [12, 5, 5, 4, 6] := by rw [h0]; simp only [pack]; omega
  have hf : Fits [16, a.toNat, 0, t.toNat, 10] [12, 5, 5, 4, 6] := ⟨by decide, a.isLt, by decide, t.isLt, by decide, trivial⟩
  rw [he]; show decT w = _; rw [opT10 (top _ _ 4 67108864 hw hf rfl rfl rfl (by decide))]; unfold decT10
  have e0 : w % 4096 = 16 := low hw hf
  have e1 : w / 131072 % 32 = 0 := digit _ _ 2 131072 hw hf rfl rfl rfl (by decide)
  rw [if_neg (fun h => absurd (e0.symm.trans h.1) (by decide)),
    if_pos ⟨e0, e1⟩,
    field t (digit _ _ 3 4194304 hw hf rfl rfl rfl (by decide)),
    field a (digit _ _ 1 4096 hw hf rfl rfl rfl (by decide))]

theorem tdsetLayout (t : BitVec 4) (a : BitVec 5) : Statement (.tdsetLayout t a) := by
  refine of_slot 2 rfl rfl ?_
  obtain ⟨w, h0⟩ : ∃ w, w = 671088672 + t.toNat * 4194304 + a.toNat * 4096 := ⟨_, rfl⟩
  have he : encode (.tdsetLayout t a) = w := h0.symm
  have hw : w = pack [32, a.toNat, 0, t.toNat, 10] [12, 5, 5, 4, 6] := by rw [h0]; simp only [pack]; omega
  have hf : Fits [32, a.toNat, 0, t.toNat, 10] [12, 5, 5, 4, 6] := ⟨by decide, a.isLt, by decide, t.isLt, by decide, trivial⟩
  rw [he]; show decT w = _; rw [opT10 (top _ _ 4 67108864 hw hf rfl rfl rfl (by decide))]; unfold decT10
  have e0 : w % 4096 = 32 := low hw hf
  have e1 : w / 131072 % 32 = 0 := digit _ _ 2 131072 hw hf rfl rfl rfl (by decide)
  rw [if_neg (fun h => absurd (e0.symm.trans h.1) (by decide)),
    if_neg (fun h => absurd (e0.symm.trans h.1) (by decide)),
    if_pos ⟨e0, e1⟩,
    field t (digit _ _ 3 4194304 hw hf rfl rfl rfl (by decide)),
    field a (digit _ _ 1 4096 hw hf rfl rfl rfl (by decide))]

theorem tdsetSbase (t : BitVec 4) (a : BitVec 5) : Statement (.tdsetSbase t a) := by
  refine of_slot 2 rfl rfl ?_
  obtain ⟨w, h0⟩ : ∃ w, w = 671088688 + t.toNat * 4194304 + a.toNat * 4096 := ⟨_, rfl⟩
  have he : encode (.tdsetSbase t a) = w := h0.symm
  have hw : w = pack [48, a.toNat, 0, t.toNat, 10] [12, 5, 5, 4, 6] := by rw [h0]; simp only [pack]; omega
  have hf : Fits [48, a.toNat, 0, t.toNat, 10] [12, 5, 5, 4, 6] := ⟨by decide, a.isLt, by decide, t.isLt, by decide, trivial⟩
  rw [he]; show decT w = _; rw [opT10 (top _ _ 4 67108864 hw hf rfl rfl rfl (by decide))]; unfold decT10
  have e0 : w % 4096 = 48 := low hw hf
  have e1 : w / 131072 % 32 = 0 := digit _ _ 2 131072 hw hf rfl rfl rfl (by decide)
  rw [if_neg (fun h => absurd (e0.symm.trans h.1) (by decide)),
    if_neg (fun h => absurd (e0.symm.trans h.1) (by decide)),
    if_neg (fun h => absurd (e0.symm.trans h.1) (by decide)),
    if_pos ⟨e0, e1⟩,
    field t (digit _ _ 3 4194304 hw hf rfl rfl rfl (by decide)),
    field a (digit _ _ 1 4096 hw hf rfl rfl rfl (by decide))]

theorem tdsetSub (t : BitVec 4) (d : BitVec 5) (a : BitVec 5) : Statement (.tdsetSub t d a) := by
  refine of_slot 2 rfl rfl ?_
  obtain ⟨w, h0⟩ : ∃ w, w = 671088704 + t.toNat * 4194304 + d.toNat * 131072 + a.toNat * 4096 := ⟨_, rfl⟩
  have he : encode (.tdsetSub t d a) = w := h0.symm
  have hw : w = pack [64, a.toNat, d.toNat, t.toNat, 10] [12, 5, 5, 4, 6] := by rw [h0]; simp only [pack]; omega
  have hf : Fits [64, a.toNat, d.toNat, t.toNat, 10] [12, 5, 5, 4, 6] := ⟨by decide, a.isLt, d.isLt, t.isLt, by decide, trivial⟩
  rw [he]; show decT w = _; rw [opT10 (top _ _ 4 67108864 hw hf rfl rfl rfl (by decide))]; unfold decT10
  have e0 : w % 4096 = 64 := low hw hf
  rw [if_neg (fun h => absurd (e0.symm.trans h.1) (by decide)),
    if_neg (fun h => absurd (e0.symm.trans h.1) (by decide)),
    if_neg (fun h => absurd (e0.symm.trans h.1) (by decide)),
    if_neg (fun h => absurd (e0.symm.trans h.1) (by decide)),
    if_pos e0,
    field t (digit _ _ 3 4194304 hw hf rfl rfl rfl (by decide)),
    field d (digit _ _ 2 131072 hw hf rfl rfl rfl (by decide)),
    field a (digit _ _ 1 4096 hw hf rfl rfl rfl (by decide))]

theorem tdsetMov (t : BitVec 4) (d : BitVec 5) : Statement (.tdsetMov t d) := by
  refine of_slot 2 rfl rfl ?_
  obtain ⟨w, h0⟩ : ∃ w, w = 671088720 + t.toNat * 4194304 + d.toNat * 131072 := ⟨_, rfl⟩
  have h_t := t.isLt; have h_d := d.isLt
  have he : encode (.tdsetMov t d) = w := h0.symm
  have hw : w = pack [80, 0, d.toNat, t.toNat, 10] [12, 5, 5, 4, 6] := by rw [h0]; simp only [pack]; omega
  have hf : Fits [80, 0, d.toNat, t.toNat, 10] [12, 5, 5, 4, 6] := ⟨by decide, by decide, d.isLt, t.isLt, by decide, trivial⟩
  rw [he]; show decT w = _; rw [opT10 (top _ _ 4 67108864 hw hf rfl rfl rfl (by decide))]; unfold decT10
  have e0 : w % 4096 = 80 := low hw hf
  have e1 : w % 131072 = 80 := by rw [h0]; omega
  rw [if_neg (fun h => absurd (e0.symm.trans h.1) (by decide)),
    if_neg (fun h => absurd (e0.symm.trans h.1) (by decide)),
    if_neg (fun h => absurd (e0.symm.trans h.1) (by decide)),
    if_neg (fun h => absurd (e0.symm.trans h.1) (by decide)),
    if_neg (fun h => absurd (e0.symm.trans h) (by decide)),
    if_pos e1,
    field t (digit _ _ 3 4194304 hw hf rfl rfl rfl (by decide)),
    field d (digit _ _ 2 131072 hw hf rfl rfl rfl (by decide))]

theorem tsend (t : BitVec 4) (a : BitVec 5) (b : BitVec 5) : Statement (.tsend t a b) := by
  refine of_slot 2 rfl rfl ?_
  obtain ⟨w, h0⟩ : ∃ w, w = 738197504 + t.toNat * 4194304 + a.toNat * 4096 + b.toNat * 128 := ⟨_, rfl⟩
  have he : encode (.tsend t a b) = w := h0.symm
  have hw : w = pack [0, b.toNat, a.toNat, 0, t.toNat, 11] [7, 5, 5, 5, 4, 6] := by rw [h0]; simp only [pack]; omega
  have hf : Fits [0, b.toNat, a.toNat, 0, t.toNat, 11] [7, 5, 5, 5, 4, 6] := ⟨by decide, b.isLt, a.isLt, by decide, t.isLt, by decide, trivial⟩
  rw [he]; show decT w = _; rw [opT11 (top _ _ 5 67108864 hw hf rfl rfl rfl (by decide))]; unfold decT11
  have e0 : w % 128 = 0 := low hw hf
  have e1 : w / 131072 % 32 = 0 := digit _ _ 3 131072 hw hf rfl rfl rfl (by decide)
  rw [if_pos ⟨e0, e1⟩,
    field t (digit _ _ 4 4194304 hw hf rfl rfl rfl (by decide)),
    field a (digit _ _ 2 4096 hw hf rfl rfl rfl (by decide)),
    field b (digit _ _ 1 128 hw hf rfl rfl rfl (by decide))]

theorem xspec (d : BitVec 5) : Statement (.xspec d) := by
  refine of_slot 2 rfl rfl ?_
  obtain ⟨w, h0⟩ : ∃ w, w = 805306368 + d.toNat * 131072 := ⟨_, rfl⟩
  have he : encode (.xspec d) = w := h0.symm
  have hw : w = pack [0, d.toNat, 0, 12] [17, 5, 4, 6] := by rw [h0]; simp only [pack]; omega
  have hf : Fits [0, d.toNat, 0, 12] [17, 5, 4, 6] := ⟨by decide, d.isLt, by decide, by decide, trivial⟩
  rw [he]; show decT w = _; rw [opT12 (top _ _ 3 67108864 hw hf rfl rfl rfl (by decide))]; unfold decT12
  have e0 : w % 131072 = 0 := low hw hf
  have e1 : w / 4194304 % 16 = 0 := digit _ _ 2 4194304 hw hf rfl rfl rfl (by decide)
  rw [if_pos ⟨e0, e1⟩,
    field d (digit _ _ 1 131072 hw hf rfl rfl rfl (by decide))]

theorem xcfm (a : BitVec 5) : Statement (.xcfm a) := by
  refine of_slot 2 rfl rfl ?_
  have h_a := a.isLt
  obtain ⟨w, hw⟩ : ∃ w, w = 805306384 + a.toNat * 4096 := ⟨_, rfl⟩
  have he : encode (.xcfm a) = w := hw.symm
  rw [he]; show decT w = _; rw [opT12 (by omega)]; unfold decT12
  have e0 : w % 4096 = 16 := by omega
  have e1 : w / 131072 % 512 = 0 := by omega
  rw [if_neg (by omega),
    if_pos ⟨e0, e1⟩,
    field a (by omega)]

theorem xsq (a : BitVec 5) : Statement (.xsq a) := by
  refine of_slot 2 rfl rfl ?_
  have h_a := a.isLt
  obtain ⟨w, hw⟩ : ∃ w, w = 805306400 + a.toNat * 4096 := ⟨_, rfl⟩
  have he : encode (.xsq a) = w := hw.symm
  rw [he]; show decT w = _; rw [opT12 (by omega)]; unfold decT12
  have e0 : w % 4096 = 32 := by omega
  have e1 : w / 131072 % 512 = 0 := by omega
  rw [if_neg (by omega),
    if_neg (fun h => absurd (e0.symm.trans h.1) (by decide)),
    if_pos ⟨e0, e1⟩,
    field a (by omega)]

theorem xtagq (d : BitVec 5) (a : BitVec 5) (f : BitVec 1) : Statement (.xtagq d a f) := by
  refine of_slot 2 rfl rfl ?_
  have h_d := d.isLt; have h_a := a.isLt; have h_f := f.isLt
  obtain ⟨w, hw⟩ : ∃ w, w = 805306416 + d.toNat * 131072 + a.toNat * 4096 + f.toNat := ⟨_, rfl⟩
  have he : encode (.xtagq d a f) = w := hw.symm
  rw [he]; show decT w = _; rw [opT12 (by omega)]; unfold decT12
  have e0 : w / 2 % 2048 = 24 := by omega
  have e1 : w / 4194304 % 16 = 0 := by omega
  rw [if_neg (by omega),
    if_neg (by omega),
    if_neg (by omega),
    if_pos ⟨e0, e1⟩,
    field d (by omega),
    field a (by omega),
    field f (by omega)]

theorem xpred (t : BitVec 4) (d : BitVec 5) (a : BitVec 5) (b : BitVec 5) (k : BitVec 2) : Statement (.xpred t d a b k) := by
  refine of_slot 2 rfl rfl ?_
  obtain ⟨w, h0⟩ : ∃ w, w = 872415232 + t.toNat * 4194304 + d.toNat * 131072 + a.toNat * 4096 + b.toNat * 128 + k.toNat * 16 := ⟨_, rfl⟩
  have he : encode (.xpred t d a b k) = w := h0.symm
  have hw : w = pack [0, k.toNat, 0, b.toNat, a.toNat, d.toNat, t.toNat, 13] [4, 2, 1, 5, 5, 5, 4, 6] := by rw [h0]; simp only [pack]; omega
  have hf : Fits [0, k.toNat, 0, b.toNat, a.toNat, d.toNat, t.toNat, 13] [4, 2, 1, 5, 5, 5, 4, 6] := ⟨by decide, k.isLt, by decide, b.isLt, a.isLt, d.isLt, t.isLt, by decide, trivial⟩
  rw [he]; show decT w = _; rw [opT13 (top _ _ 7 67108864 hw hf rfl rfl rfl (by decide))]; unfold decT13
  have e0 : w % 16 = 0 := low hw hf
  have e1 : w / 64 % 2 = 0 := digit _ _ 2 64 hw hf rfl rfl rfl (by decide)
  rw [if_pos ⟨e0, e1⟩,
    field t (digit _ _ 6 4194304 hw hf rfl rfl rfl (by decide)),
    field d (digit _ _ 5 131072 hw hf rfl rfl rfl (by decide)),
    field a (digit _ _ 4 4096 hw hf rfl rfl rfl (by decide)),
    field b (digit _ _ 3 128 hw hf rfl rfl rfl (by decide)),
    field k (digit _ _ 1 16 hw hf rfl rfl rfl (by decide))]

theorem xtrain (t : BitVec 4) (a : BitVec 5) (b : BitVec 5) : Statement (.xtrain t a b) := by
  refine of_slot 2 rfl rfl ?_
  obtain ⟨w, h0⟩ : ∃ w, w = 939524096 + t.toNat * 4194304 + a.toNat * 4096 + b.toNat * 128 := ⟨_, rfl⟩
  have he : encode (.xtrain t a b) = w := h0.symm
  have hw : w = pack [0, b.toNat, a.toNat, 0, t.toNat, 14] [7, 5, 5, 5, 4, 6] := by rw [h0]; simp only [pack]; omega
  have hf : Fits [0, b.toNat, a.toNat, 0, t.toNat, 14] [7, 5, 5, 5, 4, 6] := ⟨by decide, b.isLt, a.isLt, by decide, t.isLt, by decide, trivial⟩
  rw [he]; show decT w = _; rw [opT14 (top _ _ 5 67108864 hw hf rfl rfl rfl (by decide))]; unfold decT14
  have e0 : w % 128 = 0 := low hw hf
  have e1 : w / 131072 % 32 = 0 := digit _ _ 3 131072 hw hf rfl rfl rfl (by decide)
  rw [if_pos ⟨e0, e1⟩,
    field t (digit _ _ 4 4194304 hw hf rfl rfl rfl (by decide)),
    field a (digit _ _ 2 4096 hw hf rfl rfl rfl (by decide)),
    field b (digit _ _ 1 128 hw hf rfl rfl rfl (by decide))]

theorem xres (t : BitVec 4) (d : BitVec 5) (a : BitVec 5) (b : BitVec 5) (f : BitVec 3) (g : BitVec 3) : Statement (.xres t d a b f g) := by
  refine of_slot 2 rfl rfl ?_
  obtain ⟨w, h0⟩ : ∃ w, w = 1006632960 + t.toNat * 4194304 + d.toNat * 131072 + a.toNat * 4096 + b.toNat * 128 + f.toNat * 16 + g.toNat := ⟨_, rfl⟩
  have he : encode (.xres t d a b f g) = w := h0.symm
  have hw : w = pack [g.toNat, 0, f.toNat, b.toNat, a.toNat, d.toNat, t.toNat, 15] [3, 1, 3, 5, 5, 5, 4, 6] := by rw [h0]; simp only [pack]; omega
  have hf : Fits [g.toNat, 0, f.toNat, b.toNat, a.toNat, d.toNat, t.toNat, 15] [3, 1, 3, 5, 5, 5, 4, 6] := ⟨g.isLt, by decide, f.isLt, b.isLt, a.isLt, d.isLt, t.isLt, by decide, trivial⟩
  rw [he]; show decT w = _; rw [opT15 (top _ _ 7 67108864 hw hf rfl rfl rfl (by decide))]; unfold decT15
  have e0 : w / 8 % 2 = 0 := digit _ _ 1 8 hw hf rfl rfl rfl (by decide)
  rw [if_pos e0,
    field t (digit _ _ 6 4194304 hw hf rfl rfl rfl (by decide)),
    field d (digit _ _ 5 131072 hw hf rfl rfl rfl (by decide)),
    field a (digit _ _ 4 4096 hw hf rfl rfl rfl (by decide)),
    field b (digit _ _ 3 128 hw hf rfl rfl rfl (by decide)),
    field f (digit _ _ 2 16 hw hf rfl rfl rfl (by decide)),
    field g (low hw hf)]

theorem xmiss (t : BitVec 4) (d : BitVec 5) (a : BitVec 5) (b : BitVec 5) : Statement (.xmiss t d a b) := by
  refine of_slot 2 rfl rfl ?_
  obtain ⟨w, h0⟩ : ∃ w, w = 1073741824 + t.toNat * 4194304 + d.toNat * 131072 + a.toNat * 4096 + b.toNat * 128 := ⟨_, rfl⟩
  have he : encode (.xmiss t d a b) = w := h0.symm
  have hw : w = pack [0, b.toNat, a.toNat, d.toNat, t.toNat, 16] [7, 5, 5, 5, 4, 6] := by rw [h0]; simp only [pack]; omega
  have hf : Fits [0, b.toNat, a.toNat, d.toNat, t.toNat, 16] [7, 5, 5, 5, 4, 6] := ⟨by decide, b.isLt, a.isLt, d.isLt, t.isLt, by decide, trivial⟩
  rw [he]; show decT w = _; rw [opT16 (top _ _ 5 67108864 hw hf rfl rfl rfl (by decide))]; unfold decT16
  have e0 : w % 128 = 0 := low hw hf
  rw [if_pos e0,
    field t (digit _ _ 4 4194304 hw hf rfl rfl rfl (by decide)),
    field d (digit _ _ 3 131072 hw hf rfl rfl rfl (by decide)),
    field a (digit _ _ 2 4096 hw hf rfl rfl rfl (by decide)),
    field b (digit _ _ 1 128 hw hf rfl rfl rfl (by decide))]

theorem xlook (d : BitVec 5) (a : BitVec 5) : Statement (.xlook d a) := by
  refine of_slot 2 rfl rfl ?_
  obtain ⟨w, h0⟩ : ∃ w, w = 1140850688 + d.toNat * 131072 + a.toNat * 4096 := ⟨_, rfl⟩
  have he : encode (.xlook d a) = w := h0.symm
  have hw : w = pack [0, a.toNat, d.toNat, 0, 17] [12, 5, 5, 4, 6] := by rw [h0]; simp only [pack]; omega
  have hf : Fits [0, a.toNat, d.toNat, 0, 17] [12, 5, 5, 4, 6] := ⟨by decide, a.isLt, d.isLt, by decide, by decide, trivial⟩
  rw [he]; show decT w = _; rw [opT17 (top _ _ 4 67108864 hw hf rfl rfl rfl (by decide))]; unfold decT17
  have e0 : w % 4096 = 0 := low hw hf
  have e1 : w / 4194304 % 16 = 0 := digit _ _ 3 4194304 hw hf rfl rfl rfl (by decide)
  rw [if_pos ⟨e0, e1⟩,
    field d (digit _ _ 2 131072 hw hf rfl rfl rfl (by decide)),
    field a (digit _ _ 1 4096 hw hf rfl rfl rfl (by decide))]

theorem xins (a : BitVec 5) (b : BitVec 5) : Statement (.xins a b) := by
  refine of_slot 2 rfl rfl ?_
  obtain ⟨w, h0⟩ : ∃ w, w = 1207959552 + a.toNat * 4096 + b.toNat * 128 := ⟨_, rfl⟩
  have he : encode (.xins a b) = w := h0.symm
  have hw : w = pack [0, b.toNat, a.toNat, 0, 18] [7, 5, 5, 9, 6] := by rw [h0]; simp only [pack]; omega
  have hf : Fits [0, b.toNat, a.toNat, 0, 18] [7, 5, 5, 9, 6] := ⟨by decide, b.isLt, a.isLt, by decide, by decide, trivial⟩
  rw [he]; show decT w = _; rw [opT18 (top _ _ 4 67108864 hw hf rfl rfl rfl (by decide))]; unfold decT18
  have e0 : w % 128 = 0 := low hw hf
  have e1 : w / 131072 % 512 = 0 := digit _ _ 3 131072 hw hf rfl rfl rfl (by decide)
  rw [if_pos ⟨e0, e1⟩,
    field a (digit _ _ 2 4096 hw hf rfl rfl rfl (by decide)),
    field b (digit _ _ 1 128 hw hf rfl rfl rfl (by decide))]

theorem xinv (a : BitVec 5) : Statement (.xinv a) := by
  refine of_slot 2 rfl rfl ?_
  obtain ⟨w, h0⟩ : ∃ w, w = 1207959568 + a.toNat * 4096 := ⟨_, rfl⟩
  have h_a := a.isLt
  have he : encode (.xinv a) = w := h0.symm
  have hw : w = pack [16, 0, a.toNat, 0, 18] [7, 5, 5, 9, 6] := by rw [h0]; simp only [pack]; omega
  have hf : Fits [16, 0, a.toNat, 0, 18] [7, 5, 5, 9, 6] := ⟨by decide, by decide, a.isLt, by decide, by decide, trivial⟩
  rw [he]; show decT w = _; rw [opT18 (top _ _ 4 67108864 hw hf rfl rfl rfl (by decide))]; unfold decT18
  have e0 : w % 128 = 16 := low hw hf
  have e1 : w % 4096 = 16 := by rw [h0]; omega
  have e2 : w / 131072 % 512 = 0 := digit _ _ 3 131072 hw hf rfl rfl rfl (by decide)
  rw [if_neg (fun h => absurd (e0.symm.trans h.1) (by decide)),
    if_pos ⟨e1, e2⟩,
    field a (digit _ _ 2 4096 hw hf rfl rfl rfl (by decide))]

theorem xrdt (d : BitVec 5) (a : BitVec 5) : Statement (.xrdt d a) := by
  refine of_slot 2 rfl rfl ?_
  obtain ⟨w, h0⟩ : ∃ w, w = 1207959584 + d.toNat * 131072 + a.toNat * 4096 := ⟨_, rfl⟩
  have h_d := d.isLt; have h_a := a.isLt
  have he : encode (.xrdt d a) = w := h0.symm
  have hw : w = pack [32, 0, a.toNat, d.toNat, 0, 18] [7, 5, 5, 5, 4, 6] := by rw [h0]; simp only [pack]; omega
  have hf : Fits [32, 0, a.toNat, d.toNat, 0, 18] [7, 5, 5, 5, 4, 6] := ⟨by decide, by decide, a.isLt, d.isLt, by decide, by decide, trivial⟩
  rw [he]; show decT w = _; rw [opT18 (top _ _ 5 67108864 hw hf rfl rfl rfl (by decide))]; unfold decT18
  have e0 : w % 128 = 32 := low hw hf
  have e1 : w % 4096 = 32 := by rw [h0]; omega
  have e2 : w / 4194304 % 16 = 0 := digit _ _ 4 4194304 hw hf rfl rfl rfl (by decide)
  rw [if_neg (fun h => absurd (e0.symm.trans h.1) (by decide)),
    if_neg (fun h => absurd (e1.symm.trans h.1) (by decide)),
    if_pos ⟨e1, e2⟩,
    field d (digit _ _ 3 131072 hw hf rfl rfl rfl (by decide)),
    field a (digit _ _ 2 4096 hw hf rfl rfl rfl (by decide))]

theorem xpin (a : BitVec 5) (b : BitVec 5) : Statement (.xpin a b) := by
  refine of_slot 2 rfl rfl ?_
  have h_a := a.isLt; have h_b := b.isLt
  obtain ⟨w, hw⟩ : ∃ w, w = 1207959600 + a.toNat * 4096 + b.toNat * 128 := ⟨_, rfl⟩
  have he : encode (.xpin a b) = w := hw.symm
  rw [he]; show decT w = _; rw [opT18 (by omega)]; unfold decT18
  have e0 : w % 128 = 48 := by omega
  have e1 : w / 131072 % 512 = 0 := by omega
  rw [if_neg (fun h => absurd (e0.symm.trans h.1) (by decide)),
    if_neg (by omega),
    if_neg (by omega),
    if_pos ⟨e0, e1⟩,
    field a (by omega),
    field b (by omega)]

theorem seedscan (t : BitVec 4) (d : BitVec 5) (a : BitVec 5) (b : BitVec 5) : Statement (.seedscan t d a b) := by
  refine of_slot 2 rfl rfl ?_
  obtain ⟨w, h0⟩ : ∃ w, w = 1275068416 + t.toNat * 4194304 + d.toNat * 131072 + a.toNat * 4096 + b.toNat * 128 := ⟨_, rfl⟩
  have he : encode (.seedscan t d a b) = w := h0.symm
  have hw : w = pack [0, b.toNat, a.toNat, d.toNat, t.toNat, 19] [7, 5, 5, 5, 4, 6] := by rw [h0]; simp only [pack]; omega
  have hf : Fits [0, b.toNat, a.toNat, d.toNat, t.toNat, 19] [7, 5, 5, 5, 4, 6] := ⟨by decide, b.isLt, a.isLt, d.isLt, t.isLt, by decide, trivial⟩
  rw [he]; show decT w = _; rw [opT19 (top _ _ 5 67108864 hw hf rfl rfl rfl (by decide))]; unfold decT19
  have e0 : w % 128 = 0 := low hw hf
  rw [if_pos e0,
    field t (digit _ _ 4 4194304 hw hf rfl rfl rfl (by decide)),
    field d (digit _ _ 3 131072 hw hf rfl rfl rfl (by decide)),
    field a (digit _ _ 2 4096 hw hf rfl rfl rfl (by decide)),
    field b (digit _ _ 1 128 hw hf rfl rfl rfl (by decide))]

theorem grx (t : BitVec 4) (d : BitVec 5) : Statement (.grx t d) := by
  refine of_slot 2 rfl rfl ?_
  obtain ⟨w, h0⟩ : ∃ w, w = 1342177280 + t.toNat * 4194304 + d.toNat * 131072 := ⟨_, rfl⟩
  have he : encode (.grx t d) = w := h0.symm
  have hw : w = pack [0, d.toNat, t.toNat, 20] [17, 5, 4, 6] := by rw [h0]; simp only [pack]; omega
  have hf : Fits [0, d.toNat, t.toNat, 20] [17, 5, 4, 6] := ⟨by decide, d.isLt, t.isLt, by decide, trivial⟩
  rw [he]; show decT w = _; rw [opT20 (top _ _ 3 67108864 hw hf rfl rfl rfl (by decide))]; unfold decT20
  have e0 : w % 131072 = 0 := low hw hf
  rw [if_pos e0,
    field t (digit _ _ 2 4194304 hw hf rfl rfl rfl (by decide)),
    field d (digit _ _ 1 131072 hw hf rfl rfl rfl (by decide))]

theorem tmov (t : BitVec 4) (d : BitVec 5) : Statement (.tmov t d) := by
  refine of_slot 2 rfl rfl ?_
  obtain ⟨w, h0⟩ : ∃ w, w = 1409286144 + t.toNat * 4194304 + d.toNat * 131072 := ⟨_, rfl⟩
  have he : encode (.tmov t d) = w := h0.symm
  have hw : w = pack [0, d.toNat, t.toNat, 21] [17, 5, 4, 6] := by rw [h0]; simp only [pack]; omega
  have hf : Fits [0, d.toNat, t.toNat, 21] [17, 5, 4, 6] := ⟨by decide, d.isLt, t.isLt, by decide, trivial⟩
  rw [he]; show decT w = _; rw [opT21 (top _ _ 3 67108864 hw hf rfl rfl rfl (by decide))]; unfold decT21
  have e0 : w % 131072 = 0 := low hw hf
  rw [if_pos e0,
    field t (digit _ _ 2 4194304 hw hf rfl rfl rfl (by decide)),
    field d (digit _ _ 1 131072 hw hf rfl rfl rfl (by decide))]

theorem tacc (t : BitVec 4) (d : BitVec 5) (sf : BitVec 1) : Statement (.tacc t d sf) := by
  refine of_slot 2 rfl rfl ?_
  obtain ⟨w, h0⟩ : ∃ w, w = 1476395008 + t.toNat * 4194304 + d.toNat * 131072 + sf.toNat * 16 := ⟨_, rfl⟩
  have he : encode (.tacc t d sf) = w := h0.symm
  have hw : w = pack [0, sf.toNat, 0, d.toNat, t.toNat, 22] [4, 1, 12, 5, 4, 6] := by rw [h0]; simp only [pack]; omega
  have hf : Fits [0, sf.toNat, 0, d.toNat, t.toNat, 22] [4, 1, 12, 5, 4, 6] := ⟨by decide, sf.isLt, by decide, d.isLt, t.isLt, by decide, trivial⟩
  rw [he]; show decT w = _; rw [opT22 (top _ _ 5 67108864 hw hf rfl rfl rfl (by decide))]; unfold decT22
  have e0 : w % 16 = 0 := low hw hf
  have e1 : w / 32 % 4096 = 0 := digit _ _ 2 32 hw hf rfl rfl rfl (by decide)
  rw [if_pos ⟨e0, e1⟩,
    field t (digit _ _ 4 4194304 hw hf rfl rfl rfl (by decide)),
    field d (digit _ _ 3 131072 hw hf rfl rfl rfl (by decide)),
    field sf (digit _ _ 1 16 hw hf rfl rfl rfl (by decide))]

theorem ld (d : BitVec 5) (h : BitVec 4) (c : BitVec 4) (z : BitVec 3) (o : BitVec 10) : Statement (.ld d h c z o) := by
  refine of_slot 3 rfl rfl ?_
  obtain ⟨w, h0⟩ : ∃ w, w = 67108864 + d.toNat * 2097152 + h.toNat * 131072 + c.toNat * 8192 + z.toNat * 1024 + o.toNat := ⟨_, rfl⟩
  have he : encode (.ld d h c z o) = w := h0.symm
  have hw : w = pack [o.toNat, z.toNat, c.toNat, h.toNat, d.toNat, 1] [10, 3, 4, 4, 5, 6] := by rw [h0]; simp only [pack]; omega
  have hf : Fits [o.toNat, z.toNat, c.toNat, h.toNat, d.toNat, 1] [10, 3, 4, 4, 5, 6] := ⟨o.isLt, z.isLt, c.isLt, h.isLt, d.isLt, by decide, trivial⟩
  rw [he]; show decM w = _; rw [opM1 (top _ _ 5 67108864 hw hf rfl rfl rfl (by decide))]; unfold decM1
  rw [field d (digit _ _ 4 2097152 hw hf rfl rfl rfl (by decide)),
    field h (digit _ _ 3 131072 hw hf rfl rfl rfl (by decide)),
    field c (digit _ _ 2 8192 hw hf rfl rfl rfl (by decide)),
    field z (digit _ _ 1 1024 hw hf rfl rfl rfl (by decide)),
    field o (low hw hf)]

theorem st (d : BitVec 5) (h : BitVec 4) (c : BitVec 4) (z : BitVec 3) (o : BitVec 10) : Statement (.st d h c z o) := by
  refine of_slot 3 rfl rfl ?_
  obtain ⟨w, h0⟩ : ∃ w, w = 134217728 + d.toNat * 2097152 + h.toNat * 131072 + c.toNat * 8192 + z.toNat * 1024 + o.toNat := ⟨_, rfl⟩
  have he : encode (.st d h c z o) = w := h0.symm
  have hw : w = pack [o.toNat, z.toNat, c.toNat, h.toNat, d.toNat, 2] [10, 3, 4, 4, 5, 6] := by rw [h0]; simp only [pack]; omega
  have hf : Fits [o.toNat, z.toNat, c.toNat, h.toNat, d.toNat, 2] [10, 3, 4, 4, 5, 6] := ⟨o.isLt, z.isLt, c.isLt, h.isLt, d.isLt, by decide, trivial⟩
  rw [he]; show decM w = _; rw [opM2 (top _ _ 5 67108864 hw hf rfl rfl rfl (by decide))]; unfold decM2
  rw [field d (digit _ _ 4 2097152 hw hf rfl rfl rfl (by decide)),
    field h (digit _ _ 3 131072 hw hf rfl rfl rfl (by decide)),
    field c (digit _ _ 2 8192 hw hf rfl rfl rfl (by decide)),
    field z (digit _ _ 1 1024 hw hf rfl rfl rfl (by decide)),
    field o (low hw hf)]

theorem ldx (d : BitVec 5) (h : BitVec 4) (c : BitVec 4) (z : BitVec 3) (b : BitVec 5) : Statement (.ldx d h c z b) := by
  refine of_slot 3 rfl rfl ?_
  obtain ⟨w, h0⟩ : ∃ w, w = 201326592 + d.toNat * 2097152 + h.toNat * 131072 + c.toNat * 8192 + z.toNat * 1024 + b.toNat * 32 := ⟨_, rfl⟩
  have he : encode (.ldx d h c z b) = w := h0.symm
  have hw : w = pack [0, b.toNat, z.toNat, c.toNat, h.toNat, d.toNat, 3] [5, 5, 3, 4, 4, 5, 6] := by rw [h0]; simp only [pack]; omega
  have hf : Fits [0, b.toNat, z.toNat, c.toNat, h.toNat, d.toNat, 3] [5, 5, 3, 4, 4, 5, 6] := ⟨by decide, b.isLt, z.isLt, c.isLt, h.isLt, d.isLt, by decide, trivial⟩
  rw [he]; show decM w = _; rw [opM3 (top _ _ 6 67108864 hw hf rfl rfl rfl (by decide))]; unfold decM3
  have e0 : w % 32 = 0 := low hw hf
  rw [if_pos e0,
    field d (digit _ _ 5 2097152 hw hf rfl rfl rfl (by decide)),
    field h (digit _ _ 4 131072 hw hf rfl rfl rfl (by decide)),
    field c (digit _ _ 3 8192 hw hf rfl rfl rfl (by decide)),
    field z (digit _ _ 2 1024 hw hf rfl rfl rfl (by decide)),
    field b (digit _ _ 1 32 hw hf rfl rfl rfl (by decide))]

theorem stx (d : BitVec 5) (h : BitVec 4) (c : BitVec 4) (z : BitVec 3) (b : BitVec 5) : Statement (.stx d h c z b) := by
  refine of_slot 3 rfl rfl ?_
  obtain ⟨w, h0⟩ : ∃ w, w = 268435456 + d.toNat * 2097152 + h.toNat * 131072 + c.toNat * 8192 + z.toNat * 1024 + b.toNat * 32 := ⟨_, rfl⟩
  have he : encode (.stx d h c z b) = w := h0.symm
  have hw : w = pack [0, b.toNat, z.toNat, c.toNat, h.toNat, d.toNat, 4] [5, 5, 3, 4, 4, 5, 6] := by rw [h0]; simp only [pack]; omega
  have hf : Fits [0, b.toNat, z.toNat, c.toNat, h.toNat, d.toNat, 4] [5, 5, 3, 4, 4, 5, 6] := ⟨by decide, b.isLt, z.isLt, c.isLt, h.isLt, d.isLt, by decide, trivial⟩
  rw [he]; show decM w = _; rw [opM4 (top _ _ 6 67108864 hw hf rfl rfl rfl (by decide))]; unfold decM4
  have e0 : w % 32 = 0 := low hw hf
  rw [if_pos e0,
    field d (digit _ _ 5 2097152 hw hf rfl rfl rfl (by decide)),
    field h (digit _ _ 4 131072 hw hf rfl rfl rfl (by decide)),
    field c (digit _ _ 3 8192 hw hf rfl rfl rfl (by decide)),
    field z (digit _ _ 2 1024 hw hf rfl rfl rfl (by decide)),
    field b (digit _ _ 1 32 hw hf rfl rfl rfl (by decide))]

theorem lda (d : BitVec 5) (h : BitVec 4) (c : BitVec 4) (z : BitVec 3) (sf : BitVec 3) (o : BitVec 7) : Statement (.lda d h c z sf o) := by
  refine of_slot 3 rfl rfl ?_
  obtain ⟨w, h0⟩ : ∃ w, w = 335544320 + d.toNat * 2097152 + h.toNat * 131072 + c.toNat * 8192 + z.toNat * 1024 + sf.toNat * 128 + o.toNat := ⟨_, rfl⟩
  have he : encode (.lda d h c z sf o) = w := h0.symm
  have hw : w = pack [o.toNat, sf.toNat, z.toNat, c.toNat, h.toNat, d.toNat, 5] [7, 3, 3, 4, 4, 5, 6] := by rw [h0]; simp only [pack]; omega
  have hf : Fits [o.toNat, sf.toNat, z.toNat, c.toNat, h.toNat, d.toNat, 5] [7, 3, 3, 4, 4, 5, 6] := ⟨o.isLt, sf.isLt, z.isLt, c.isLt, h.isLt, d.isLt, by decide, trivial⟩
  rw [he]; show decM w = _; rw [opM5 (top _ _ 6 67108864 hw hf rfl rfl rfl (by decide))]; unfold decM5
  rw [field d (digit _ _ 5 2097152 hw hf rfl rfl rfl (by decide)),
    field h (digit _ _ 4 131072 hw hf rfl rfl rfl (by decide)),
    field c (digit _ _ 3 8192 hw hf rfl rfl rfl (by decide)),
    field z (digit _ _ 2 1024 hw hf rfl rfl rfl (by decide)),
    field sf (digit _ _ 1 128 hw hf rfl rfl rfl (by decide)),
    field o (low hw hf)]

theorem stl (d : BitVec 5) (h : BitVec 4) (c : BitVec 4) (z : BitVec 3) (sf : BitVec 3) (o : BitVec 7) : Statement (.stl d h c z sf o) := by
  refine of_slot 3 rfl rfl ?_
  obtain ⟨w, h0⟩ : ∃ w, w = 402653184 + d.toNat * 2097152 + h.toNat * 131072 + c.toNat * 8192 + z.toNat * 1024 + sf.toNat * 128 + o.toNat := ⟨_, rfl⟩
  have he : encode (.stl d h c z sf o) = w := h0.symm
  have hw : w = pack [o.toNat, sf.toNat, z.toNat, c.toNat, h.toNat, d.toNat, 6] [7, 3, 3, 4, 4, 5, 6] := by rw [h0]; simp only [pack]; omega
  have hf : Fits [o.toNat, sf.toNat, z.toNat, c.toNat, h.toNat, d.toNat, 6] [7, 3, 3, 4, 4, 5, 6] := ⟨o.isLt, sf.isLt, z.isLt, c.isLt, h.isLt, d.isLt, by decide, trivial⟩
  rw [he]; show decM w = _; rw [opM6 (top _ _ 6 67108864 hw hf rfl rfl rfl (by decide))]; unfold decM6
  rw [field d (digit _ _ 5 2097152 hw hf rfl rfl rfl (by decide)),
    field h (digit _ _ 4 131072 hw hf rfl rfl rfl (by decide)),
    field c (digit _ _ 3 8192 hw hf rfl rfl rfl (by decide)),
    field z (digit _ _ 2 1024 hw hf rfl rfl rfl (by decide)),
    field sf (digit _ _ 1 128 hw hf rfl rfl rfl (by decide)),
    field o (low hw hf)]

theorem vld (d : BitVec 5) (h : BitVec 4) (c : BitVec 4) (z : BitVec 3) (o : BitVec 10) : Statement (.vld d h c z o) := by
  refine of_slot 3 rfl rfl ?_
  obtain ⟨w, h0⟩ : ∃ w, w = 469762048 + d.toNat * 2097152 + h.toNat * 131072 + c.toNat * 8192 + z.toNat * 1024 + o.toNat := ⟨_, rfl⟩
  have he : encode (.vld d h c z o) = w := h0.symm
  have hw : w = pack [o.toNat, z.toNat, c.toNat, h.toNat, d.toNat, 7] [10, 3, 4, 4, 5, 6] := by rw [h0]; simp only [pack]; omega
  have hf : Fits [o.toNat, z.toNat, c.toNat, h.toNat, d.toNat, 7] [10, 3, 4, 4, 5, 6] := ⟨o.isLt, z.isLt, c.isLt, h.isLt, d.isLt, by decide, trivial⟩
  rw [he]; show decM w = _; rw [opM7 (top _ _ 5 67108864 hw hf rfl rfl rfl (by decide))]; unfold decM7
  rw [field d (digit _ _ 4 2097152 hw hf rfl rfl rfl (by decide)),
    field h (digit _ _ 3 131072 hw hf rfl rfl rfl (by decide)),
    field c (digit _ _ 2 8192 hw hf rfl rfl rfl (by decide)),
    field z (digit _ _ 1 1024 hw hf rfl rfl rfl (by decide)),
    field o (low hw hf)]

theorem vst (d : BitVec 5) (h : BitVec 4) (c : BitVec 4) (z : BitVec 3) (o : BitVec 10) : Statement (.vst d h c z o) := by
  refine of_slot 3 rfl rfl ?_
  obtain ⟨w, h0⟩ : ∃ w, w = 536870912 + d.toNat * 2097152 + h.toNat * 131072 + c.toNat * 8192 + z.toNat * 1024 + o.toNat := ⟨_, rfl⟩
  have he : encode (.vst d h c z o) = w := h0.symm
  have hw : w = pack [o.toNat, z.toNat, c.toNat, h.toNat, d.toNat, 8] [10, 3, 4, 4, 5, 6] := by rw [h0]; simp only [pack]; omega
  have hf : Fits [o.toNat, z.toNat, c.toNat, h.toNat, d.toNat, 8] [10, 3, 4, 4, 5, 6] := ⟨o.isLt, z.isLt, c.isLt, h.isLt, d.isLt, by decide, trivial⟩
  rw [he]; show decM w = _; rw [opM8 (top _ _ 5 67108864 hw hf rfl rfl rfl (by decide))]; unfold decM8
  rw [field d (digit _ _ 4 2097152 hw hf rfl rfl rfl (by decide)),
    field h (digit _ _ 3 131072 hw hf rfl rfl rfl (by decide)),
    field c (digit _ _ 2 8192 hw hf rfl rfl rfl (by decide)),
    field z (digit _ _ 1 1024 hw hf rfl rfl rfl (by decide)),
    field o (low hw hf)]

theorem vlds (d : BitVec 5) (h : BitVec 4) (c : BitVec 4) (z : BitVec 3) (b : BitVec 5) : Statement (.vlds d h c z b) := by
  refine of_slot 3 rfl rfl ?_
  obtain ⟨w, h0⟩ : ∃ w, w = 603979776 + d.toNat * 2097152 + h.toNat * 131072 + c.toNat * 8192 + z.toNat * 1024 + b.toNat * 32 := ⟨_, rfl⟩
  have he : encode (.vlds d h c z b) = w := h0.symm
  have hw : w = pack [0, b.toNat, z.toNat, c.toNat, h.toNat, d.toNat, 9] [5, 5, 3, 4, 4, 5, 6] := by rw [h0]; simp only [pack]; omega
  have hf : Fits [0, b.toNat, z.toNat, c.toNat, h.toNat, d.toNat, 9] [5, 5, 3, 4, 4, 5, 6] := ⟨by decide, b.isLt, z.isLt, c.isLt, h.isLt, d.isLt, by decide, trivial⟩
  rw [he]; show decM w = _; rw [opM9 (top _ _ 6 67108864 hw hf rfl rfl rfl (by decide))]; unfold decM9
  have e0 : w % 32 = 0 := low hw hf
  rw [if_pos e0,
    field d (digit _ _ 5 2097152 hw hf rfl rfl rfl (by decide)),
    field h (digit _ _ 4 131072 hw hf rfl rfl rfl (by decide)),
    field c (digit _ _ 3 8192 hw hf rfl rfl rfl (by decide)),
    field z (digit _ _ 2 1024 hw hf rfl rfl rfl (by decide)),
    field b (digit _ _ 1 32 hw hf rfl rfl rfl (by decide))]

theorem vsts (d : BitVec 5) (h : BitVec 4) (c : BitVec 4) (z : BitVec 3) (b : BitVec 5) : Statement (.vsts d h c z b) := by
  refine of_slot 3 rfl rfl ?_
  obtain ⟨w, h0⟩ : ∃ w, w = 671088640 + d.toNat * 2097152 + h.toNat * 131072 + c.toNat * 8192 + z.toNat * 1024 + b.toNat * 32 := ⟨_, rfl⟩
  have he : encode (.vsts d h c z b) = w := h0.symm
  have hw : w = pack [0, b.toNat, z.toNat, c.toNat, h.toNat, d.toNat, 10] [5, 5, 3, 4, 4, 5, 6] := by rw [h0]; simp only [pack]; omega
  have hf : Fits [0, b.toNat, z.toNat, c.toNat, h.toNat, d.toNat, 10] [5, 5, 3, 4, 4, 5, 6] := ⟨by decide, b.isLt, z.isLt, c.isLt, h.isLt, d.isLt, by decide, trivial⟩
  rw [he]; show decM w = _; rw [opM10 (top _ _ 6 67108864 hw hf rfl rfl rfl (by decide))]; unfold decM10
  have e0 : w % 32 = 0 := low hw hf
  rw [if_pos e0,
    field d (digit _ _ 5 2097152 hw hf rfl rfl rfl (by decide)),
    field h (digit _ _ 4 131072 hw hf rfl rfl rfl (by decide)),
    field c (digit _ _ 3 8192 hw hf rfl rfl rfl (by decide)),
    field z (digit _ _ 2 1024 hw hf rfl rfl rfl (by decide)),
    field b (digit _ _ 1 32 hw hf rfl rfl rfl (by decide))]

theorem vgath (d : BitVec 5) (h : BitVec 4) (c : BitVec 4) (z : BitVec 3) (b : BitVec 5) : Statement (.vgath d h c z b) := by
  refine of_slot 3 rfl rfl ?_
  obtain ⟨w, h0⟩ : ∃ w, w = 738197504 + d.toNat * 2097152 + h.toNat * 131072 + c.toNat * 8192 + z.toNat * 1024 + b.toNat * 32 := ⟨_, rfl⟩
  have he : encode (.vgath d h c z b) = w := h0.symm
  have hw : w = pack [0, b.toNat, z.toNat, c.toNat, h.toNat, d.toNat, 11] [5, 5, 3, 4, 4, 5, 6] := by rw [h0]; simp only [pack]; omega
  have hf : Fits [0, b.toNat, z.toNat, c.toNat, h.toNat, d.toNat, 11] [5, 5, 3, 4, 4, 5, 6] := ⟨by decide, b.isLt, z.isLt, c.isLt, h.isLt, d.isLt, by decide, trivial⟩
  rw [he]; show decM w = _; rw [opM11 (top _ _ 6 67108864 hw hf rfl rfl rfl (by decide))]; unfold decM11
  have e0 : w % 32 = 0 := low hw hf
  rw [if_pos e0,
    field d (digit _ _ 5 2097152 hw hf rfl rfl rfl (by decide)),
    field h (digit _ _ 4 131072 hw hf rfl rfl rfl (by decide)),
    field c (digit _ _ 3 8192 hw hf rfl rfl rfl (by decide)),
    field z (digit _ _ 2 1024 hw hf rfl rfl rfl (by decide)),
    field b (digit _ _ 1 32 hw hf rfl rfl rfl (by decide))]

theorem vscat (d : BitVec 5) (h : BitVec 4) (c : BitVec 4) (z : BitVec 3) (b : BitVec 5) : Statement (.vscat d h c z b) := by
  refine of_slot 3 rfl rfl ?_
  obtain ⟨w, h0⟩ : ∃ w, w = 805306368 + d.toNat * 2097152 + h.toNat * 131072 + c.toNat * 8192 + z.toNat * 1024 + b.toNat * 32 := ⟨_, rfl⟩
  have he : encode (.vscat d h c z b) = w := h0.symm
  have hw : w = pack [0, b.toNat, z.toNat, c.toNat, h.toNat, d.toNat, 12] [5, 5, 3, 4, 4, 5, 6] := by rw [h0]; simp only [pack]; omega
  have hf : Fits [0, b.toNat, z.toNat, c.toNat, h.toNat, d.toNat, 12] [5, 5, 3, 4, 4, 5, 6] := ⟨by decide, b.isLt, z.isLt, c.isLt, h.isLt, d.isLt, by decide, trivial⟩
  rw [he]; show decM w = _; rw [opM12 (top _ _ 6 67108864 hw hf rfl rfl rfl (by decide))]; unfold decM12
  have e0 : w % 32 = 0 := low hw hf
  rw [if_pos e0,
    field d (digit _ _ 5 2097152 hw hf rfl rfl rfl (by decide)),
    field h (digit _ _ 4 131072 hw hf rfl rfl rfl (by decide)),
    field c (digit _ _ 3 8192 hw hf rfl rfl rfl (by decide)),
    field z (digit _ _ 2 1024 hw hf rfl rfl rfl (by decide)),
    field b (digit _ _ 1 32 hw hf rfl rfl rfl (by decide))]

theorem trans (d : BitVec 5) (a : BitVec 5) : Statement (.trans d a) := by
  refine of_slot 3 rfl rfl ?_
  obtain ⟨w, h0⟩ : ∃ w, w = 872415232 + d.toNat * 2097152 + a.toNat * 65536 := ⟨_, rfl⟩
  have he : encode (.trans d a) = w := h0.symm
  have hw : w = pack [0, a.toNat, d.toNat, 13] [16, 5, 5, 6] := by rw [h0]; simp only [pack]; omega
  have hf : Fits [0, a.toNat, d.toNat, 13] [16, 5, 5, 6] := ⟨by decide, a.isLt, d.isLt, by decide, trivial⟩
  rw [he]; show decM w = _; rw [opM13 (top _ _ 3 67108864 hw hf rfl rfl rfl (by decide))]; unfold decM13
  have e0 : w % 65536 = 0 := low hw hf
  rw [if_pos e0,
    field d (digit _ _ 2 2097152 hw hf rfl rfl rfl (by decide)),
    field a (digit _ _ 1 65536 hw hf rfl rfl rfl (by decide))]

theorem hchk (d : BitVec 5) (a : BitVec 5) : Statement (.hchk d a) := by
  refine of_slot 3 rfl rfl ?_
  obtain ⟨w, h0⟩ : ∃ w, w = 939524096 + d.toNat * 2097152 + a.toNat * 65536 := ⟨_, rfl⟩
  have he : encode (.hchk d a) = w := h0.symm
  have hw : w = pack [0, a.toNat, d.toNat, 14] [16, 5, 5, 6] := by rw [h0]; simp only [pack]; omega
  have hf : Fits [0, a.toNat, d.toNat, 14] [16, 5, 5, 6] := ⟨by decide, a.isLt, d.isLt, by decide, trivial⟩
  rw [he]; show decM w = _; rw [opM14 (top _ _ 3 67108864 hw hf rfl rfl rfl (by decide))]; unfold decM14
  have e0 : w % 65536 = 0 := low hw hf
  rw [if_pos e0,
    field d (digit _ _ 2 2097152 hw hf rfl rfl rfl (by decide)),
    field a (digit _ _ 1 65536 hw hf rfl rfl rfl (by decide))]

theorem hrel (a : BitVec 5) : Statement (.hrel a) := by
  refine of_slot 3 rfl rfl ?_
  obtain ⟨w, h0⟩ : ∃ w, w = 939524097 + a.toNat * 65536 := ⟨_, rfl⟩
  have he : encode (.hrel a) = w := h0.symm
  have hw : w = pack [1, a.toNat, 0, 14] [16, 5, 5, 6] := by rw [h0]; simp only [pack]; omega
  have hf : Fits [1, a.toNat, 0, 14] [16, 5, 5, 6] := ⟨by decide, a.isLt, by decide, by decide, trivial⟩
  rw [he]; show decM w = _; rw [opM14 (top _ _ 3 67108864 hw hf rfl rfl rfl (by decide))]; unfold decM14
  have e0 : w % 65536 = 1 := low hw hf
  have e1 : w / 2097152 % 32 = 0 := digit _ _ 2 2097152 hw hf rfl rfl rfl (by decide)
  rw [if_neg (fun h => absurd (e0.symm.trans h) (by decide)),
    if_pos ⟨e0, e1⟩,
    field a (digit _ _ 1 65536 hw hf rfl rfl rfl (by decide))]

theorem hmov (d : BitVec 5) (a : BitVec 5) : Statement (.hmov d a) := by
  refine of_slot 3 rfl rfl ?_
  obtain ⟨w, h0⟩ : ∃ w, w = 939524098 + d.toNat * 2097152 + a.toNat * 65536 := ⟨_, rfl⟩
  have he : encode (.hmov d a) = w := h0.symm
  have hw : w = pack [2, a.toNat, d.toNat, 14] [16, 5, 5, 6] := by rw [h0]; simp only [pack]; omega
  have hf : Fits [2, a.toNat, d.toNat, 14] [16, 5, 5, 6] := ⟨by decide, a.isLt, d.isLt, by decide, trivial⟩
  rw [he]; show decM w = _; rw [opM14 (top _ _ 3 67108864 hw hf rfl rfl rfl (by decide))]; unfold decM14
  have e0 : w % 65536 = 2 := low hw hf
  rw [if_neg (fun h => absurd (e0.symm.trans h) (by decide)),
    if_neg (fun h => absurd (e0.symm.trans h.1) (by decide)),
    if_pos e0,
    field d (digit _ _ 2 2097152 hw hf rfl rfl rfl (by decide)),
    field a (digit _ _ 1 65536 hw hf rfl rfl rfl (by decide))]

theorem hinfo (d : BitVec 5) (a : BitVec 5) : Statement (.hinfo d a) := by
  refine of_slot 3 rfl rfl ?_
  obtain ⟨w, h0⟩ : ∃ w, w = 939524099 + d.toNat * 2097152 + a.toNat * 65536 := ⟨_, rfl⟩
  have he : encode (.hinfo d a) = w := h0.symm
  have hw : w = pack [3, a.toNat, d.toNat, 14] [16, 5, 5, 6] := by rw [h0]; simp only [pack]; omega
  have hf : Fits [3, a.toNat, d.toNat, 14] [16, 5, 5, 6] := ⟨by decide, a.isLt, d.isLt, by decide, trivial⟩
  rw [he]; show decM w = _; rw [opM14 (top _ _ 3 67108864 hw hf rfl rfl rfl (by decide))]; unfold decM14
  have e0 : w % 65536 = 3 := low hw hf
  rw [if_neg (fun h => absurd (e0.symm.trans h) (by decide)),
    if_neg (fun h => absurd (e0.symm.trans h.1) (by decide)),
    if_neg (fun h => absurd (e0.symm.trans h) (by decide)),
    if_pos e0,
    field d (digit _ _ 2 2097152 hw hf rfl rfl rfl (by decide)),
    field a (digit _ _ 1 65536 hw hf rfl rfl rfl (by decide))]

theorem fence (sf : BitVec 3) (i : BitVec 16) : Statement (.fence sf i) := by
  refine of_slot 3 rfl rfl ?_
  obtain ⟨w, h0⟩ : ∃ w, w = 1006632960 + sf.toNat * 65536 + i.toNat := ⟨_, rfl⟩
  have he : encode (.fence sf i) = w := h0.symm
  have hw : w = pack [i.toNat, sf.toNat, 0, 15] [16, 3, 7, 6] := by rw [h0]; simp only [pack]; omega
  have hf : Fits [i.toNat, sf.toNat, 0, 15] [16, 3, 7, 6] := ⟨i.isLt, sf.isLt, by decide, by decide, trivial⟩
  rw [he]; show decM w = _; rw [opM15 (top _ _ 3 67108864 hw hf rfl rfl rfl (by decide))]; unfold decM15
  have e0 : w / 524288 % 128 = 0 := digit _ _ 2 524288 hw hf rfl rfl rfl (by decide)
  rw [if_pos e0,
    field sf (digit _ _ 1 65536 hw hf rfl rfl rfl (by decide)),
    field i (low hw hf)]

theorem xdfi (d : BitVec 5) (i : BitVec 16) : Statement (.xdfi d i) := by
  refine of_slot 3 rfl rfl ?_
  obtain ⟨w, h0⟩ : ∃ w, w = 1073741824 + d.toNat * 2097152 + i.toNat := ⟨_, rfl⟩
  have he : encode (.xdfi d i) = w := h0.symm
  have hw : w = pack [i.toNat, 0, d.toNat, 16] [16, 5, 5, 6] := by rw [h0]; simp only [pack]; omega
  have hf : Fits [i.toNat, 0, d.toNat, 16] [16, 5, 5, 6] := ⟨i.isLt, by decide, d.isLt, by decide, trivial⟩
  rw [he]; show decM w = _; rw [opM16 (top _ _ 3 67108864 hw hf rfl rfl rfl (by decide))]; unfold decM16
  have e0 : w / 65536 % 32 = 0 := digit _ _ 1 65536 hw hf rfl rfl rfl (by decide)
  rw [if_pos e0,
    field d (digit _ _ 2 2097152 hw hf rfl rfl rfl (by decide)),
    field i (low hw hf)]

theorem xdfw (a : BitVec 5) : Statement (.xdfw a) := by
  refine of_slot 3 rfl rfl ?_
  obtain ⟨w, h0⟩ : ∃ w, w = 1140850688 + a.toNat * 65536 := ⟨_, rfl⟩
  have he : encode (.xdfw a) = w := h0.symm
  have hw : w = pack [0, a.toNat, 0, 17] [16, 5, 5, 6] := by rw [h0]; simp only [pack]; omega
  have hf : Fits [0, a.toNat, 0, 17] [16, 5, 5, 6] := ⟨by decide, a.isLt, by decide, by decide, trivial⟩
  rw [he]; show decM w = _; rw [opM17 (top _ _ 3 67108864 hw hf rfl rfl rfl (by decide))]; unfold decM17
  have e0 : w % 65536 = 0 := low hw hf
  have e1 : w / 2097152 % 32 = 0 := digit _ _ 2 2097152 hw hf rfl rfl rfl (by decide)
  rw [if_pos ⟨e0, e1⟩,
    field a (digit _ _ 1 65536 hw hf rfl rfl rfl (by decide))]

theorem qpush (n : BitVec 5) (a : BitVec 5) : Statement (.qpush n a) := by
  refine of_slot 3 rfl rfl ?_
  obtain ⟨w, h0⟩ : ∃ w, w = 1207959552 + n.toNat * 2097152 + a.toNat * 65536 := ⟨_, rfl⟩
  have he : encode (.qpush n a) = w := h0.symm
  have hw : w = pack [0, a.toNat, n.toNat, 18] [16, 5, 5, 6] := by rw [h0]; simp only [pack]; omega
  have hf : Fits [0, a.toNat, n.toNat, 18] [16, 5, 5, 6] := ⟨by decide, a.isLt, n.isLt, by decide, trivial⟩
  rw [he]; show decM w = _; rw [opM18 (top _ _ 3 67108864 hw hf rfl rfl rfl (by decide))]; unfold decM18
  have e0 : w % 65536 = 0 := low hw hf
  rw [if_pos e0,
    field n (digit _ _ 2 2097152 hw hf rfl rfl rfl (by decide)),
    field a (digit _ _ 1 65536 hw hf rfl rfl rfl (by decide))]

theorem qpop (d : BitVec 5) (n : BitVec 5) : Statement (.qpop d n) := by
  refine of_slot 3 rfl rfl ?_
  obtain ⟨w, h0⟩ : ∃ w, w = 1275068416 + d.toNat * 2097152 + n.toNat * 65536 := ⟨_, rfl⟩
  have he : encode (.qpop d n) = w := h0.symm
  have hw : w = pack [0, n.toNat, d.toNat, 19] [16, 5, 5, 6] := by rw [h0]; simp only [pack]; omega
  have hf : Fits [0, n.toNat, d.toNat, 19] [16, 5, 5, 6] := ⟨by decide, n.isLt, d.isLt, by decide, trivial⟩
  rw [he]; show decM w = _; rw [opM19 (top _ _ 3 67108864 hw hf rfl rfl rfl (by decide))]; unfold decM19
  have e0 : w % 65536 = 0 := low hw hf
  rw [if_pos e0,
    field d (digit _ _ 2 2097152 hw hf rfl rfl rfl (by decide)),
    field n (digit _ _ 1 65536 hw hf rfl rfl rfl (by decide))]

theorem vqpush (n : BitVec 5) (a : BitVec 5) (k : BitVec 5) (f : BitVec 1) : Statement (.vqpush n a k f) := by
  refine of_slot 3 rfl rfl ?_
  obtain ⟨w, h0⟩ : ∃ w, w = 1342177280 + n.toNat * 2097152 + a.toNat * 65536 + k.toNat * 2048 + f.toNat * 8 := ⟨_, rfl⟩
  have he : encode (.vqpush n a k f) = w := h0.symm
  have hw : w = pack [0, f.toNat, 0, k.toNat, a.toNat, n.toNat, 20] [3, 1, 7, 5, 5, 5, 6] := by rw [h0]; simp only [pack]; omega
  have hf : Fits [0, f.toNat, 0, k.toNat, a.toNat, n.toNat, 20] [3, 1, 7, 5, 5, 5, 6] := ⟨by decide, f.isLt, by decide, k.isLt, a.isLt, n.isLt, by decide, trivial⟩
  rw [he]; show decM w = _; rw [opM20 (top _ _ 6 67108864 hw hf rfl rfl rfl (by decide))]; unfold decM20
  have e0 : w % 8 = 0 := low hw hf
  have e1 : w / 16 % 128 = 0 := digit _ _ 2 16 hw hf rfl rfl rfl (by decide)
  rw [if_pos ⟨e0, e1⟩,
    field n (digit _ _ 5 2097152 hw hf rfl rfl rfl (by decide)),
    field a (digit _ _ 4 65536 hw hf rfl rfl rfl (by decide)),
    field k (digit _ _ 3 2048 hw hf rfl rfl rfl (by decide)),
    field f (digit _ _ 1 8 hw hf rfl rfl rfl (by decide))]

theorem vqpop (d : BitVec 5) (n : BitVec 5) (k : BitVec 5) (f : BitVec 1) : Statement (.vqpop d n k f) := by
  refine of_slot 3 rfl rfl ?_
  obtain ⟨w, h0⟩ : ∃ w, w = 1409286144 + d.toNat * 2097152 + n.toNat * 65536 + k.toNat * 2048 + f.toNat * 8 := ⟨_, rfl⟩
  have he : encode (.vqpop d n k f) = w := h0.symm
  have hw : w = pack [0, f.toNat, 0, k.toNat, n.toNat, d.toNat, 21] [3, 1, 7, 5, 5, 5, 6] := by rw [h0]; simp only [pack]; omega
  have hf : Fits [0, f.toNat, 0, k.toNat, n.toNat, d.toNat, 21] [3, 1, 7, 5, 5, 5, 6] := ⟨by decide, f.isLt, by decide, k.isLt, n.isLt, d.isLt, by decide, trivial⟩
  rw [he]; show decM w = _; rw [opM21 (top _ _ 6 67108864 hw hf rfl rfl rfl (by decide))]; unfold decM21
  have e0 : w % 8 = 0 := low hw hf
  have e1 : w / 16 % 128 = 0 := digit _ _ 2 16 hw hf rfl rfl rfl (by decide)
  rw [if_pos ⟨e0, e1⟩,
    field d (digit _ _ 5 2097152 hw hf rfl rfl rfl (by decide)),
    field n (digit _ _ 4 65536 hw hf rfl rfl rfl (by decide)),
    field k (digit _ _ 3 2048 hw hf rfl rfl rfl (by decide)),
    field f (digit _ _ 1 8 hw hf rfl rfl rfl (by decide))]

theorem qstat (d : BitVec 5) (n : BitVec 5) : Statement (.qstat d n) := by
  refine of_slot 3 rfl rfl ?_
  obtain ⟨w, h0⟩ : ∃ w, w = 1476395008 + d.toNat * 2097152 + n.toNat * 65536 := ⟨_, rfl⟩
  have he : encode (.qstat d n) = w := h0.symm
  have hw : w = pack [0, n.toNat, d.toNat, 22] [16, 5, 5, 6] := by rw [h0]; simp only [pack]; omega
  have hf : Fits [0, n.toNat, d.toNat, 22] [16, 5, 5, 6] := ⟨by decide, n.isLt, d.isLt, by decide, trivial⟩
  rw [he]; show decM w = _; rw [opM22 (top _ _ 3 67108864 hw hf rfl rfl rfl (by decide))]; unfold decM22
  have e0 : w % 65536 = 0 := low hw hf
  rw [if_pos e0,
    field d (digit _ _ 2 2097152 hw hf rfl rfl rfl (by decide)),
    field n (digit _ _ 1 65536 hw hf rfl rfl rfl (by decide))]

theorem qcfg (n : BitVec 5) (a : BitVec 5) : Statement (.qcfg n a) := by
  refine of_slot 3 rfl rfl ?_
  obtain ⟨w, h0⟩ : ∃ w, w = 1543503872 + n.toNat * 2097152 + a.toNat * 65536 := ⟨_, rfl⟩
  have he : encode (.qcfg n a) = w := h0.symm
  have hw : w = pack [0, a.toNat, n.toNat, 23] [16, 5, 5, 6] := by rw [h0]; simp only [pack]; omega
  have hf : Fits [0, a.toNat, n.toNat, 23] [16, 5, 5, 6] := ⟨by decide, a.isLt, n.isLt, by decide, trivial⟩
  rw [he]; show decM w = _; rw [opM23 (top _ _ 3 67108864 hw hf rfl rfl rfl (by decide))]; unfold decM23
  have e0 : w % 65536 = 0 := low hw hf
  rw [if_pos e0,
    field n (digit _ _ 2 2097152 hw hf rfl rfl rfl (by decide)),
    field a (digit _ _ 1 65536 hw hf rfl rfl rfl (by decide))]

theorem strq (n : BitVec 5) (h : BitVec 5) (b : BitVec 5) (v : BitVec 1) (z : BitVec 2) : Statement (.strq n h b v z) := by
  refine of_slot 3 rfl rfl ?_
  obtain ⟨w, h0⟩ : ∃ w, w = 1610612736 + n.toNat * 2097152 + h.toNat * 65536 + b.toNat * 2048 + v.toNat * 4 + z.toNat := ⟨_, rfl⟩
  have he : encode (.strq n h b v z) = w := h0.symm
  have hw : w = pack [z.toNat, v.toNat, 0, b.toNat, h.toNat, n.toNat, 24] [2, 1, 8, 5, 5, 5, 6] := by rw [h0]; simp only [pack]; omega
  have hf : Fits [z.toNat, v.toNat, 0, b.toNat, h.toNat, n.toNat, 24] [2, 1, 8, 5, 5, 5, 6] := ⟨z.isLt, v.isLt, by decide, b.isLt, h.isLt, n.isLt, by decide, trivial⟩
  rw [he]; show decM w = _; rw [opM24 (top _ _ 6 67108864 hw hf rfl rfl rfl (by decide))]; unfold decM24
  have e0 : w / 8 % 256 = 0 := digit _ _ 2 8 hw hf rfl rfl rfl (by decide)
  rw [if_pos e0,
    field n (digit _ _ 5 2097152 hw hf rfl rfl rfl (by decide)),
    field h (digit _ _ 4 65536 hw hf rfl rfl rfl (by decide)),
    field b (digit _ _ 3 2048 hw hf rfl rfl rfl (by decide)),
    field v (digit _ _ 1 4 hw hf rfl rfl rfl (by decide)),
    field z (low hw hf)]

theorem qrq (m : BitVec 5) (n : BitVec 5) : Statement (.qrq m n) := by
  refine of_slot 3 rfl rfl ?_
  obtain ⟨w, h0⟩ : ∃ w, w = 1677721600 + m.toNat * 2097152 + n.toNat * 65536 := ⟨_, rfl⟩
  have he : encode (.qrq m n) = w := h0.symm
  have hw : w = pack [0, n.toNat, m.toNat, 25] [16, 5, 5, 6] := by rw [h0]; simp only [pack]; omega
  have hf : Fits [0, n.toNat, m.toNat, 25] [16, 5, 5, 6] := ⟨by decide, n.isLt, m.isLt, by decide, trivial⟩
  rw [he]; show decM w = _; rw [opM25 (top _ _ 3 67108864 hw hf rfl rfl rfl (by decide))]; unfold decM25
  have e0 : w % 65536 = 0 := low hw hf
  rw [if_pos e0,
    field m (digit _ _ 2 2097152 hw hf rfl rfl rfl (by decide)),
    field n (digit _ _ 1 65536 hw hf rfl rfl rfl (by decide))]

theorem cpy (d : BitVec 5) (a : BitVec 5) (b : BitVec 5) (n : BitVec 2) : Statement (.cpy d a b n) := by
  refine of_slot 3 rfl rfl ?_
  obtain ⟨w, h0⟩ : ∃ w, w = 1744830464 + d.toNat * 2097152 + a.toNat * 65536 + b.toNat * 2048 + n.toNat := ⟨_, rfl⟩
  have he : encode (.cpy d a b n) = w := h0.symm
  have hw : w = pack [n.toNat, 0, b.toNat, a.toNat, d.toNat, 26] [2, 9, 5, 5, 5, 6] := by rw [h0]; simp only [pack]; omega
  have hf : Fits [n.toNat, 0, b.toNat, a.toNat, d.toNat, 26] [2, 9, 5, 5, 5, 6] := ⟨n.isLt, by decide, b.isLt, a.isLt, d.isLt, by decide, trivial⟩
  rw [he]; show decM w = _; rw [opM26 (top _ _ 5 67108864 hw hf rfl rfl rfl (by decide))]; unfold decM26
  have e0 : w / 4 % 512 = 0 := digit _ _ 1 4 hw hf rfl rfl rfl (by decide)
  rw [if_pos e0,
    field d (digit _ _ 4 2097152 hw hf rfl rfl rfl (by decide)),
    field a (digit _ _ 3 65536 hw hf rfl rfl rfl (by decide)),
    field b (digit _ _ 2 2048 hw hf rfl rfl rfl (by decide)),
    field n (low hw hf)]

theorem cpya (d : BitVec 5) (a : BitVec 5) (b : BitVec 5) (n : BitVec 2) : Statement (.cpya d a b n) := by
  refine of_slot 3 rfl rfl ?_
  obtain ⟨w, h0⟩ : ∃ w, w = 1811939328 + d.toNat * 2097152 + a.toNat * 65536 + b.toNat * 2048 + n.toNat := ⟨_, rfl⟩
  have he : encode (.cpya d a b n) = w := h0.symm
  have hw : w = pack [n.toNat, 0, b.toNat, a.toNat, d.toNat, 27] [2, 9, 5, 5, 5, 6] := by rw [h0]; simp only [pack]; omega
  have hf : Fits [n.toNat, 0, b.toNat, a.toNat, d.toNat, 27] [2, 9, 5, 5, 5, 6] := ⟨n.isLt, by decide, b.isLt, a.isLt, d.isLt, by decide, trivial⟩
  rw [he]; show decM w = _; rw [opM27 (top _ _ 5 67108864 hw hf rfl rfl rfl (by decide))]; unfold decM27
  have e0 : w / 4 % 512 = 0 := digit _ _ 1 4 hw hf rfl rfl rfl (by decide)
  rw [if_pos e0,
    field d (digit _ _ 4 2097152 hw hf rfl rfl rfl (by decide)),
    field a (digit _ _ 3 65536 hw hf rfl rfl rfl (by decide)),
    field b (digit _ _ 2 2048 hw hf rfl rfl rfl (by decide)),
    field n (low hw hf)]

theorem tlwait (a : BitVec 5) (n : BitVec 5) : Statement (.tlwait a n) := by
  refine of_slot 3 rfl rfl ?_
  obtain ⟨w, h0⟩ : ∃ w, w = 1879048192 + a.toNat * 65536 + n.toNat * 2048 := ⟨_, rfl⟩
  have he : encode (.tlwait a n) = w := h0.symm
  have hw : w = pack [0, n.toNat, a.toNat, 0, 28] [11, 5, 5, 5, 6] := by rw [h0]; simp only [pack]; omega
  have hf : Fits [0, n.toNat, a.toNat, 0, 28] [11, 5, 5, 5, 6] := ⟨by decide, n.isLt, a.isLt, by decide, by decide, trivial⟩
  rw [he]; show decM w = _; rw [opM28 (top _ _ 4 67108864 hw hf rfl rfl rfl (by decide))]; unfold decM28
  have e0 : w % 2048 = 0 := low hw hf
  have e1 : w / 2097152 % 32 = 0 := digit _ _ 3 2097152 hw hf rfl rfl rfl (by decide)
  rw [if_pos ⟨e0, e1⟩,
    field a (digit _ _ 2 65536 hw hf rfl rfl rfl (by decide)),
    field n (digit _ _ 1 2048 hw hf rfl rfl rfl (by decide))]

theorem tlrd (d : BitVec 5) (n : BitVec 5) : Statement (.tlrd d n) := by
  refine of_slot 3 rfl rfl ?_
  obtain ⟨w, h0⟩ : ∃ w, w = 1946157056 + d.toNat * 2097152 + n.toNat * 2048 := ⟨_, rfl⟩
  have he : encode (.tlrd d n) = w := h0.symm
  have hw : w = pack [0, n.toNat, 0, d.toNat, 29] [11, 5, 5, 5, 6] := by rw [h0]; simp only [pack]; omega
  have hf : Fits [0, n.toNat, 0, d.toNat, 29] [11, 5, 5, 5, 6] := ⟨by decide, n.isLt, by decide, d.isLt, by decide, trivial⟩
  rw [he]; show decM w = _; rw [opM29 (top _ _ 4 67108864 hw hf rfl rfl rfl (by decide))]; unfold decM29
  have e0 : w % 2048 = 0 := low hw hf
  have e1 : w / 65536 % 32 = 0 := digit _ _ 2 65536 hw hf rfl rfl rfl (by decide)
  rw [if_pos ⟨e0, e1⟩,
    field d (digit _ _ 3 2097152 hw hf rfl rfl rfl (by decide)),
    field n (digit _ _ 1 2048 hw hf rfl rfl rfl (by decide))]

theorem fladdArr (a : BitVec 5) (sf : BitVec 3) : Statement (.fladdArr a sf) := by
  refine of_slot 3 rfl rfl ?_
  obtain ⟨w, h0⟩ : ∃ w, w = 2013265920 + a.toNat * 65536 + sf.toNat * 16 := ⟨_, rfl⟩
  have he : encode (.fladdArr a sf) = w := h0.symm
  have hw : w = pack [0, sf.toNat, 0, a.toNat, 0, 30] [4, 3, 9, 5, 5, 6] := by rw [h0]; simp only [pack]; omega
  have hf : Fits [0, sf.toNat, 0, a.toNat, 0, 30] [4, 3, 9, 5, 5, 6] := ⟨by decide, sf.isLt, by decide, a.isLt, by decide, by decide, trivial⟩
  rw [he]; show decM w = _; rw [opM30 (top _ _ 5 67108864 hw hf rfl rfl rfl (by decide))]; unfold decM30
  have e0 : w % 16 = 0 := low hw hf
  have e1 : w / 128 % 512 = 0 := digit _ _ 2 128 hw hf rfl rfl rfl (by decide)
  have e2 : w / 2097152 % 32 = 0 := digit _ _ 4 2097152 hw hf rfl rfl rfl (by decide)
  rw [if_pos ⟨e0, e1, e2⟩,
    field a (digit _ _ 3 65536 hw hf rfl rfl rfl (by decide)),
    field sf (digit _ _ 1 16 hw hf rfl rfl rfl (by decide))]

theorem fladdDrop (a : BitVec 5) (sf : BitVec 3) : Statement (.fladdDrop a sf) := by
  refine of_slot 3 rfl rfl ?_
  obtain ⟨w, h0⟩ : ∃ w, w = 2013265921 + a.toNat * 65536 + sf.toNat * 16 := ⟨_, rfl⟩
  have he : encode (.fladdDrop a sf) = w := h0.symm
  have hw : w = pack [1, sf.toNat, 0, a.toNat, 0, 30] [4, 3, 9, 5, 5, 6] := by rw [h0]; simp only [pack]; omega
  have hf : Fits [1, sf.toNat, 0, a.toNat, 0, 30] [4, 3, 9, 5, 5, 6] := ⟨by decide, sf.isLt, by decide, a.isLt, by decide, by decide, trivial⟩
  rw [he]; show decM w = _; rw [opM30 (top _ _ 5 67108864 hw hf rfl rfl rfl (by decide))]; unfold decM30
  have e0 : w % 16 = 1 := low hw hf
  have e1 : w / 128 % 512 = 0 := digit _ _ 2 128 hw hf rfl rfl rfl (by decide)
  have e2 : w / 2097152 % 32 = 0 := digit _ _ 4 2097152 hw hf rfl rfl rfl (by decide)
  rw [if_neg (fun h => absurd (e0.symm.trans h.1) (by decide)),
    if_pos ⟨e0, e1, e2⟩,
    field a (digit _ _ 3 65536 hw hf rfl rfl rfl (by decide)),
    field sf (digit _ _ 1 16 hw hf rfl rfl rfl (by decide))]

theorem fladdAdd (a : BitVec 5) (b : BitVec 5) (sf : BitVec 3) : Statement (.fladdAdd a b sf) := by
  refine of_slot 3 rfl rfl ?_
  obtain ⟨w, h0⟩ : ∃ w, w = 2013265922 + a.toNat * 65536 + b.toNat * 2048 + sf.toNat * 16 := ⟨_, rfl⟩
  have he : encode (.fladdAdd a b sf) = w := h0.symm
  have hw : w = pack [2, sf.toNat, 0, b.toNat, a.toNat, 0, 30] [4, 3, 4, 5, 5, 5, 6] := by rw [h0]; simp only [pack]; omega
  have hf : Fits [2, sf.toNat, 0, b.toNat, a.toNat, 0, 30] [4, 3, 4, 5, 5, 5, 6] := ⟨by decide, sf.isLt, by decide, b.isLt, a.isLt, by decide, by decide, trivial⟩
  rw [he]; show decM w = _; rw [opM30 (top _ _ 6 67108864 hw hf rfl rfl rfl (by decide))]; unfold decM30
  have e0 : w % 16 = 2 := low hw hf
  have e1 : w / 128 % 16 = 0 := digit _ _ 2 128 hw hf rfl rfl rfl (by decide)
  have e2 : w / 2097152 % 32 = 0 := digit _ _ 5 2097152 hw hf rfl rfl rfl (by decide)
  rw [if_neg (fun h => absurd (e0.symm.trans h.1) (by decide)),
    if_neg (fun h => absurd (e0.symm.trans h.1) (by decide)),
    if_pos ⟨e0, e1, e2⟩,
    field a (digit _ _ 4 65536 hw hf rfl rfl rfl (by decide)),
    field b (digit _ _ 3 2048 hw hf rfl rfl rfl (by decide)),
    field sf (digit _ _ 1 16 hw hf rfl rfl rfl (by decide))]

theorem flset (d : BitVec 5) (a : BitVec 5) (b : BitVec 5) (sf : BitVec 3) (n : BitVec 6) : Statement (.flset d a b sf n) := by
  refine of_slot 3 rfl rfl ?_
  obtain ⟨w, h0⟩ : ∃ w, w = 2080374784 + d.toNat * 2097152 + a.toNat * 65536 + b.toNat * 2048 + sf.toNat * 64 + n.toNat := ⟨_, rfl⟩
  have he : encode (.flset d a b sf n) = w := h0.symm
  have hw : w = pack [n.toNat, sf.toNat, 0, b.toNat, a.toNat, d.toNat, 31] [6, 3, 2, 5, 5, 5, 6] := by rw [h0]; simp only [pack]; omega
  have hf : Fits [n.toNat, sf.toNat, 0, b.toNat, a.toNat, d.toNat, 31] [6, 3, 2, 5, 5, 5, 6] := ⟨n.isLt, sf.isLt, by decide, b.isLt, a.isLt, d.isLt, by decide, trivial⟩
  rw [he]; show decM w = _; rw [opM31 (top _ _ 6 67108864 hw hf rfl rfl rfl (by decide))]; unfold decM31
  have e0 : w / 512 % 4 = 0 := digit _ _ 2 512 hw hf rfl rfl rfl (by decide)
  rw [if_pos e0,
    field d (digit _ _ 5 2097152 hw hf rfl rfl rfl (by decide)),
    field a (digit _ _ 4 65536 hw hf rfl rfl rfl (by decide)),
    field b (digit _ _ 3 2048 hw hf rfl rfl rfl (by decide)),
    field sf (digit _ _ 1 64 hw hf rfl rfl rfl (by decide)),
    field n (low hw hf)]

theorem flwaitEq (d : BitVec 5) (a : BitVec 5) (b : BitVec 5) (sf : BitVec 3) : Statement (.flwaitEq d a b sf) := by
  refine of_slot 3 rfl rfl ?_
  obtain ⟨w, h0⟩ : ∃ w, w = 2147483648 + d.toNat * 2097152 + a.toNat * 65536 + b.toNat * 2048 + sf.toNat * 16 := ⟨_, rfl⟩
  have he : encode (.flwaitEq d a b sf) = w := h0.symm
  have hw : w = pack [0, sf.toNat, 0, b.toNat, a.toNat, d.toNat, 32] [4, 3, 4, 5, 5, 5, 6] := by rw [h0]; simp only [pack]; omega
  have hf : Fits [0, sf.toNat, 0, b.toNat, a.toNat, d.toNat, 32] [4, 3, 4, 5, 5, 5, 6] := ⟨by decide, sf.isLt, by decide, b.isLt, a.isLt, d.isLt, by decide, trivial⟩
  rw [he]; show decM w = _; rw [opM32 (top _ _ 6 67108864 hw hf rfl rfl rfl (by decide))]; unfold decM32
  have e0 : w % 16 = 0 := low hw hf
  have e1 : w / 128 % 16 = 0 := digit _ _ 2 128 hw hf rfl rfl rfl (by decide)
  rw [if_pos ⟨e0, e1⟩,
    field d (digit _ _ 5 2097152 hw hf rfl rfl rfl (by decide)),
    field a (digit _ _ 4 65536 hw hf rfl rfl rfl (by decide)),
    field b (digit _ _ 3 2048 hw hf rfl rfl rfl (by decide)),
    field sf (digit _ _ 1 16 hw hf rfl rfl rfl (by decide))]

theorem flwaitGe (d : BitVec 5) (a : BitVec 5) (b : BitVec 5) (sf : BitVec 3) : Statement (.flwaitGe d a b sf) := by
  refine of_slot 3 rfl rfl ?_
  obtain ⟨w, h0⟩ : ∃ w, w = 2147483649 + d.toNat * 2097152 + a.toNat * 65536 + b.toNat * 2048 + sf.toNat * 16 := ⟨_, rfl⟩
  have he : encode (.flwaitGe d a b sf) = w := h0.symm
  have hw : w = pack [1, sf.toNat, 0, b.toNat, a.toNat, d.toNat, 32] [4, 3, 4, 5, 5, 5, 6] := by rw [h0]; simp only [pack]; omega
  have hf : Fits [1, sf.toNat, 0, b.toNat, a.toNat, d.toNat, 32] [4, 3, 4, 5, 5, 5, 6] := ⟨by decide, sf.isLt, by decide, b.isLt, a.isLt, d.isLt, by decide, trivial⟩
  rw [he]; show decM w = _; rw [opM32 (top _ _ 6 67108864 hw hf rfl rfl rfl (by decide))]; unfold decM32
  have e0 : w % 16 = 1 := low hw hf
  have e1 : w / 128 % 16 = 0 := digit _ _ 2 128 hw hf rfl rfl rfl (by decide)
  rw [if_neg (fun h => absurd (e0.symm.trans h.1) (by decide)),
    if_pos ⟨e0, e1⟩,
    field d (digit _ _ 5 2097152 hw hf rfl rfl rfl (by decide)),
    field a (digit _ _ 4 65536 hw hf rfl rfl rfl (by decide)),
    field b (digit _ _ 3 2048 hw hf rfl rfl rfl (by decide)),
    field sf (digit _ _ 1 16 hw hf rfl rfl rfl (by decide))]

theorem flwaitBar (d : BitVec 5) (a : BitVec 5) (sf : BitVec 3) : Statement (.flwaitBar d a sf) := by
  refine of_slot 3 rfl rfl ?_
  obtain ⟨w, h0⟩ : ∃ w, w = 2147483650 + d.toNat * 2097152 + a.toNat * 65536 + sf.toNat * 16 := ⟨_, rfl⟩
  have he : encode (.flwaitBar d a sf) = w := h0.symm
  have hw : w = pack [2, sf.toNat, 0, a.toNat, d.toNat, 32] [4, 3, 9, 5, 5, 6] := by rw [h0]; simp only [pack]; omega
  have hf : Fits [2, sf.toNat, 0, a.toNat, d.toNat, 32] [4, 3, 9, 5, 5, 6] := ⟨by decide, sf.isLt, by decide, a.isLt, d.isLt, by decide, trivial⟩
  rw [he]; show decM w = _; rw [opM32 (top _ _ 5 67108864 hw hf rfl rfl rfl (by decide))]; unfold decM32
  have e0 : w % 16 = 2 := low hw hf
  have e1 : w / 128 % 512 = 0 := digit _ _ 2 128 hw hf rfl rfl rfl (by decide)
  rw [if_neg (fun h => absurd (e0.symm.trans h.1) (by decide)),
    if_neg (fun h => absurd (e0.symm.trans h.1) (by decide)),
    if_pos ⟨e0, e1⟩,
    field d (digit _ _ 4 2097152 hw hf rfl rfl rfl (by decide)),
    field a (digit _ _ 3 65536 hw hf rfl rfl rfl (by decide)),
    field sf (digit _ _ 1 16 hw hf rfl rfl rfl (by decide))]

theorem nbpv (d : BitVec 5) (a : BitVec 5) (b : BitVec 5) (sf : BitVec 3) (k : BitVec 3) : Statement (.nbpv d a b sf k) := by
  refine of_slot 3 rfl rfl ?_
  obtain ⟨w, h0⟩ : ∃ w, w = 2214592512 + d.toNat * 2097152 + a.toNat * 65536 + b.toNat * 2048 + sf.toNat * 16 + k.toNat := ⟨_, rfl⟩
  have he : encode (.nbpv d a b sf k) = w := h0.symm
  have hw : w = pack [k.toNat, 0, sf.toNat, 0, b.toNat, a.toNat, d.toNat, 33] [3, 1, 3, 4, 5, 5, 5, 6] := by rw [h0]; simp only [pack]; omega
  have hf : Fits [k.toNat, 0, sf.toNat, 0, b.toNat, a.toNat, d.toNat, 33] [3, 1, 3, 4, 5, 5, 5, 6] := ⟨k.isLt, by decide, sf.isLt, by decide, b.isLt, a.isLt, d.isLt, by decide, trivial⟩
  rw [he]; show decM w = _; rw [opM33 (top _ _ 7 67108864 hw hf rfl rfl rfl (by decide))]; unfold decM33
  have e0 : w / 8 % 2 = 0 := digit _ _ 1 8 hw hf rfl rfl rfl (by decide)
  have e1 : w / 128 % 16 = 0 := digit _ _ 3 128 hw hf rfl rfl rfl (by decide)
  rw [if_pos ⟨e0, e1⟩,
    field d (digit _ _ 6 2097152 hw hf rfl rfl rfl (by decide)),
    field a (digit _ _ 5 65536 hw hf rfl rfl rfl (by decide)),
    field b (digit _ _ 4 2048 hw hf rfl rfl rfl (by decide)),
    field sf (digit _ _ 2 16 hw hf rfl rfl rfl (by decide)),
    field k (low hw hf)]

theorem nbrd (d : BitVec 5) (a : BitVec 5) (sf : BitVec 3) : Statement (.nbrd d a sf) := by
  refine of_slot 3 rfl rfl ?_
  obtain ⟨w, h0⟩ : ∃ w, w = 2281701376 + d.toNat * 2097152 + a.toNat * 65536 + sf.toNat * 16 := ⟨_, rfl⟩
  have he : encode (.nbrd d a sf) = w := h0.symm
  have hw : w = pack [0, sf.toNat, 0, a.toNat, d.toNat, 34] [4, 3, 9, 5, 5, 6] := by rw [h0]; simp only [pack]; omega
  have hf : Fits [0, sf.toNat, 0, a.toNat, d.toNat, 34] [4, 3, 9, 5, 5, 6] := ⟨by decide, sf.isLt, by decide, a.isLt, d.isLt, by decide, trivial⟩
  rw [he]; show decM w = _; rw [opM34 (top _ _ 5 67108864 hw hf rfl rfl rfl (by decide))]; unfold decM34
  have e0 : w % 16 = 0 := low hw hf
  have e1 : w / 128 % 512 = 0 := digit _ _ 2 128 hw hf rfl rfl rfl (by decide)
  rw [if_pos ⟨e0, e1⟩,
    field d (digit _ _ 4 2097152 hw hf rfl rfl rfl (by decide)),
    field a (digit _ _ 3 65536 hw hf rfl rfl rfl (by decide)),
    field sf (digit _ _ 1 16 hw hf rfl rfl rfl (by decide))]

theorem nbrdSt (d : BitVec 5) (a : BitVec 5) (sf : BitVec 3) : Statement (.nbrdSt d a sf) := by
  refine of_slot 3 rfl rfl ?_
  obtain ⟨w, h0⟩ : ∃ w, w = 2281701377 + d.toNat * 2097152 + a.toNat * 65536 + sf.toNat * 16 := ⟨_, rfl⟩
  have he : encode (.nbrdSt d a sf) = w := h0.symm
  have hw : w = pack [1, sf.toNat, 0, a.toNat, d.toNat, 34] [4, 3, 9, 5, 5, 6] := by rw [h0]; simp only [pack]; omega
  have hf : Fits [1, sf.toNat, 0, a.toNat, d.toNat, 34] [4, 3, 9, 5, 5, 6] := ⟨by decide, sf.isLt, by decide, a.isLt, d.isLt, by decide, trivial⟩
  rw [he]; show decM w = _; rw [opM34 (top _ _ 5 67108864 hw hf rfl rfl rfl (by decide))]; unfold decM34
  have e0 : w % 16 = 1 := low hw hf
  have e1 : w / 128 % 512 = 0 := digit _ _ 2 128 hw hf rfl rfl rfl (by decide)
  rw [if_neg (fun h => absurd (e0.symm.trans h.1) (by decide)),
    if_pos ⟨e0, e1⟩,
    field d (digit _ _ 4 2097152 hw hf rfl rfl rfl (by decide)),
    field a (digit _ _ 3 65536 hw hf rfl rfl rfl (by decide)),
    field sf (digit _ _ 1 16 hw hf rfl rfl rfl (by decide))]

theorem nbrdMask (k : BitVec 5) (a : BitVec 5) (sf : BitVec 3) : Statement (.nbrdMask k a sf) := by
  refine of_slot 3 rfl rfl ?_
  obtain ⟨w, h0⟩ : ∃ w, w = 2281701378 + k.toNat * 2097152 + a.toNat * 65536 + sf.toNat * 16 := ⟨_, rfl⟩
  have he : encode (.nbrdMask k a sf) = w := h0.symm
  have hw : w = pack [2, sf.toNat, 0, a.toNat, k.toNat, 34] [4, 3, 9, 5, 5, 6] := by rw [h0]; simp only [pack]; omega
  have hf : Fits [2, sf.toNat, 0, a.toNat, k.toNat, 34] [4, 3, 9, 5, 5, 6] := ⟨by decide, sf.isLt, by decide, a.isLt, k.isLt, by decide, trivial⟩
  rw [he]; show decM w = _; rw [opM34 (top _ _ 5 67108864 hw hf rfl rfl rfl (by decide))]; unfold decM34
  have e0 : w % 16 = 2 := low hw hf
  have e1 : w / 128 % 512 = 0 := digit _ _ 2 128 hw hf rfl rfl rfl (by decide)
  rw [if_neg (fun h => absurd (e0.symm.trans h.1) (by decide)),
    if_neg (fun h => absurd (e0.symm.trans h.1) (by decide)),
    if_pos ⟨e0, e1⟩,
    field k (digit _ _ 4 2097152 hw hf rfl rfl rfl (by decide)),
    field a (digit _ _ 3 65536 hw hf rfl rfl rfl (by decide)),
    field sf (digit _ _ 1 16 hw hf rfl rfl rfl (by decide))]

theorem nbrdVm (d : BitVec 5) (k : BitVec 5) (q : BitVec 2) : Statement (.nbrdVm d k q) := by
  refine of_slot 3 rfl rfl ?_
  have h_d := d.isLt; have h_k := k.isLt; have h_q := q.isLt
  obtain ⟨w, hw⟩ : ∃ w, w = 2281701379 + d.toNat * 2097152 + k.toNat * 65536 + q.toNat * 4 := ⟨_, rfl⟩
  have he : encode (.nbrdVm d k q) = w := hw.symm
  rw [he]; show decM w = _; rw [opM34 (by omega)]; unfold decM34
  have e0 : w % 4 = 3 := by omega
  have e1 : w / 16 % 4096 = 0 := by omega
  rw [if_neg (by omega),
    if_neg (by omega),
    if_neg (by omega),
    if_pos ⟨e0, e1⟩,
    field d (by omega),
    field k (by omega),
    field q (by omega)]

theorem nbclr (a : BitVec 5) : Statement (.nbclr a) := by
  refine of_slot 3 rfl rfl ?_
  obtain ⟨w, h0⟩ : ∃ w, w = 2348810240 + a.toNat * 65536 := ⟨_, rfl⟩
  have he : encode (.nbclr a) = w := h0.symm
  have hw : w = pack [0, a.toNat, 0, 35] [16, 5, 5, 6] := by rw [h0]; simp only [pack]; omega
  have hf : Fits [0, a.toNat, 0, 35] [16, 5, 5, 6] := ⟨by decide, a.isLt, by decide, by decide, trivial⟩
  rw [he]; show decM w = _; rw [opM35 (top _ _ 3 67108864 hw hf rfl rfl rfl (by decide))]; unfold decM35
  have e0 : w % 65536 = 0 := low hw hf
  have e1 : w / 2097152 % 32 = 0 := digit _ _ 2 2097152 hw hf rfl rfl rfl (by decide)
  rw [if_pos ⟨e0, e1⟩,
    field a (digit _ _ 1 65536 hw hf rfl rfl rfl (by decide))]

theorem istore (a : BitVec 5) (b : BitVec 5) : Statement (.istore a b) := by
  refine of_slot 3 rfl rfl ?_
  obtain ⟨w, h0⟩ : ∃ w, w = 2415919104 + a.toNat * 65536 + b.toNat * 2048 := ⟨_, rfl⟩
  have he : encode (.istore a b) = w := h0.symm
  have hw : w = pack [0, b.toNat, a.toNat, 0, 36] [11, 5, 5, 5, 6] := by rw [h0]; simp only [pack]; omega
  have hf : Fits [0, b.toNat, a.toNat, 0, 36] [11, 5, 5, 5, 6] := ⟨by decide, b.isLt, a.isLt, by decide, by decide, trivial⟩
  rw [he]; show decM w = _; rw [opM36 (top _ _ 4 67108864 hw hf rfl rfl rfl (by decide))]; unfold decM36
  have e0 : w % 2048 = 0 := low hw hf
  have e1 : w / 2097152 % 32 = 0 := digit _ _ 3 2097152 hw hf rfl rfl rfl (by decide)
  rw [if_pos ⟨e0, e1⟩,
    field a (digit _ _ 2 65536 hw hf rfl rfl rfl (by decide)),
    field b (digit _ _ 1 2048 hw hf rfl rfl rfl (by decide))]

theorem ifence : Statement .ifence := by
  refine of_slot 3 rfl rfl ?_
  obtain ⟨w, h0⟩ : ∃ w, w = 2483027968 := ⟨_, rfl⟩
  have he : encode .ifence = w := h0.symm
  have hw : w = pack [0, 37] [26, 6] := by rw [h0]; rfl
  have hf : Fits [0, 37] [26, 6] := ⟨by decide, by decide, trivial⟩
  rw [he]; show decM w = _; rw [opM37 (top _ _ 1 67108864 hw hf rfl rfl rfl (by decide))]; unfold decM37
  have e0 : w % 67108864 = 0 := low hw hf
  rw [if_pos e0]

theorem collAr (d : BitVec 5) (a : BitVec 5) (b : BitVec 5) (w : BitVec 1) (o : BitVec 2) : Statement (.collAr d a b w o) := by
  refine of_slot 3 rfl rfl ?_
  obtain ⟨u, h0⟩ : ∃ u, u = 2550136832 + d.toNat * 2097152 + a.toNat * 65536 + b.toNat * 2048 + w.toNat * 32 + o.toNat * 8 := ⟨_, rfl⟩
  have he : encode (.collAr d a b w o) = u := h0.symm
  have hw : u = pack [0, o.toNat, w.toNat, 0, b.toNat, a.toNat, d.toNat, 38] [3, 2, 1, 5, 5, 5, 5, 6] := by rw [h0]; simp only [pack]; omega
  have hf : Fits [0, o.toNat, w.toNat, 0, b.toNat, a.toNat, d.toNat, 38] [3, 2, 1, 5, 5, 5, 5, 6] := ⟨by decide, o.isLt, w.isLt, by decide, b.isLt, a.isLt, d.isLt, by decide, trivial⟩
  rw [he]; show decM u = _; rw [opM38 (top _ _ 7 67108864 hw hf rfl rfl rfl (by decide))]; unfold decM38
  have e0 : u % 8 = 0 := low hw hf
  have e1 : u / 64 % 32 = 0 := digit _ _ 3 64 hw hf rfl rfl rfl (by decide)
  rw [if_pos ⟨e0, e1⟩,
    field d (digit _ _ 6 2097152 hw hf rfl rfl rfl (by decide)),
    field a (digit _ _ 5 65536 hw hf rfl rfl rfl (by decide)),
    field b (digit _ _ 4 2048 hw hf rfl rfl rfl (by decide)),
    field w (digit _ _ 2 32 hw hf rfl rfl rfl (by decide)),
    field o (digit _ _ 1 8 hw hf rfl rfl rfl (by decide))]

theorem collRs (d : BitVec 5) (a : BitVec 5) (b : BitVec 5) (w : BitVec 1) (o : BitVec 2) : Statement (.collRs d a b w o) := by
  refine of_slot 3 rfl rfl ?_
  obtain ⟨u, h0⟩ : ∃ u, u = 2550136833 + d.toNat * 2097152 + a.toNat * 65536 + b.toNat * 2048 + w.toNat * 32 + o.toNat * 8 := ⟨_, rfl⟩
  have he : encode (.collRs d a b w o) = u := h0.symm
  have hw : u = pack [1, o.toNat, w.toNat, 0, b.toNat, a.toNat, d.toNat, 38] [3, 2, 1, 5, 5, 5, 5, 6] := by rw [h0]; simp only [pack]; omega
  have hf : Fits [1, o.toNat, w.toNat, 0, b.toNat, a.toNat, d.toNat, 38] [3, 2, 1, 5, 5, 5, 5, 6] := ⟨by decide, o.isLt, w.isLt, by decide, b.isLt, a.isLt, d.isLt, by decide, trivial⟩
  rw [he]; show decM u = _; rw [opM38 (top _ _ 7 67108864 hw hf rfl rfl rfl (by decide))]; unfold decM38
  have e0 : u % 8 = 1 := low hw hf
  have e1 : u / 64 % 32 = 0 := digit _ _ 3 64 hw hf rfl rfl rfl (by decide)
  rw [if_neg (fun h => absurd (e0.symm.trans h.1) (by decide)),
    if_pos ⟨e0, e1⟩,
    field d (digit _ _ 6 2097152 hw hf rfl rfl rfl (by decide)),
    field a (digit _ _ 5 65536 hw hf rfl rfl rfl (by decide)),
    field b (digit _ _ 4 2048 hw hf rfl rfl rfl (by decide)),
    field w (digit _ _ 2 32 hw hf rfl rfl rfl (by decide)),
    field o (digit _ _ 1 8 hw hf rfl rfl rfl (by decide))]

theorem collAg (d : BitVec 5) (a : BitVec 5) (b : BitVec 5) : Statement (.collAg d a b) := by
  refine of_slot 3 rfl rfl ?_
  obtain ⟨w, h0⟩ : ∃ w, w = 2550136834 + d.toNat * 2097152 + a.toNat * 65536 + b.toNat * 2048 := ⟨_, rfl⟩
  have h_d := d.isLt; have h_a := a.isLt; have h_b := b.isLt
  have he : encode (.collAg d a b) = w := h0.symm
  have hw : w = pack [2, 0, b.toNat, a.toNat, d.toNat, 38] [3, 8, 5, 5, 5, 6] := by rw [h0]; simp only [pack]; omega
  have hf : Fits [2, 0, b.toNat, a.toNat, d.toNat, 38] [3, 8, 5, 5, 5, 6] := ⟨by decide, by decide, b.isLt, a.isLt, d.isLt, by decide, trivial⟩
  rw [he]; show decM w = _; rw [opM38 (top _ _ 5 67108864 hw hf rfl rfl rfl (by decide))]; unfold decM38
  have e0 : w % 8 = 2 := low hw hf
  have e1 : w % 2048 = 2 := by rw [h0]; omega
  rw [if_neg (fun h => absurd (e0.symm.trans h.1) (by decide)),
    if_neg (fun h => absurd (e0.symm.trans h.1) (by decide)),
    if_pos e1,
    field d (digit _ _ 4 2097152 hw hf rfl rfl rfl (by decide)),
    field a (digit _ _ 3 65536 hw hf rfl rfl rfl (by decide)),
    field b (digit _ _ 2 2048 hw hf rfl rfl rfl (by decide))]

theorem collBc (d : BitVec 5) (a : BitVec 5) (b : BitVec 5) : Statement (.collBc d a b) := by
  refine of_slot 3 rfl rfl ?_
  obtain ⟨w, h0⟩ : ∃ w, w = 2550136835 + d.toNat * 2097152 + a.toNat * 65536 + b.toNat * 2048 := ⟨_, rfl⟩
  have h_d := d.isLt; have h_a := a.isLt; have h_b := b.isLt
  have he : encode (.collBc d a b) = w := h0.symm
  have hw : w = pack [3, 0, b.toNat, a.toNat, d.toNat, 38] [3, 8, 5, 5, 5, 6] := by rw [h0]; simp only [pack]; omega
  have hf : Fits [3, 0, b.toNat, a.toNat, d.toNat, 38] [3, 8, 5, 5, 5, 6] := ⟨by decide, by decide, b.isLt, a.isLt, d.isLt, by decide, trivial⟩
  rw [he]; show decM w = _; rw [opM38 (top _ _ 5 67108864 hw hf rfl rfl rfl (by decide))]; unfold decM38
  have e0 : w % 8 = 3 := low hw hf
  have e1 : w % 2048 = 3 := by rw [h0]; omega
  rw [if_neg (fun h => absurd (e0.symm.trans h.1) (by decide)),
    if_neg (fun h => absurd (e0.symm.trans h.1) (by decide)),
    if_neg (fun h => absurd (e1.symm.trans h) (by decide)),
    if_pos e1,
    field d (digit _ _ 4 2097152 hw hf rfl rfl rfl (by decide)),
    field a (digit _ _ 3 65536 hw hf rfl rfl rfl (by decide)),
    field b (digit _ _ 2 2048 hw hf rfl rfl rfl (by decide))]

theorem collA2a (d : BitVec 5) (a : BitVec 5) (b : BitVec 5) : Statement (.collA2a d a b) := by
  refine of_slot 3 rfl rfl ?_
  obtain ⟨w, h0⟩ : ∃ w, w = 2550136836 + d.toNat * 2097152 + a.toNat * 65536 + b.toNat * 2048 := ⟨_, rfl⟩
  have h_d := d.isLt; have h_a := a.isLt; have h_b := b.isLt
  have he : encode (.collA2a d a b) = w := h0.symm
  have hw : w = pack [4, 0, b.toNat, a.toNat, d.toNat, 38] [3, 8, 5, 5, 5, 6] := by rw [h0]; simp only [pack]; omega
  have hf : Fits [4, 0, b.toNat, a.toNat, d.toNat, 38] [3, 8, 5, 5, 5, 6] := ⟨by decide, by decide, b.isLt, a.isLt, d.isLt, by decide, trivial⟩
  rw [he]; show decM w = _; rw [opM38 (top _ _ 5 67108864 hw hf rfl rfl rfl (by decide))]; unfold decM38
  have e0 : w % 8 = 4 := low hw hf
  have e1 : w % 2048 = 4 := by rw [h0]; omega
  rw [if_neg (fun h => absurd (e0.symm.trans h.1) (by decide)),
    if_neg (fun h => absurd (e0.symm.trans h.1) (by decide)),
    if_neg (fun h => absurd (e1.symm.trans h) (by decide)),
    if_neg (fun h => absurd (e1.symm.trans h) (by decide)),
    if_pos e1,
    field d (digit _ _ 4 2097152 hw hf rfl rfl rfl (by decide)),
    field a (digit _ _ 3 65536 hw hf rfl rfl rfl (by decide)),
    field b (digit _ _ 2 2048 hw hf rfl rfl rfl (by decide))]

theorem grpMk (d : BitVec 5) (a : BitVec 5) (b : BitVec 5) : Statement (.grpMk d a b) := by
  refine of_slot 3 rfl rfl ?_
  obtain ⟨w, h0⟩ : ∃ w, w = 2617245696 + d.toNat * 2097152 + a.toNat * 65536 + b.toNat * 2048 := ⟨_, rfl⟩
  have he : encode (.grpMk d a b) = w := h0.symm
  have hw : w = pack [0, b.toNat, a.toNat, d.toNat, 39] [11, 5, 5, 5, 6] := by rw [h0]; simp only [pack]; omega
  have hf : Fits [0, b.toNat, a.toNat, d.toNat, 39] [11, 5, 5, 5, 6] := ⟨by decide, b.isLt, a.isLt, d.isLt, by decide, trivial⟩
  rw [he]; show decM w = _; rw [opM39 (top _ _ 4 67108864 hw hf rfl rfl rfl (by decide))]; unfold decM39
  have e0 : w % 2048 = 0 := low hw hf
  rw [if_pos e0,
    field d (digit _ _ 3 2097152 hw hf rfl rfl rfl (by decide)),
    field a (digit _ _ 2 65536 hw hf rfl rfl rfl (by decide)),
    field b (digit _ _ 1 2048 hw hf rfl rfl rfl (by decide))]

theorem grpFree (a : BitVec 5) : Statement (.grpFree a) := by
  refine of_slot 3 rfl rfl ?_
  obtain ⟨w, h0⟩ : ∃ w, w = 2617245697 + a.toNat * 65536 := ⟨_, rfl⟩
  have h_a := a.isLt
  have he : encode (.grpFree a) = w := h0.symm
  have hw : w = pack [1, 0, a.toNat, 0, 39] [11, 5, 5, 5, 6] := by rw [h0]; simp only [pack]; omega
  have hf : Fits [1, 0, a.toNat, 0, 39] [11, 5, 5, 5, 6] := ⟨by decide, by decide, a.isLt, by decide, by decide, trivial⟩
  rw [he]; show decM w = _; rw [opM39 (top _ _ 4 67108864 hw hf rfl rfl rfl (by decide))]; unfold decM39
  have e0 : w % 2048 = 1 := low hw hf
  have e1 : w % 65536 = 1 := by rw [h0]; omega
  have e2 : w / 2097152 % 32 = 0 := digit _ _ 3 2097152 hw hf rfl rfl rfl (by decide)
  rw [if_neg (fun h => absurd (e0.symm.trans h) (by decide)),
    if_pos ⟨e1, e2⟩,
    field a (digit _ _ 2 65536 hw hf rfl rfl rfl (by decide))]

theorem grpQ (d : BitVec 5) (a : BitVec 5) : Statement (.grpQ d a) := by
  refine of_slot 3 rfl rfl ?_
  obtain ⟨w, h0⟩ : ∃ w, w = 2617245698 + d.toNat * 2097152 + a.toNat * 65536 := ⟨_, rfl⟩
  have h_d := d.isLt; have h_a := a.isLt
  have he : encode (.grpQ d a) = w := h0.symm
  have hw : w = pack [2, 0, a.toNat, d.toNat, 39] [11, 5, 5, 5, 6] := by rw [h0]; simp only [pack]; omega
  have hf : Fits [2, 0, a.toNat, d.toNat, 39] [11, 5, 5, 5, 6] := ⟨by decide, by decide, a.isLt, d.isLt, by decide, trivial⟩
  rw [he]; show decM w = _; rw [opM39 (top _ _ 4 67108864 hw hf rfl rfl rfl (by decide))]; unfold decM39
  have e0 : w % 2048 = 2 := low hw hf
  have e1 : w % 65536 = 2 := by rw [h0]; omega
  rw [if_neg (fun h => absurd (e0.symm.trans h) (by decide)),
    if_neg (fun h => absurd (e1.symm.trans h.1) (by decide)),
    if_pos e1,
    field d (digit _ _ 3 2097152 hw hf rfl rfl rfl (by decide)),
    field a (digit _ _ 2 65536 hw hf rfl rfl rfl (by decide))]

theorem discard (a : BitVec 5) (b : BitVec 5) (i : BitVec 4) : Statement (.discard a b i) := by
  refine of_slot 3 rfl rfl ?_
  obtain ⟨w, h0⟩ : ∃ w, w = 2684354560 + a.toNat * 65536 + b.toNat * 2048 + i.toNat := ⟨_, rfl⟩
  have he : encode (.discard a b i) = w := h0.symm
  have hw : w = pack [i.toNat, 0, b.toNat, a.toNat, 0, 40] [4, 7, 5, 5, 5, 6] := by rw [h0]; simp only [pack]; omega
  have hf : Fits [i.toNat, 0, b.toNat, a.toNat, 0, 40] [4, 7, 5, 5, 5, 6] := ⟨i.isLt, by decide, b.isLt, a.isLt, by decide, by decide, trivial⟩
  rw [he]; show decM w = _; rw [opM40 (top _ _ 5 67108864 hw hf rfl rfl rfl (by decide))]; unfold decM40
  have e0 : w / 16 % 128 = 0 := digit _ _ 1 16 hw hf rfl rfl rfl (by decide)
  have e1 : w / 2097152 % 32 = 0 := digit _ _ 4 2097152 hw hf rfl rfl rfl (by decide)
  rw [if_pos ⟨e0, e1⟩,
    field a (digit _ _ 3 65536 hw hf rfl rfl rfl (by decide)),
    field b (digit _ _ 2 2048 hw hf rfl rfl rfl (by decide)),
    field i (low hw hf)]

theorem evrd (d : BitVec 5) (a : BitVec 5) : Statement (.evrd d a) := by
  refine of_slot 3 rfl rfl ?_
  obtain ⟨w, h0⟩ : ∃ w, w = 2751463424 + d.toNat * 2097152 + a.toNat * 65536 := ⟨_, rfl⟩
  have he : encode (.evrd d a) = w := h0.symm
  have hw : w = pack [0, a.toNat, d.toNat, 41] [16, 5, 5, 6] := by rw [h0]; simp only [pack]; omega
  have hf : Fits [0, a.toNat, d.toNat, 41] [16, 5, 5, 6] := ⟨by decide, a.isLt, d.isLt, by decide, trivial⟩
  rw [he]; show decM w = _; rw [opM41 (top _ _ 3 67108864 hw hf rfl rfl rfl (by decide))]; unfold decM41
  have e0 : w % 65536 = 0 := low hw hf
  rw [if_pos e0,
    field d (digit _ _ 2 2097152 hw hf rfl rfl rfl (by decide)),
    field a (digit _ _ 1 65536 hw hf rfl rfl rfl (by decide))]

theorem sysSave (a : BitVec 5) (b : BitVec 5) : Statement (.sysSave a b) := by
  refine of_slot 3 rfl rfl ?_
  obtain ⟨w, h0⟩ : ∃ w, w = 2818572288 + a.toNat * 65536 + b.toNat * 2048 := ⟨_, rfl⟩
  have he : encode (.sysSave a b) = w := h0.symm
  have hw : w = pack [0, b.toNat, a.toNat, 0, 42] [11, 5, 5, 5, 6] := by rw [h0]; simp only [pack]; omega
  have hf : Fits [0, b.toNat, a.toNat, 0, 42] [11, 5, 5, 5, 6] := ⟨by decide, b.isLt, a.isLt, by decide, by decide, trivial⟩
  rw [he]; show decM w = _; rw [opM42 (top _ _ 4 67108864 hw hf rfl rfl rfl (by decide))]; unfold decM42
  have e0 : w % 2048 = 0 := low hw hf
  have e1 : w / 2097152 % 32 = 0 := digit _ _ 3 2097152 hw hf rfl rfl rfl (by decide)
  rw [if_pos ⟨e0, e1⟩,
    field a (digit _ _ 2 65536 hw hf rfl rfl rfl (by decide)),
    field b (digit _ _ 1 2048 hw hf rfl rfl rfl (by decide))]

theorem sysRest (a : BitVec 5) (b : BitVec 5) : Statement (.sysRest a b) := by
  refine of_slot 3 rfl rfl ?_
  obtain ⟨w, h0⟩ : ∃ w, w = 2818572289 + a.toNat * 65536 + b.toNat * 2048 := ⟨_, rfl⟩
  have he : encode (.sysRest a b) = w := h0.symm
  have hw : w = pack [1, b.toNat, a.toNat, 0, 42] [11, 5, 5, 5, 6] := by rw [h0]; simp only [pack]; omega
  have hf : Fits [1, b.toNat, a.toNat, 0, 42] [11, 5, 5, 5, 6] := ⟨by decide, b.isLt, a.isLt, by decide, by decide, trivial⟩
  rw [he]; show decM w = _; rw [opM42 (top _ _ 4 67108864 hw hf rfl rfl rfl (by decide))]; unfold decM42
  have e0 : w % 2048 = 1 := low hw hf
  have e1 : w / 2097152 % 32 = 0 := digit _ _ 3 2097152 hw hf rfl rfl rfl (by decide)
  rw [if_neg (fun h => absurd (e0.symm.trans h.1) (by decide)),
    if_pos ⟨e0, e1⟩,
    field a (digit _ _ 2 65536 hw hf rfl rfl rfl (by decide)),
    field b (digit _ _ 1 2048 hw hf rfl rfl rfl (by decide))]

theorem sysWorld (a : BitVec 5) : Statement (.sysWorld a) := by
  refine of_slot 3 rfl rfl ?_
  obtain ⟨w, h0⟩ : ∃ w, w = 2818572290 + a.toNat * 65536 := ⟨_, rfl⟩
  have h_a := a.isLt
  have he : encode (.sysWorld a) = w := h0.symm
  have hw : w = pack [2, 0, a.toNat, 0, 42] [11, 5, 5, 5, 6] := by rw [h0]; simp only [pack]; omega
  have hf : Fits [2, 0, a.toNat, 0, 42] [11, 5, 5, 5, 6] := ⟨by decide, by decide, a.isLt, by decide, by decide, trivial⟩
  rw [he]; show decM w = _; rw [opM42 (top _ _ 4 67108864 hw hf rfl rfl rfl (by decide))]; unfold decM42
  have e0 : w % 2048 = 2 := low hw hf
  have e1 : w % 65536 = 2 := by rw [h0]; omega
  have e2 : w / 2097152 % 32 = 0 := digit _ _ 3 2097152 hw hf rfl rfl rfl (by decide)
  rw [if_neg (fun h => absurd (e0.symm.trans h.1) (by decide)),
    if_neg (fun h => absurd (e0.symm.trans h.1) (by decide)),
    if_pos ⟨e1, e2⟩,
    field a (digit _ _ 2 65536 hw hf rfl rfl rfl (by decide))]

theorem sysShoot (a : BitVec 5) : Statement (.sysShoot a) := by
  refine of_slot 3 rfl rfl ?_
  obtain ⟨w, h0⟩ : ∃ w, w = 2818572291 + a.toNat * 65536 := ⟨_, rfl⟩
  have h_a := a.isLt
  have he : encode (.sysShoot a) = w := h0.symm
  have hw : w = pack [3, 0, a.toNat, 0, 42] [11, 5, 5, 5, 6] := by rw [h0]; simp only [pack]; omega
  have hf : Fits [3, 0, a.toNat, 0, 42] [11, 5, 5, 5, 6] := ⟨by decide, by decide, a.isLt, by decide, by decide, trivial⟩
  rw [he]; show decM w = _; rw [opM42 (top _ _ 4 67108864 hw hf rfl rfl rfl (by decide))]; unfold decM42
  have e0 : w % 2048 = 3 := low hw hf
  have e1 : w % 65536 = 3 := by rw [h0]; omega
  have e2 : w / 2097152 % 32 = 0 := digit _ _ 3 2097152 hw hf rfl rfl rfl (by decide)
  rw [if_neg (fun h => absurd (e0.symm.trans h.1) (by decide)),
    if_neg (fun h => absurd (e0.symm.trans h.1) (by decide)),
    if_neg (fun h => absurd (e1.symm.trans h.1) (by decide)),
    if_pos ⟨e1, e2⟩,
    field a (digit _ _ 2 65536 hw hf rfl rfl rfl (by decide))]

theorem tmm (w : TileWord) : Statement (.tmm w) := of_tile rfl

theorem tew (w : TileWord) : Statement (.tew w) := of_tile rfl

theorem teu (w : TileWord) : Statement (.teu w) := of_tile rfl

theorem tcvt (w : TileWord) : Statement (.tcvt w) := of_tile rfl

theorem tcopy (w : TileWord) : Statement (.tcopy w) := of_tile rfl

theorem tred (w : TileWord) : Statement (.tred w) := of_tile rfl

theorem ttopk (w : TileWord) : Statement (.ttopk w) := of_tile rfl

theorem tcall (w : TileWord) : Statement (.tcall w) := of_tile rfl

theorem tsync (w : TileWord) : Statement (.tsync w) := of_tile rfl

theorem tfence (w : TileWord) : Statement (.tfence w) := of_tile rfl

theorem twait (w : TileWord) : Statement (.twait w) := of_tile rfl

theorem tcoll (w : TileWord) : Statement (.tcoll w) := of_tile rfl

theorem tjmp (w : TileWord) : Statement (.tjmp w) := of_tile rfl

theorem tloop (w : TileWord) : Statement (.tloop w) := of_tile rfl

theorem tend (w : TileWord) : Statement (.tend w) := of_tile rfl

theorem tdmset (w : TileWord) : Statement (.tdmset w) := of_tile rfl

theorem tstag (w : TileWord) : Statement (.tstag w) := of_tile rfl

theorem tsig (w : TileWord) : Statement (.tsig w) := of_tile rfl

theorem dieReset (die : Nat) : Statement (.dieReset die) := of_event rfl rfl

theorem bootctlGo (die : Nat) (w : Access) : Statement (.bootctlGo die w) := of_event rfl rfl

theorem bootRomRun (die : Nat) : Statement (.bootRomRun die) := of_event rfl rfl

theorem bootCompletion (pan : Nat) : Statement (.bootCompletion pan) := of_event rfl rfl

theorem dpressetWrite (die : Nat) (w : Access) : Statement (.dpressetWrite die w) := of_event rfl rfl

theorem domcfgWrite (die : Nat) (w : Access) : Statement (.domcfgWrite die w) := of_event rfl rfl

theorem msextExtend (die : Nat) (j : Nat) (w : Access) : Statement (.msextExtend die j w) := of_event rfl rfl

theorem wrlockWrite (die : Nat) (w : Access) : Statement (.wrlockWrite die w) := of_event rfl rfl

theorem attctlGo (die : Nat) (w : Access) : Statement (.attctlGo die w) := of_event rfl rfl

theorem attestReportDone (die : Nat) : Statement (.attestReportDone die) := of_event rfl rfl

theorem hpostWrite (die : Nat) (w : Access) : Statement (.hpostWrite die w) := of_event rfl rfl

theorem hostAccess (die : Nat) (q : HostReq) : Statement (.hostAccess die q) := of_event rfl rfl

theorem i3cManagementMessage (die : Nat) (q : MgmtReq) : Statement (.i3cManagementMessage die q) := of_event rfl rfl

theorem registerWrite (addr : Nat) (w : Access) : Statement (.registerWrite addr w) := of_event rfl rfl

theorem strdbStart (pan : Nat) (k : Nat) (w : Access) : Statement (.strdbStart pan k w) := of_event rfl rfl

theorem strdbGraceful (pan : Nat) (k : Nat) (w : Access) : Statement (.strdbGraceful pan k w) := of_event rfl rfl

theorem strdbHard (pan : Nat) (k : Nat) (w : Access) : Statement (.strdbHard pan k w) := of_event rfl rfl

theorem strdbResume (pan : Nat) (k : Nat) (w : Access) : Statement (.strdbResume pan k w) := of_event rfl rfl

theorem strdbAbort (pan : Nat) (k : Nat) (w : Access) : Statement (.strdbAbort pan k w) := of_event rfl rfl

theorem cxcmdResume (core : Nat) (w : Access) : Statement (.cxcmdResume core w) := of_event rfl rfl

theorem cxcmdRetire (core : Nat) (w : Access) : Statement (.cxcmdRetire core w) := of_event rfl rfl

theorem cxcmdResumeAt (core : Nat) (w : Access) : Statement (.cxcmdResumeAt core w) := of_event rfl rfl

theorem turetry (die : Nat) (w : Access) : Statement (.turetry die w) := of_event rfl rfl

theorem migctlGo (die : Nat) (w : Access) : Statement (.migctlGo die w) := of_event rfl rfl

theorem migctlAbort (die : Nat) (w : Access) : Statement (.migctlAbort die w) := of_event rfl rfl

theorem migctlFin (die : Nat) (w : Access) : Statement (.migctlFin die w) := of_event rfl rfl

theorem nbcfgWrite (die : Nat) (b : Nat) (w : Access) : Statement (.nbcfgWrite die b w) := of_event rfl rfl

theorem trringWrite (die : Nat) (world : Nat) (w : Access) : Statement (.trringWrite die world w) := of_event rfl rfl

theorem issueStageSelect (core : Nat) : Statement (.issueStageSelect core) := of_event rfl rfl

theorem blockClear (ctx : Nat) : Statement (.blockClear ctx) := of_event rfl rfl

theorem contextStart (core : Nat) : Statement (.contextStart core) := of_event rfl rfl

theorem exposedResultLand (ctx : Nat) : Statement (.exposedResultLand ctx) := of_event rfl rfl

theorem longLoadData (ctx : Nat) (n : Nat) : Statement (.longLoadData ctx n) := of_event rfl rfl

theorem translationWalkDone (die : Nat) (n : Nat) : Statement (.translationWalkDone die n) := of_event rfl rfl

theorem shootdownComplete (n : Nat) : Statement (.shootdownComplete n) := of_event rfl rfl

theorem storeBufferDrain (clu : Nat) (cls : Nat) : Statement (.storeBufferDrain clu cls) := of_event rfl rfl

theorem wcbFlushTimeout (clu : Nat) (n : Nat) : Statement (.wcbFlushTimeout clu n) := of_event rfl rfl

theorem istoreLand (core : Nat) : Statement (.istoreLand core) := of_event rfl rfl

theorem accWriteComplete (core : Nat) (n : Nat) : Statement (.accWriteComplete core n) := of_event rfl rfl

theorem stagingBufferReady (core : Nat) (b : Nat) : Statement (.stagingBufferReady core b) := of_event rfl rfl

theorem seedscanResult (core : Nat) : Statement (.seedscanResult core) := of_event rfl rfl

theorem copyCommandStart (core : Nat) (k : Nat) : Statement (.copyCommandStart core k) := of_event rfl rfl

theorem copyTransfer (clu : Nat) (k : Nat) : Statement (.copyTransfer clu k) := of_event rfl rfl

theorem copyCommandComplete (core : Nat) (k : Nat) (n : Nat) : Statement (.copyCommandComplete core k n) := of_event rfl rfl

theorem trapFrameWrite (die : Nat) : Statement (.trapFrameWrite die) := of_event rfl rfl

theorem coreQuiet (core : Nat) : Statement (.coreQuiet core) := of_event rfl rfl

theorem admissionStep (pan : Nat) (region : Nat) : Statement (.admissionStep pan region) := of_event rfl rfl

theorem staggerHoldEnd (die : Nat) : Statement (.staggerHoldEnd die) := of_event rfl rfl

theorem droopTrip (pan : Nat) (region : Nat) (mv : Nat) : Statement (.droopTrip pan region mv) := of_event rfl rfl

theorem droopHoldExpire (pan : Nat) (region : Nat) : Statement (.droopHoldExpire pan region) := of_event rfl rfl

theorem thermalThreshold (pan : Nat) (region : Nat) (temp : Nat) : Statement (.thermalThreshold pan region temp) := of_event rfl rfl

theorem powerStepLimit (pan : Nat) (region : Nat) (rise : Nat) : Statement (.powerStepLimit pan region rise) := of_event rfl rfl

theorem pourWordFetch (pan : Nat) (k : Nat) : Statement (.pourWordFetch pan k) := of_event rfl rfl

theorem pourDispatch (pan : Nat) : Statement (.pourDispatch pan) := of_event rfl rfl

theorem stagingReserve (unit : UnitId) (n : Nat) : Statement (.stagingReserve unit n) := of_event rfl rfl

theorem childStart (unit : UnitId) (n : Nat) (child : Nat) : Statement (.childStart unit n child) := of_event rfl rfl

theorem pullTicket (unit : UnitId) (n : Nat) (child : Nat) : Statement (.pullTicket unit n child) := of_event rfl rfl

theorem leafWork (core : Nat) : Statement (.leafWork core) := of_event rfl rfl

theorem childComplete (unit : UnitId) (n : Nat) (child : Nat) : Statement (.childComplete unit n child) := of_event rfl rfl

theorem wordCompleteAtPour (pan : Nat) (k : Nat) (n : Nat) : Statement (.wordCompleteAtPour pan k n) := of_event rfl rfl

theorem tsendCompletion (unit : UnitId) (n : Nat) : Statement (.tsendCompletion unit n) := of_event rfl rfl

theorem twaitPoll (pan : Nat) (k : Nat) : Statement (.twaitPoll pan k) := of_event rfl rfl

theorem watchdogExpire (pan : Nat) (k : Nat) : Statement (.watchdogExpire pan k) := of_event rfl rfl

theorem drainComplete (pan : Nat) (k : Nat) : Statement (.drainComplete pan k) := of_event rfl rfl

theorem gracefulEscalate (pan : Nat) (k : Nat) : Statement (.gracefulEscalate pan k) := of_event rfl rfl

theorem saveComplete (pan : Nat) (k : Nat) : Statement (.saveComplete pan k) := of_event rfl rfl

theorem restoreCore (core : Nat) : Statement (.restoreCore core) := of_event rfl rfl

theorem flagApply (core : Nat) : Statement (.flagApply core) := of_event rfl rfl

theorem boardOpApply (die : Nat) : Statement (.boardOpApply die) := of_event rfl rfl

theorem collTokenPass (die : Nat) (g : Nat) : Statement (.collTokenPass die g) := of_event rfl rfl

theorem packetForward (die : Nat) (n : Nat) : Statement (.packetForward die n) := of_event rfl rfl

theorem flitCrcFail (die : Nat) (at_ : Nat) : Statement (.flitCrcFail die at_) := of_event rfl rfl

theorem loadRequest (die : Nat) (n : Nat) : Statement (.loadRequest die n) := of_event rfl rfl

theorem storeRequest (die : Nat) (n : Nat) : Statement (.storeRequest die n) := of_event rfl rfl

theorem atomicRequest (die : Nat) (n : Nat) : Statement (.atomicRequest die n) := of_event rfl rfl

theorem readReply (die : Nat) (n : Nat) : Statement (.readReply die n) := of_event rfl rfl

theorem acknowledgement (die : Nat) (n : Nat) : Statement (.acknowledgement die n) := of_event rfl rfl

theorem nak (die : Nat) (n : Nat) : Statement (.nak die n) := of_event rfl rfl

theorem queueEntryHalf (die : Nat) (n : Nat) : Statement (.queueEntryHalf die n) := of_event rfl rfl

theorem collectiveChunk (die : Nat) (n : Nat) : Statement (.collectiveChunk die n) := of_event rfl rfl

theorem selfDescribing (die : Nat) (n : Nat) : Statement (.selfDescribing die n) := of_event rfl rfl

theorem flagOperation (die : Nat) (n : Nat) : Statement (.flagOperation die n) := of_event rfl rfl

theorem boardOperation (die : Nat) (n : Nat) : Statement (.boardOperation die n) := of_event rfl rfl

theorem boardReply (die : Nat) (n : Nat) : Statement (.boardReply die n) := of_event rfl rfl

theorem management (die : Nat) (n : Nat) : Statement (.management die n) := of_event rfl rfl

theorem creditGrant (die : Nat) (n : Nat) : Statement (.creditGrant die n) := of_event rfl rfl

theorem resetNotice (die : Nat) (n : Nat) : Statement (.resetNotice die n) := of_event rfl rfl

theorem requestResendTimeout (die : Nat) (n : Nat) : Statement (.requestResendTimeout die n) := of_event rfl rfl

theorem remoteTimeout (die : Nat) (n : Nat) : Statement (.remoteTimeout die n) := of_event rfl rfl

theorem resetNoticeResend (die : Nat) (peer : Nat) : Statement (.resetNoticeResend die peer) := of_event rfl rfl

theorem migrationLineCopy (die : Nat) : Statement (.migrationLineCopy die) := of_event rfl rfl

theorem migrationSwitch (die : Nat) : Statement (.migrationSwitch die) := of_event rfl rfl

theorem uncorrectableSoftError (die : Nat) (addr : Nat) : Statement (.uncorrectableSoftError die addr) := of_event rfl rfl

end Sys2Proof.Laws.Roundtrip
end

