-- ==== Sys2Proof/Laws/Step.lean ====
section
/-! SUPPORT. What a slot's instruction and a step can come to, said once. -/

namespace Sys2Proof.Machine

/-- A bundle that has passed its conditions lets each slot run. -/
theorem passes_of_gated {s : State} (h : s.iss.gated = true) (k : Nat) (i : Instr) : s.passes k i := by
  simp [State.passes, State.gate, h]

/-- One instruction passes outside a bundle where no check of R61 and R79 fails, nothing blocks and no page misses. -/
theorem passes_of_checks {s : State} {k : Nat} {i : Instr} (h1 : staticCheck s.me.priv (s.ext k) i = none)
    (h2 : s.me.pchk = false ∨ s.earlyReg s.x i = none) (h3 : s.blocks s.x i = false) (h4 : s.missFor s.x i = none) :
    s.passes k i := by
  unfold State.passes State.gate
  split
  · rfl
  · have e1 : s.staticFail [{ slot := k, word := .ok i }] = none := by simp only [State.staticFail, h1]
    have e2 : s.earlyFail (instrs [{ slot := k, word := .ok i }]) = none := by
      unfold State.earlyFail
      rcases h2 with h | h
      · rw [h]; rfl
      · simp [instrs, h]
    unfold State.present
    simp only [e1, e2]
    simp [instrs, h3, h4]

/-- A pending source or destination blocks an instruction that passes the checks of R61 and R79. -/
theorem gate_block {s : State} {k : Nat} {i : Instr} (hg : s.iss.gated = false)
    (h1 : staticCheck s.me.priv (s.ext k) i = none) (h2 : s.me.pchk = false ∨ s.earlyReg s.x i = none)
    (h3 : s.blocks s.x i = true) : s.gate k i = .block := by
  unfold State.gate
  rw [hg]
  have e1 : s.staticFail [{ slot := k, word := .ok i }] = none := by simp only [State.staticFail, h1]
  have e2 : s.earlyFail (instrs [{ slot := k, word := .ok i }]) = none := by
    unfold State.earlyFail
    rcases h2 with h | h
    · rw [h]; rfl
    · simp [instrs, h]
  unfold State.present
  simp only [e1, e2]
  simp [instrs, h3]

/-- Slot 0 has no header byte of its own (R54). -/
@[simp] theorem State.ext_zero (s : State) : s.ext 0 = 0 := by unfold State.ext; split <;> simp

/-- With no interlocked operation in flight no register waits. -/
theorem waitsReg_of_no_longs {s : State} {x : Nat} (h : (s.ctx x).longs = []) (i : Instr) : s.waitsReg x i = false := by
  simp [State.waitsReg, Ctx.interlocked, h]

/-- A slot's instruction whose bundle passes and whose own checks find nothing answers its effect. -/
theorem slotOp_ok {s t : State} {k : Nat} {i : Instr} {body : State → Res} (h : s.passes k i) (hb : body s = .ok t) :
    slotOp k i s body = .next t := by
  unfold slotOp; rw [show s.gate k i = .run from h]; simp only [hb]

/-- A slot's instruction whose own checks find a trap answers the state before the bundle with the trap taken. -/
theorem slotOp_trap {s : State} {k c o : Nat} {f : Word} {i : Instr} {body : State → Res} (h : s.passes k i)
    (hb : body s = .trap c f o) : slotOp k i s body = .next (s.trapAtIssue k c f o) := by
  unfold slotOp; rw [show s.gate k i = .run from h]; simp only [hb]

/-- Everything that a slot's instruction can come to: its effect, a trap of its bundle or its own, a block, or a miss. -/
theorem slotOp_cases {s t : State} {k : Nat} {i : Instr} {body : State → Res} (h : slotOp k i s body = .next t) :
    (s.passes k i ∧ body s = .ok t) ∨
    (∃ c f o, (s.gate k i = .trap c f o ∨ s.passes k i ∧ body s = .trap c f o) ∧ t = s.trapAtIssue k c f o) ∨
    (s.gate k i = .block ∧ t = (s.armWatch [i]).blockIssue) ∨
    (∃ va, s.gate k i = .miss va ∧ t = s.missIssue k va) := by
  unfold slotOp at h
  split at h
  · rename_i hg
    split at h
    · rename_i hb; exact .inl ⟨hg, by cases h; exact hb⟩
    · rename_i c f o hb; exact .inr (.inl ⟨c, f, o, .inr ⟨hg, hb⟩, by cases h; rfl⟩)
  · rename_i c f o hg; exact .inr (.inl ⟨c, f, o, .inl hg, by cases h; rfl⟩)
  · rename_i hg; exact .inr (.inr (.inl ⟨hg, by cases h; rfl⟩))
  · rename_i va hg; exact .inr (.inr (.inr ⟨va, hg, by cases h; rfl⟩))

/-- A slot's instruction always answers a next state. -/
theorem slotOp_next (k : Nat) (i : Instr) (s : State) (body : State → Res) : ∃ t, slotOp k i s body = .next t := by
  unfold slotOp
  split
  · split <;> exact ⟨_, rfl⟩
  all_goals exact ⟨_, rfl⟩

/-- The effect of an instruction that leaves one exposed result. -/
theorem leaves_of_body {s : State} {k lat : Nat} {i : Instr} {d : Dest} {body : State → Res}
    (he : exec i s = slotOp k i s body) (hb : body s = .ok (s.later k lat d)) : Leaves k lat i s d :=
  fun h => by rw [he]; exact slotOp_ok h hb

end Sys2Proof.Machine
end

