-- ==== Sys2Proof/Laws/Trap.lean ====
section
/-! SUPPORT. Laws of landing results and of taking a trap: what they change, and that neither writes memory. -/

namespace Sys2Proof.Machine

/-! ## Landing -/

/-- Results that push no entry leave the result queues alone. -/
theorem landQueues_same (k : Core) (l : List Snap) (h : ∀ n ∈ l, ∀ q e, n.dest ≠ .rq q e) : landQueues k l = k := by
  induction l with
  | nil => rfl
  | cons n t ih =>
    unfold landQueues
    split
    · rename_i q e hd; exact absurd hd (h n (List.mem_cons_self ..) q e)
    · exact ih fun m hm => h m (List.mem_cons_of_mem _ hm)

/-- No result that is to trap: no trap is taken. -/
theorem State.landTrap_none (s : State) (x : Nat) (l : List Snap) (h : ∀ n ∈ l, n.trap = none) : s.landTrap x l = s := by
  induction l with
  | nil => rfl
  | cons n t ih =>
    unfold State.landTrap
    rw [h n (List.mem_cons_self ..)]
    exact ih fun m hm => h m (List.mem_cons_of_mem _ hm)

/-- Shared special registers change no context and no memory. -/
@[simp] theorem State.landShared_ctx (s : State) (x y : Nat) (l : List Snap) : (s.landShared x l).ctx y = s.ctx y := by
  induction l generalizing s with
  | nil => rfl
  | cons n t ih =>
    unfold State.landShared
    split
    · split <;> rw [ih]
      unfold State.setWcb; simp
    · exact ih s
@[simp] theorem State.landShared_mem (s : State) (x : Nat) (l : List Snap) : (s.landShared x l).mem = s.mem := by
  induction l generalizing s with
  | nil => rfl
  | cons n t ih =>
    unfold State.landShared
    split
    · split <;> rw [ih]
      unfold State.setWcb; simp
    · exact ih s

/-- A context one bundle on, where no result in flight is to trap: every due result is written and leaves. -/
theorem State.countUp_ctx (s : State) (x : Nat) (h : ∀ n ∈ (s.ctx x).snaps, n.trap = none) :
    (s.countUp x).ctx x =
      { ((s.ctx x).snaps.filter (·.isDue ((s.ctx x).count + 1))).foldl Ctx.landOne
          { s.ctx x with count := (s.ctx x).count + 1 } with
        snaps := (s.ctx x).snaps.filter fun n => !n.isDue ((s.ctx x).count + 1) } := by
  unfold State.countUp State.land
  simp only [State.modCtx_ctx_same]
  rw [State.landTrap_none]
  · simp only [State.landShared_ctx, State.modCore_ctx, State.modCtx_ctx_same]
  · intro n hn; exact h n (List.mem_filter.1 hn).1

/-! ## What the operations of traps and of the issue stage leave in memory -/

@[simp] theorem State.select_mem (s : State) (c j : Nat) : (s.select c j).mem = s.mem := rfl

@[simp] theorem State.leaveStage_mem (s : State) (x : Nat) (k : Bool) : (s.leaveStage x k).mem = s.mem := by
  unfold State.leaveStage
  split
  · split <;> simp
  · rfl

@[simp] theorem State.toDormant_mem (s : State) (x : Nat) : (s.toDormant x).mem = s.mem := by
  unfold State.toDormant; simp

@[simp] theorem State.start_mem (s : State) (x : Nat) (r : StartReq) : (s.start x r).mem = s.mem := rfl

@[simp] theorem State.arriveStart_mem (s : State) (c k : Nat) (r : StartReq) : (s.arriveStart c k r).mem = s.mem := by
  unfold State.arriveStart
  split <;> simp

@[simp] theorem State.deliver_mem (s : State) (d : Nat) (f : Frame) : (s.deliver d f).mem = s.mem := rfl
@[simp] theorem State.raise_mem (s : State) (d v : Nat) : (s.raise d v).mem = s.mem := rfl

@[simp] theorem State.freeze_mem (s : State) (x : Nat) (w : Freeze) (k : Bool) : (s.freeze x w k).mem = s.mem := by
  unfold State.freeze; simp

@[simp] theorem State.finish_mem (s : State) (x c : Nat) (f : Word) : (s.finish x c f).mem = s.mem := by
  unfold State.finish
  split <;> simp

/-- Taking a trap writes no memory: the frame reaches the ring later (R312). -/
@[simp] theorem State.takeTrap_mem (s : State) (x c : Nat) (f : Word) (t : TrapInfo) : (s.takeTrap x c f t).mem = s.mem := by
  unfold State.takeTrap
  extract_lets e
  split
  · simp
  · split
    · split <;> simp
    · simp

@[simp] theorem State.trapAtIssue_mem (s : State) (k c : Nat) (f : Word) (o : Nat) :
    (s.trapAtIssue k c f o).mem = s.mem := State.takeTrap_mem ..

@[simp] theorem State.landTrap_mem (s : State) (x : Nat) (l : List Snap) : (s.landTrap x l).mem = s.mem := by
  induction l with
  | nil => rfl
  | cons n t ih =>
    unfold State.landTrap
    split
    · simp
    · exact ih

@[simp] theorem State.land_mem (s : State) (x : Nat) : (s.land x).mem = s.mem := by unfold State.land; simp
@[simp] theorem State.landLast_mem (s : State) (x : Nat) : (s.landLast x).mem = s.mem := by
  unfold State.landLast; simp
@[simp] theorem State.countUp_mem (s : State) (x : Nat) : (s.countUp x).mem = s.mem := by unfold State.countUp; simp

@[simp] theorem State.blockIssue_mem (s : State) : s.blockIssue.mem = s.mem := by
  unfold State.blockIssue
  extract_lets x u v t
  have h : t.mem = s.mem := rfl
  split
  · rw [State.leaveStage_mem, h]
  · exact h

/-! ## Who takes a trap how -/

/-- A privileged context that traps is frozen, and HFAULT and host vector 10 report it (R314). -/
theorem State.takeTrap_priv (s : State) (x c : Nat) (f : Word) (t : TrapInfo) (h : (s.ctx x).priv = true) :
    s.takeTrap x c f t =
      ((s.freeze x (.trap c f) (!t.after)).setReg (dieOf x) 0x180 (hfaultWord c x t.baddr)).raise (dieOf x) 10 := by
  unfold State.takeTrap; simp [h]

/-- Any other context that is no `tcall` child is frozen, and its frame is delivered (R313). -/
theorem State.takeTrap_frame (s : State) (x c : Nat) (f : Word) (t : TrapInfo) (h : (s.ctx x).priv = false)
    (ho : ∀ w i p, (s.ctx x).origin ≠ some (.tcall w i p)) :
    s.takeTrap x c f t = (s.deliver (dieOf x) (s.ctxFrame x c f t)).freeze x (.trap c f) (!t.after) := by
  unfold State.takeTrap
  extract_lets e
  have he : e.priv = false := h
  rw [if_neg (by simp [he])]
  split
  · rename_i w i p hw; exact absurd hw (ho w i p)
  · rfl

/-- A `tcall` child ends, unless it may resume (R260). -/
theorem State.takeTrap_child (s : State) (x c : Nat) (f : Word) (t : TrapInfo) (h : (s.ctx x).priv = false)
    (w i : Nat) (p : Bool) (ho : (s.ctx x).origin = some (.tcall w i p)) (hr : (p || !resumable c t.walk.isSome) = true) :
    s.takeTrap x c f t = s.finish x c f := by
  unfold State.takeTrap
  extract_lets e
  have he : e.priv = false := h
  have ho' : e.origin = some (.tcall w i p) := ho
  rw [if_neg (by simp [he]), ho']
  dsimp only
  rw [if_neg]
  intro hc
  cases p <;> simp_all

end Sys2Proof.Machine
end

