-- ==== Sys2Proof/Laws/Vector.lean ====
section
/-! SUPPORT. What vector results write, element by element (R32, R78, R81). -/

namespace Sys2Proof.Machine

@[simp] theorem tab_length {α : Type} (n : Nat) (f : Nat → α) : (tab n f).length = n := by simp [tab]

@[simp] theorem tab_getD {α : Type} (n : Nat) (f : Nat → α) (i : Nat) (d : α) :
    (tab n f).getD i d = if i < n then f i else d := by
  unfold tab
  by_cases h : i < n <;> simp [List.getD, h]

/-- The lane of a vector register after a write of it. -/
theorem put_v_lane (c : Ctx) (d l : Nat) (w : List (Word × Word)) (h : l < 128) :
    (c.put (.v d w)).lane d l = (c.lane d l &&& ~~~(w.getD l (0, 0)).1) ||| ((w.getD l (0, 0)).2 &&& (w.getD l (0, 0)).1) := by
  simp only [Ctx.put]
  rw [Ctx.lane]
  simp only [spGet_spPut_same, tab_getD, h, if_true]

/-- A bit of an element. -/
theorem elemOf_testBit (t : Nat) (w : Word) (e j : Nat) :
    (elemOf t w e).testBit j = (decide (j < elemW t) && w.getLsbD (elemW t * e + j)) := by
  simp [elemOf, nfld, Nat.testBit_mod_two_pow, Nat.testBit_div_two_pow, BitVec.getLsbD, Nat.add_comm]

/-- Elements fit in a lane. -/
theorem elem_fits {t e : Nat} (h : e < elemsOf t) : elemW t * e + elemW t ≤ 64 := by
  unfold elemsOf elemW at *
  split at h
  · rcases ‹t = 5 ∨ t = 6› with rfl | rfl <;> simp <;> omega
  · split at h
    · subst_vars; simp; omega
    · have : e = 0 := by omega
      subst this; split <;> simp


theorem maskBit (W k i : Nat) (v : Nat) (hi : i < 64) :
    (BitVec.ofNat 64 (v % 2 ^ W * 2 ^ k)).getLsbD i = (decide (k ≤ i ∧ i < k + W) && v.testBit (i - k)) := by
  rw [BitVec.getLsbD_ofNat]
  simp only [hi, decide_true, Bool.true_and]
  rw [Nat.mul_comm, Nat.testBit_two_pow_mul, Nat.testBit_mod_two_pow]
  by_cases h1 : k ≤ i
  · by_cases h2 : i < k + W
    · simp [h1, h2]; intro; omega
    · simp [h1, h2]; intro; omega
  · simp [h1]

theorem elemsOf_one {t : Nat} (h5 : t = 5 → False) (h6 : t = 6 → False) (h7 : t = 7 → False) : elemsOf t = 1 := by
  unfold elemsOf
  rw [if_neg (by rintro (h | h); exact h5 h; exact h6 h), if_neg h7]

theorem elemPut_mask (t e v i : Nat) (hi : i < 64) :
    (elemPut t e v).1.getLsbD i = decide (elemsOf t = 1 ∨ elemW t * e ≤ i ∧ i < elemW t * e + elemW t) := by
  have h16 := maskBit 16 (16 * e) i 0xFFFF hi
  have h8 := maskBit 8 (8 * e) i 0xFF hi
  have r16 : ∀ j, j < 16 → Nat.testBit 0xFFFF j = true := by decide
  have r8 : ∀ j, j < 8 → Nat.testBit 0xFF j = true := by decide
  have ones : (BitVec.allOnes 64).getLsbD i = true := by rw [BitVec.getLsbD_allOnes]; simp [hi]
  unfold elemPut
  split
  · rw [ones]; simp [elemsOf]
  · rw [ones]; simp [elemsOf]
  · simp only [Nat.reducePow, Nat.reduceMod] at h16 ⊢
    rw [h16]
    simp only [elemsOf, elemW]
    by_cases h : 16 * e ≤ i ∧ i < 16 * e + 16
    · simp [h, r16 (i - 16 * e) (by omega)]
    · simp [h]
  · simp only [Nat.reducePow, Nat.reduceMod] at h16 ⊢
    rw [h16]
    simp only [elemsOf, elemW]
    by_cases h : 16 * e ≤ i ∧ i < 16 * e + 16
    · simp [h, r16 (i - 16 * e) (by omega)]
    · simp [h]
  · simp only [Nat.reducePow, Nat.reduceMod] at h8 ⊢
    rw [h8]
    simp only [elemsOf, elemW]
    by_cases h : 8 * e ≤ i ∧ i < 8 * e + 8
    · simp [h, r8 (i - 8 * e) (by omega)]
    · simp [h]
  · rename_i h2 h4 h5 h6 h7
    rw [ones]; simp [elemsOf_one h5 h6 h7]

theorem elemPut_val (t e v j : Nat) (he : e < elemsOf t) (hj : j < elemW t) :
    (elemPut t e v).2.getLsbD (elemW t * e + j) = v.testBit j := by
  have hf := elem_fits he
  have h16 := maskBit 16 (16 * e) (16 * e + j) v
  have h8 := maskBit 8 (8 * e) (8 * e + j) v
  unfold elemPut
  split
  · simp only [elemsOf, elemW] at *
    have : e = 0 := by simp at he; omega
    subst this
    rw [sextNat, BitVec.getLsbD_signExtend, BitVec.getLsbD_ofNat]
    simp [hj, show j < 64 by omega]
  · simp only [elemsOf, elemW] at *
    have : e = 0 := by simp at he; omega
    subst this
    simp only [Nat.mul_zero, Nat.zero_add, BitVec.getLsbD_ofNat]
    rw [Nat.testBit_mod_two_pow]
    simp [hj]; omega
  · simp only [elemsOf, elemW] at *
    rw [h16 (by omega)]; simp [hj]
  · simp only [elemsOf, elemW] at *
    rw [h16 (by omega)]; simp [hj]
  · simp only [elemsOf, elemW] at *
    rw [h8 (by omega)]; simp [hj]
  · rename_i h2 h4 h5 h6 h7
    have hw : elemW t = 64 := by unfold elemW; split <;> simp_all
    have : e = 0 := by rw [elemsOf_one h5 h6 h7] at he; omega
    subst this; rw [hw] at hj
    rw [BitVec.getLsbD_ofNat]; simp [hw, hj]

theorem elemPut_val_off (t e v i : Nat) (hi : i < 64) (hp : elemsOf t ≠ 1)
    (h : ¬ (elemW t * e ≤ i ∧ i < elemW t * e + elemW t)) : (elemPut t e v).2.getLsbD i = false := by
  have h16 := maskBit 16 (16 * e) i v hi
  have h8 := maskBit 8 (8 * e) i v hi
  unfold elemPut
  split
  · simp [elemsOf] at hp
  · simp [elemsOf] at hp
  · simp only [elemW] at h; rw [h16]; simp [h]
  · simp only [elemW] at h; rw [h16]; simp [h]
  · simp only [elemW] at h; rw [h8]; simp [h]
  · rename_i h2 h4 h5 h6 h7
    exact absurd (elemsOf_one h5 h6 h7) hp

/-- Bits of a fold of element writes. -/
theorem elemsPut_bits (t : Nat) (l : List (Nat × Elem)) (i : Nat) :
    (elemsPut t l).1.getLsbD i = (l.any fun p => (elemPut t p.1 p.2.1).1.getLsbD i) ∧
    (elemsPut t l).2.getLsbD i = (l.any fun p => (elemPut t p.1 p.2.1).2.getLsbD i) := by
  have key : ∀ (l : List (Nat × Elem)) (a : Word × Word),
      (l.foldl (fun a p => let (m, v) := elemPut t p.1 p.2.1; (a.1 ||| m, a.2 ||| v)) a).1.getLsbD i =
        (a.1.getLsbD i || l.any fun p => (elemPut t p.1 p.2.1).1.getLsbD i) ∧
      (l.foldl (fun a p => let (m, v) := elemPut t p.1 p.2.1; (a.1 ||| m, a.2 ||| v)) a).2.getLsbD i =
        (a.2.getLsbD i || l.any fun p => (elemPut t p.1 p.2.1).2.getLsbD i) := by
    intro l
    induction l with
    | nil => simp
    | cons p l ih =>
      intro a
      simp only [List.foldl_cons, List.any_cons]
      rw [(ih _).1, (ih _).2]
      simp [Bool.or_assoc]
  simpa [elemsPut] using key l (0, 0)

theorem any_one {α : Type} {l : List α} {p : α} {f : α → Bool} (h : p ∈ l) (ho : ∀ q ∈ l, q ≠ p → f q = false) :
    l.any f = f p := by
  cases hf : f p
  · rw [List.any_eq_false]; intro q hq; by_cases h' : q = p
    · subst h'; simp [hf]
    · simp [ho q hq h']
  · exact List.any_eq_true.2 ⟨p, h, hf⟩

theorem elemW_one {t : Nat} (h : elemsOf t ≠ 1) : elemW t * elemsOf t = 64 := by
  unfold elemsOf elemW at *
  split at h
  · rename_i h'; rcases h' with rfl | rfl <;> simp
  · split at h
    · subst_vars; simp
    · exact absurd rfl h

/-- What the elements written to a lane leave in it. -/
theorem elemsPut_elem (t : Nat) (l : List (Nat × Elem)) (old : Word) (e : Nat) (he : e < elemsOf t)
    (hl : ∀ p ∈ l, p.1 < elemsOf t) (hd : ∀ p ∈ l, ∀ q ∈ l, p.1 = q.1 → p = q) :
    let b := (old &&& ~~~(elemsPut t l).1) ||| ((elemsPut t l).2 &&& (elemsPut t l).1)
    (∀ p ∈ l, p.1 = e → elemOf t b e = p.2.1 % 2 ^ elemW t) ∧
    ((∀ p ∈ l, p.1 ≠ e) → elemOf t b e = elemOf t old e) := by
  intro b
  have hfit := elem_fits he
  have bit : ∀ i < 64, b.getLsbD i = if (elemsPut t l).1.getLsbD i then (elemsPut t l).2.getLsbD i else old.getLsbD i := by
    intro i hi
    simp only [b, BitVec.getLsbD_or, BitVec.getLsbD_and, BitVec.getLsbD_not, hi, decide_true, Bool.true_and]
    cases (elemsPut t l).1.getLsbD i <;> simp
  -- positions of two elements of a packed type do not meet
  have off : ∀ e' < elemsOf t, e' ≠ e → ∀ j < elemW t, ¬ (elemW t * e' ≤ elemW t * e + j ∧ elemW t * e + j < elemW t * e' + elemW t) := by
    intro e' _ hne j hj hh
    rcases Nat.lt_or_gt_of_ne hne with h | h
    · have : elemW t * (e' + 1) ≤ elemW t * e := Nat.mul_le_mul_left _ h
      rw [Nat.mul_add, Nat.mul_one] at this; omega
    · have : elemW t * (e + 1) ≤ elemW t * e' := Nat.mul_le_mul_left _ h
      rw [Nat.mul_add, Nat.mul_one] at this; omega
  constructor
  · intro p hp hpe
    apply Nat.eq_of_testBit_eq
    intro j
    rw [elemOf_testBit, Nat.testBit_mod_two_pow]
    by_cases hj : j < elemW t
    · simp only [hj, decide_true, Bool.true_and]
      have hi : elemW t * e + j < 64 := by omega
      rw [bit _ hi]
      have hm : (elemsPut t l).1.getLsbD (elemW t * e + j) = true := by
        rw [(elemsPut_bits t l _).1]
        apply List.any_eq_true.2
        refine ⟨p, hp, ?_⟩
        rw [elemPut_mask _ _ _ _ hi, hpe]; simp [hj]
      rw [hm, if_pos rfl, (elemsPut_bits t l _).2, any_one hp]
      · rw [← hpe, elemPut_val _ _ _ _ (hl p hp) hj]
      · intro q hq hqp
        have hne : q.1 ≠ e := by intro h; exact hqp (hd q hq p hp (h.trans hpe.symm))
        have h1 : elemsOf t ≠ 1 := by
          intro h1; have := hl q hq; have := hl p hp; omega
        exact elemPut_val_off _ _ _ _ hi h1 (off _ (hl q hq) hne _ hj)
    · simp [hj]
  · intro hno
    apply Nat.eq_of_testBit_eq
    intro j
    rw [elemOf_testBit, elemOf_testBit]
    by_cases hj : j < elemW t
    · simp only [hj, decide_true, Bool.true_and]
      have hi : elemW t * e + j < 64 := by omega
      rw [bit _ hi]
      have hm : (elemsPut t l).1.getLsbD (elemW t * e + j) = false := by
        rw [(elemsPut_bits t l _).1, List.any_eq_false]
        intro q hq
        rw [elemPut_mask _ _ _ _ hi]
        have hne := hno q hq
        have h1 : elemsOf t ≠ 1 := by intro h1; have := hl q hq; omega
        simp only [h1, false_or, off _ (hl q hq) hne _ hj, decide_false]
        exact Bool.false_ne_true
      rw [hm]; simp
    · simp [hj]

/-- A whole-lane element replaces its lane. -/
theorem elemsPut_one (t : Nat) (x : Elem) (old : Word) (h : elemsOf t = 1) :
    (old &&& ~~~(elemsPut t [(0, x)]).1) ||| ((elemsPut t [(0, x)]).2 &&& (elemsPut t [(0, x)]).1) = (elemPut t 0 x.1).2 := by
  apply BitVec.eq_of_getLsbD_eq
  intro i hi
  have hm := elemPut_mask t 0 x.1 i hi
  rw [h] at hm
  simp only [true_or, decide_true] at hm
  have z : ∀ i, BitVec.getLsbD (0 : Word) i = false := fun _ => BitVec.getLsbD_zero
  simp only [elemsPut, List.foldl_cons, List.foldl_nil, BitVec.getLsbD_or, BitVec.getLsbD_and, BitVec.getLsbD_not, hi, hm, z]
  simp

theorem sext_signed (v : Nat) : sextNat 32 v = BitVec.ofInt 64 (sgnN 32 (v % 2 ^ 32)) := by
  unfold sextNat
  rw [BitVec.signExtend]
  congr 1
  rw [BitVec.toInt_eq_toNat_cond]
  simp only [BitVec.toNat_ofNat, sgnN]
  split <;> split <;> omega

/-- The result of one lane. -/
structure LaneOut (t : Nat) (f : Nat → Option Elem) (es : List (Nat × Elem)) : Prop where
  pos : ∀ p ∈ es, p.1 < elemsOf t
  dis : ∀ p ∈ es, ∀ q ∈ es, p.1 = q.1 → p = q
  one : elemsOf t = 1 → es = [] ∨ ∃ x, es = [(0, x)]
  val : ∀ e r, e < elemsOf t → (f e = some r ↔ (e, r) ∈ es)

theorem laneOut_lane {t : Nat} {f : Nat → Option Elem} {es : List (Nat × Elem)} (h : LaneOut t f es) (old : Word) (e : Nat)
    (he : e < elemsOf t) :
    let b := (old &&& ~~~(elemsPut t es).1) ||| ((elemsPut t es).2 &&& (elemsPut t es).1)
    (f e = none → elemOf t b e = elemOf t old e ∧ (elemsOf t = 1 → b = old)) ∧
    (∀ r, f e = some r → elemOf t b e = r.1 % 2 ^ elemW t ∧ (t = 4 → b.toNat < 2 ^ 32) ∧
      (t = 2 → b = BitVec.ofInt 64 (sgnN 32 (r.1 % 2 ^ 32)))) := by
  intro b
  have k := elemsPut_elem t es old e he h.pos h.dis
  constructor
  · intro hn
    have hno : ∀ p ∈ es, p.1 ≠ e := by
      intro p hp hpe
      have := (h.val e p.2 he).2 (by rw [← hpe]; exact hp)
      rw [hn] at this; cases this
    refine ⟨k.2 hno, ?_⟩
    intro h1
    rcases h.one h1 with rfl | ⟨x, rfl⟩
    · apply BitVec.eq_of_getLsbD_eq; intro i hi
      have z : ∀ i, BitVec.getLsbD (0 : Word) i = false := fun _ => BitVec.getLsbD_zero
      simp only [b, elemsPut, List.foldl_nil, BitVec.getLsbD_or, BitVec.getLsbD_and, BitVec.getLsbD_not, z, hi]
      simp
    · exact absurd (by show 0 = e; omega) (hno (0, x) (by simp))
  · intro r hr
    have hm := (h.val e r he).1 hr
    refine ⟨k.1 _ hm rfl, ?_, ?_⟩
    · rintro rfl
      rcases h.one rfl with rfl | ⟨x, rfl⟩
      · cases hm
      · have : b = _ := elemsPut_one 4 x old rfl
        rw [this]
        simp [elemPut, BitVec.toNat_ofNat]; omega
    · rintro rfl
      rcases h.one rfl with rfl | ⟨x, rfl⟩
      · cases hm
      · have : b = _ := elemsPut_one 2 x old rfl
        rw [this]
        have : r = x := by simp at hm; exact hm.2
        subst this
        exact sext_signed _

theorem laneFlags_bit (l : List LaneRes) (j : Nat) :
    (laneFlags l).getLsbD j = l.any fun r => r.elems.any fun e => e.2.2.getLsbD j := by
  have inner : ∀ (es : List (Nat × Elem)) (a : Fl), (es.foldl (fun b e => b ||| e.2.2) a).getLsbD j =
      (a.getLsbD j || es.any fun e => e.2.2.getLsbD j) := by
    intro es
    induction es with
    | nil => simp
    | cons e es ih => intro a; rw [List.foldl_cons, ih, List.any_cons, BitVec.getLsbD_or, Bool.or_assoc]
  have outer : ∀ (l : List LaneRes) (a : Fl), (l.foldl (fun a r => r.elems.foldl (fun b e => b ||| e.2.2) a) a).getLsbD j =
      (a.getLsbD j || l.any fun r => r.elems.any fun e => e.2.2.getLsbD j) := by
    intro l
    induction l with
    | nil => simp
    | cons r l ih => intro a; rw [List.foldl_cons, ih, List.any_cons, inner, Bool.or_assoc]
  rw [laneFlags, outer]; simp

theorem laneEvent_isSome (s : State) (k : Nat) (l : List LaneRes) :
    (laneEvent s k l).isSome = l.any fun r => r.elems.any fun e => decide (kindOf e.2.2 ≠ 0) := by
  have inner : ∀ (r : LaneRes), (r.elems.findSome? fun e => if kindOf e.2.2 = 0 then none else
      some (s.event k 0 0 r.lane e.1 (kindOf e.2.2))).isSome = r.elems.any fun e => decide (kindOf e.2.2 ≠ 0) := by
    intro r
    rw [List.isSome_findSome?]
    congr 1; funext e
    by_cases h : kindOf e.2.2 = 0 <;> simp [h]
  rw [laneEvent, List.isSome_findSome?]
  congr 1; funext r; exact inner r

/-- The list of a result's lanes. -/
theorem find_lane (on : Nat → Bool) (g : Nat → List (Nat × Elem)) (l : Nat) (h : l < 128) :
    (((List.range 128).filterMap fun l => if on l then some ({ lane := l, elems := g l } : LaneRes) else none).find?
      (·.lane == l)) = if on l then some { lane := l, elems := g l } else none := by
  cases ho : on l
  · rw [if_neg (by simp), List.find?_eq_none]
    intro r hr
    rw [List.mem_filterMap] at hr
    obtain ⟨m, _, hm⟩ := hr
    by_cases h' : on m = true
    · simp [h'] at hm; subst hm; simp; intro h2; subst h2; simp [ho] at h'
    · simp [h'] at hm
  · rw [if_pos rfl]
    have hex : ∃ r, (((List.range 128).filterMap fun l => if on l then some ({ lane := l, elems := g l } : LaneRes)
        else none).find? (·.lane == l)) = some r := by
      rw [← Option.isSome_iff_exists, List.find?_isSome]
      exact ⟨{ lane := l, elems := g l }, by rw [List.mem_filterMap]; exact ⟨l, by simpa using h, by simp [ho]⟩, by simp⟩
    obtain ⟨r, hr⟩ := hex
    rw [hr]
    have h1 := List.mem_of_find?_eq_some hr
    have h2 : r.lane = l := by simpa using List.find?_some hr
    rw [List.mem_filterMap] at h1
    obtain ⟨m, _, hm⟩ := h1
    by_cases h' : on m = true
    · simp [h'] at hm; subst hm; simp at h2; subst h2; rfl
    · simp [h'] at hm

/-- A result of vector elements writes what its lanes say. -/
theorem vecOut_writes {s : State} {i : Instr} {lat d t : Nat} {on : Nat → Bool} {g : Nat → List (Nat × Elem)}
    {f : Nat → Nat → Option Elem}
    (he : s.passes 1 i → exec i s = .next (s.vecOut lat d t ((List.range 128).filterMap fun l =>
      if on l then some ({ lane := l, elems := g l } : LaneRes) else none)))
    (hon : ∀ l < 128, on l = true → LaneOut t (f l) (g l)) (hoff : ∀ l < 128, on l = false → ∀ e, f l e = none) :
    WritesElems lat d t i s f := by
  intro hp
  refine ⟨_, _, _, he hp, ?_, ?_, ?_⟩
  · intro c l e hl hE b
    have hb : b = (c.lane d l &&& ~~~(if on l then elemsPut t (g l) else (0, 0)).1) |||
        ((if on l then elemsPut t (g l) else (0, 0)).2 &&& (if on l then elemsPut t (g l) else (0, 0)).1) := by
      show (c.put (.v d _)).lane d l = _
      rw [put_v_lane _ _ _ _ hl]
      have : (lanesPut t ((List.range 128).filterMap fun l =>
          if on l then some ({ lane := l, elems := g l } : LaneRes) else none)).getD l (0, 0) =
          (if on l then elemsPut t (g l) else (0, 0)) := by
        rw [lanesPut, tab_getD, if_pos hl, find_lane _ _ _ hl]
        cases on l <;> simp
      rw [this]
    cases ho : on l
    · rw [ho] at hb
      have hb : b = c.lane d l := by
        rw [hb]; apply BitVec.eq_of_getLsbD_eq; intro i hi
        have z : ∀ i, BitVec.getLsbD (0 : Word) i = false := fun _ => BitVec.getLsbD_zero
        simp only [Bool.false_eq_true, if_false, BitVec.getLsbD_or, BitVec.getLsbD_and, BitVec.getLsbD_not, z, hi]
        simp
      rw [hb, hoff l hl ho e]
      exact ⟨fun _ => ⟨rfl, fun _ => rfl⟩, fun r hr => by cases hr⟩
    · rw [ho, if_pos rfl] at hb
      rw [hb]
      exact laneOut_lane (hon l hl ho) _ e hE
  · intro j
    rw [laneFlags_bit, List.any_eq_true]
    constructor
    · rintro ⟨r, hr, h⟩
      rw [List.mem_filterMap] at hr
      obtain ⟨l, hl, hr⟩ := hr
      have hl := List.mem_range.1 hl
      by_cases ho : on l = true
      · rw [if_pos ho] at hr; cases hr
        rw [List.any_eq_true] at h
        obtain ⟨⟨e, x⟩, hm, hj⟩ := h
        have he := (hon l hl ho).pos _ hm
        exact ⟨l, e, x, hl, he, ((hon l hl ho).val e x he).2 hm, hj⟩
      · rw [if_neg ho] at hr; cases hr
    · rintro ⟨l, e, x, hl, he, hf, hj⟩
      have ho : on l = true := by
        cases ho : on l
        · rw [hoff l hl ho e] at hf; cases hf
        · rfl
      refine ⟨{ lane := l, elems := g l }, ?_, ?_⟩
      · rw [List.mem_filterMap]; exact ⟨l, List.mem_range.2 hl, by simp [ho]⟩
      · rw [List.any_eq_true]; exact ⟨(e, x), ((hon l hl ho).val e x he).1 hf, hj⟩
  · rw [laneEvent_isSome, List.any_eq_true]
    constructor
    · rintro ⟨r, hr, h⟩
      rw [List.mem_filterMap] at hr
      obtain ⟨l, hl, hr⟩ := hr
      have hl := List.mem_range.1 hl
      by_cases ho : on l = true
      · rw [if_pos ho] at hr; cases hr
        rw [List.any_eq_true] at h
        obtain ⟨⟨e, x⟩, hm, hj⟩ := h
        have he := (hon l hl ho).pos _ hm
        exact ⟨l, e, x, hl, he, ((hon l hl ho).val e x he).2 hm, by simpa using hj⟩
      · rw [if_neg ho] at hr; cases hr
    · rintro ⟨l, e, x, hl, he, hf, hj⟩
      have ho : on l = true := by
        cases ho : on l
        · rw [hoff l hl ho e] at hf; cases hf
        · rfl
      refine ⟨{ lane := l, elems := g l }, ?_, ?_⟩
      · rw [List.mem_filterMap]; exact ⟨l, List.mem_range.2 hl, by simp [ho]⟩
      · rw [List.any_eq_true]; exact ⟨(e, x), ((hon l hl ho).val e x he).1 hf, by simpa using hj⟩

/-- The elements of one lane in order. -/
theorem laneOut_range (t : Nat) (f : Nat → Elem) :
    LaneOut t (fun e => some (f e)) ((List.range (elemsOf t)).map fun e => (e, f e)) := by
  constructor
  · intro p hp; simp at hp; obtain ⟨a, ha, rfl⟩ := hp; exact ha
  · intro p hp q hq h; simp at hp hq; obtain ⟨a, _, rfl⟩ := hp; obtain ⟨b, _, rfl⟩ := hq; simp at h; subst h; rfl
  · intro h; right; rw [h]; exact ⟨f 0, rfl⟩
  · intro e r he
    exact ⟨fun h => by cases h; exact List.mem_map.2 ⟨e, List.mem_range.2 he, rfl⟩,
      fun h => by obtain ⟨a, _, h⟩ := List.mem_map.1 h; cases h; rfl⟩

/-- A lane-wise instruction writes the elements of the lanes that are on. -/
theorem lanewise_writes {s : State} {i : Instr} {lat : Nat} {d : BitVec 5} {p t : BitVec 3} {f : State → Nat → Nat → Elem}
    (he : exec i s = slotOp 1 i s (lanewise lat d p t f)) :
    WritesElems lat d.toNat t.toNat i s fun l e => if (s.me.preg p.toNat).getLsbD l then some (f s l e) else none := by
  refine vecOut_writes (on := fun l => (s.me.preg p.toNat).getLsbD l)
    (g := fun l => (List.range (elemsOf t.toNat)).map fun e => (e, f s l e)) ?_ ?_ ?_
  · intro hp; rw [he]; exact slotOp_ok hp rfl
  · intro l _ ho; simp only [ho, if_true]; exact laneOut_range _ _
  · intro l _ ho e; simp [ho]
end Sys2Proof.Machine
end

