-- ==== Sys2Proof/WellFormed.lean ====
section
/-! DEFINITION. Well-formed instructions: what an assembler may emit (R61 to R65). -/

namespace Sys2Proof

/-- No selector field names a reserved choice, and no register field names a register beyond its file (R61). -/
def Instr.wf (i : Instr) : Bool := !Machine.selectorBad i && !Machine.registerBad i

end Sys2Proof
end

