-- ==== Sys2Proof/Tests/Slice0.lean ====
section
/-! SUPPORT. Tests: words of the rules, ill-formed instructions, one step on small states, and for every statement a state
and operands that meet its hypotheses. Expected values are worked out from the rules. -/

open Sys2Proof Sys2Proof.Machine

set_option Elab.async false

/-! ## Decoding: the words that the rules write out -/

/-- Examples of the rules: addi s5, s5, 1; andi s2, s3, 0xFF; beq s1, s2, +5; bfi s1, s2, s3; bfii s1, s2, 60, 8; bfx
s1, s2, s3; bfxi s1, s2, 8, 4; bfxz s1, s2, s3; brk; clz s1, s2; div s6, s7, s8; ecall 0x12; j -3; jal +0x40; jbank
0x0200; jbank s31, 0x0200. -/
theorem test_decode_control_slot_1 :
    decodeSlot 0 0x08A50001 = .ok (.addi 5 5 1) ∧
    decodeSlot 0 0x0C4300FF = .ok (.andi 2 3 255) ∧
    decodeSlot 0 0x4C220005 = .ok (.beq 1 2 5) ∧
    decodeSlot 0 0x40221800 = .ok (.bfi 1 2 3) ∧
    decodeSlot 0 0x4422023C = .ok (.bfii 1 2 8 60) ∧
    decodeSlot 0 0x38221800 = .ok (.bfx 1 2 3) ∧
    decodeSlot 0 0x3C220108 = .ok (.bfxi 1 2 4 8) ∧
    decodeSlot 0 0x38221801 = .ok (.bfxz 1 2 3) ∧
    decodeSlot 0 0x70000002 = .ok .brk ∧
    decodeSlot 0 0x34220000 = .ok (.clz 1 2) ∧
    decodeSlot 0 0x30C74000 = .ok (.div 6 7 8) ∧
    decodeSlot 0 0x74000012 = .ok (.ecall 18) ∧
    decodeSlot 0 0x53FFFFFD = .ok (.j 0x3FFFFFD) ∧
    decodeSlot 0 0x54000040 = .ok (.jal 64) ∧
    decodeSlot 0 0x64000200 = .ok (.jbank 0 512) ∧
    decodeSlot 0 0x67E00200 = .ok (.jbank 31 512) := by decide

/-- Examples of the rules: jr s30, s5; loop s6, +3; loopi 100, +2; mfs s4, FLAGS; movi s7, -5; movk s7, 0xBEEF, 2; mts
MODE, s9; mulhu s1, s2, s3; ori s2, s3, 0x8000; sel s1, s2, s3, s4; shri s4, s5, 12; slti s1, s2, -1; sltiu s1, s2, 1;
stop; trap s5; xori s2, s3, 1. -/
theorem test_decode_control_slot_2 :
    decodeSlot 0 0x581F0000 = .ok (.jr 0 31) ∧
    decodeSlot 0 0x5CC00003 = .ok (.loop 6 3) ∧
    decodeSlot 0 0x600C8002 = .ok (.loopi 100 2) ∧
    decodeSlot 0 0x68800008 = .ok (.mfs 4 8) ∧
    decodeSlot 0 0x24FFFFFB = .ok (.movi 7 0x1FFFFB) ∧
    decodeSlot 0 0x28E2BEEF = .ok (.movk 7 2 0xBEEF) ∧
    decodeSlot 0 0x6C090007 = .ok (.mts 9 7) ∧
    decodeSlot 0 0x2C221802 = .ok (.mulhu 1 2 3) ∧
    decodeSlot 0 0x10438000 = .ok (.ori 2 3 0x8000) ∧
    decodeSlot 0 0x48221900 = .ok (.sel 1 2 3 4) ∧
    decodeSlot 0 0x2085004C = .ok (.shri 4 5 12) ∧
    decodeSlot 0 0x1822FFFF = .ok (.slti 1 2 0xFFFF) ∧
    decodeSlot 0 0x1C220001 = .ok (.sltiu 1 2 1) ∧
    decodeSlot 0 0x70000000 = .ok .stop ∧
    decodeSlot 0 0x70050003 = .ok (.trap 5) ∧
    decodeSlot 0 0x14430001 = .ok (.xori 2 3 1) := by decide

/-- Examples of the rules: yield. -/
theorem test_decode_control_slot_3 :
    decodeSlot 0 0x70000001 = .ok .yield := by decide

/-- Examples of the rules: pand p1, p2, p3; pcnt s4, p5; pfirst.p2 s4, p5; pmov p1, p2; pnot p1, p2; por p1, p2, p3;
pxor p1, p2, p3; rqpop v2, rq1; rqpop.p3 v2, rq1, p5; vabs.f v1, v2; vadd.f.p2 v4, v5, v6; vadds.b8 v1, v2, v3; vand
v1, v2, v3; vandn v1, v2, v3; vbcast.f v6, s9; vclz.i v1, v2. -/
theorem test_decode_vector_slot_1 :
    decodeSlot 1 0x7C221800 = .ok (.pand 1 2 3) ∧
    decodeSlot 1 0x80850000 = .ok (.pcnt 4 5 0) ∧
    decodeSlot 1 0x80850201 = .ok (.pfirst 4 5 2) ∧
    decodeSlot 1 0x7C220004 = .ok (.pmov 1 2) ∧
    decodeSlot 1 0x7C220003 = .ok (.pnot 1 2) ∧
    decodeSlot 1 0x7C221801 = .ok (.por 1 2 3) ∧
    decodeSlot 1 0x7C221802 = .ok (.pxor 1 2 3) ∧
    decodeSlot 1 0x84410000 = .ok (.rqpop 2 1 0 0 0) ∧
    decodeSlot 1 0x8441030D = .ok (.rqpop 2 1 3 1 5) ∧
    decodeSlot 1 0x4C220080 = .ok (.vabs 1 2 0 4) ∧
    decodeSlot 1 0x04853280 = .ok (.vadd 4 5 6 2 4) ∧
    decodeSlot 1 0x482218E0 = .ok (.vadds 1 2 3 0 7) ∧
    decodeSlot 1 0x3C221800 = .ok (.vand 1 2 3 0) ∧
    decodeSlot 1 0x3C221803 = .ok (.vandn 1 2 3 0) ∧
    decodeSlot 1 0x54C90080 = .ok (.vbcast 6 9 0 4) ∧
    decodeSlot 1 0x4C220042 = .ok (.vclz 1 2 0 2) := by decide

/-- Examples of the rules: vcmp.lt.f.p1 p3, v4, v5; vdiv.d v7, v8, v9; vexp2.f v10, v11; vext.i s3, v4, s5; vfma.d v3,
v1, v2; vfms.f v1, v2, v3; vfnma.d v1, v2, v3; vins.d v7, s8, s9; viota.l v3; viota.l.cnt.p2 v3; vlog2.bf v1, v2;
vmax.nl v1, v2, v3; vmin.i v1, v2, v3; vmov.p1 v2, v3; vmul.bf v1, v2, v3; vneg.d v1, v2. -/
theorem test_decode_vector_slot_2 :
    decodeSlot 1 0x34642982 = .ok (.vcmpLt 3 4 5 1 4) ∧
    decodeSlot 1 0x24E84860 = .ok (.vdiv 7 8 9 0 3) ∧
    decodeSlot 1 0x2D4B0082 = .ok (.vexp2 10 11 0 4) ∧
    decodeSlot 1 0x58642840 = .ok (.vext 3 4 5 2) ∧
    decodeSlot 1 0x10611060 = .ok (.vfma 3 1 2 0 3) ∧
    decodeSlot 1 0x14221880 = .ok (.vfms 1 2 3 0 4) ∧
    decodeSlot 1 0x18221860 = .ok (.vfnma 1 2 3 0 3) ∧
    decodeSlot 1 0x5CE84860 = .ok (.vins 7 8 9 0 3) ∧
    decodeSlot 1 0x78600000 = .ok (.viota 3 0 0) ∧
    decodeSlot 1 0x78600201 = .ok (.viotaCnt 3 2 0) ∧
    decodeSlot 1 0x2C2200A3 = .ok (.vlog2 1 2 0 5) ∧
    decodeSlot 1 0x20221820 = .ok (.vmax 1 2 3 0 1) ∧
    decodeSlot 1 0x1C221840 = .ok (.vmin 1 2 3 0 2) ∧
    decodeSlot 1 0x50430100 = .ok (.vmov 2 3 1) ∧
    decodeSlot 1 0x0C2218A0 = .ok (.vmul 1 2 3 0 5) ∧
    decodeSlot 1 0x4C220061 = .ok (.vneg 1 2 0 3) := by decide

/-- Examples of the rules: vnot v1, v2; vor v1, v2, v3; vpat.sw v4, v5, 37; vpopc.l v4, v5; vrcp.f v1, v2;
vred.add.f.core v9, v10; vred.max.i v1, v2; vrsq.d v1, v2; vsar.b8 v1, v2, v3; vsari.l v5, v6, 3; vsel.p4 v1, v2, v3;
vshli.i v1, v2, 4; vshr.i v5, v6, v7; vshuf v1, v2, v3; vsqrt.f v1, v2; vsub.l v1, v2, v3. -/
theorem test_decode_vector_slot_3 :
    decodeSlot 1 0x3C220004 = .ok (.vnot 1 2 0) ∧
    decodeSlot 1 0x3C221801 = .ok (.vor 1 2 3 0) ∧
    decodeSlot 1 0x6C852803 = .ok (.vpat 4 5 5 0 1 1) ∧
    decodeSlot 1 0x4C850003 = .ok (.vpopc 4 5 0 0) ∧
    decodeSlot 1 0x2C220080 = .ok (.vrcp 1 2 0 4) ∧
    decodeSlot 1 0x652A0088 = .ok (.vredAdd 9 10 0 4 1) ∧
    decodeSlot 1 0x64220042 = .ok (.vredMax 1 2 0 2 0) ∧
    decodeSlot 1 0x2C220061 = .ok (.vrsq 1 2 0 3) ∧
    decodeSlot 1 0x402218E2 = .ok (.vsar 1 2 3 0 7) ∧
    decodeSlot 1 0x44A60302 = .ok (.vsari 5 6 3 0) ∧
    decodeSlot 1 0x38221C00 = .ok (.vsel 1 2 3 4) ∧
    decodeSlot 1 0x44220440 = .ok (.vshli 1 2 4 2) ∧
    decodeSlot 1 0x40A63841 = .ok (.vshr 5 6 7 0 2) ∧
    decodeSlot 1 0x68221800 = .ok (.vshuf 1 2 3 0) ∧
    decodeSlot 1 0x28220080 = .ok (.vsqrt 1 2 0 4) ∧
    decodeSlot 1 0x08221800 = .ok (.vsub 1 2 3 0 0) := by decide

/-- Examples of the rules: vsubs.nl v1, v2, v3; vtanh.hf v1, v2; vtopk.f v12, v13, 2; vxor v1, v2, v3; xcopy v6, v7,
s8, 2. -/
theorem test_decode_vector_slot_4 :
    decodeSlot 1 0x48221821 = .ok (.vsubs 1 2 3 0 1) ∧
    decodeSlot 1 0x2C2200C4 = .ok (.vtanh 1 2 0 6) ∧
    decodeSlot 1 0x758D0081 = .ok (.vtopk 12 13 0 4 0 1) ∧
    decodeSlot 1 0x3C221802 = .ok (.vxor 1 2 3 0) ∧
    decodeSlot 1 0x70C74002 = .ok (.xcopy 6 7 8 0 2) := by decide

/-- Examples of the rules: grx td9, td4; seedscan s8, td2, s3, s4; setfmt fm1, s5; tacc t6, t3; tacc.sat t6, t3; tdld
td7, [h3+0x40]; tdset.base td5, s6; tdset.sub td5, td2, s6; tldb bs1, td3; tldc t4, td1; tldc.sp t4, td1; tmma.cs t1,
td2, bs1, fm2; tmma.gr.sp t5, td4, td6, fm0; tmov t6, t3; tstc t4, td2; tzero t2. -/
theorem test_decode_matrix_slot_1 :
    decodeSlot 2 0x52480000 = .ok (.grx 9 4) ∧
    decodeSlot 2 0x4C903200 = .ok (.seedscan 2 8 3 4) ∧
    decodeSlot 2 0x20405000 = .ok (.setfmt 1 5) ∧
    decodeSlot 2 0x59860000 = .ok (.tacc 6 3 0) ∧
    decodeSlot 2 0x59860010 = .ok (.tacc 6 3 1) ∧
    decodeSlot 2 0x25C60002 = .ok (.tdld 7 3 2) ∧
    decodeSlot 2 0x29406000 = .ok (.tdsetBase 5 6) ∧
    decodeSlot 2 0x29446040 = .ok (.tdsetSub 5 2 6) ∧
    decodeSlot 2 0x1C460000 = .ok (.tldb 1 3) ∧
    decodeSlot 2 0x0D020000 = .ok (.tldc 4 1 0) ∧
    decodeSlot 2 0x0D020001 = .ok (.tldc 4 1 1) ∧
    decodeSlot 2 0x04486800 = .ok (.tmmaCs 1 2 1 2 0 0) ∧
    decodeSlot 2 0x05518500 = .ok (.tmmaGr 5 4 6 0 0 1) ∧
    decodeSlot 2 0x55860000 = .ok (.tmov 6 3) ∧
    decodeSlot 2 0x11040000 = .ok (.tstc 4 2) ∧
    decodeSlot 2 0x08800000 = .ok (.tzero 2 0 0) := by decide

/-- Examples of the rules: tzero.i t2; tzero.sp t2; xcfm s6; xins s10, s11; xinv s10; xlook s8, s9; xmiss.p1 v7, v4,
v6; xpin s10, s11; xrdt s12, s10; xspec s5; xsq s6; xtagq.fa s7, s6; xtrain.p1 v4, v6. -/
theorem test_decode_matrix_slot_2 :
    decodeSlot 2 0x08800010 = .ok (.tzero 2 1 0) ∧
    decodeSlot 2 0x08800001 = .ok (.tzero 2 0 1) ∧
    decodeSlot 2 0x30006010 = .ok (.xcfm 6) ∧
    decodeSlot 2 0x4800A580 = .ok (.xins 10 11) ∧
    decodeSlot 2 0x4800A010 = .ok (.xinv 10) ∧
    decodeSlot 2 0x44109000 = .ok (.xlook 8 9) ∧
    decodeSlot 2 0x404E4300 = .ok (.xmiss 1 7 4 6) ∧
    decodeSlot 2 0x4800A5B0 = .ok (.xpin 10 11) ∧
    decodeSlot 2 0x4818A020 = .ok (.xrdt 12 10) ∧
    decodeSlot 2 0x300A0000 = .ok (.xspec 5) ∧
    decodeSlot 2 0x30006020 = .ok (.xsq 6) ∧
    decodeSlot 2 0x300E6030 = .ok (.xtagq 7 6 0) ∧
    decodeSlot 2 0x38404300 = .ok (.xtrain 1 4 6) := by decide

/-- Examples of the rules: coll.ar.add s5, td2, td3; coll.bc s5, td2, td3; coll.rs.add.wc s5, td2, td3; cpy s7, cq1,
[h4+s8]; cpya s7, cq0, [h4+s8]; discard h4, s10, 3; evrd s2, s3; fence 0x0003, .clu; fladd.add.die s5, s6;
fladd.arr.pan s5; fladd.drop.pan s5; flset.die s4, s5, s6, 9; flwait.bar.die s7, s8; flwait.eq.clu s7, s8, s9;
flwait.ge.pan s7, s8, s9; grp.free s5. -/
theorem test_decode_memory_slot_1 :
    decodeSlot 3 0x98A21800 = .ok (.collAr 5 2 3 0 0) ∧
    decodeSlot 3 0x98A21803 = .ok (.collBc 5 2 3) ∧
    decodeSlot 3 0x98A21821 = .ok (.collRs 5 2 3 1 0) ∧
    decodeSlot 3 0x68E44001 = .ok (.cpy 7 4 8 1) ∧
    decodeSlot 3 0x6CE44000 = .ok (.cpya 7 4 8 0) ∧
    decodeSlot 3 0xA0045003 = .ok (.discard 4 10 3) ∧
    decodeSlot 3 0xA4430000 = .ok (.evrd 2 3) ∧
    decodeSlot 3 0x3C020003 = .ok (.fence 2 3) ∧
    decodeSlot 3 0x78053032 = .ok (.fladdAdd 5 6 3) ∧
    decodeSlot 3 0x78050040 = .ok (.fladdArr 5 4) ∧
    decodeSlot 3 0x78050041 = .ok (.fladdDrop 5 4) ∧
    decodeSlot 3 0x7C8530C9 = .ok (.flset 4 5 6 3 9) ∧
    decodeSlot 3 0x80E80032 = .ok (.flwaitBar 7 8 3) ∧
    decodeSlot 3 0x80E84820 = .ok (.flwaitEq 7 8 9 2) ∧
    decodeSlot 3 0x80E84841 = .ok (.flwaitGe 7 8 9 4) ∧
    decodeSlot 3 0x9C050001 = .ok (.grpFree 5) := by decide

/-- Examples of the rules: grp.mk s5, [h4+s8]; grp.q s6, s5; hchk s1, h2; hinfo s6, h2; hmov h3, h2; hrel h2; istore
s3, s4; ld.d s9, [h2+0x40]; lda.w.die s3, [h1+0x4]; ldx.wz s3, [h1+s7]; nbclr s6; nbpv.pan vm1, s5, s6, s7; nbrd.mask
vm2, s6; nbrd.pan s9, s6; nbrd.st s9, s6; nbrd.vm s9, vm2, 3. -/
theorem test_decode_memory_slot_2 :
    decodeSlot 3 0x9CA44000 = .ok (.grpMk 5 4 8) ∧
    decodeSlot 3 0x9CC50002 = .ok (.grpQ 6 5) ∧
    decodeSlot 3 0x38220000 = .ok (.hchk 1 2) ∧
    decodeSlot 3 0x38C20003 = .ok (.hinfo 6 2) ∧
    decodeSlot 3 0x38620002 = .ok (.hmov 3 2) ∧
    decodeSlot 3 0x38020001 = .ok (.hrel 2) ∧
    decodeSlot 3 0x90032000 = .ok (.istore 3 4) ∧
    decodeSlot 3 0x05240C08 = .ok (.ld 9 2 0 3 8) ∧
    decodeSlot 3 0x14620981 = .ok (.lda 3 1 0 2 3 1) ∧
    decodeSlot 3 0x0C6218E0 = .ok (.ldx 3 1 0 6 7) ∧
    decodeSlot 3 0x8C060000 = .ok (.nbclr 6) ∧
    decodeSlot 3 0x84A63841 = .ok (.nbpv 5 6 7 4 1) ∧
    decodeSlot 3 0x88460002 = .ok (.nbrdMask 2 6 0) ∧
    decodeSlot 3 0x89260040 = .ok (.nbrd 9 6 4) ∧
    decodeSlot 3 0x89260001 = .ok (.nbrdSt 9 6 0) ∧
    decodeSlot 3 0x8922000F = .ok (.nbrdVm 9 2 3) := by decide

/-- Examples of the rules: qcfg q6, s5; qpop s5, q3; qpush q1, s6; qrq q6, rq0; qstat s4, q6; st.w.c3 s4, [h5+0x10];
stl.d.pan s4, [h3+0x8]; stx.d s4, [h5+s6]; sys.rest s1, s2; sys.save s1, s2; sys.shoot s4; sys.world s1; tlrd s5, tl2;
tlwait tl1, s7; vgath.w v5, [h2+v6]; vld.d v5, [h2+0x400]. -/
theorem test_decode_memory_slot_3 :
    decodeSlot 3 0x5CC50000 = .ok (.qcfg 6 5) ∧
    decodeSlot 3 0x4CA30000 = .ok (.qpop 5 3) ∧
    decodeSlot 3 0x48260000 = .ok (.qpush 1 6) ∧
    decodeSlot 3 0x64C00000 = .ok (.qrq 6 0) ∧
    decodeSlot 3 0x58860000 = .ok (.qstat 4 6) ∧
    decodeSlot 3 0x088A6804 = .ok (.st 4 5 3 2 4) ∧
    decodeSlot 3 0x18860E01 = .ok (.stl 4 3 0 3 4 1) ∧
    decodeSlot 3 0x108A0CC0 = .ok (.stx 4 5 0 3 6) ∧
    decodeSlot 3 0xA8011001 = .ok (.sysRest 1 2) ∧
    decodeSlot 3 0xA8011000 = .ok (.sysSave 1 2) ∧
    decodeSlot 3 0xA8040003 = .ok (.sysShoot 4) ∧
    decodeSlot 3 0xA8010002 = .ok (.sysWorld 1) ∧
    decodeSlot 3 0x74A01000 = .ok (.tlrd 5 2) ∧
    decodeSlot 3 0x70070800 = .ok (.tlwait 7 1) ∧
    decodeSlot 3 0x2CA408C0 = .ok (.vgath 5 2 0 2 6) ∧
    decodeSlot 3 0x1CA40C80 = .ok (.vld 5 2 0 3 128) := by decide

/-- Examples of the rules: vlds.d v5, [h2+s6]; vqpop v3, q3, p2; vqpush q1, v3; vscat.d v5, [h2+v6]; vst.d v5,
[h2+0x400]; vsts.w v5, [h2+s6]; xdfi s5, 0x0001; xdfw s5. -/
theorem test_decode_memory_slot_4 :
    decodeSlot 3 0x24A40CC0 = .ok (.vlds 5 2 0 3 6) ∧
    decodeSlot 3 0x54631008 = .ok (.vqpop 3 3 2 1) ∧
    decodeSlot 3 0x50230000 = .ok (.vqpush 1 3 0 0) ∧
    decodeSlot 3 0x30A40CC0 = .ok (.vscat 5 2 0 3 6) ∧
    decodeSlot 3 0x20A40C80 = .ok (.vst 5 2 0 3 128) ∧
    decodeSlot 3 0x28A408C0 = .ok (.vsts 5 2 0 2 6) ∧
    decodeSlot 3 0x40A00001 = .ok (.xdfi 5 1) ∧
    decodeSlot 3 0x44050000 = .ok (.xdfw 5) := by decide
/-- The bits of R66: `tmm` at level 3 with split N, mask register 2 inverted, ORD, COF and SP set, PARAM 0x12345678, and
three descriptor addresses; `tjmp` to address 0x40. -/
theorem test_decode_tile :
    decodeTile (0x01 + 3 * 2 ^ 8 + 2 * 2 ^ 12 + 2 * 2 ^ 16 + 2 ^ 19 + 2 ^ 20 + 2 ^ 21 + 2 ^ 22 + 0x12345678 * 2 ^ 32 +
      0x1000 * 2 ^ 64 + 0x2000 * 2 ^ 128 + 0x3000 * 2 ^ 192) =
      { op := 1, level := 3, split := 2, dm := 2, inv := true, ord := true, cof := true, spec := true, rsv := false,
        func := 0, param := 0x12345678, da := 0x1000, db := 0x2000, dc := 0x3000 } ∧
    tileDecodes (decodeTile (0x10 + 4 * 2 ^ 8 + 0x40 * 2 ^ 64)) (.tjmp (decodeTile (0x10 + 4 * 2 ^ 8 + 0x40 * 2 ^ 64))) = true ∧
    tileDecodes (decodeTile 0x0C) (.tcoll (decodeTile 0x0C)) = true ∧ tileDecodes (decodeTile 0x0D) (.tcoll (decodeTile 0x0D)) = false := by
  decide

/-- R52, R54, R61, R126, R133: words that stand for no instruction are refused by name. -/
theorem test_decode_refuses :
    decodeSlot 0 0x04000013 = .bad .reservedField ∧ decodeSlot 0 0x38220002 = .bad .reservedField ∧
    decodeSlot 0 0xF4000000 = .bad .illegalHeader ∧ decodeSlot 1 0xFC000000 = .bad .illegalOpcode ∧
    decodeSlot 0 0xC0000000 = .bad .illegalOpcode ∧ decodeSlot 0 0x28FCBEEF = .bad .reservedField := by decide

/-! ## Well-formedness: an ill-formed term for each check -/

/-- R60, R83: a register field that names no register. -/
theorem test_wf_refuses_registers :
    ([Instr.pand 8 1 1, .pand 1 8 1, .pand 1 1 8, .por 8 1 1, .por 1 8 1, .por 1 1 8, .pxor 8 1 1, .pxor 1 8 1, .pxor 1 1 8,
      .pnot 8 1, .pnot 1 8, .pmov 8 1, .pmov 1 8, .pcnt 1 8 0, .pfirst 1 8 0, .rqpop 1 4 0 0 0, .tmmaCs 1 1 2 0 0 0,
      .tldc 1 16 0, .tstc 1 16, .tdrainF 1 4 0 0 1, .tdrainBf 1 4 0 0 1, .tdrainRaw 1 4, .tsclA 8 1 0 0 0, .tsclA 1 16 0 0 0,
      .tsclB 8 1 0 0, .tsclB 1 16 0 0, .tldb 2 1, .tldb 1 16, .setfmt 4 1, .tdld 1 16 0, .tdsetSub 1 16 1, .tdsetMov 1 16,
      .xpred 8 1 1 1 0, .xtrain 8 1 1, .xres 1 16 1 1 0 0, .xmiss 8 1 1 1, .grx 1 16, .tmov 1 16, .tacc 1 16 0, .trans 16 1,
      .hchk 1 16, .hrel 16, .hmov 16 1, .hmov 1 16, .hinfo 1 16, .qpush 8 1, .qpop 1 8, .vqpush 8 1 0 0, .vqpush 1 1 8 1,
      .vqpop 1 8 0 0, .vqpop 1 1 8 1, .qstat 1 8, .qcfg 8 1, .strq 4 1 0 0 0, .strq 1 16 0 0 0, .qrq 8 1, .qrq 1 4,
      .cpy 1 16 1 0, .cpya 1 16 1 0, .tlwait 1 4, .tlrd 1 4, .nbrdMask 8 1 0, .nbrdVm 1 8 0, .collAr 1 16 1 0 0,
      .collAr 1 1 16 0 0, .collRs 1 16 1 0 0, .collRs 1 1 16 0 0, .collAg 1 16 1, .collAg 1 1 16, .collBc 1 16 1,
      .collBc 1 1 16, .collA2a 1 16 1, .collA2a 1 1 16, .grpMk 1 16 1, .discard 16 1 0]).all (fun i => !i.wf) = true := by
  decide

/-- R61, R63, R83: a selector that names nothing, or an unused field that is not 0. -/
theorem test_wf_refuses_selectors :
    ([Instr.vsqrt 1 1 0 0, .vrcp 1 1 0 7, .vrsq 1 1 0 2, .vexp2 1 1 0 1, .vlog2 1 1 0 0, .vtanh 1 1 0 2, .vcvt 1 1 4 0 4 5 0,
      .vshl 1 1 1 0 4, .vshr 1 1 1 0 3, .vsar 1 1 1 0 5, .vshli 1 1 0 6, .vshri 1 1 0 3, .vsari 1 1 0 4, .vadds 1 1 1 0 3,
      .vsubs 1 1 1 0 4, .vclz 1 1 0 5, .vpopc 1 1 0 6, .vtopk 1 1 0 3 0 0, .viota 1 0 3, .viotaCnt 1 0 4, .rqpop 1 1 0 0 1,
      .tdrainF 1 1 1 0 0, .tdrainBf 1 1 1 0 0, .ld 1 1 0 7 0, .st 1 1 0 4 0, .ldx 1 1 0 7 1, .stx 1 1 0 5 1, .lda 1 1 0 7 0 0,
      .lda 1 1 0 0 6 0, .stl 1 1 0 4 0 0, .stl 1 1 0 0 7 0, .vld 1 1 0 7 0, .vst 1 1 0 4 0, .vlds 1 1 0 7 1, .vsts 1 1 0 6 1,
      .vgath 1 1 0 7 1, .vscat 1 1 0 4 1, .fence 6 0, .vqpush 1 1 1 0, .vqpop 1 1 1 0, .qcfg 5 1, .strq 1 1 0 0 3,
      .fladdArr 1 6, .fladdDrop 1 7, .fladdAdd 1 1 6, .flset 1 1 1 7 0, .flwaitEq 1 1 1 6, .flwaitGe 1 1 1 7, .flwaitBar 1 1 6,
      .nbpv 1 1 1 6 0, .nbrd 1 1 7, .nbrdSt 1 1 6, .nbrdMask 1 1 7, .collAr 1 1 1 0 3, .collAr 1 1 1 1 1, .collRs 1 1 1 0 3,
      .collRs 1 1 1 1 2]).all (fun i => !i.wf) = true := by
  decide

/-- Neighbours of those terms that a rule allows. -/
theorem test_wf_accepts :
    ([Instr.pand 7 7 7, .rqpop 1 3 0 1 1, .tmmaCs 1 1 1 0 0 0, .tldc 1 15 0, .setfmt 3 1, .trans 15 1, .hmov 15 15, .qpush 7 1,
      .qcfg 6 1, .strq 3 15 0 0 2, .tlwait 1 3, .vsqrt 1 1 0 3, .vcvt 1 1 1 0 4 5 0, .vshl 1 1 1 0 7, .vtopk 1 1 0 5 0 0,
      .viota 1 0 2, .tdrainF 1 1 1 0 1, .ld 1 1 0 6 0, .st 1 1 0 3 0, .lda 1 1 0 0 5 0, .fence 5 0, .nbrd 1 1 5,
      .collAr 1 1 1 1 0, .collRs 1 1 1 0 2]).all (fun i => i.wf) = true := by
  decide

/-! ## States for the tests -/

/-- Context 0 of core 0 selected on an active core, otherwise as reset leaves the machine. -/
def testBase : State :=
  (State.reset.modCore 0 fun k => { k with active := true, sel := some 0 }).modCtx 0 fun c => { c with st := .selected }

/-- That state with context 0 changed, as the issue stage presents it to an instruction. -/
def testCtx (f : Ctx → Ctx) : State := testBase.modCtx 0 f

/-- That state within a bundle whose conditions have passed. -/
def testGated (f : Ctx → Ctx) : State := { testCtx f with iss := { gated := true } }

/-- Registers s1, s2, … of context 0 with these values. -/
def testRegs (l : List Word) : State := testGated fun c => { c with s := l.zipIdx.map fun q => (q.2 + 1, q.1) }

/-- Core 0 changed. -/
def testCore (f : Core → Core) : State := { testBase.modCore 0 f with iss := { gated := true } }

/-- A next state with the property. -/
def after (o : Host.Outcome State Fault Refusal) (p : State → Bool) : Bool := match o with
  | .next t => p t
  | _ => false

/-- Within a bundle that has passed, the conditions of every slot's instruction hold. -/
theorem witness_passes (f : Ctx → Ctx) (k : Nat) (i : Instr) : (testGated f).passes k i := passes_of_gated rfl k i

/-- The same on a changed core. -/
theorem witness_passes_core (f : Core → Core) (k : Nat) (i : Instr) : (testCore f).passes k i := passes_of_gated rfl k i

/-- No compressed region is enabled where no register of one has been written. -/
theorem witness_noRegions {s : State} (h : ∀ q ∈ s.ctl, q.1 % 0x1000000 < 0x40300 ∨ 0x40340 ≤ q.1 % 0x1000000) : s.noRegions :=
    fun u i hi => by
  have e : regReset ((16 + u % 8) * 16777216 + (262912 + 8 * i)) = 0 := by
    unfold regReset
    have h1 : ((16 + u % 8) * 16777216 + (262912 + 8 * i)) / 0x1000000 = 16 + u % 8 := by omega
    have h2 : ((16 + u % 8) * 16777216 + (262912 + 8 * i)) % 0x1000000 = 262912 + 8 * i := by omega
    simp only [h1, h2]
    rw [if_neg (by omega), if_neg (by omega), if_neg (by omega), if_neg (by omega)]
  unfold State.czr State.cluReg State.reg
  rw [spGet_absent _ fun q hq => ?_, e]
  · simp [wfld]
  · have := h q hq
    simp only [ctlPa, mkPa]
    omega

/-- Every address is its own home where no migration has been set up. -/
theorem witness_homeOf {s : State} (h : ∀ q ∈ s.ctl, q.1 % 0x1000000 ≠ 0x100) (a : Nat) : s.homeOf a = a := by
  have m : s.migState (paDie a) = 0 := by
    unfold State.migState State.reg
    rw [spGet_absent _ fun q hq => ?_]
    · decide
    · have := h q hq
      simp only [ctlPa, mkPa]
      omega
  simp [State.homeOf, m]

/-! ## Witnesses: decoding and the step -/

/-- A slot instruction whose operands stand at the ends of their ranges. -/
theorem witness_EncodeDecode :
    slotOf (.addi 31 0 0xFFFF) = some 0 ∧ slotOf (.vadd 31 0 31 7 0) = some 1 ∧ slotOf (.tmmaCs 15 15 15 3 1 1) = some 2 := by
  decide

/-- A memory that lists one byte is canonical, and its step goes on. -/
theorem witness_StepKeepsMemory :
    let s := testBase.putByte 5 7
    memWf s.mem = true ∧ ∃ t, step s = .next t := ⟨by decide, _, rfl⟩

/-- `add s1, s2, s3` in slot 0 of the bundle at address 0. -/
def testBundle : State :=
  testBase.modCore 0 fun k => { k with ipad := [(ipadKey 0 0, bundleOf 0 0x04221800)] }

theorem witness_StepRunsBundle_issue :
    let s := { testBundle with agenda := [.issue 0 1] }
    let u := { ({ s with agenda := [] } : State).clock 1 with iss := {} }
    s.agenda = .issue 0 1 :: [] ∧ s.evNew = [] ∧ (∀ q ∈ s.pans, q.2.bells = []) ∧ u.now = s.now + 1 ∧ u.stageOf 0 = some 0 ∧ (u.select 0 0).mayIssue 0 = true := by decide +kernel

theorem witness_StepRunsBundle_one :
    testBundle.agenda = [] ∧ decodeSlot 0 0x04221800 = .ok (.add 1 2 3) ∧ (testBundle.ctx 0).pc = 0 ∧
    testBundle.bundleAt 0 0 = bundleOf 0 0x04221800 ∧
    (State.present { testBundle with iss := { x := 0 } } (slotsOf (bundleOf 0 0x04221800))).2 = .run ∧
    testBundle.padDue 0 (.add 1 2 3) = false := by decide +kernel

theorem witness_StepRunsBundle_exec :
    ∃ t, exec (.add 1 2 3) { testBundle with iss := { x := 0, gated := true, slot := 0 } } = .next t ∧
      t.iss.out = .run ∧ t.iss.gated = true := ⟨_, rfl, by decide, by decide⟩

theorem witness_StepRunsBundle_retire :
    testBase.me.snaps = [] ∧ testBase.iss.target = none ∧ testBase.me.loops = [] ∧
    ({ testBase with iss := { target := some 9 } } : State).iss.target = some 9 := by decide +kernel

/-- The Pour of panel 0 with stream 2 running and word `w` fetched. -/
def testPour (w : TileWord) : State :=
  ((testBase.modPan 0 fun q => { q with pourOn := true, strs := [(2, { fetched := some w })] }).setReg 0 0x5000200
      (BitVec.ofNat 64 (2 ^ 63))).setStrState 0 2 1

/-- `tjmp` to address 0x40. -/
def testTjmp : TileWord := decodeTile (0x10 + 4 * 2 ^ 8 + 0x40 * 2 ^ 64)

/-- An event leads the agenda; and the Pour's turn finds the word that stream 2 has fetched. -/
theorem witness_StepTakesTurns :
    ({ testBase with agenda := [.event (.dieReset 0)] } : State).agenda = .event (.dieReset 0) :: [] ∧
    tileDecodes testTjmp (.tjmp testTjmp) = true ∧
    ({ testPour testTjmp with agenda := [.pour 0 3] } : State).agenda = .pour 0 3 :: [] ∧
    (let u := ({ testPour testTjmp with agenda := [] } : State).clock 3
     u.pourPick 0 = some (2, true) ∧ (u.strm 0 2).fetched = some testTjmp) := by decide +kernel

/-- A long load into s2 is in flight. -/
def testLong : LongOp :=
  { id := 0, issued := 0, slot := 3, baddr := 0, kind := .load none, dest := .s 2 3, parts := [{ addr := 64, len := 8, lane := 0 }] }

theorem witness_Interlocks :
    (testCtx fun c => { c with longs := [testLong] }).iss.gated = false ∧
    (testCtx fun c => { c with longs := [testLong] }).me.interlocked (.s 2) = true ∧
    (testCtx fun c => { c with longs := [testLong] }).me.pchk = false ∧ testBase.me.pchk = false ∧ testBase.me.longs = [] := by
  decide +kernel

theorem witness_LandingFrame : (testBase.snap 0 1 (.s 0 5)).trap = none ∧ (testBase.snap 0 1 (.v 3 [])).trap = none := by decide +kernel

theorem witness_ExposedResults : testBase.me.snaps = [] := by decide +kernel

/-! ## Witnesses: scalar operations and control -/

theorem witness_ScalarProducts :
    (testRegs [0x8000000000000000, 0xFFFFFFFFFFFFFFFF]).sr 1 = BitVec.ofInt 64 (-(2 ^ 63)) ∧
    (testRegs [0x8000000000000000, 0xFFFFFFFFFFFFFFFF]).sr 2 = BitVec.ofInt 64 (-1) ∧ (testRegs [5, 0]).sr 2 = 0 := by decide +kernel

theorem witness_ScalarWords :
    (0x040007FF / 2 ^ 26 = 0x01 ∧ 19 ≤ 0x040007FF % 2 ^ 11) ∧ (0x04000013 / 2 ^ 26 = 0x01 ∧ 19 ≤ 0x04000013 % 2 ^ 11) ∧
    (0x20000100 / 2 ^ 26 = 0x08 ∧ 0x20000100 / 2 ^ 8 % 2 ^ 8 ≠ 0) ∧ (0x2C000004 / 2 ^ 26 = 0x0B ∧ 4 ≤ 0x2C000004 % 2 ^ 11) ∧
    (0x30000004 / 2 ^ 26 = 0x0C ∧ 4 ≤ 0x30000004 % 2 ^ 11) ∧ (0x34000800 / 2 ^ 26 = 0x0D ∧ 0x34000800 / 2 ^ 11 % 2 ^ 5 ≠ 0) ∧
    (0x34000005 / 2 ^ 26 = 0x0D ∧ 5 ≤ 0x34000005 % 2 ^ 11) ∧ (0x4C00C000 / 2 ^ 26 = 0x13 ∧ 6 ≤ 0x4C00C000 / 2 ^ 13 % 2 ^ 3) := by
  decide +kernel

/-- Taken and not taken, and targets at and beyond both ends of the instruction scratchpad. -/
theorem witness_Branches :
    let at_ := fun n => testGated fun c => { c with pc := n, s := [(1, 7), (2, 7), (3, 8)] }
    (at_ 0).sr 1 = (at_ 0).sr 2 ∧ (at_ 0).sr 1 ≠ (at_ 0).sr 3 ∧ ((at_ 5).own : Int) + (-5 : BitVec 13).toInt = 0 ∧
    ((at_ 5).own : Int) + (-6 : BitVec 13).toInt < 0 ∧ ((at_ 0x11FE).own : Int) + (1 : BitVec 13).toInt = 0x11FF ∧
    0x11FF < ((at_ 0x11FE).own : Int) + (2 : BitVec 13).toInt := by decide +kernel

/-- A transfer from 5 to 100 leaves the inner loop at 4 to 6, and stays in the outer one; one to 300 leaves both. -/
theorem test_popLoops :
    let i : LoopEnt := { first := 4, last := 6, count := 2 }
    let o : LoopEnt := { first := 0, last := 200, count := 3 }
    popLoops 5 100 [i, o] = [o] ∧ popLoops 5 300 [i, o] = [] ∧ popLoops 5 6 [i, o] = [i, o] ∧ popLoops 7 300 [i, o] = [i, o] := by
  decide +kernel

theorem witness_Jumps :
    let at_ := fun n => testGated fun c => { c with pc := n, s := [(1, 0x11FF), (2, 0x1200)] }
    ((at_ 3).own : Int) + (-3 : BitVec 26).toInt = 0 ∧ ((at_ 3).own : Int) + (-4 : BitVec 26).toInt < 0 ∧
    ((at_ 0).sr 1).toNat ≤ 0x11FF ∧ 0x11FF < ((at_ 0).sr 2).toNat ∧ (0x200 : BitVec 21).toInt = 0x200 ∧
    (0x11FF : BitVec 21).toInt = 0x11FF ∧ (0x1FF : BitVec 21).toInt < 0x200 ∧ 0x11FF < (0x1200 : BitVec 21).toInt ∧
    (0x1FFFFF : BitVec 21).toInt = -1 := by decide +kernel

theorem witness_Loops :
    let at_ := fun n l => testGated fun c => { c with pc := n, s := [(1, 0x100000000), (2, 3)], loops := l }
    let e : LoopEnt := { first := 1, last := 4, count := 2 }
    let c : LoopEnt := { e with count := 1, carry := true }
    (c.count ≤ 1 ∧ c.carry = true ∧ c.last = 4 ∧ inSequence [c, e] 4 = ([{ e with count := 1 }], 1)) ∧ ({ e with count := 1 } : LoopEnt).count ≤ 1 ∧
    e.last ≠ 3 ∧ (1 : BitVec 13).toInt = 1 ∧ (0 : BitVec 13).toInt ≤ 0 ∧ 0x11FF < ((at_ 0x11FF []).own : Int) + (1 : BitVec 13).toInt ∧
    ((at_ 4 [e]).sr 1).toNat % 2 ^ 32 = 0 ∧ 0 < ((at_ 4 [e]).sr 2).toNat % 2 ^ 32 ∧ (at_ 4 [e]).own = e.last ∧
    (at_ 4 [e, e, e, e]).me.loops.length = 4 ∧ (at_ 4 [e, e, e]).me.loops.length = 3 ∧ e.carry = false ∧ 1 < e.count := by
  decide +kernel

/-- `yield` with no other ready context, and with context 2 ready. -/
theorem witness_StopGroup :
    (testGated id).readyAfter 0 0 = none ∧
    (let s := (testGated id).modCtx 2 fun c => { c with st := .ready }
     s.readyAfter (coreOf s.x) (s.x % 4) = some 2 ∧ (s.core (coreOf s.x)).sel = some (s.x % 4)) := by decide +kernel

theorem witness_TrapEntry :
    (testGated id).me.priv = false ∧ (testGated id).me.origin = none ∧ (testGated id).me.st = .selected ∧
    ((testGated id).die 0).room = true ∧ testBase.iss.gated = false ∧ testBase.me.st = .selected := by decide +kernel

theorem witness_SpecialRegisters :
    let live := { (testBase.modCore 0 fun k => { k with tags := [(3, { live := true })] }).modCtx 0 fun c =>
      { c with s := [(1, 0x103), (2, 0x104), (3, 0x11FF), (4, 0x1200)] } with iss := { gated := true } }
    (live.sr 1).getLsbD 8 = true ∧ live.tagLive (coreOf live.x) ((live.sr 1).toNat % 256) = true ∧
    live.tagLive (coreOf live.x) ((live.sr 2).toNat % 256) = false ∧ (live.sr 3).toNat % 2 ^ 16 ≤ 0x11FF ∧
    0x11FF < (live.sr 4).toNat % 2 ^ 16 ∧ live.dormantOf (coreOf live.x) = some 1 ∧ (live.core (coreOf live.x)).starts = [] ∧
    (((live.modCtx 1 fun c => { c with st := .ready }).modCtx 2 fun c => { c with st := .frozen }).modCtx 3 fun c =>
      { c with st := .blocked }).dormantOf 0 = none ∧ (0x14 : BitVec 16).toNat = 0x14 ∧
    ((live.modCore 0 fun k => { k with starts := [{ cycle := 0, rank := 0, req := { entry := 0, regs := [], origin := .start } }] }).core 0).starts ≠ [] := by
  decide +kernel

/-- The last write of WCBWAIT by no core, by core 0 in this cycle, and by a higher core in this cycle. -/
theorem witness_SpecialRegisters_wcbwait :
    let s := fun b => testBase.modClu 0 fun u => { u with wcbBy := b }
    (testBase.me.snaps = [] ∧ ((s none).clu (cluOf 0)).wcbBy = none) ∧
    (((s (some (0, 0))).clu 0).wcbBy = some (testBase.now, 0) ∧ 0 ≤ coreOf testBase.x) ∧
    (((s (some (0, 3))).clu 0).wcbBy = some (testBase.now, 3) ∧ coreOf testBase.x < 3) := by decide +kernel

/-! ## Witnesses: vectors, predicates and result queues -/

/-- FP32 values whose sum, difference, product and quotient are not 0, and pairs for which they are. -/
theorem witness_CorrectRounding :
    (fp32 ∈ [fp16, bf16, fp32, fp64] ∧ (∀ g ∈ [fp16, bf16, fp64], g ≠ fp32)) ∧
    (∀ w ∈ [0x3F800000, 0x40400000, 0xBF800000, 0, 0x80000000, 0x7F7FFFFF, 1],
      w < 2 ^ fp32.width ∧ w / 2 ^ fp32.fb % 2 ^ fp32.eb < 2 ^ fp32.eb - 1) ∧
    fp32.units 0x3F800000 + fp32.units 0x40400000 ≠ 0 ∧ fp32.units 0x3F800000 + fp32.units 0xBF800000 = 0 ∧
    fp32.units 0x3F800000 - fp32.units 0x40400000 ≠ 0 ∧ fp32.units 0x80000000 - fp32.units 0 = 0 ∧
    fp32.units 1 * fp32.units 0x7F7FFFFF ≠ 0 ∧ fp32.units 0 * fp32.units 0x7F7FFFFF = 0 ∧ 0 < fp32.units 0x40400000 := by
  decide +kernel

/-- Sums, quotients and roots that R28 and R31 fix: 1 + 2^-24 stays 1 to nearest and is the next value upwards; 3 / 2 is
exact; the largest value doubled overflows to the largest value toward zero; the root of 2. -/
theorem test_rounding :
    fp32.add 0 0x3F800000 0x33800000 = (0x3F800000, flNX) ∧ fp32.add 2 0x3F800000 0x33800000 = (0x3F800001, flNX) ∧
    fp32.div 0 0x40400000 0x40000000 = (0x3FC00000, 0) ∧ fp32.mul 1 0x7F7FFFFF 0x40000000 = (0x7F7FFFFF, flOF ||| flNX) ∧
    fp32.sub 3 0x3F800000 0x3F800000 = (0x80000000, 0) ∧ fp32.sqrt 0 0x40000000 = (0x3FB504F3, flNX) := by decide +kernel

/-- A quiet and a signalling NaN, infinities, zeros and finite values of FP32, with what R29 and R88 give: invalid operations,
a zero divisor, the fused form and conversions. -/
theorem witness_CorrectRounding_specials :
    let nan := fun w => fp32.infBits < w % fp32.signBit
    let snan := fun w => fp32.infBits < w % fp32.signBit ∧ w % 2 ^ fp32.fb < 2 ^ (fp32.fb - 1)
    let inf := fun w => w % fp32.signBit = fp32.infBits
    let zero := fun w => w % fp32.signBit = 0
    (nan 0x7FC00000 ∧ ¬snan 0x7FC00000 ∧ snan 0x7F800001 ∧ inf 0x7F800000 ∧ inf 0xFF800000 ∧ zero 0 ∧ zero 0x80000000) ∧
    (¬nan 0x3F800000 ∧ ¬inf 0x3F800000 ∧ ¬zero 0x3F800000 ∧ ¬nan 0xFF800000 ∧ ¬nan 0x80000000 ∧ (1 : Int) ≠ 0) ∧
    (∀ w ∈ [0x7FC00000, 0x7F800001, 0x7F800000, 0xFF800000, 0x80000000], w < 2 ^ fp32.width) ∧
    fp32.add 0 0x7F800000 0xFF800000 = (0x7FC00000, flNV) ∧ fp32.div 0 0x3F800000 0x80000000 = (0xFF800000, flDZ) ∧
    fp32.div 0 0 0x80000000 = (0x7FC00000, flNV) ∧ fp32.sqrt 0 0xBF800000 = (0x7FC00000, flNV) ∧ fp32.sqrt 0 0x80000000 = (0x80000000, 0) ∧
    fp32.fma 0 0 0x7F800000 0x7FC00000 false false = (0x7FC00000, flNV) ∧ fp32.mul 0 0x7F800001 0x3F800000 = (0x7FC00000, flNV) ∧
    cvtFF fp32 fp16 0 0xFF800000 = (0xFC00, 0) := by decide +kernel

/-- Minimum and maximum of −0 and +0, of a number and a NaN, and of two NaNs of which one signals. -/
theorem test_minmax :
    fp32.minmax true 0x80000000 0 = (0, 0) ∧ fp32.minmax false 0 0x80000000 = (0x80000000, 0) ∧
    fp32.minmax false 0x7FC00000 0x3F800000 = (0x3F800000, 0) ∧ fp32.minmax true 0xBF800000 0x7F800001 = (0xBF800000, flNV) ∧
    fp32.minmax true 0x7FC00000 0x7F800001 = (0x7FC00000, flNV) := by decide +kernel

/-- Operands of the special functions: 3 and 1.5; 127.5, 200 and -200, at and beyond the ends of `vexp2`; 1, a power of
two, and 2^-20, which is tiny. -/
theorem witness_VectorFunctions_special :
    let u := fp32.units
    let one : Int := fp32.one
    (∀ w ∈ [0x40400000, 0x3FC00000, 0x42FF0000, 0x43480000, 0xC3480000, 0x3F800000, 0x35800000],
      w < 2 ^ fp32.width ∧ w / 2 ^ fp32.fb % 2 ^ fp32.eb < 2 ^ fp32.eb - 1 ∧ u w ≠ 0) ∧ (0x40400000 : Nat).testBit 31 = false ∧
    (u 0x40400000 % one = 0 ∧ u 0x40400000 / one = 3) ∧ u 0x3FC00000 % one ≠ 0 ∧ (u 0x3FC00000 / one < fp32.bias) ∧
    (u 0x42FF0000 % one ≠ 0 ∧ u 0x42FF0000 / one = fp32.bias) ∧ (fp32.bias : Int) < u 0x43480000 / one ∧
    u 0xC3480000 / one < -(fp32.bias + fp32.fb - 1) ∧ (u 0x3F800000).natAbs = 2 ^ 149 ∧
    (2 ^ 149 < (u 0x3FC00000).natAbs ∧ (u 0x3FC00000).natAbs < 2 ^ 150) ∧
    (((u 0x35800000).natAbs * (u 0x35800000).natAbs * 2 ^ (fp32.fb + 5) : Nat) : Int) < one * one := by decide +kernel

/-- Conversions: FP32 2.5, a value out of range, an infinity and a NaN to INT32; FP32 2.5 to itself; 300 to INT8. -/
theorem test_elCvt :
    elemW 4 = 32 ∧ (3 ≤ 4 ∧ 4 ≤ 6) ∧ ¬(3 ≤ 0) ∧ ¬(3 ≤ 2) ∧ elCvt 4 2 0 0x40200000 = (2, flNX) ∧ elCvt 4 2 0 0x4F000000 = (0x7FFFFFFF, flNV) ∧
    elCvt 4 2 0 0xFF800000 = (0x80000000, flNV) ∧ elCvt 4 2 0 0x7FC00000 = (0, flNV) ∧ elCvt 4 4 0 0x40200000 = (0x40000000, flNX) := by
  decide +kernel

/-- One part of a conversion between types of one width, the last of four parts, and a part beyond the last. -/
theorem witness_VectorFunctions :
    (0 : BitVec 5).toNat < max (elemsOf 3) (elemsOf 4) / min (elemsOf 3) (elemsOf 4) ∧
    max (elemsOf 3) (elemsOf 4) / min (elemsOf 3) (elemsOf 4) ≤ (1 : BitVec 5).toNat ∧
    (3 : BitVec 5).toNat < max (elemsOf 5) (elemsOf 3) / min (elemsOf 5) (elemsOf 3) ∧
    (let s := testCtx fun c => { c with priv := true }
     s.iss.gated = false ∧ s.me.priv = true ∧ s.ext 1 = 0) := by decide +kernel

theorem witness_VectorMoves :
    let s := testCore fun k => { k with pats := [(37, [1, 2])], patOk := [37] }
    s.iss.hdr = none ∧ ({ s with iss := { hdr := some (1, 2, 3) } } : State).iss.hdr = some (1, 2, 3) ∧ (s.core 0).patOk.contains (64 * (s.core 0).patBank + ((5 : BitVec 5).toNat + 32 * (1 : BitVec 1).toNat)) = true ∧
    (s.core 0).patOk.contains (64 * (1 - (s.core 0).patBank) + ((5 : BitVec 5).toNat + 32 * (1 : BitVec 1).toNat)) = false ∧
    (4 : Word).getLsbD 2 = true ∧ (4 : Word).getLsbD 7 = false := by decide +kernel

/-- Ranking: in group 0 of FP32 lanes holding 1.0 and 2.0, exactly one candidate stands above lane 0. -/
theorem witness_VectorReductions :
    let s := testGated fun c => { c with v := [(1, [0x3F800000, 0x40000000])], p := [(1, 3)] }
    let val := fun i => elemOf 4 (s.me.lane 1 i) 0
    ((s.me.preg 1).getLsbD 0 = true ∧ (s.me.preg 1).getLsbD 1 = true) ∧
    (fp32.val (val 1)).cmp (fp32.val (val 0)) = .gt ∧ (∀ h, h < 16 → 2 ≤ h → (s.me.preg 1).getLsbD h = false) := by decide +kernel

/-- Two candidates, both signalling NaNs, and output lane 2, which is past them. -/
theorem witness_VectorReductions_nan :
    let s := testGated fun c => { c with v := [(1, [0x7F800001, 0x7F800002])], p := [(1, 3)] }
    (∀ l < 2, (s.me.preg 1).getLsbD l = true ∧ fp32.snan (elemOf 4 (s.me.lane 1 l) 0) = true) ∧
    (List.range (16 * elemsOf 4)).countP (fun i => (s.me.preg 1).getLsbD (16 * 0 + i / elemsOf 4)) ≤ 2 := by decide +kernel

/-- The event of such a reduction is that of the lowest lane, and it raises NV; a lone candidate ranks first. -/
theorem test_reductionEvent :
    let s := testGated fun c => { c with v := [(1, [0, 0, 0x7F800001, 0x7F800002])], p := [(1, 0xC)] }
    after (exec (.vredAdd 2 1 1 4 0) s) (fun t => (t.ctx 0).snaps.any fun n =>
      n.flags == flNV && n.ev.any (fun e => e.lane == 2 && e.kind == 1)) = true ∧
    after (exec (.vtopk 2 1 1 4 0 1) (testGated fun c => { c with v := [(1, [0, 0x3F800000])], p := [(1, 2)] })) (fun t =>
      (t.ctx 0).snaps.any fun n => let c := (t.ctx 0).put n.dest
        c.lane 2 0 == 0x3F80000000000001 && c.lane 2 1 == 0xFF800000FFFFFFFF) = true := by decide +kernel

theorem witness_PredicatesAndResultQueues :
    let s := testCore fun k => { k with rq := [(1, [{ data := [5], valid := 1 }])] }
    spGet [] (s.core (coreOf s.x)).rq 1 = { data := [5], valid := 1 } :: [] ∧ spGet [] (s.core (coreOf s.x)).rq 0 = [] := by
  decide +kernel

/-! ## Memory, tiles and matrix operations -/

/-- The cluster SRAM of die 0 as a 32 MiB page at VA 0. -/
def testSram : Handle := { valid := true, rd := true, wr := true, size := 1, kind := 1, frame := sramPa 0 0 }
/-- The weight SRAM of core 0 as a 32 MiB page at VA 0x2000000. -/
def testWeights : Handle := { valid := true, rd := true, wr := true, size := 1, kind := 2, frame := wsramPa 0 0, va := 0x2000000 }

/-- Both pages translated at die 0, the first 1 MiB of cluster 0's SRAM allocated to stream 0, h2 the SRAM page, and
context 0 within a bundle that has passed. -/
def testMem (f : Ctx → Ctx) : State :=
  { (((testBase.modDie 0 fun d => { d with tlb := [{ world := false, page := testSram }, { world := false, page := testWeights }] }).setCluReg
      0 0x40200 (BitVec.ofNat 64 (0x100 * 2 ^ 32))).modCtx 0 fun c => f { c with h := [(2, testSram)] }) with iss := { gated := true } }

/-- The cluster has no compressed region in that state. -/
theorem witness_testMem_noRegions (f : Ctx → Ctx) : (testMem f).noRegions := by
  apply witness_noRegions
  rw [show (testMem f).ctl = [(ctlPa 0 0x10040200, BitVec.ofNat 64 (0x100 * 2 ^ 32))] from rfl]
  decide

/-- A plain tile descriptor. -/
def testTd (base rows cols stride fmt : Nat) : BitVec 256 :=
  BitVec.ofNat 256 (base + rows * 2 ^ 64 + cols * 2 ^ 96 + stride * 2 ^ 128 + fmt * 2 ^ 160)

/-- Format profiles of R38: INT8 by INT8 signed into wrapping INT32; BF16 by a seeded B into FP32. -/
def testInt8 : Half := BitVec.ofNat 32 (0x01 + 0x01 * 2 ^ 8 + 2 ^ 16 + 2 ^ 17 + 2 ^ 22)
def testSeeded : Half := BitVec.ofNat 32 (0x05 + 0x20 * 2 ^ 8)

/-- td1 a 2 by 4 INT8 tile in SRAM, td2 a 4 by 8 one in weight SRAM, td3 one in SRAM to stage, td4 a 2 by 4 BF16 tile,
td5 a seeded 4 by 8 B at weight offset 0, td6 an FP32 and td7 an INT32 tile of 2 by 4; td8 a BF16 tile of 32 by 64. -/
def testTiles : State :=
  let s := testMem fun c => { c with fm := [(1, testInt8), (2, testSeeded)], s := [(1, 1), (2, 1024), (3, 1025)], td :=
    [(1, testTd 0x100 2 4 4 1), (2, testTd 0x2000000 4 8 0 1 ||| BitVec.ofNat 256 (2 ^ 172)), (3, testTd 0x200 4 8 8 1),
     (4, testTd 0x300 2 4 8 5), (5, testTd 0x2000000 4 8 0 0x20 ||| BitVec.ofNat 256 (3 * 2 ^ 170)), (6, testTd 0x400 2 4 16 7),
     (7, testTd 0x500 2 4 16 3), (8, testTd 0x1000 32 64 128 5)] }
  ((s.modCore 0 fun k => { k with bs := [(1, { fmt := 1, rows := 4, cols := 8, elems := List.replicate 32 3 })],
                                  acc := [(9, { kind := 1 })] }).setCluReg 0 0x40000 1)

/-- That state with one seed record at weight offset 0: one basis, 32 values of K. -/
def testSeed : State := testTiles.writeBytes (wsramPa 0 0) [1, 0, 1, 0, 5, 0, 0, 0, 0x80, 0x3F]

def testBView (d : Desc) : BView := { fmt := d.fmt, rows := d.rows, cols := d.cols, scaled := d.sbase != 0 }

theorem witness_MatrixMultiply_ws :
    let s := testTiles
    let db := s.desc 0 2
    s.iss.gated = true ∧ s.tagCheck 5 false true = none ∧ s.plainCheck (s.desc 0 1) false = none ∧
    mmaBad testInt8 false (s.desc 0 1) (testBView db) (db.stor == 0 && db.wsl) true 0 = false ∧
    s.operandCheck 0 (wslRanges db.base (fmtBits db.fmt) db.rows db.cols) db.base
      (db.base % fmtAlign db.fmt != 0 || db.base % 2048 / 32 != 0) false .weights = none := by decide +kernel

theorem witness_MatrixMultiply_gr :
    let s := testSeed
    let db := s.desc 0 5
    s.plainCheck (s.desc 0 4) false = none ∧
    mmaBad testSeeded true (s.desc 0 4) { testBView db with scaled := false } (db.stor == 3) true 0 = false ∧
    s.operandCheck 0 (seedRanges db) db.base (db.base % 64 != 0) false .weights = none ∧ s.recordBad db = none := by decide +kernel

theorem witness_MatrixMultiply_cs :
    let g : Staging := spGet {} (testTiles.core 0).bs 1
    mmaBad testInt8 false (testTiles.desc 0 1) { fmt := g.fmt, rows := g.rows, cols := g.cols, scaled := g.scaled } true true 0 =
      false := by decide +kernel

/-- R190: A of ones times a staged B of threes over K = 4 adds 12 where A has rows and B columns, and nothing elsewhere. -/
def testMma : Mma :=
  { prof := testInt8, m := 2, n := 8, k := 4, a := List.replicate 8 1, b := .cs (List.replicate 32 3), pages := [], sa := false,
    sb := false, xs := [], z := true }

def testMmaOp : AccOp := { id := 4, x := 0, life := 0, dst := 5, count := 0, baddr := 0, bank := 0, res := .mma testMma }

theorem test_mma_write :
    ((testCore fun k => { k with accq := [testMmaOp] }).core 0).accq = testMmaOp :: [] ∧ profValid testMma.prof = true ∧
    profAcc testMma.prof = 1 := by decide +kernel

theorem test_mma_value :
    after (exec (.accWriteComplete 0 4) (testCore fun k => { k with accq := [testMmaOp] })) (fun t =>
      (t.acc 0 5).data.getD 0 0 == 12 && (t.acc 0 5).data.getD 71 0 == 12 && (t.acc 0 5).data.getD 8 0 == 0 &&
      (t.acc 0 5).data.getD 128 0 == 0 && (t.core 0).accq.isEmpty) = true := by decide +kernel

/-- A BF16 row of 1 and 2 times a staged column of 3 and 4, into FP32: both finite, and their dot product is not 0; the
same with saturating INT32, whose old value is the largest. -/
def testMmaFp : Mma :=
  { prof := BitVec.ofNat 32 (0x05 + 0x05 * 2 ^ 8), m := 1, n := 1, k := 2, a := [0x3F80, 0x4000],
    b := .cs [0x4040, 0x4080], pages := [], sa := false, sb := false, xs := [], z := true }
def testMmaSat : Mma :=
  { testMma with prof := BitVec.ofNat 32 (0x01 + 0x01 * 2 ^ 8 + 2 ^ 16 + 2 ^ 17 + 2 * 2 ^ 22), z := false }

theorem witness_MatrixMultiply_profiles :
    let o : AccOp := { testMmaOp with res := .mma testMmaFp }
    let s := testCore fun k => { k with accq := [o], acc := [(5, { kind := 1, data := [0x7FFFFFFF] })] }
    (s.core 0).accq = o :: [] ∧ profValid testMmaFp.prof = true ∧ profA testMmaFp.prof = 0x05 ∧ profValid testMmaSat.prof = true ∧
    profAcc testMmaSat.prof = 2 ∧ (s.ctx testMmaOp.x).life = testMmaOp.life ∧
    (∀ w ∈ [0x3F80, 0x4000, 0x4040, 0x4080], w < 2 ^ bf16.width ∧ w / 2 ^ bf16.fb % 2 ^ bf16.eb < 2 ^ bf16.eb - 1) ∧
    (∀ k, k < 2 → s.mmaB testMmaFp k 0 = [0x4040, 0x4080].getD k 0) ∧
    (sgnN 32 ((s.acc 0 5).data.getD 0 0).toNat + 12 > 2 ^ 31 - 1) := by decide +kernel

/-- 1 · 3 + 2 · 4 is 11; the largest INT32 value stays itself. -/
theorem test_mma_profiles :
    let fp := testCore fun k => { k with accq := [{ testMmaOp with res := .mma testMmaFp }] }
    let i := testCore fun k =>
      { k with accq := [{ testMmaOp with res := .mma testMmaSat }], acc := [(5, { kind := 1, data := [0x7FFFFFFF] })] }
    after (exec (.accWriteComplete 0 4) fp) (fun t => (t.acc 0 5).data.getD 0 0 == 0x41300000) = true ∧
    after (exec (.accWriteComplete 0 4) i) (fun t => (t.acc 0 5).data.getD 0 0 == 0x7FFFFFFF) = true := by
  decide +kernel

theorem witness_MatrixMultiply_tag :
    testTiles.tagCheck 1 true false = some 0x32 ∧
    (testCore fun k => { k with acc := [(1, { tv := true })] }).tagCheck 1 false true = some 0x12 := by decide +kernel

/-- Sixteen free places in the result queue, formats, kinds and shapes that fit. -/
theorem witness_Accumulators :
    let s := testTiles
    (s.tagCheck 1 false true = none ∧ s.tagCheck 1 false false = none) ∧ (s.acc 0 1).tv = false ∧
    ((s.desc 0 6).fmt = 0x07 ∧ (s.desc 0 7).fmt = 0x03 ∧ (s.desc 0 4).fmt = 0x05) ∧ (s.desc 0 6).plain = true ∧
    s.plainCheck (s.desc 0 6) false = none ∧ s.plainCheck (s.desc 0 6) true = none ∧ s.plainCheck (s.desc 0 7) true = none ∧
    (s.acc 0 1).kind = (s.acc 0 2).kind ∧ (s.acc 0 1).kind = 0 ∧ (s.acc 0 9).kind = 1 ∧ (s.acc 0 1).kind ≠ (s.acc 0 9).kind ∧
    (spGet [] (s.core 0).rq 3).length + s.rqDue 0 3 + 16 ≤ 32 := by decide +kernel

/-- No room for the entries of a drain, counting those that are due; INT32 accumulators whose sum saturates. -/
theorem witness_Accumulators_full :
    let s := testCore fun k =>
      { k with rq := [(3, List.replicate 17 { data := [], valid := 0 })],
               acc := [(1, { kind := 1, data := [0x7FFFFFFF] }), (2, { kind := 1, data := [1] })] }
    32 < (spGet [] (s.core 0).rq 3).length + s.rqDue 0 3 + 16 ∧ (s.acc 0 1).tv = false ∧
    2 ^ 31 - 1 < sgnN 32 ((s.acc 0 1).data.getD 0 0).toNat + sgnN 32 ((s.acc 0 2).data.getD 0 0).toNat := by decide +kernel

theorem test_accumulators :
    let s := testCore fun k =>
      { k with rq := [(3, List.replicate 17 { data := [], valid := 0 })],
               acc := [(1, { kind := 1, data := [0x7FFFFFFF] }), (2, { kind := 1, data := [1] })] }
    after (exec (.tdrainRaw 1 3) s) (fun t => (t.ctx 0).why == some (.trap 0x10 0)) = true ∧
    after (exec (.tacc 1 2 1) s) (fun t => (t.core 0).accq.map (fun o => match o.res with
      | .data l _ _ => l.getD 0 0
      | .mma _ => 0) == [0x7FFFFFFF]) = true := by decide +kernel

theorem witness_TileDescriptors :
    let s := testTiles
    (fmtKnown (s.desc 0 1).fmt = true ∧ s.iss.hdr = none) ∧
    s.operandCheck 0 ((tsclWords (s.desc 0 1) 0 0 0 0).map fun p => (p.2, 4)) (s.desc 0 1).sbase ((s.desc 0 1).sbase % 4 != 0)
      false .sram = none ∧
    s.operandCheck 0 ((tsclWords (s.desc 0 1) 1 0 0 0).map fun p => (p.2, 4)) (s.desc 0 1).sbase ((s.desc 0 1).sbase % 4 != 0)
      false .sram = none ∧
    profValid testInt8 = true ∧ profValid 0x1000000 = false ∧
    s.accessCheck 0 (s.me.hreg 2) [{ off := 32, len := 32 }] 32 false = none ∧
    ownSram 0 (s.me.hreg 2) [{ off := 32, len := 32 }] = true ∧ s.pieceBad (s.me.hreg 2) { off := 32, len := 32 } = false ∧
    (let n := (s.me.tdreg 1).toNat
     fmtKnown (n / 2 ^ 160 % 256) = true ∧ n / 2 ^ 160 % 256 ≠ 0x20 ∧ n.testBit 172 = false ∧ n.testBit 169 = false ∧
     1 * fmtBits (n / 2 ^ 160 % 256) % 8 = 0) ∧ 1 * fmtBits 0x10 % 8 ≠ 0 ∧
    (s.desc 0 3).plain = true ∧ (s.desc 0 3).rows ≤ 128 ∧ (s.desc 0 3).rows * (s.desc 0 3).cols * fmtBits (s.desc 0 3).fmt ≤ 32768 ∧
    s.plainCheck (s.desc 0 3) false = none := by decide +kernel

/-- Cuts of a seeded B, of a weight-SRAM layout and of a column-major tile, aligned and not. -/
theorem witness_TileDescriptors_cuts :
    let s := testGated fun c => { c with td := [(1, testTd 0x2000000 64 128 0 0x20 ||| BitVec.ofNat 256 (3 * 2 ^ 170)),
      (2, testTd 0x2000000 64 8 0 1 ||| BitVec.ofNat 256 (2 ^ 172)), (3, testTd 0x100 64 8 64 0x10 ||| BitVec.ofNat 256 (2 ^ 169))] }
    let fmt := fun t => (s.me.tdreg t).toNat / 2 ^ 160 % 256
    (fmt 1 = 0x20 ∧ (32 % 32 = 0 ∧ 64 % 64 = 0) ∧ 33 % 32 ≠ 0) ∧
    (fmt 2 ≠ 0x20 ∧ (s.me.tdreg 2).toNat.testBit 172 = true ∧ 5 * fmtBits (fmt 2) % 8 = 0) ∧
    (fmt 3 ≠ 0x20 ∧ (s.me.tdreg 3).toNat.testBit 172 = false ∧ (s.me.tdreg 3).toNat.testBit 169 = true ∧
      2 * fmtBits (fmt 3) % 8 = 0 ∧ 1 * fmtBits (fmt 3) % 8 ≠ 0) ∧
    (∀ t ∈ [1, 2, 3], fmtKnown (fmt t) = true) ∧ fmtKnown ((s.me.tdreg 4 ||| BitVec.ofNat 256 (0xFF * 2 ^ 160)).toNat / 2 ^ 160 % 256) = false ∧
    (s.desc 0 2).plain = false := by decide +kernel

/-- The generator of R199 and the weight of R200 as functions of the seed, of the record, and of the element. -/
def testLfsr (seed n : Nat) : Nat → Nat
  | 0 => if seed ^^^ (0x9E3779B9 * (n + 1) % 2 ^ 32) = 0 then 1 else seed ^^^ (0x9E3779B9 * (n + 1) % 2 ^ 32)
  | k + 1 => testLfsr seed n k / 2 ^^^ (if testLfsr seed n k % 2 = 1 then 0x80200003 else 0)

def testSum (sum seed k n : Nat) (c : FVal) : Nat :=
  (fp32.ofVal 0 ((fp32.val sum).add 0 (if testLfsr seed n k % 2 = 1 then c else c.negate)).1).1

def testWeight (record k n : Nat) : Nat → Nat
  | 0 => 0
  | j + 1 => testSum (testWeight record k n j) (record / 2 ^ (8 * (4 + 6 * j)) % 2 ^ 32) k n
      (bf16.val (record / 2 ^ (8 * (8 + 6 * j)) % 2 ^ 16))

def testScanSum (s : State) (e : Desc) (seed : Nat) : Nat → Nat
  | 0 => 0
  | q + 1 => testSum (testScanSum s e seed q) seed (q / 64) (q % 64) (bf16.val (s.tileElem s.x e (q / 64) (q % 64)))

theorem witness_TileDescriptors_functions :
    (∀ seed n, testLfsr seed n 0 =
      if seed ^^^ (0x9E3779B9 * (n + 1) % 2 ^ 32) = 0 then 1 else seed ^^^ (0x9E3779B9 * (n + 1) % 2 ^ 32)) ∧
    (∀ seed n k, testLfsr seed n (k + 1) = testLfsr seed n k / 2 ^^^ (if testLfsr seed n k % 2 = 1 then 0x80200003 else 0)) ∧
    (∀ record k n, testWeight record k n 0 = 0) ∧
    (∀ record k n j, testWeight record k n (j + 1) = testSum (testWeight record k n j)
      (record / 2 ^ (8 * (4 + 6 * j)) % 2 ^ 32) k n (bf16.val (record / 2 ^ (8 * (8 + 6 * j)) % 2 ^ 16))) ∧
    (∀ s e seed, testScanSum s e seed 0 = 0) ∧
    (∀ s e seed q, testScanSum s e seed (q + 1) =
      testSum (testScanSum s e seed q) seed (q / 64) (q % 64) (bf16.val (s.tileElem s.x e (q / 64) (q % 64)))) :=
  ⟨fun _ _ => rfl, fun _ _ _ => rfl, fun _ _ _ => rfl, fun _ _ _ _ => rfl, fun _ _ _ => rfl, fun _ _ _ _ => rfl⟩

theorem witness_Grinder :
    let s := testSeed
    let e := s.desc 0 8
    (e.fmt = 0x05 ∧ e.plain = true ∧ e.rows = 32 ∧ e.cols = 64) ∧ (s.me.sreg 2).toNat ≤ 1024 ∧ 1024 < (s.me.sreg 3).toNat ∧
    (s.desc 0 5).fmt = 0x20 ∧ (s.desc 0 5).stor = 3 ∧ (s.desc 0 4).rows = 2 ∧ (s.desc 0 8).wsl = false ∧
    (s.desc 0 5).rows ≤ (s.desc 0 8).rows ∧ (s.desc 0 5).cols ≤ (s.desc 0 8).cols ∧
    s.plainCheck { s.desc 0 8 with rows := 4, cols := 8 } true = none := by decide +kernel

theorem witness_Grinder_scan : testTiles.plainCheck (testTiles.desc 0 8) false = none := by decide +kernel

def testScan : LongOp := { id := 0, issued := 0, slot := 2, baddr := 0, kind := .scan [77] 0, dest := .sw 4 }

theorem test_seedscan_result :
    after (exec (.seedscanResult 0) (testGated fun c => { c with longs := [testScan] })) (fun t =>
      (t.ctx 0).longs.isEmpty && (t.ctx 0).sreg 4 == 77) = true := by decide +kernel

/-! ## Witnesses: speculation, the predictor and the residency table -/

theorem witness_SpeculationTags :
    let s := { (testBase.modCore 0 fun k => { k with tags := [(0, { live := true }), (3, { live := true, df := true, cause := 0x21 })] }).modCtx
      0 fun c => { c with s := [(1, 0), (2, 3), (3, 255)], tagV := true } with iss := { gated := true } }
    (s.tagOf 0 1).live = false ∧ (∀ w, w < 1 → (s.tagOf 0 w).live = true) ∧ (s.tagOf 0 255).live = false ∧
    (s.tagOf 0 0).live = true ∧ (s.tagOf 0 0).df = false ∧ (s.tagOf 0 3).live = true ∧ (s.tagOf 0 3).df = true ∧
    (s.ctx 0).tagV = true ∧ (s.ctx 0).tag.toNat = 0 := by decide +kernel

/-- Every tag live. -/
theorem witness_SpeculationTags_full :
    let s := testCore fun k => { k with tags := (List.range 256).map fun t => (t, { live := true }) }
    ∀ v, v < 256 → (s.tagOf 0 v).live = true := by decide +kernel

/-- A prediction word has 1 in its top two bits; lane 0 is on and holds entry 5. -/
def testPred : State := testGated fun c =>
  { c with v := [(1, [BitVec.ofNat 64 (2 ^ 62 + 5 * 2 ^ 52)]), (2, [BitVec.ofNat 64 7])], p := [(1, 1), (2, 3)] }

theorem witness_Predictor :
    let s := testPred
    let on := fun p i => (s.me.preg p).getLsbD i = true
    (∃ i, i < 32 ∧ on 2 i ∧ (s.me.lane 1 i).toNat / 2 ^ 62 ≠ 1) ∧
    ¬(∃ i, i < 32 ∧ on 1 i ∧ (s.me.lane 1 i).toNat / 2 ^ 62 ≠ 1) ∧ on 1 0 ∧ (s.me.lane 1 0).toNat / 2 ^ 52 % 1024 = 5 ∧
    (∀ j, j < 32 → on 1 j → j ≠ 0 → (s.me.lane 1 j).toNat / 2 ^ 52 % 1024 ≠ 5) := by decide +kernel

theorem witness_Predictor_resolve :
    let s := testCore fun k => { k with acc := [(1, { tv := true, tag := 2 }), (2, {}), (3, { tv := true })] }
    (s.acc 0 1).tv = true ∧ (s.acc 0 2).tv = false ∧ (s.acc 0 3).tv = true ∧ (s.acc 0 1).kind = 0 ∧ (s.acc 0 2).kind = 0 ∧
    (s.tagOf 0 (s.acc 0 1).tag.toNat).df = false := by decide +kernel

/-- Confidences below 8 in every position of every entry; a confirmed row whose tag has a deferred fault. -/
theorem witness_Predictor_entries : ∀ n q, ((testPred.predEntry (coreOf testPred.x) n).getD q (0, 0)).2 < 8 := fun n q => by
  have h : testPred.predEntry (coreOf testPred.x) n = List.replicate 4 (0, 0) := rfl
  rcases q with _ | _ | _ | _ | q <;> simp [h]

theorem witness_Predictor_fault :
    let s := { (testBase.modCore 0 fun k =>
      { k with acc := [(1, { tv := true, tag := 2 })],
               tags := [(2, { live := true, df := true, cause := 0x21, faddr := 7 })] }).modCtx 0 fun c =>
      { c with v := [(2, [BitVec.ofNat 64 (2 ^ 15 + 9)])], p := [(3, 1)], s := [(1, 9)] } with iss := { gated := true } }
    (s.acc 0 1).tv = true ∧ (s.acc 0 4).tv = false ∧ (s.acc 0 1).kind = 0 ∧ (s.acc 0 4).kind = 0 ∧
    (s.me.preg 3).getLsbD 0 = true ∧ ((s.me.lane 2 0).toNat % 2 ^ 32).testBit 15 = true ∧
    (s.me.lane 2 0).toNat % 1024 = (s.me.sreg 1).toNat % 1024 ∧ (s.tagOf 0 (s.acc 0 1).tag.toNat).df = true ∧
    after (exec (.xres 1 4 1 2 5 3) s) (fun t => (t.ctx 0).why == some (.trap 0x30 7)) = true := by decide +kernel

theorem witness_ResidencyTable :
    let s := { testBase.modCore 0 fun k => { k with rdt := [(2, { v := true, tag := 9 }), (5, { v := true, pin := true, tag := 8 })] } with
      iss := { gated := true } }
    (s.rdtAt 0 2).v = true ∧ (s.rdtAt 0 2).tag.toNat = 9 ∧ (∀ j, j < 2 → ¬((s.rdtAt 0 j).v = true ∧ (s.rdtAt 0 j).tag.toNat = 9)) ∧
    (∀ j, j < 32 → ¬((s.rdtAt 0 j).v = true ∧ (s.rdtAt 0 j).tag.toNat = 7)) ∧ (s.rdtAt 0 5).pin = true ∧ (s.rdtAt 0 2).pin = false ∧
    (s.rdtAt 0 31).v = false ∧ (47 * 2 ^ 32 + 7) / 2 ^ 32 ≤ 47 ∧
    ¬(∃ j, j < 32 ∧ j ≠ 2 ∧ (s.rdtAt 0 j).v = true ∧ (s.rdtAt 0 j).tag.toNat = (47 * 2 ^ 32 + 7) % 2 ^ 32) ∧
    (∃ j, j < 32 ∧ j ≠ 2 ∧ (s.rdtAt 0 j).v = true ∧ (s.rdtAt 0 j).tag.toNat = 8 % 2 ^ 32) := by decide +kernel

/-! ## Witnesses: loads, stores, handles, queues and the scratchpad -/

/-- h2 the cluster's SRAM, h3 a page of die 0's HBM, h4 an invalid handle. -/
def testHandles : State := testMem fun c =>
  { c with h := [(2, testSram), (3, { valid := true, rd := true, wr := true, kind := 0, frame := mkPa 0 0 0x10000 })],
           s := [(1, 0x40), (2, 0x40 + 4 * 2 ^ 32), (3, 0x100040), (4, 5)], v := [(1, [BitVec.ofNat 64 (2 ^ 63), 16])] }

/-- In the window, outside it, at another home, and through a handle that is not valid; a bad byte. -/
theorem witness_Loads :
    let s := testHandles
    let q : Piece := { off := 0x40, len := 8 }
    s.iss.hdr = none ∧ s.accessCheck 0 (s.me.hreg 2) [q] 8 false = none ∧ ownSram 0 (s.me.hreg 2) [q] = true ∧
    s.pieceBad (s.me.hreg 2) q = false ∧ ({ s with bad := [(sramPa 0 0x40)] } : State).pieceBad (s.me.hreg 2) q = true ∧
    s.accessCheck 0 (s.me.hreg 3) [q] 8 false = none ∧ ownSram 0 (s.me.hreg 3) [q] = false ∧
    s.accessCheck 0 (s.me.hreg 4) [q] 8 false = some (0x22, 0) ∧
    s.accessCheck 0 (s.me.hreg 2) [{ off := 0x100000, len := 8 }] 8 false = some (0x26, 0x100000) ∧
    s.accessCheck 0 (s.me.hreg 2) [{ off := 0xFFFF8, len := 8 }] 8 false = none := by decide +kernel

/-- One access for each cause, in the order of R150: a secure page, secure bytes, no write permission, an odd offset, past the
page, outside the window, a seeded region; and one that passes. -/
theorem witness_Loads_causes :
    let s := ((testHandles.setReg 0 0x5001000 (BitVec.ofNat 64 (2 ^ 63 + 0x10000))).setReg 0 0x5001008 0x10000).setCluReg 0 0x40000 1
    let sram := s.me.hreg 2
    let cause := fun (h : Handle) (q : Piece) (w : Bool) => (s.accessCheck 0 h [q] 8 w).map (·.1)
    let q : Piece := { off := 0x40, len := 8 }
    cause { sram with world := true, rd := false } q false = some 0x25 ∧ cause (s.me.hreg 3) { q with off := 0x44 } false = some 0x25 ∧
    cause { sram with wr := false } { q with off := 0x44 } true = some 0x21 ∧
    cause sram { q with off := 0x2000004 } false = some 0x24 ∧ cause sram { q with off := 0x2000000 } false = some 0x23 ∧
    cause sram { q with off := 0x100000 } false = some 0x26 ∧ cause testWeights { q with off := 0 } true = some 0x18 ∧
    cause testWeights { q with off := 0 } false = none ∧ inClu 0 (sramPa 0 0x40) 8 = true ∧ inClu 0 (sramPa 1 0) 1 = false ∧
    inClu 0 (sramPa 0 0x3FFFF8) 16 = false := by decide +kernel

theorem witness_Stores :
    let s := testHandles
    let q : Piece := { off := 0x40, len := 8 }
    s.accessCheck 0 (s.me.hreg 2) [q] 8 true = none ∧ s.accessCheck 0 (s.me.hreg 3) [q] 8 true = none ∧
    s.accessCheck 0 (s.me.hreg 2) [{ off := 0x44, len := 8 }] 8 true = some (0x24, 0x44) := by decide +kernel

/-- Region 0 of cluster 0: 2 blocks at offset 0x1000. -/
def testRegion : State := testBase.setCluReg 0 0x40300 (BitVec.ofNat 64 (2 ^ 63 + 2 * 2 ^ 32 + 0x1000))

theorem witness_CompressedRegions :
    let s := testRegion
    let h := s.homeOf (sramPa 0 0x1080)
    paKind h = 1 ∧ paOff h < 0x2000000 ∧ 8 * paDie h + paOff h / 0x400000 = 0 ∧ paOff h % 0x400000 = 0x1080 ∧
    s.czrAt 0 0x1080 = some (0x1000, 2) ∧ 0x1080 < 0x1000 + 128 * 2 ∧ 0x1000 + 136 * 2 ≤ 0x400000 ∧ (s.clu 0).wcb = [] ∧
    (∀ i, i < 8 → i ≠ 0 → s.czr 0 i = none) := by decide +kernel

/-- A byte written into the region reads back from the entry, and after the entry's time limit from the block. -/
theorem test_region_flush :
    let s := testRegion.putByte (sramPa 0 0x1085) 0x77
    let w : WcbEnt := { base := 0x1000, blk := 1, data := [(5, 0x77)] }
    (s.clu 0).wcb[0]? = some w ∧ s.byte (sramPa 0 0x1085) = 0x77 ∧ s.byte (sramPa 0 0x1084) = 0 ∧
    after (exec (.wcbFlushTimeout 0 0) { s with now := 256 }) (fun t => (t.clu 0).wcb.isEmpty && t.byte (sramPa 0 0x1085) == 0x77 &&
      t.byte (sramPa 0 0x1084) == 0 && memWf t.mem) = true ∧
    after (exec (.wcbFlushTimeout 0 0) { s with now := 255 }) (fun t => !(t.clu 0).wcb.isEmpty) = true := by decide +kernel

theorem witness_Handles :
    let s := testHandles
    s.tlbFind 0 false 0x40 = some testSram ∧ s.tlbFind 0 false 0x4000000 = none ∧ (s.me.hreg 4).valid = false ∧
    (s.me.hreg 2).valid = true ∧ (s.me.hreg 2).size < 4 ∧ (s.me.hreg 2).kind < 4 ∧ s.iss.hdr = none ∧
    (testCtx fun c => { c with s := [(1, 0x4000000)] }).iss.gated = false ∧
    (testCtx fun c => { c with s := [(1, 0x4000000)] }).blocks 0 (.trans 1 1) = false ∧
    staticCheck false ((testCtx id).ext 3) (.trans 1 1) = none ∧
    (testCtx fun c => { c with tokens := (List.range 16).map fun t => (t, { mask := 1, waits := [] }) }).me.tokens.length = 16 ∧
    (∀ t, t < 16 → spHas t (testCtx fun c => { c with tokens := (List.range 16).map fun t => (t, { mask := 1, waits := [] }) }).me.tokens = true) ∧
    spHas 15 (testGated fun c => { c with tokens := [(15, { mask := 1, waits := [] })] }).me.tokens = true ∧
    (s.me.hreg 2).sramOf 0 = true ∧ (s.me.hreg 3).sramOf 0 = false ∧ ownSram 0 (s.me.hreg 2) [{ off := 0x400000, len := 64 }] = false ∧
    ownSram 0 (s.me.hreg 2) [{ off := 0x40, len := 128 }] = true ∧ s.runOut 0 (sramPa 0 0x40) 128 = false := by decide +kernel

/-- Queue 6 bound to core 3's queue 7, a full FIFO, entries to pop, and a link that is up. -/
theorem witness_Queues :
    let e : VEntry := { data := [9], valid := 1 }
    let s := { testBase.modCore 0 fun k =>
      { k with bind := [(6, { tq := 7, tcid := 3 })], recvQ := [(2, [e])], rq := [(1, [e])], sendQ := [(6, List.replicate 8 e)] } with
      iss := { gated := true } }
    (s.core 0).canSend 6 = true ∧ (s.core 0).canSend 7 = false ∧ (s.core 0).canSend 1 = true ∧
    (s.core 0).bind.find? (fun p => p.1 == 6) = some (6, { tq := 7, tcid := 3 }) ∧ spGet [] (s.core 0).rq 1 = e :: [] ∧
    spGet [] (s.core 0).rq 0 = [] ∧ spGet [] (s.core 0).recvQ 2 = e :: [] ∧ 8 ≤ (spGet [] (s.core 0).sendQ 6).length ∧
    staticCheck s.me.priv (s.ext 3) (.qpush 6 1) = none := by decide +kernel

/-- Dies 0 and 1 with their links up: the port to the east. -/
def testLinks : State :=
  (testBase.modDie 0 fun d => { d with linksUp := true }).modDie 1 fun d => { d with linksUp := true }

theorem witness_Queues_links : testBase.linkUp 0 0 = false ∧ testLinks.linkUp 0 1 = true ∧ testLinks.neighbour 0 1 = 1 := by
  decide +kernel

theorem witness_Queues_store :
    let e : VEntry := { data := [9], valid := 1 }
    let s := testHandles.modCore 0 fun k => { k with rq := [(1, [e])] }
    spGet [] (s.core 0).rq 1 = e :: [] ∧ s.accessCheck 0 (s.me.hreg 2) [{ off := 0x40, len := 1024 }] 8 true = none ∧
    s.isOwn 0 (.strq 1 2 1 0 0) = true ∧ s.isOwn 0 (.strq 1 3 1 0 0) = false ∧
    s.accessCheck 0 (s.me.hreg 3) [{ off := 0x40, len := 1024 }] 8 true = none := by decide +kernel

/-- The two halves of an entry for core 3 of die 0, queue 1. -/
def testHalf (h : Nat) (v : Word) : State :=
  { testBase with pkts := [{ num := 0, src := 1, dst := 0, here := 0, body := .half 3 1 h (List.replicate 64 v) 1 }], nextPkt := 1 }

/-- A second half whose first half has not arrived. -/
theorem witness_Queues_half :
    spHas ((1 * 64 + 3) * 8) ((testHalf 1 8).die 0).rhalf = false ∧ 1 < 6 ∧ 0 < (testHalf 1 8).nextPkt ∧
    after (exec (.queueEntryHalf 0 0) (testHalf 1 8)) (fun t => t.pkts.isEmpty && (t.core 3).recvQ.isEmpty && (t.die 0).rstore.isEmpty) = true := by
  decide +kernel

theorem test_queueEntryHalf :
    (testHalf 0 7).pktAt 0 0 = some { num := 0, src := 1, dst := 0, here := 0, body := .half 3 1 0 (List.replicate 64 7) 1 } ∧
    (testHalf 0 7).overtakes { num := 0, src := 1, dst := 0, here := 0, body := .half 3 1 0 (List.replicate 64 7) 1 } = false ∧
    (testHalf 1 8).canTake 3 1 = true ∧
    after (exec (.queueEntryHalf 0 0) (testHalf 0 7)) (fun t => spGet ([], 0) (t.die 0).rhalf ((64 + 3) * 8) == (List.replicate 64 7, 1)) = true ∧
    after (exec (.queueEntryHalf 0 0) ((testHalf 1 8).modDie 0 fun d => { d with rhalf := [((64 + 3) * 8, (List.replicate 64 7, 1))] }))
      (fun t => (spGet [] (t.core 3).recvQ 1).map (fun e => (e.data.getD 0 0, e.data.getD 64 0, e.valid)) ==
        [(7, 8, BitVec.ofNat 128 (1 + 2 ^ 64))]) = true := by decide +kernel

theorem witness_Scratchpad :
    let s := testCore fun k => { k with istores := [{ x := 0, bank := 1, baddr := 0x200, slot := 3, word := 5 }] }
    (s.core 0).istores = { x := 0, bank := 1, baddr := 0x200, slot := 3, word := 5 } :: [] ∧
    (0x30200 % 2 ^ 16 = 0x200 ∧ 0x311FF % 2 ^ 16 = 0x11FF) ∧ (testCtx fun c => { c with priv := true }).ext 3 = 0 ∧
    (∃ r ∈ (s.core 0).istores, r.x = s.x) ∧
    ((testBase.setReg 0 0x6000000 (BitVec.ofNat 64 (2 ^ 63))).evSel false 0 0).getLsbD 63 = true := by decide +kernel

theorem test_istoreLand :
    after (exec (.istoreLand 0) (testCore fun k => { k with istores := [{ x := 0, bank := 1, baddr := 0x200, slot := 3, word := 5 }] }))
      (fun t => slotWord (spGet 0 (t.core 0).ipad (ipadKey 1 0x200)) 3 == 5 && (t.core 0).istores.isEmpty) = true := by decide +kernel

/-- A word that lands in the active bank while the last word of its bundle is in flight, and then alone: a fetch sees the
old bundle until then. -/
theorem witness_Scratchpad_active :
    let r : IStoreRec := { x := 0, bank := 0, baddr := 0x200, slot := 3, word := 5 }
    let s := testCore fun k => { k with istores := [r, { r with slot := 2 }] }
    (s.core 0).istores = r :: [{ r with slot := 2 }] ∧ r.bank = (s.core 0).ibank ∧
    (∃ q ∈ [{ r with slot := 2 }], q.bank = r.bank ∧ q.baddr = r.baddr) ∧
    after (exec (.istoreLand 0) s) (fun t => t.bundleAt 0 0x200 == 0 && slotWord (spGet 0 (t.core 0).ipad (ipadKey 0 0x200)) 3 == 5 &&
      after (exec (.istoreLand 0) t) fun u => slotWord (u.bundleAt 0 0x200) 3 == 5 && slotWord (u.bundleAt 0 0x200) 2 == 5) = true := by
  decide +kernel

/-- The same write of context 0 has landed, with another word of the bundle in flight: the `ifence` of context 0 puts it into
the old bundle, which stays for context 1's write alone. -/
theorem test_fenced :
    let r : IStoreRec := { x := 0, bank := 0, baddr := 0x200, slot := 3, word := 5 }
    let k : Core := { landed := [r], olds := [(r.key, 0)] }
    (∀ q ∈ k.landed, q.key = r.key → q.x = 0) ∧ spHas r.key (k.fenced 0).olds = false ∧ spHas r.key (k.fenced 1).olds = true ∧
    (let m := { k with landed := [r, { r with x := 1, slot := 2 }] }
     slotWord (spGet 0 (m.fenced 0).olds r.key) 3 = 5 ∧ slotWord (spGet 0 (m.fenced 0).olds r.key) 2 = 0) := by decide +kernel

/-! ## Witnesses: copy engines, flags, boards and collectives -/

/-- A plain copy of 64 bytes from VA 0x1000 to VA 0x2000: the descriptor's bytes. -/
def testDescBytes : List Byte :=
  leBytes 8 0x1000 ++ leBytes 8 0x2000 ++ leBytes 4 64 ++ leBytes 4 1 ++ leBytes 40 0

def testCmd : CopyCmd :=
  { num := 1, x := 0, life := 0, world := false, priv := false, stream := 0, prio := 0, desc := testDescBytes, va := 0x100,
    pa := sramPa 0 0x100, atomic := false, tag := none, waits := [] }

theorem witness_CopyCommands :
    let s := testHandles
    ownSram 0 (s.me.hreg 2) [{ off := 0x40, len := 64 }] = true ∧ s.accessCheck 0 (s.me.hreg 2) [{ off := 0x40, len := 64 }] 64 false = none ∧
    (s.me.hreg 4).valid = false ∧ (s.me.hreg 3).valid = true ∧ sramHandle 0 (s.me.hreg 3) { off := 0x40, len := 64 } = false ∧
    sramHandle 0 (s.me.hreg 2) { off := 0x40, len := 64 } = true ∧ sramHandle 0 (s.me.hreg 2) { off := 0x44, len := 64 } = true ∧
    0x44 % 64 ≠ 0 ∧ (s.accessCheck 0 { s.me.hreg 2 with rd := false } [{ off := 0x40, len := 64 }] 64 false).isSome = true ∧
    sramHandle 0 { s.me.hreg 2 with rd := false } { off := 0x40, len := 64 } = true ∧
    staticCheck false ((testCtx fun c => { c with s := [(1, 1)] }).ext 3) (.tlwait 1 0) = none ∧
    (spGet {} ((testCtx fun c => { c with s := [(1, 1)] }).core 0).cq 0 : CopyQ).tl < ((testCtx fun c => { c with s := [(1, 1)] }).me.sreg 1).toNat := by
  decide +kernel

/-- The command alone in queue 0, with run `r`. -/
def testCopy (r : Option CopyRun) : State :=
  (testMem id).modCore 0 fun k => { k with cq := [(0, { next := 2, cmds := [{ testCmd with run := r }] })] }

theorem witness_CopyEvents_start :
    let s := testCopy none
    let m := testCmd
    s.startable 0 0 = some m ∧ m.run = none ∧ s.cmd 0 0 1 = some m ∧ m.bad = false ∧ m.gath = false ∧ m.dec = 0 ∧
    m.misaligned = none ∧ s.padFail m = none ∧ s.copyMiss 0 false (m.sources [] ++ m.dests) = none ∧
    s.copyFail m (m.sources [] ++ m.dests) = none ∧ ({ m with desc := leBytes 64 0 } : CopyCmd).bad = true ∧
    s.copyFail { m with desc := leBytes 8 0x100000 ++ testDescBytes.drop 8 }
      (({ m with desc := leBytes 8 0x100000 ++ testDescBytes.drop 8 } : CopyCmd).sources []) = none := by decide +kernel

/-- The whole life of the copy: start, one read, the writes, and its completion, with STAT and the timeline. -/
theorem test_copyCommandStart :
    after (exec (.copyCommandStart 0 0) (testCopy none)) (fun t => match t.cmd 0 0 1 with
      | some m => match m.run with
        | some r => r.phase == 2 && r.fault.isNone && r.reads.map (fun q => (q.va, q.len)) == [(0x1000, 64)]
        | none => false
      | none => false) = true := by decide +kernel

def testRead : CopyRun :=
  { phase := 2, reads := [{ addr := sramPa 0 0x1000, va := 0x1000, len := 64 }], pages := [testSram] }

def testWrite : CopyRun :=
  { phase := 3, writes := [{ addr := sramPa 0 0x2000, va := 0x2000, bytes := List.replicate 64 7 }], pages := [testSram] }

theorem witness_CopyEvents_transfer :
    let s := testCopy (some testRead)
    let w := testCopy (some testWrite)
    let m := { testCmd with run := some testRead }
    s.nextCmd 0 0 = some m ∧ (∀ o, o < 8 → o ≠ 0 → s.nextCmd (8 * 0 + o) 0 = none) ∧ s.cmd 0 0 1 = some m ∧ cluOf m.x = 0 ∧
    (s.clu 0).sb = [] ∧ s.transferOf 0 m = some (1, 0) ∧ paDie (sramPa 0 0x1000) = dieOf m.x ∧ paKind (sramPa 0 0x1000) ≠ 3 ∧
    s.badAt (sramPa 0 0x1000) 64 = false ∧ paDie (s.homeOf (sramPa 0 0x1000)) = dieOf m.x ∧ paDie (w.homeOf (sramPa 0 0x2000)) = dieOf m.x ∧
    testRead.walk = none ∧ w.transferOf 0 { testCmd with run := some testWrite } = some (2, 0) ∧ testCmd.dstk = 0 := by decide +kernel

theorem test_copyTransfer :
    after (exec (.copyTransfer 0 0) (testCopy (some testWrite))) (fun t =>
      t.byte (sramPa 0 0x2000) == 7 && t.byte (sramPa 0 0x203F) == 7 && t.byte (sramPa 0 0x2040) == 0) = true := by decide +kernel

/-- An atomic add (AOP 0, type code 1: 8 bytes) of 7 to the word at VA 0x2000, whose old value goes to VA 0x3000. -/
def testAtomic : CopyCmd :=
  let l := leBytes 8 0x1000 ++ leBytes 8 0x2000 ++ leBytes 4 8 ++ leBytes 4 1 ++ leBytes 8 0 ++ leBytes 4 (0x10 * 2 ^ 16) ++
    leBytes 12 0 ++ leBytes 8 0x3000 ++ leBytes 8 0
  { testCmd with atomic := true, desc := l }
def testAtomicRun : CopyRun :=
  { phase := 3, writes := [{ addr := sramPa 0 0x2000, va := 0x2000, bytes := leBytes 8 7 }], pages := [testSram] }
def testAtomics : State :=
  ((testMem id).modCore 0 fun k => { k with cq := [(0, { next := 2, cmds := [{ testAtomic with run := some testAtomicRun }] })] }).writeBytes
    (sramPa 0 0x2000) (leBytes 8 5)

theorem witness_CopyEvents_atomic :
    let m := { testAtomic with run := some testAtomicRun }
    m.atomic = true ∧ m.aop = 0 ∧ m.elemB = 8 ∧ m.aux = 0x3000 ∧ m.dstk = 0 ∧ testAtomics.nextCmd 0 0 = some m ∧
    (∀ o, o < 8 → o ≠ 0 → testAtomics.nextCmd (8 * 0 + o) 0 = none) ∧ testAtomics.transferOf 0 m = some (2, 0) ∧
    (testAtomicRun.writes.map (·.aux)) = [false] := by decide +kernel

theorem test_copyAtomic :
    after (exec (.copyTransfer 0 0) testAtomics) (fun t => t.mval (sramPa 0 0x2000) 8 == 12 && match t.cmd 0 0 1 with
      | some { run := some r, .. } => r.writes.map (fun w => (w.va, w.done, leVal w.bytes)) == [(0x2000, true, 7), (0x3000, false, 5)]
      | _ => false) = true := by decide +kernel

/-- A pattern of core 1 that a completed command has written becomes valid (R104). -/
theorem test_copyPattern :
    let r : CopyRun := { phase := 3, pats := [5] }
    let l := leBytes 8 0x1000 ++ leBytes 8 (5 * 2 ^ 16 + 1) ++ leBytes 4 128 ++ leBytes 4 1 ++ leBytes 8 0 ++
      leBytes 4 (0x40 * 2 ^ 8) ++ leBytes 28 0
    let m := { testCmd with desc := l, run := some r }
    m.dstk = 1 ∧ m.special = (1, 5) ∧
    after (exec (.copyCommandComplete 0 0 1) (testBase.modCore 0 fun k => { k with cq := [(0, { next := 2, cmds := [m] })] }))
      (fun t => (t.core 1).patOk == [5]) = true := by decide +kernel

theorem witness_CopyEvents_complete :
    let r : CopyRun := { phase := 3, evt := 2 }
    let s := testCopy (some r)
    let f := testCopy (some { fault := some (0x21, 0x1000) })
    let m := { testCmd with run := some r }
    s.cmd 0 0 1 = some m ∧ m.flag 0 = false ∧ m.flag 1 = false ∧ m.flag 2 = false ∧ m.flag 3 = false ∧ m.flag 4 = false ∧
    (spGet {} (s.core 0).cq 0 : CopyQ).done = [] ∧ m.num = (spGet {} (s.core 0).cq 0 : CopyQ).tl + 1 ∧ (f.die 0).room = true := by
  decide +kernel

theorem test_copyCommandComplete :
    after (exec (.copyCommandComplete 0 0 1) (testCopy (some { phase := 3, evt := 2 }))) (fun t =>
      t.byte (sramPa 0 0x138) == 2 && t.byte (sramPa 0 0x13A) == 0 && (spGet {} (t.core 0).cq 0 : CopyQ).tl == 1 &&
      (t.cmd 0 0 1).isNone) = true ∧
    after (exec (.copyCommandComplete 0 0 1) (testCopy (some { fault := some (0x21, 0x1000) }))) (fun t =>
      t.byte (sramPa 0 0x13A) == 0x21 && (t.die 0).store.map (fun f => (f.cause, f.src, f.faddr)) == [(0x21, 1, 0x1000)]) = true := by
  decide +kernel

theorem witness_FlagWords :
    let s := testRegs [5 * 64 + 3, 2 ^ 18, 63, 64, 0]
    ((s.me.sreg 1).toNat < 2 ^ 23 ∧ s.panelExists 0 ((s.me.sreg 1).toNat / 2 ^ 18) = true) ∧
    s.panelExists 0 ((s.me.sreg 2).toNat / 2 ^ 18) = false ∧ (s.me.sreg 3).toNat < 64 ∧ 64 ≤ (s.me.sreg 4).toNat ∧
    (s.me.sreg 1 &&& ~~~(s.reg 0 8) ≠ 0) ∧ (1 : Word) &&& ~~~((testBase.setReg 0 8 1).reg 0 8) = 0 ∧ s.me.watch = none ∧
    s.flagWord 0 63 = s.me.sreg 5 ∧ s.covers 0 4 = [] := by decide +kernel

/-- An arrival at flag 3, which expects 2 and has 1. -/
def testArrive : FlagArr := { input := 8, cycle := 0, n := 3, op := .add 1, id := 0, x := 0, scope := 4, covered := [] }

/-- The state, a cycle later, in which that arrival stands alone at core 5's flag port, and context 1 of the core waits for
COUNT 2. -/
def testFlag (ctl : Word) : State :=
  ((({ testBase with now := 1 }.modCore 5 fun k => { k with fport := [testArrive] }).writeBytes (flagPa 5 3) (leBytes 8 (2 * 2 ^ 32 + 1))).setCluReg 0 (0x41000 + 32 * (64 * 5 + 3)) ctl).modCtx
      21 fun c => { c with st := .blocked, watch := some { n := 3, cond := 1, val := 2 } }

theorem test_flagApply :
    after (exec (.flagApply 5) (testFlag 0)) (fun t => t.flagWord 5 3 == BitVec.ofNat 64 (2 * 2 ^ 32 + 2) &&
      (t.ctx 21).watch == some { n := 3, cond := 1, val := 2, hit := some (BitVec.ofNat 64 (2 * 2 ^ 32 + 2)) }) = true ∧
    (let ctl : Word := BitVec.ofNat 64 (2 ^ 63 + 2 ^ 57)
     actionOn ctl = true ∧ ctl.getLsbD 57 = true ∧
     after (exec (.flagApply 5) (testFlag ctl)) (fun t => t.flagWord 5 3 == BitVec.ofNat 64 (2 * 2 ^ 32)) = true) := by
  decide +kernel

/-- The action of flag 3 of core 5 arrives at flag 9 of core 6, sets flag 9 of core 7 to VAL, or adds VAL to it; context 1
waits for the barrier. -/
theorem witness_FlagWords_actions :
    let ctl := fun k : Nat => BitVec.ofNat 64 (2 ^ 63 + k * 2 ^ 61 + (if k = 0 then 6 * 64 else 0) + 9)
    let s := fun k => (((testFlag (ctl k)).setCluReg 0 (0x41000 + 32 * (64 * 5 + 3) + 8) 1).setCluReg 0 (0x41000 + 32 * (64 * 5 + 3) + 16) 0x80).setCluReg
      0 (0x41000 + 32 * (64 * 5 + 3) + 24) 11
    let l := fun k => ((s k).setReg 0 8 1).modCtx 22 fun c => { c with st := .blocked, watch := some { n := 3, cond := 2, val := 0 } }
    let new := flUpdate ((l 0).flagWord 5 3) testArrive.op
    ((l 0).core 5).fport = [testArrive] ∧ testArrive.remote = none ∧ testArrive.cycle < (l 0).now ∧
    (¬((l 0).flagWord 5 3).toNat / 2 ^ 32 ≤ ((l 0).flagWord 5 3).toNat % 2 ^ 32) ∧ new.toNat / 2 ^ 32 ≤ new.toNat % 2 ^ 32 ∧
    (∀ k < 3, ((l k).action 5 3 0).getLsbD 63 = true ∧ ((l k).action 5 3 0).toNat / 2 ^ 58 % 8 < 6 ∧ ((l k).action 5 3 0).getLsbD 57 = false) ∧
    (l 0).panelExists 0 0 = true ∧ testArrive.covered = [] ∧ ((l 0).core 5).fcov = [] ∧
    (∀ o ∈ ((l 0).core 5).fport, o.cycle < (l 0).now) ∧ (∀ o ∈ ((l 0).core 6).fport, o.cycle < (l 0).now) ∧
    after (exec (.flagApply 5) (l 0)) (fun t => (t.core 6).fport.map (fun a => (a.n, a.op, a.x)) == [(9, .add 1, 20)] &&
      (t.ctx 22).watch == some { n := 3, cond := 2, val := 0, hit := some new }) = true ∧
    after (exec (.flagApply 5) (l 1)) (fun t => (t.core 7).fport.map (fun a => (a.n, a.op)) == [(9, .set 11)]) = true ∧
    after (exec (.flagApply 5) (l 2)) (fun t => (t.core 7).fport.map (fun a => (a.n, a.op)) == [(9, .add 11)]) = true := by decide +kernel

/-- An operation on slot 3 of board 2, which has 4 slots. -/
def testBoardArr (op : BoardOp) : BoardArr :=
  { input := 0, cycle := 0, b := 2, slot := 3, op := op, id := 0, x := 0, long := 7, scope := 3, secure := false }

/-- The state, a cycle later, in which such an operation stands alone at the home. -/
def testBoard (op : BoardOp) : State :=
  ({ testBase with now := 1 }.modDie 0 fun d => { d with bport := [testBoardArr op] }).setReg 0 (0x1000000 + 16) (BitVec.ofNat 64 (2 ^ 63 + 4))

theorem witness_NoticeBoards :
    let s := testBoard .rd
    let cfg := s.reg 0 (0x1000000 + 8 * 2)
    let n := 2 * 2 ^ 16 + 3
    (testBoardArr .rd).cycle < s.now ∧ cfg.getLsbD 63 = true ∧ cfg.toNat % 2 ^ 9 = 4 ∧ cfg.getLsbD 62 = false ∧ (n / 2 ^ 37 = 0 ∧ n / 2 ^ 28 % 16 = 0 ∧
    n / 2 ^ 8 % 2 ^ 8 = 0 ∧ s.panelExists 0 (n / 2 ^ 32) = true) ∧ (4 : Nat) ≤ 4 ∧
    (BitVec.ofNat 64 (2 ^ 63 + 2 ^ 62 + 4) : Word).getLsbD 62 = true ∧ (testBase.reg 0 (0x1000000 + 8 * 2)).getLsbD 63 = false := by
  decide +kernel

theorem test_boardOpApply :
    after (exec (.boardOpApply 0) (testBoard (.post 99))) (fun t =>
      let b : Board := spGet {} (t.die 0).boards 2
      b.mask == 8 && spGet 0 b.vals 3 == 99 && spGet 0 b.gens 3 == 1 && b.level == 1 &&
      t.pkts.map (·.body) == [.boardReply 0 7 none 8 (BitVec.ofNat 64 (2 ^ 62 + 2 ^ 32 + 1))]) = true := by decide +kernel

def testBoardLong : LongOp :=
  { id := 7, issued := 0, slot := 3, baddr := 0, kind := .board 0 2 none, dest := .vms 1 4, off := 9 }

def testReply (ref : Option Nat) : State :=
  { testBase.modCtx 0 fun c => { c with longs := [testBoardLong] } with
    pkts := [{ num := 0, src := 0, dst := 0, here := 0, body := .boardReply 0 7 ref 8 55 }] }

theorem test_boardReply :
    (testReply none).overtakes { num := 0, src := 0, dst := 0, here := 0, body := .boardReply 0 7 none 8 55 } = false ∧
    after (exec (.boardReply 0 0) (testReply none)) (fun t => (t.ctx 0).sreg 4 == 55 && (t.ctx 0).vmreg 1 == 8 && (t.ctx 0).longs.isEmpty) = true ∧
    after (exec (.boardReply 0 0) (testReply (some 0x46))) (fun t => (t.ctx 0).st == .frozen && (t.ctx 0).why == some (.trap 0x46 9)) = true := by
  decide +kernel

/-! ## Witnesses: groups and collectives -/

/-- Group 7 of dies 0 and 1, generation 3, as member 0 holds it. -/
def testGroup : Group := { gen := 3, box := false, members := [0, 1], bx := 2, by_ := 1, bz := 1, idx := 0, stg := 1, next := 5 }

/-- FP32 tiles of 4, 4, 2 and 8 elements, and the group at die 0; s1 names it, s2 another generation of it, s3 it with
root 2. -/
def testGrp (g : Group) : State :=
  (testMem fun c => { c with
    td := [(1, testTd 0x1000 1 4 16 7), (2, testTd 0x2000 1 4 16 7), (3, testTd 0x3000 1 2 16 7), (4, testTd 0x4000 1 8 16 7)],
    s := [(1, 0x307), (2, 0x407), (3, 0x2307), (4, 0x10000)] }).modDie 0 fun d => { d with groups := [(7, g)] }

theorem witness_Groups :
    let s := testGrp testGroup
    s.groupOf 0 (0x307 % 2 ^ 12) = some testGroup ∧ s.groupOf 0 0x407 = none ∧ 2 ^ 12 ≤ (s.me.sreg 4).toNat ∧
    testGroup.shapeOk 0 0 false (s.desc 0 1) (s.desc 0 2) = true ∧ testGroup.shapeOk 1 0 false (s.desc 0 1) (s.desc 0 3) = true ∧
    testGroup.shapeOk 2 0 false (s.desc 0 1) (s.desc 0 4) = true ∧ testGroup.shapeOk 3 0 false (s.desc 0 1) (s.desc 0 2) = true ∧
    testGroup.shapeOk 4 0 false (s.desc 0 1) (s.desc 0 2) = true ∧ testGroup.shapeOk 1 0 false (s.desc 0 1) (s.desc 0 2) = false ∧
    ¬(0x2307 / 2 ^ 12 % 2 ^ 11 < testGroup.members.length) := by decide +kernel

/-- A descriptor of an unknown format; a collective that a member's die reset has ended already. -/
theorem witness_Groups_ended :
    let s := testGrp { testGroup with doomed := [(5, 1)] }
    fmtKnown (s.desc 0 1).fmt = true ∧ fmtKnown (descOf 0 (testTd 0x1000 1 4 16 0xFF)).fmt = false ∧ testGroup.colls = [] ∧
    [(5, 1)].find? (·.1 == testGroup.next % 2 ^ 16) = some (testGroup.next % 2 ^ 16, 1) ∧ (∀ q ∈ testGroup.doomed, q.1 ≠ testGroup.next % 2 ^ 16) ∧
    after (exec (.collAr 1 1 2 0 0) s) (fun t => (t.groupOf 0 0x307).map (fun g => (g.next, g.colls, g.cause)) == some (6, [], 0x2A) &&
      (t.core 0).fport.map (fun r => (r.n, r.op)) == [(0, .add 1)]) = true := by decide +kernel

/-- A reduction of the tile [0, 0, 0, 0] becomes collective 5 of the group. -/
theorem test_collAr :
    after (exec (.collAr 1 1 2 0 0) (testGrp testGroup)) (fun t => match t.collOf 0 7 5 with
      | some (g, c) => g.next == 6 && c.count == 4 && c.begun && c.steps == 1 && c.issuer == some (0, 0)
      | none => false) = true ∧
    after (exec (.grpQ 6 1) (testGrp testGroup)) (fun t => t.me.snaps.map (·.dest) ==
      [.s 6 (BitVec.ofNat 64 (2 ^ 63 + 3 * 2 ^ 58 + 2 ^ 30))]) = true := by decide +kernel

/-- A group descriptor at offset 0x40: id 9, one member in LIST, 2 units of staging. -/
def testMake (n : Nat) : State :=
  ((testMem fun c => { c with s := [(1, 0x40)] }).writeBytes (sramPa 0 0x40) (leBytes 1 9 ++ leBytes 1 0 ++ leBytes 2 n ++ leBytes 2 2)).writeBytes
    (sramPa 0 0x80) (leBytes 2 0 ++ leBytes 2 1)

theorem witness_Groups_make :
    let s := testMake 2
    let h := s.me.hreg 2
    let l := s.pieceBytes h { off := 0x40, len := 64 }
    let whole : Piece := { off := 0x40, len := 68 }
    h.valid = true ∧ ownSram 0 h [{ off := 0x40, len := 64 }] = true ∧ s.accessCheck 0 h [{ off := 0x40, len := 64 }] 64 false = none ∧
    ownSram 0 h [whole] = true ∧ s.accessCheck 0 h [whole] 64 false = none ∧
    s.groupMembers 0 l (elemsAt 2 ((s.pieceBytes h whole).drop 64)) = some [0, 1] ∧ s.groupMembers 0 l [1] = none ∧
    spHas 9 (s.die 0).groups = false ∧ (s.die 0).groups.length < 16 ∧
    spHas 9 ((s.modDie 0 fun d => { d with groups := [(9, testGroup)] }).die 0).groups = true ∧
    64 < (((s.modDie 0 fun d => { d with groups := [(7, { testGroup with stg := 63 })] }).die 0).groups.map fun g => g.2.stg).sum + 2 := by
  decide +kernel

/-- A descriptor that starts in the own cluster's SRAM and runs past its end at byte 0x400000, and one outside it. -/
theorem witness_Groups_outside :
    let h := (testMake 2).me.hreg 2
    h.sramOf 0 = true ∧ sramHandle 0 h { off := 0x3FFFE0, len := 64 } = false ∧ inClu 0 (h.pa (0x3FFFE0 + 32)) 1 = false ∧
    (∀ i, i < 32 → inClu 0 (h.pa (0x3FFFE0 + i)) 1 = true) ∧ sramHandle 0 h { off := 0x3FFFC0, len := 64 } = true := by decide +kernel

theorem test_grpMk :
    after (exec (.grpMk 6 2 1) (testMake 2)) (fun t => t.me.snaps.map (·.dest) == [.s 6 9] && t.pkts.map (·.body) == [.credit 9 0 131072] &&
      (t.groupOf 0 9).map (·.members) == some [0, 1]) = true := by decide +kernel

/-- A packet for die 0, numbered 3. -/
def testAt (b : PktBody) (s : State) : State := { s with pkts := [{ num := 3, src := 1, dst := 0, here := 0, body := b }], nextPkt := 4 }

/-- An all-reduce that waits for final values. -/
def testColl : Coll := { cnum := 5, count := 4, kind := 0, op := 0, a := testTd 0x1000 1 4 16 7, c := testTd 0x2000 1 4 16 7, world := false,
                         begun := true, pages := [testSram], src := [0, 0, 0, 0] }

def testChunk : Chunk := { group := 7, gen := 3, cnum := 5, count := 4, kind := 0, op := 0, etype := 7, wc := false, idx := 1, from_ := 1,
                           step := 3, eoff := 2, elems := [0x3F800000, 0x40000000] }

theorem witness_Collectives_arrive :
    let s := testAt (.credit 7 3 512) (testGrp testGroup)
    let u := testAt (.credit 7 2 512) (testBase.modDie 0 fun d => { d with gens := [(7, 3)] })
    let v := testAt (.chunk testChunk) (testGrp { testGroup with next := 6, colls := [testColl] })
    s.pktAt 0 3 = some { num := 3, src := 1, dst := 0, here := 0, body := .credit 7 3 512 } ∧ s.groupOf 0 (7 + 256 * 3) = some testGroup ∧
    (u.die 0).groups.find? (·.1 == 7) = none ∧ spGet 0 (u.die 0).gens 7 ≠ 2 ∧
    v.groupOf 0 (7 + 256 * 3) = some { testGroup with next := 6, colls := [testColl] } ∧ testChunk.etype = testColl.fmt 0 ∧ 3 < v.nextPkt ∧
    s.inTurn 0 { num := 3, src := 1, dst := 0, here := 0, body := .credit 7 3 512 } = true ∧
    u.inTurn 0 { num := 3, src := 1, dst := 0, here := 0, body := .credit 7 2 512 } = true ∧
    v.inTurn 0 { num := 3, src := 1, dst := 0, here := 0, body := .chunk testChunk } = true := by
  decide +kernel

theorem test_collectiveChunk :
    let v := testGrp { testGroup with next := 6, colls := [testColl] }
    after (exec (.creditGrant 0 3) (testAt (.credit 7 3 512) (testGrp testGroup))) (fun t =>
      (t.groupOf 0 0x307).map (·.credit) == some [(1, 512)] && t.pkts.isEmpty) = true ∧
    after (exec (.collectiveChunk 0 3) (testAt (.chunk testChunk) v)) (fun t =>
      t.bytes (sramPa 0 0x2008) 8 == [0, 0, 0x80, 0x3F, 0, 0, 0, 0x40] && (t.collOf 0 7 5).map (·.2.steps) == some 1) = true ∧
    after (exec (.collectiveChunk 0 3) (testAt (.chunk { testChunk with poison := some (1, 0x21) }) v)) (fun t =>
      (t.collOf 0 7 5).map (·.2.poison) == some (some (1, 0x21))) = true := by decide +kernel

/-- No group under the chunk's number; a chunk of collective 6, which die 0 has not issued. -/
theorem witness_Collectives_parked :
    let s := testAt (.chunk testChunk) testBase
    let v := testAt (.chunk { testChunk with cnum := 6 }) (testGrp { testGroup with next := 6, colls := [testColl] })
    s.inTurn 0 { num := 3, src := 1, dst := 0, here := 0, body := .chunk testChunk } = true ∧
    v.inTurn 0 { num := 3, src := 1, dst := 0, here := 0, body := .chunk { testChunk with cnum := 6 } } = true ∧
    s.groupOf 0 (7 + 256 * 3) = none ∧ s.pktAt 0 3 = some { num := 3, src := 1, dst := 0, here := 0, body := .chunk testChunk } ∧
    (6 + 2 ^ 16 - 6 % 2 ^ 16) % 2 ^ 16 < 2 ^ 15 ∧ 2 ^ 15 ≤ (5 + 2 ^ 16 - 6 % 2 ^ 16) % 2 ^ 16 ∧
    after (exec (.collectiveChunk 0 3) s) (fun t => spGet 0 (t.die 0).stales 7 == 1 && t.pkts.isEmpty) = true ∧
    after (exec (.collectiveChunk 0 3) v) (fun t => t == v) = true := by decide +kernel

/-- The pops that stay at the die: COPY, ADD and ADDL, on a tile whose staged own values are 1 and 2; and one whose link
is down. -/
theorem witness_Collectives_pops :
    let q := { testColl with src := [0, 0, 0x3F800000, 0x40000000] }
    let s := fun o => testAt (.selfd testChunk [6, 6] [o, 2]) (testGrp { testGroup with next := 6, colls := [q] })
    let sum := [0x40000000, 0x40800000]
    (s 1).groupOf 0 (7 + 256 * 3) = some { testGroup with next := 6, colls := [q] } ∧ q.poison = none ∧
    (∀ o ∈ [1, 3, 4], ¬(6 < 6 ∨ 4 < o ∨ (o = 2 ∧ 6 ≠ 6))) ∧
    (testAt (.selfd testChunk [1, 6] [0, 2]) testBase).linkUp 0 1 = false ∧
    after (exec (.selfDescribing 0 3) (s 1)) (fun t => (t.pkts.map (·.body) == [.selfd testChunk [6] [2]]) &&
      t.bytes (sramPa 0 0x2008) 8 == [0, 0, 0x80, 0x3F, 0, 0, 0, 0x40]) = true ∧
    after (exec (.selfDescribing 0 3) (s 3)) (fun t => t.pkts.map (·.body) == [.selfd { testChunk with elems := sum } [6] [2]]) = true ∧
    after (exec (.selfDescribing 0 3) (s 4)) (fun t => t.pkts.isEmpty &&
      t.bytes (sramPa 0 0x2008) 8 == [0, 0, 0, 0x40, 0, 0, 0x80, 0x40]) = true ∧
    after (exec (.selfDescribing 0 3) (testAt (.selfd testChunk [1, 6] [0, 2]) testBase)) (fun t =>
      t.pkts.map (fun p => (p.dst, p.body)) == [(1, .collNak 7 3 5 0x40 false)]) = true := by decide +kernel

theorem witness_Collectives_selfd :
    let s := testAt (.selfd testChunk [6] [2]) (testGrp { testGroup with next := 6, colls := [testColl] })
    let l := testAt (.selfd testChunk [1, 6] [0, 2]) testLinks
    (s.collOf 0 7 5).map (·.2.poison) = some none ∧ l.linkUp 0 1 = true ∧ (testAt (.selfd testChunk [7] [0]) testBase).pktAt 0 3 =
      some { num := 3, src := 1, dst := 0, here := 0, body := .selfd testChunk [7] [0] } := by decide +kernel

theorem test_selfDescribing :
    after (exec (.selfDescribing 0 3) (testAt (.selfd testChunk [6] [2]) (testGrp { testGroup with next := 6, colls := [testColl] }))) (fun t =>
      t.bytes (sramPa 0 0x2008) 8 == [0, 0, 0x80, 0x3F, 0, 0, 0, 0x40] && t.pkts.isEmpty) = true ∧
    after (exec (.selfDescribing 0 3) (testAt (.selfd testChunk [1, 6] [0, 2]) testLinks)) (fun t =>
      t.pkts.map (fun p => (p.here, p.body)) == [(1, .selfd testChunk [6] [2])]) = true ∧
    after (exec (.selfDescribing 0 3) (testAt (.selfd testChunk [7] [0]) testBase)) (fun t =>
      t.pkts.map (fun p => (p.dst, p.body)) == [(1, .collNak 7 3 5 0x41 false)]) = true := by decide +kernel

/-- The all-reduce with all its steps finished. -/
def testDone : Coll := { testColl with steps := 6, issuer := some (0, 9) }

theorem witness_Collectives_token :
    let g := { testGroup with colls := [testDone] }
    let s := testGrp g
    let r := testGrp { g with idx := 1 }
    (s.die 0).groups = [(7, g)] ∧ testDone.steps = testDone.expected g 0 ∧ s.pkts = [] ∧ 1 < g.members.length ∧
    testDone.steps = testDone.expected { g with idx := 1 } 0 ∧
    (testAt (.token 7 3 5 1 none) r).pkts = [{ num := 3, src := 1, dst := 0, here := 0, body := .token 7 3 5 1 none }] := by
  decide +kernel

theorem test_collTokenPass :
    let g := { testGroup with colls := [testDone] }
    after (exec (.collTokenPass 0 7) (testGrp g)) (fun t => t.pkts.map (fun p => (p.dst, p.body)) == [(1, .token 7 3 5 1 none)]) = true ∧
    after (exec (.collTokenPass 0 7) (testAt (.token 7 3 5 2 none) (testGrp g))) (fun t =>
      ((t.core 0).fport.map (fun r => (r.n, r.op)) == [(9, .add 1)]) && t.pkts.map (fun p => (p.dst, p.body)) == [(1, .token 7 3 5 2 none)] &&
      (t.groupOf 0 0x307).map (·.colls) == some []) = true := by decide +kernel


/-! ## Witnesses: system instructions, saves, and the events of issue, translation and traps -/

/-- Core 0 in the secure world with context 0 privileged and context 1 dormant; h2 covers VA 0x40, and s1 to s3 hold 1, 0
and 0x40. -/
def testPriv : State :=
  (testMem fun c => { c with priv := true, world := true, s := [(1, 1), (3, 0x40)] }).modDie 0 fun d => { d with
    tlb := [{ world := true, page := testSram }] }

theorem witness_SystemInstructions :
    let s := testPriv
    s.me.priv = true ∧ s.me.world = true ∧ (testMem fun c => { c with priv := true }).me.world = false ∧
    4 * coreOf s.x + (s.me.sreg 1).toNat % 4 ≠ s.x ∧ (s.ctx 1).st = .dormant ∧ (s.ctx 0).st ≠ .dormant ∧
    (s.ctx 0).st ≠ .frozen ∧ s.partsFail 0 true 0 ctxParts = none ∧
    s.partsFail 0 true 0x2000000 ctxParts = some 0x2000000 := by decide +kernel

/-- A block whose first snapshot holds 9 for register s4, due 3 bundles later, and whose registers await no long load. -/
theorem witness_SystemInstructions_block :
    let s := (testPriv.writeBytes (sramPa 0 0x20000) (leBytes 8 (2 ^ 63 + 4 * 2 ^ 48 + 3 * 2 ^ 16))).writeBytes (sramPa 0 0x20020) (leBytes 8 9)
    let num := s.blockNum 0 true 0x10000
    2 ^ 63 ≤ num 0x10000 8 ∧ num 0x10000 8 / 2 ^ 56 % 64 = 0 ∧ num 0x10000 8 / 2 ^ 16 % 2 ^ 16 = 3 ∧
    num 0x10020 8 = 9 ∧ (∀ r < 4, num (0x240 + 16 * r) 8 < 2 ^ 63) ∧ num 0x1400 8 < 2 ^ 63 := by decide +kernel

theorem witness_SystemInstructions_shoot :
    let s := { testPriv with iss := {} }
    let t := testPriv.modCtx 0 fun c => { c with shoot := some { va := 0x40, waits := [3] } }
    s.me.priv = true ∧ s.iss.gated = false ∧ s.me.pchk = false ∧ s.me.longs = [] ∧ s.me.shoot = none ∧ s.ext 3 = 0 ∧
    (t.ctx 0).shoot = some { va := 0x40, waits := [3] } ∧ (∀ i ∈ [3], i ∉ t.pend) := by decide +kernel

/-- A page of HBM at VA 0x20000000, which holds the block of stream 0 on die 0, whose cores 1 and 2 are to be restored. -/
def testRestore : State :=
  let p : Handle := { valid := true, rd := true, wr := true, size := 1, kind := 0, va := 0x20000000 }
  let s := testBase.modDie 0 fun d => { d with tlb := [{ world := false, page := p }] }
  ((s.modPan 0 fun q => { q with strs := [(0, { restoring := [1, 2] })] }).setStr 0 0 0x10 (BitVec.ofNat 64 (2 ^ 29))).setStrState 0 0 7

theorem witness_SavesAndRestores :
    let s := testRestore
    let va := s.saveBlock 0 0 0 + 0x1000000 + 0x400000
    s.strState 0 0 = 7 ∧ 1 ∈ (s.strm 0 0).restoring ∧ 2 ∈ (s.strm 0 0).restoring ∧ s.coreFree 1 0 = true ∧
    s.partsFail 0 (s.strWorld 0 0) va coreParts = none ∧ s.blockNum 0 (s.strWorld 0 0) va 0x2C9070 8 = 0 := by decide +kernel

/-- A stream that is being saved, with no die of its panel present; and with die 0 present, whose block has no page. -/
theorem witness_SavesAndRestores_save :
    let s := testBase.setStrState 0 1 3
    let u := s.setReg 0 8 1
    let t := fun (s : State) => (s.landStores 0 1).flushAll 0 1
    s.strState 0 1 = 3 ∧ (s.coresOf 0 1).all s.coreStill = true ∧ ((t s).putDies 0 1 ((t s).panelDies 0)).2 = none ∧
    u.strState 0 1 = 3 ∧ ((t u).putDies 0 1 ((t u).panelDies 0)).2 = some 0x100000 ∧ (t u).trapRoom 0 = true := by
  decide +kernel

/-- Core 1 comes back with pattern 5 valid and queue 6 bound to q7 of core 3, as its block says, and no others. -/
theorem test_restorePatterns :
    let s := (testRestore.writeBytes (0x1400000 + 0x2C9010) [0x20]).writeBytes (0x1400000 + 0x2C9060) (leBytes 8 (2 ^ 63 + 7 * 64 + 3))
    s.blockNum 0 (s.strWorld 0 0) (s.saveBlock 0 0 0 + 0x1400000) 0x2C9010 16 = 0x20 ∧
    (2 ^ 63 ≤ s.blockNum 0 (s.strWorld 0 0) (s.saveBlock 0 0 0 + 0x1400000) 0x2C9060 8 ∧
     s.blockNum 0 (s.strWorld 0 0) (s.saveBlock 0 0 0 + 0x1400000) 0x2C9068 8 < 2 ^ 63) ∧
    after (exec (.restoreCore 1) s) (fun t => (t.core 1).patOk == [5] && (t.core 1).bind == [(6, { tq := 7, tcid := 3 })] &&
      (t.strm 0 0).restoring == [2]) = true := by decide +kernel

/-- What the SEQ region keeps of a word, a start, the end of a child and a sent word reads back. -/
theorem test_seqImage :
    let h : HWord := { num := 7, src := .sent 3 2, w := decodeTile (0x02 + 4 * 2 ^ 8 + 0x40 * 2 ^ 64), stream := 2, prio := 1, world := true,
                       top := 4, level := 2, todo := [{ idx := 1, unit := 5, lo := 1, len := 1 }], parent := some (9, 300),
                       first := some (1, { cause := 0x21, nfault := 1 }), own := [1, 2 ^ 40], walk := some (0x20, 5), reserved := true,
                       sentBy := some (0, sramPa 0 0x40, 9, some 3), who := some 4 }
    let w : Waiting := { cycle := 5, rank := 1, order := [1, 2], req := { entry := 0x40, regs := [(1, 7)], origin := .tcall 6 2 true, tag := some 8 } }
    let m : SeqImage := { words := [(.clu 4, h)], starts := [(1, w)],
                          ends := [(2, { word := 6, child := 2, cause := 0x12, faddr := 5, ctx := 3, life := 1, waits := [4] })], sends := [(3, h)] }
    SeqImage.of (numsOf m.bytes.length (m.bytes.drop 8)) = m := by decide +kernel

/-- A start at bundle 0x40 that waits at core 1. -/
def testStart : Waiting := { cycle := 0, rank := 0, req := { entry := 0x40, regs := [(1, 7)], stream := 2, origin := .start } }

theorem witness_IssueEvents :
    let s := testBase.modCtx 6 fun c => { c with st := .ready }
    let b := testBase.modCtx 5 fun c => { c with st := .blocked }
    let w := testBase.modCore 1 fun k => { k with starts := [testStart] }
    (s.core 1).sel = none ∧ s.readyAfter 1 (((s.core 1).selFrom).getD 3) = some 2 ∧ (b.ctx 5).st = .blocked ∧
    b.stillBlocks 5 = false ∧ (w.core 1).starts = testStart :: [] ∧ w.startHeld 1 testStart = false ∧ w.dormantOf 1 = some 0 := by
  decide +kernel

theorem test_contextStart :
    after (exec (.contextStart 1) (testBase.modCore 1 fun k => { k with starts := [testStart] })) (fun t =>
      (t.ctx 4).st == .ready && (t.ctx 4).pc == 0x40 && (t.ctx 4).sreg 1 == 7 && (t.ctx 4).sreg 2 == 0 &&
      (t.core 1).owner == some 2 && (t.core 1).starts.isEmpty) = true := by decide +kernel

theorem witness_IssueEvents_land :
    let n : Snap := { due := 9, issued := 8, slot := 0, baddr := 0, bank := 0, dest := .s 3 5 }
    let s := fun m k => testCtx fun c => { c with count := m, snaps := [k] }
    ((s 8 n).ctx 0).snaps = [n] ∧ ((s 8 n).ctx 0).count < n.due ∧ n.due ≤ ((s 9 n).ctx 0).count ∧ n.trap = none ∧
    ((s 9 n).ctx 0).priv = false ∧ ((s 9 n).ctx 0).st ≠ .frozen ∧ ((s 9 n).ctx 0).origin = none ∧
    ((s 9 { n with trap := some (0x21, 4) }).ctx 0).snaps = [{ n with trap := some (0x21, 4) }] := by decide +kernel

theorem test_exposedResultLand :
    let n : Snap := { due := 9, issued := 8, slot := 0, baddr := 0, bank := 0, dest := .s 3 5, flags := 2 }
    let s := testCtx fun c => { c with count := 9, flags := 1, snaps := [n] }
    let q := testCtx fun c => { c with count := 9, snaps := [{ n with trap := some (0x21, 4) }] }
    after (exec (.exposedResultLand 0) s) (fun t => (t.ctx 0).sreg 3 == 5 && (t.ctx 0).flags == 3 && (t.ctx 0).snaps.isEmpty) = true ∧
    after (exec (.exposedResultLand 0) q) (fun t => (t.ctx 0).st == .frozen && (t.ctx 0).why == some (.trap 0x21 4)) = true := by
  decide +kernel

/-- The load of `testLong` with its data there; a part on this die that reads now. -/
theorem witness_IssueEvents_load :
    let p : LongPart := { addr := 64, len := 8, lane := 0 }
    let q : LongPart := { p with got := some [1, 0, 0, 0, 0, 0, 0, 0x80] }
    let s := testCtx fun c => { c with longs := [testLong] }
    let t := testCtx fun c => { c with longs := [{ testLong with parts := [q] }] }
    s.longLoad 0 0 = some testLong ∧ testLong.kind = .load none ∧ testLong.dest = .s 2 3 ∧ testLong.parts = [p] ∧
    t.longLoad 0 0 = some { testLong with parts := [q] } ∧ testLong.waits = [] ∧ p.waits = [] ∧ p.sent = false ∧
    p.src = [] ∧ paDie (s.homeFrom 0 p.addr) = dieOf 0 ∧ paKind p.addr ≠ 3 ∧ s.badAt p.addr p.len = false := by decide +kernel

theorem test_longLoadData :
    after (exec (.longLoadData 0 0) ((testCtx fun c => { c with longs := [testLong] }).writeBytes 64 [1, 0, 0, 0, 0, 0, 0, 0x80]))
      (fun t => (t.ctx 0).sreg 2 == 0x8000000000000001 && (t.ctx 0).longs.isEmpty) = true := by decide +kernel

/-- The bytes of that load stand in a store that waits in the buffer, which forwards them once nothing holds the load. -/
theorem witness_IssueEvents_forward :
    let p : LongPart := { addr := 64, len := 8, lane := 0, src := [4], fwd := [9, 0, 0, 0, 0, 0, 0, 0] }
    let s := { testCtx fun c => { c with longs := [{ testLong with parts := [p] }] } with pend := [4] }
    p.src ≠ [] ∧ (∀ i ∈ p.src, i ∈ s.pend) ∧
    after (exec (.longLoadData 0 0) s) (fun t => (t.ctx 0).sreg 2 == 9 && (t.ctx 0).seen == [4]) = true := by decide +kernel

/-- The bytes of that load have an uncorrectable error: the context traps with the address. -/
theorem witness_IssueEvents_ecc :
    let s := { testCtx fun c => { c with longs := [{ testLong with parts := [{ addr := 64, len := 8, lane := 0, va := 0x40 }] }] } with bad := [66] }
    s.badAt 64 8 = true ∧ (s.ctx 0).priv = false ∧ (s.ctx 0).st ≠ .frozen ∧ (s.ctx 0).origin = none ∧
    after (exec (.longLoadData 0 0) s) (fun t => (t.ctx 0).st == .frozen && (t.ctx 0).why == some (.trap 0x27 0x40)) = true := by
  decide +kernel

/-- Entry 4 of die 0's translation unit, for VA 0 and the non-secure world, with context 0 frozen on it. -/
def testTu (f : Option Nat) : State :=
  (testBase.modDie 0 fun d => { d with tu := [(4, { world := false, vpn := 0, waiters := [.ctx 0], fault := f })] }).modCtx 0 fun c =>
    { c with st := .frozen, why := some (.miss 4 0x123 1 0) }

/-- The same with a page table that the walk's root names: the entry at HBM offset 0 names a table at 0x4000, whose first
entry is a leaf. -/
def testRoot : TuEnt := { world := false, vpn := 0, waiters := [.ctx 0], root := BitVec.ofNat 64 (2 ^ 63) }
def testTable : State :=
  (((testTu none).modDie 0 fun d => { d with tu := [(4, testRoot)] }).writeBytes 0 (leBytes 8 (2 ^ 63 + 0x4000))).writeBytes 0x4000
    (leBytes 8 (2 ^ 63 + 2 ^ 62 + 2 ^ 60))

theorem witness_TrapEvents_walk :
    let t : TuEnt := { world := false, vpn := 0, waiters := [.ctx 0] }
    let s := testTu none
    (s.die 0).tu.find? (·.1 == 4) = some (4, t) ∧ s.walkRoot 0 false t.root (0 * 0x4000) = .fault 0x20 ∧
    (s.ctx 0).why = some (.miss 4 0x123 1 0) ∧ (s.ctx 0).priv = false ∧ (s.ctx 0).specChild = false ∧ (s.die 0).room = true ∧
    testTable.walkRoot 0 false testRoot.root (0 * 0x4000) = .page { valid := true, rd := true, size := 2, kind := 0 } := by decide +kernel

theorem test_translationWalkDone :
    after (exec (.translationWalkDone 0 4) (testTu none)) (fun t => (t.die 0).store.map (fun f => (f.cause, f.faddr, f.aux)) ==
      [(0x20, 0x123, BitVec.ofNat 64 (4 * 2 ^ 16))]) = true ∧
    after (exec (.translationWalkDone 0 4) testTable) (fun t => (t.ctx 0).st == .ready && (t.die 0).tu.isEmpty &&
      (t.die 0).tlb.map (fun e => (e.page.size, e.page.rd, e.page.wr)) == [(2, true, false)]) = true := by decide +kernel

def testHostWrite (w : Word) : Access := { data := w, secure := true, who := .host false }

/-- Context 0 frozen by a trap; a `tcall` child of word 6. -/
def testFrozen : State := testCtx fun c => { c with st := .frozen, why := some (.trap 0x12 5) }

theorem witness_TrapEvents_commands :
    let w := testHostWrite (BitVec.ofNat 64 (2 ^ 63 + 4))
    let a := testHostWrite (BitVec.ofNat 64 (0x11FF * 2 ^ 16))
    let s := testFrozen
    ((testTu (some 0x21)).die 0).tu.find? (·.1 == 4) = some (4, { world := false, vpn := 0, waiters := [.ctx 0], fault := some 0x21 }) ∧
    w.data = BitVec.ofNat 64 (2 ^ 63 + 4) ∧ w.who.isHost = true ∧ w.secure = true ∧ (s.ctx 0).st = .frozen ∧ (s.ctx 0).why = some (.trap 0x12 5) ∧
    (s.ctx 0).held = false ∧ w.data.toNat % 4 = 0 ∧ (s.ctx 0).origin = none ∧ a.data.toNat % 4 = 0 ∧ a.data.toNat / 2 ^ 16 % 2 ^ 16 = 0x11FF ∧
    ((s.modCtx 0 fun c => { c with origin := some (.tcall 6 2 false) }).ctx 0).origin = some (.tcall 6 2 false) := by decide +kernel

theorem test_trapCommands :
    after (exec (.turetry 0 (testHostWrite (BitVec.ofNat 64 (2 ^ 63 + 4)))) (testTu (some 0x21))) (fun t =>
      (t.ctx 0).st == .ready && (t.die 0).tu.isEmpty) = true ∧
    after (exec (.cxcmdResume 0 (testHostWrite 0)) testFrozen) (fun t => (t.ctx 0).st == .ready && (t.ctx 0).why.isNone) = true ∧
    after (exec (.cxcmdResumeAt 0 (testHostWrite (BitVec.ofNat 64 (0x11FF * 2 ^ 16)))) testFrozen) (fun t =>
      (t.ctx 0).st == .ready && (t.ctx 0).pc == 0x11FF) = true ∧
    after (exec (.cxcmdRetire 0 (testHostWrite 0)) (testFrozen.modCtx 0 fun c => { c with origin := some (.tcall 6 2 false) })) (fun t =>
      (t.ctx 0).st == .dormant && (t.core 0).ends.map (fun v => (v.word, v.child, v.cause, v.faddr)) == [(6, 2, 0x12, 5)]) = true := by
  decide +kernel

/-- One frame in die 0's trap store, a ring of 16 entries at VA 0x4000 and a handler at bundle 0x80 of core 0. -/
def testRing : State :=
  (((testMem id).modDie 0 fun d => { d with store := [{ cause := 0x21 }] }).setReg 0 0x100 (BitVec.ofNat 64 (2 ^ 63 + 0x80))).setReg
    0 0x108 0x4000

theorem witness_TrapEvents_ring :
    let s := testRing
    (s.die 0).store = { cause := 0x21 } :: [] ∧ (s.die 0).waiting = [] ∧ (s.reg 0 0x100).getLsbD 63 = true ∧ false ∉ (s.die 0).ringDead ∧
    (s.reg 0 0x108).toNat % 16 ≤ 8 ∧ ((s.reg 0 0x110).toNat % 2 ^ 32 + 2 ^ 32 - (s.reg 0 0x118).toNat % 2 ^ 32) % 2 ^ 32 < 16 ∧
    s.frameOk 0 false 0x4000 = true ∧ s.frameOk 0 false 0x4000000 = false ∧ (s.core 0).starts = [] ∧ s.dormantOf 0 = some 1 ∧
    (testBase.reg 0 0x100).getLsbD 63 = false := by decide +kernel

theorem test_trapFrameWrite :
    after (exec (.trapFrameWrite 0) testRing) (fun t => (t.ctx 1).pc == 0x80 && (t.ctx 1).priv && (t.ctx 1).sreg 1 == 0x4000 &&
      (t.ctx 1).sreg 2 == 0x21 && t.reg 0 0x110 == 1 && t.byte (sramPa 0 0x4000) != 0 && (t.die 0).store.isEmpty) = true ∧
    after (exec (.trapFrameWrite 0) (testRing.setReg 0 0x108 0x4000000)) (fun t => (t.die 0).store.length == 1 &&
      (t.die 0).ringDead == [false] && (t.pan 0).vectors == [8]) = true := by decide +kernel


/-! ## Witnesses: requests at their source and at their target -/

/-- One entry of cluster 0's store buffer, for its own SRAM or for die 1's HBM. -/
def testSb (a : Nat) : SbEnt := { id := 4, x := 0, cls := 0, data := [(a, 7)] }
def testBuffer (a : Nat) : State := { testBase.modClu 0 (fun u => { u with sb := [testSb a] }) with pend := [4], nextId := 5 }

theorem witness_RequestSources_drain :
    ((testBuffer (sramPa 0 0x40)).clu 0).sb = testSb (sramPa 0 0x40) :: [] ∧ (testSb 0).waits = [] ∧ paDie ((testBuffer (sramPa 0 0x40)).homeFrom 0 (sramPa 0 0x40)) = 0 / 8 ∧
    paKind (sramPa 0 0x40) ≠ 3 ∧ ((testBuffer 0).clu 0).late = [] ∧
    paDie ((testBuffer (mkPa 1 0 0x80)).homeFrom 0 (mkPa 1 0 0x80)) ≠ 0 / 8 ∧
    ((testBuffer (mkPa 1 0 0x80)).die 0).reqs = [] ∧ (testBuffer 0).ctl = [] := by decide +kernel

theorem test_storeBufferDrain :
    after (exec (.storeBufferDrain 0 0) (testBuffer (sramPa 0 0x40))) (fun t => t.byte (sramPa 0 0x40) == 7 && (t.clu 0).sb.isEmpty &&
      t.pend.isEmpty) = true ∧
    after (exec (.storeBufferDrain 0 0) (testBuffer (mkPa 1 0 0x80))) (fun t => (t.clu 0).sb.map (·.sent) == [true] &&
      (t.die 0).reqs.map (fun r => (r.dst, r.body)) == [(1, .store [(mkPa 1 0 0x80, 7)])]) = true := by decide +kernel

/-- A packet from die 0 to die 1 at die 0; links up, or as reset leaves them. -/
def testOut (s : State) : State :=
  { s with pkts := [{ num := 3, src := 0, dst := 1, here := 0, seq := 9, body := .req (.load 0x80 8) }], nextPkt := 4 }

theorem witness_RequestSources_hop :
    (testOut testLinks).routePort 0 1 = some 1 ∧ (testOut testBase).routePort 0 1 = some 1 ∧ (testOut testLinks).linkUp 0 1 = true ∧
    (testOut testBase).linkUp 0 1 = false ∧ (∀ p ∈ (testOut testLinks).pkts, (testOut testLinks).overtakes p = false) ∧
    (testLinks.modDie 0 fun d => { d with tries := [(1, (2, 15))] }).linkUp 0 1 = true ∧
    (spGet (2, 0) ((testLinks.modDie 0 fun d => { d with tries := [(1, (2, 15))] }).die 0).tries 1 = (2, 15)) := by decide +kernel

theorem test_links :
    after (exec (.packetForward 0 3) (testOut testLinks)) (fun t => t.pkts.map (fun p => (p.here, p.via)) == [(1, 3)]) = true ∧
    after (exec (.packetForward 0 3) (testOut testBase)) (fun t => t.pkts.map (fun p => (p.dst, p.seq, p.body)) ==
      [(0, 9, .nak 0x40 0x80)]) = true ∧
    after (exec (.packetForward 0 3) { testBase with pkts := [{ num := 3, src := 0, dst := 1, here := 0, seq := 9, body := .nak 0x27 0 }], nextPkt := 4 })
      (fun t => t.pkts.map (fun p => (p.dst, p.body)) == [(0, .nakLost 0x40)]) = true ∧
    after (exec (.flitCrcFail 0 13) (testLinks.modDie 0 fun d => { d with tries := [(1, (2, 15))] })) (fun t => !t.linkUp 0 1 && (t.die 1).down == [3]) = true ∧
    after (exec (.flitCrcFail 0 19) (testLinks.modDie 0 fun d => { d with tries := [(1, (2, 15))] })) (fun t => t.linkUp 0 1 &&
      (t.die 0).tries == [(1, (3, 1))]) = true := by
  decide +kernel

/-- A store of cluster 0 to die 1 that has been sent `n` times, the last time at cycle 0. -/
def testReq (n : Nat) : Req := { num := 2, dst := 1, seq := 9, body := .store [(mkPa 1 0 0x80, 7)], issuer := .sb 0 4, sends := n }
def testSent (n now : Nat) : State :=
  { (testBuffer (mkPa 1 0 0x80)).modDie 0 fun d => { d with reqs := [testReq n] } with now := now, nextPkt := 3 }

theorem witness_RequestSources_resend :
    (∀ n < 9, ((testSent n 60000).die 0).reqs.find? (·.num == 2) = some (testReq n)) ∧ 1 ≤ (testReq 7).sends ∧ (testReq 7).sends < 8 ∧
    (testReq 7).sentAt + 60000 ≤ (testSent 7 60000).now ∧ (testSent 7 59999).now < (testReq 7).sentAt + 60000 ∧ 8 ≤ (testReq 8).sends ∧
    ((testSent 8 60000).clu 0).sb.find? (·.id == 4) = some (testSb (mkPa 1 0 0x80)) ∧ ((testSent 8 60000).die 0).room = true ∧
    (let k : Notice := spGet {} (((testSent 1 60000).modDie 0 fun d => { d with notices := [(1, { sends := 1 })] }).die 0).notices 1
     k.acked = false ∧ 1 ≤ k.sends ∧ k.sends < 8 ∧ k.sentAt + 60000 ≤ 60000) := by decide +kernel

theorem test_remoteTimeout :
    after (exec (.requestResendTimeout 0 2) (testSent 7 60000)) (fun t => t.pkts.map (fun p => (p.dst, p.rty, p.seq)) == [(1, true, 9)]) = true ∧
    after (exec (.remoteTimeout 0 2) (testSent 8 60000)) (fun t => (t.clu 0).sb.isEmpty && (t.die 0).reqs.isEmpty &&
      (t.die 0).store.map (fun f => (f.cause, f.src, f.faddr)) == [(0x2B, 0, BitVec.ofNat 64 (mkPa 1 0 0x80))]) = true ∧
    after (exec (.resetNoticeResend 0 1) ((testSent 1 60000).modDie 0 fun d => { d with notices := [(1, { sends := 1 })] })) (fun t =>
      t.pkts.map (fun p => (p.dst, p.body)) == [(1, .notice)]) = true := by decide +kernel

/-- A request from die 1 at die 0, next in order; SEQ 65535. -/
def testReqAt (rty : Bool) (b : PktBody) : State :=
  { testBase.modDie 0 fun d => { d with expect := [(1, 65535)], filter := [(1, [(65534, .none)])] } with
    pkts := [{ num := 3, src := 1, dst := 0, here := 0, via := 1, seq := 65535, rty := rty, body := b }], nextPkt := 4 }

theorem witness_RequestTargets :
    let s := testReqAt false (.req (.load 0x80 8))
    s.pktAt 0 3 = some { num := 3, src := 1, dst := 0, here := 0, via := 1, seq := 65535, body := .req (.load 0x80 8) } ∧
    (s.die 0).inReset = false ∧ 65535 < 2 ^ 16 ∧ (s.die 0).expect.find? (·.1 == 1) = some (1, 65535) ∧
    s.reqFail (.load 0x80 8) false = none ∧ s.reqFail (.store [(0x80, 7)]) false = none ∧
    s.reqFail (.atomic 0x80 1 7 5 0) false = none ∧ s.mval 0x80 (aopBytes 1) = 0 ∧
    s.pktSecure 0 { num := 3, src := 1, dst := 0, here := 0, via := 1, seq := 65535, body := .req (.load 0x80 8) } = false ∧
    s.ctl = [] ∧ s.beforePkt 0 { num := 3, src := 1, dst := 0, here := 0, via := 1, seq := 65535, body := .notice } = false ∧
    s.beforePkt 0 { num := 3, src := 1, dst := 0, here := 0, via := 1, seq := 65535, body := .req (.load 0x80 8) } = false ∧
    (∃ q ∈ (ReqBody.load 0x80 8).spans, (s.setReg 0 0x5001000 (BitVec.ofNat 64 (2 ^ 63 + 1))).secureAt q.1 q.2 = true) ∧
    (spGet [] (((testReqAt true (.req (.store [(0x80, 7)]))).modDie 0 fun d => { d with filter := [(1, [(65535, .ack)])] }).die 0).filter
      1).find? (·.1 == 65535) = some (65535, .ack) := by decide +kernel

/-- A request to a page that has moved to die 1; one that comes two ahead of what is expected, with room and without; one
sent again of which nothing is left. -/
theorem witness_RequestTargets_order :
    let q := fun (n : Nat) (rty : Bool) => (testReqAt rty (.req (.load 0x80 8))).modDie 0 fun d => { d with expect := [(1, n)], filter := [] }
    let m := (((testReqAt false (.req (.load 0x80 8))).setReg 0 0x2000100 2).setReg 0 0x2000110 (BitVec.ofNat 64 (mkPa 1 0 0x4000)))
    paDie 0x80 = 0 ∧ paDie (m.homeOf 0x80) = 1 ∧ paDie ((testReqAt false (.req (.load 0x80 8))).homeOf 0x80) = 0 ∧
    (65535 + 2 ^ 16 - 65533) % 2 ^ 16 = 2 ∧ (q 65533 false).reordered 0 3 < 256 ∧ 1 ∉ ((q 65533 false).die 0).lost ∧
    2 ^ 15 ≤ (65535 + 2 ^ 16 - 0) % 2 ^ 16 ∧ (q 0 true).atPort 0 1 65535 = false ∧
    (spGet [] ((q 0 true).die 0).filter 1).find? (·.1 == 65535) = none ∧
    after (exec (.loadRequest 0 3) m) (fun t => t.pkts.map (fun p => (p.here, p.src, p.dst, p.seq, p.old, p.body)) ==
      [(0, 1, 1, 65535, some 0, .req (.load (mkPa 1 0 0x4080) 8))]) = true ∧
    after (exec (.loadRequest 0 3) (q 65533 false)) (fun t => t == q 65533 false) = true ∧
    after (exec (.loadRequest 0 3) (q 0 true)) (fun t => t.pkts.map (·.body) == [.nak 0x45 0x80]) = true := by decide +kernel

/-- After its reset die 0 has no record for die 1: a load sent again ends, and the number that it had is passed, with the next
one, whose resend has ended too. -/
theorem witness_RequestTargets_reset :
    let s := (testReqAt true (.req (.load 0x80 8))).modDie 0 fun d => { d with lost := [1], filter := [], nakked := [(1, [0])] }
    1 ∈ (s.die 0).lost ∧ s.atPort 0 1 65535 = false ∧ (spGet [] (s.die 0).filter 1).find? (·.1 == 65535) = none ∧
    (s.die 0).expect.find? (·.1 == 1) = some (1, 65535) ∧
    after (exec (.loadRequest 0 3) s) (fun t => t.pkts.map (·.body) == [.nak 0x2A 0x80] && (t.die 0).expect == [(1, 1)]) = true := by
  decide +kernel

theorem test_requests :
    let reply := fun (t : State) => t.pkts.map fun p => (p.src, p.dst, p.seq, p.body)
    after (exec (.loadRequest 0 3) (testReqAt false (.req (.load 0x80 2)))) (fun t => reply t == [(0, 1, 65535, .data [0, 0])] &&
      (t.die 0).expect == [(1, 0)]) = true ∧
    after (exec (.storeRequest 0 3) (testReqAt false (.req (.store [(0x80, 7)])))) (fun t => reply t == [(0, 1, 65535, .ack)] &&
      t.byte 0x80 == 7 && ((spGet [] (t.die 0).filter 1).head? == some (65535, .ack))) = true ∧
    after (exec (.storeRequest 0 3) ((testReqAt true (.req (.store [(0x80, 7)]))).modDie 0 fun d =>
      { d with expect := [(1, 0)], filter := [(1, [(65535, .ack)])] })) (fun t => reply t == [(0, 1, 65535, .ack)] && t.byte 0x80 == 0) = true ∧
    after (exec (.atomicRequest 0 3) (testReqAt false (.req (.atomic 0x80 1 7 5 0)))) (fun t => reply t == [(0, 1, 65535, .old 0)] &&
      t.byte 0x80 == 5) = true ∧
    after (exec (.atomicRequest 0 3) (testReqAt false (.req (.atomic 0x80 1 7 5 1)))) (fun t => reply t == [(0, 1, 65535, .old 0)] &&
      t.byte 0x80 == 0) = true := by decide +kernel

theorem test_requests_other :
    after (exec (.flagOperation 0 3) (testReqAt false (.req (.flag 5 63 (.add 1) 8 4096 4 [])))) (fun t => t.pkts.isEmpty &&
      (t.core 5).fport.map (fun r => (r.n, r.remote)) == [(63, some (1, 65535))]) = true ∧
    after (exec (.boardOperation 0 3) (testReqAt false (.req (.board 2 3 .rd 8 4096 0 4)))) (fun t => t.pkts.isEmpty &&
      (t.die 0).bport.map (fun r => (r.b, r.slot, r.remote)) == [(2, 3, some (1, 65535))]) = true ∧
    after (exec (.resetNotice 0 3) (testReqAt false .notice)) (fun t => t.pkts.map (fun p => (p.dst, p.body)) == [(1, .greet)] &&
      (t.die 0).expect == [(1, 0)] && spGet [] (t.die 0).filter 1 == []) = true ∧
    after (exec (.loadRequest 0 3) ((testReqAt false (.req (.load 0x80 2))).setReg 0 0x5001000 (BitVec.ofNat 64 (2 ^ 63 + 1)))) (fun t =>
      t.pkts.map (fun p => (p.dst, p.body)) == [(1, .nak 0x25 0x80)]) = true := by decide +kernel

/-- Replies to requests of die 0 of SEQ 9. -/
def testReplyAt (b : PktBody) (i : Issuer) : State :=
  { (testBuffer (mkPa 1 0 0x80)).modDie 0 (fun d => { d with reqs := [{ testReq 1 with issuer := i }] }) with
    pkts := [{ num := 3, src := 1, dst := 0, here := 0, seq := 9, body := b }], nextPkt := 4 }.modCtx 0 fun c => { c with longs := [testLong] }

theorem witness_RequestTargets_replies :
    let s := testReplyAt (.data [1]) (.long 0 0 0)
    let p : Pkt := { num := 3, src := 1, dst := 0, here := 0, seq := 9, body := .data [1] }
    s.pktAt 0 3 = some p ∧ s.reqOf 0 p = some { testReq 1 with issuer := .long 0 0 0 } ∧ s.superseded 0 p = false ∧ s.overtakes p = false ∧
    s.longLoad 0 0 = some testLong ∧ 0 < testLong.parts.length ∧ (s.clu 0).late = [] ∧
    (s.clu 0).sb.find? (·.id == 4) = some (testSb (mkPa 1 0 0x80)) ∧ (s.die 0).room = true := by decide +kernel

theorem test_replies :
    after (exec (.readReply 0 3) (testReplyAt (.data [1]) (.long 0 0 0))) (fun t =>
      (t.longLoad 0 0).map (fun o => o.parts.map (·.got)) == some [some [1]]) = true ∧
    after (exec (.acknowledgement 0 3) (testReplyAt .ack (.sb 0 4))) (fun t => (t.clu 0).sb.isEmpty && t.pend.isEmpty) = true ∧
    after (exec (.nak 0 3) (testReplyAt (.nak 0x25 5) (.sb 0 4))) (fun t => (t.clu 0).sb.isEmpty &&
      (t.die 0).store.map (fun f => (f.cause, f.faddr)) == [(0x25, 5)]) = true ∧
    after (exec (.acknowledgement 0 3) (testReplyAt .greet (.sb 0 4))) (fun t => (t.die 0).greeted 1) = true := by decide +kernel


/-! ## Witnesses: control registers, streams, power, boot and the host -/

def testSecure (w : Word) : Access := { data := w, secure := true, who := .context true }

theorem witness_ControlRegisters :
    let locked := testBase.setReg 0 0x5000FF8 1
    let attest := testBase.setReg 0 0x5000300 1
    let mig := fun (n : Word) => testBase.setReg 0 0x2000100 n
    (locked.reg 0 0x5000FF8).getLsbD 0 = true ∧ (testBase.die 0).presSet = false ∧ (testBase.pan 0).pourOn = false ∧
    ((testBase.modDie 0 fun d => { d with presSet := true }).die 0).presSet = true ∧
    ((testBase.setReg 0 0x5000200 (BitVec.ofNat 64 (2 ^ 63))).reg 0 0x5000200).getLsbD 63 = true ∧
    (testBase.reg 0 0x5000200).getLsbD 63 = false ∧ (attest.reg 0 0x5000300).getLsbD 0 = true ∧
    (testBase.reg 0 0x5000300).getLsbD 0 = false ∧ (testBase.die 0).room = true ∧ (mig 0).migState 0 = 0 ∧ (mig 1).migState 0 = 1 ∧
    (mig 2).migState 0 = 2 ∧ (mig 3).migState 0 = 3 := by decide +kernel

theorem test_controlWrites :
    after (exec (.registerWrite (ctlPa 0 0x5000308) (testHostWrite 77)) testBase) (fun t => t.reg 0 0x5000308 == 77) = true ∧
    after (exec (.registerWrite (ctlPa 0 0x8) (testHostWrite 77)) testBase) (fun t => t.reg 0 0x8 == 0) = true ∧
    after (exec (.wrlockWrite 0 (testSecure 1)) testBase) (fun t => t.reg 0 0x5000FF8 == 1) = true ∧
    after (exec (.dpressetWrite 0 { data := 5, secure := true, who := .firmware (testBase.conductor 0) 2 }) testBase) (fun t => t.reg 0 0x8 == 5) = true ∧
    after (exec (.domcfgWrite 0 { data := BitVec.ofNat 64 (2 ^ 63 + 2 ^ 18 + 2 ^ 25 + 3), secure := true, who := .firmware 0 2 }) testBase)
      (fun t => t.reg 0 0x5000200 == BitVec.ofNat 64 (2 ^ 63 + 2 ^ 18 + 2 ^ 25 + 3)) = true ∧
    after (exec (.hpostWrite 0 (testHostWrite (BitVec.ofNat 64 (2 ^ 63 + 2 ^ 62 + 9)))) testBase) (fun t =>
      (t.die 0).store.map (fun f => (f.cause, f.src, f.world, f.faddr)) == [(0x55, 5, true, 9)]) = true ∧
    after (exec (.trringWrite 0 1 (testSecure (BitVec.ofNat 64 (2 ^ 12 + 8)))) (testBase.setReg 0 0x158 3)) (fun t =>
      t.reg 0 0x148 == BitVec.ofNat 64 (2 ^ 12 + 8) && t.reg 0 0x150 == 0 && t.reg 0 0x158 == 0) = true ∧
    after (exec (.nbcfgWrite 0 63 (testSecure (BitVec.ofNat 64 (2 ^ 63 + 4)))) testBase) (fun t =>
      t.reg 0 (0x1000000 + 8 * 63) == BitVec.ofNat 64 (2 ^ 63 + 4)) = true ∧
    after (exec (.migctlGo 0 (testHostWrite (BitVec.ofNat 64 (2 ^ 63)))) testBase) (fun t => t.migState 0 == 1) = true ∧
    after (exec (.migctlAbort 0 (testHostWrite 0)) (testBase.setReg 0 0x2000100 1)) (fun t => t.migState 0 == 3 &&
      (t.die 0).store.map (fun f => (f.cause, f.src)) == [(0x2C, 5)]) = true ∧
    after (exec (.migctlFin 0 (testHostWrite 0)) (testBase.setReg 0 0x2000100 2)) (fun t => t.migState 0 == 0) = true ∧
    after (exec (.bootctlGo 0 (testHostWrite (BitVec.ofNat 64 (2 ^ 63)))) testBase) (fun t => (t.reg 0 0x5000000).getLsbD 63) = true ∧
    after (exec (.attctlGo 0 (testHostWrite (BitVec.ofNat 64 (2 ^ 63)))) testBase) (fun t => (t.reg 0 0x5000300).getLsbD 0) = true := by
  decide +kernel

/-- The latest write of a region's limit: in an earlier cycle, and in this one by die 3 of the region. -/
theorem witness_ControlRegisters_region :
    let s := fun (d : Nat) (b : Sp (Nat × Nat)) => testBase.modPan (d / 64) fun q => { q with regions := [(regionOf d, { by_ := b })] }
    (spGet (0, 0) ((s 1 []).regionAt 1).by_ 0 = (0, 0) ∧ ¬1 % 64 < 0) ∧
    (spGet (0, 0) ((s 1 [(0, (0, 3))]).regionAt 1).by_ 0 = (0, 3) ∧ (s 1 []).now = 0 ∧ 1 % 64 < 3) ∧
    after (exec (.registerWrite (ctlPa 1 0x4000000) (testHostWrite 200)) (s 1 [])) (fun t => t.reg (regionHome 0 (regionOf 1)) 0x4000000 == 150) = true ∧
    after (exec (.registerWrite (ctlPa 1 0x4000000) (testHostWrite 9)) (s 1 [(0, (0, 3))])) (fun t => t == s 1 [(0, (0, 3))]) = true := by
  decide +kernel

/-- Stream 1 of panel 0 in a state, with words in flight or none; die 0 present with no page for its block, or absent. -/
def testStream (n : Nat) : State := testBase.setStrState 0 1 n
def testFlight : HWord := { num := 1, src := .stream 0 1, w := testTjmp, stream := 1, prio := 0, world := false, top := 4, level := 4 }

theorem witness_StreamStates :
    (∀ n < 8, (testStream n).strState 0 1 = n) ∧ (testStream 4).restoreCheck 0 1 = none ∧
    ((testStream 4).setReg 0 8 1).restoreCheck 0 1 = some 0x56 ∧ ((testStream 4).setReg 0 8 1).strState 0 1 = 4 ∧
    ((testStream 5).strm 0 1).flight = [] ∧
    (((testStream 5).modPan 0 fun q => { q with strs := [(1, { flight := [testFlight] })] }).strm 0 1).flight ≠ [] ∧
    (testStream 2).strCtxs 0 1 = [] ∧ ((testStream 2).strm 0 1).graceAt + 600000 ≤ ({ testStream 2 with now := 600000 } : State).now ∧
    (testStream 2).now < ((testStream 2).strm 0 1).graceAt + 600000 := by decide +kernel

theorem test_streamStates :
    let w := testHostWrite 0
    let goes := fun (i : Instr) (n m : Nat) => after (exec i (testStream n)) fun t => t.strState 0 1 == m
    let invalid := fun (i : Instr) (n : Nat) => after (exec i (testStream n)) fun t => t.strState 0 1 == n && (t.str 0 1 0x18).toNat / 2 ^ 56 == 0x5E
    goes (.strdbStart 0 1 w) 0 1 = true ∧ goes (.strdbStart 0 1 w) 6 1 = true ∧ invalid (.strdbStart 0 1 w) 5 = true ∧
    goes (.strdbGraceful 0 1 w) 1 2 = true ∧ invalid (.strdbGraceful 0 1 w) 2 = true ∧ goes (.strdbHard 0 1 w) 5 3 = true ∧
    invalid (.strdbHard 0 1 w) 4 = true ∧ goes (.strdbResume 0 1 w) 5 1 = true ∧ goes (.strdbResume 0 1 w) 4 7 = true ∧
    invalid (.strdbResume 0 1 w) 0 = true ∧ goes (.strdbAbort 0 1 w) 5 0 = true ∧ goes (.strdbAbort 0 1 w) 4 0 = true ∧
    invalid (.strdbAbort 0 1 w) 1 = true ∧ goes (.drainComplete 0 1) 2 3 = true ∧ goes (.gracefulEscalate 0 1) 2 2 = true ∧
    after (exec (.gracefulEscalate 0 1) { testStream 2 with now := 600000 }) (fun t => t.strState 0 1 == 3) = true ∧
    after (exec (.strdbHard 0 1 w) ((testStream 5).modStrm 0 1 fun t => { t with stuck := true, grace := true })) (fun t => (t.strm 0 1).esc) = true ∧
    after (exec (.strdbResume 0 1 w) ((testStream 4).setReg 0 8 1)) (fun t => t.strState 0 1 == 4 &&
      (t.str 0 1 0x18).toNat / 2 ^ 56 == 0x56) = true := by decide +kernel

/-- Core 9 of die 0 waits for admission; region 0 may have 6 steps' worth of cores at cycle 600. -/
def testPower : State := { (testBase.modCore 9 fun k => { k with wants := true }).setReg 0 0x4000000 6 with now := 600 }

theorem witness_PowerRegions :
    (testBase.core 0).active = true ∧ (testBase.core 0).lastWork + 3000 ≤ 3000 ∧ 600 / 600 * 600 ≤ 600 ∧
    ((testPower).region 0 0).boundary < testPower.now / 600 * 600 ∧ (9 ∈ (testPower.waiters 0 0).take (10 * 6 / 6)) ∧
    testBase.now / 600 * 600 ≤ (testBase.region 0 0).boundary ∧
    (((testBase.modPan 0 fun q => { q with regions := [(0, { dthr := some 0 })] }).region 0 0).dthr = some 0) ∧
    (testBase.region 0 0).tlo < (testBase.region 0 0).thi := by decide +kernel

theorem test_power :
    after (exec (.coreQuiet 0) { testBase with now := 3000 }) (fun t => !(t.core 0).active) = true ∧
    after (exec (.coreQuiet 0) { testBase with now := 2999 }) (fun t => (t.core 0).active) = true ∧
    after (exec (.admissionStep 0 0) testPower) (fun t => (t.core 9).active && !(t.core 9).wants && (t.region 0 0).lim == 6) = true ∧
    after (exec (.droopTrip 0 0 5) testBase) (fun t => (t.region 0 0).dthr.isSome && (t.pan 0).vectors == [11]) = true ∧
    after (exec (.thermalThreshold 0 0 ((testBase.region 0 0).thi)) testBase) (fun t => (t.region 0 0).tthr && (t.pan 0).vectors != []) = true := by
  decide +kernel

/-- The cycle of a boundary that has been taken; a cause that has been told; 110 degrees, and one less. -/
theorem witness_PowerRegions_bounds :
    let s := { testPower.modPan 0 fun q => { q with regions := [(0, { boundary := 600, lim := 6, admitted := 9 })] } with now := 600 }
    s.now / 600 * 600 ≤ (s.region 0 0).boundary ∧ s.now = s.now / 600 * 600 ∧ ({ s with now := 601 } : State).now ≠ 601 / 600 * 600 ∧
    10 * 6 / 6 - 9 = 1 ∧ (s.waiters 0 0).take 1 = [9] ∧ ((testBase.setReg 0 0x4000020 1).reg (regionHome 0 0) 0x4000020).getLsbD 0 = true ∧
    0x51 ∉ (testBase.region 0 0).told ∧ (testBase.region 0 0).thi ≤ 110 ∧ (testBase.region 0 0).thi ≤ 109 ∧
    after (exec (.admissionStep 0 0) s) (fun t => (t.core 9).active && (t.region 0 0).admitted == 10) = true ∧
    after (exec (.admissionStep 0 0) { s with now := 601 }) (fun t => !(t.core 9).active) = true ∧
    after (exec (.thermalThreshold 0 0 110) testBase) (fun t => (t.region 0 0).crit) = true ∧
    (let t := testBase.modPan 0 fun q => { q with regions := [(0, { thi := 200, tlo := 150 })] }
     110 < (t.region 0 0).thi ∧ 110 ≤ (t.region 0 0).tlo ∧ after (exec (.thermalThreshold 0 0 110) t) (fun t => (t.region 0 0).crit && !(t.region 0 0).tthr) = true) ∧
    after (exec (.thermalThreshold 0 0 109) testBase) (fun t => !(t.region 0 0).crit && (t.region 0 0).tthr) = true := by decide +kernel

/-- The boot image of a stage: 16 bytes of body, the next stage at 0x100. -/
def testImage (stage : Byte) : List Byte :=
  leBytes 4 0x5A564249 ++ [stage, 0, 0, 0] ++ leBytes 4 7 ++ leBytes 4 16 ++ leBytes 8 0x100 ++ leBytes 40 0

def testBoot : State :=
  ((testBase.setReg 0 0x5000000 (BitVec.ofNat 64 (2 ^ 63))).writeBytes (mkPa 0 0 0) (testImage 1)).writeBytes (mkPa 0 0 0x100) (testImage 2)

/-- Where signatures and digests are as they should be, both images pass their checks. -/
theorem witness_BootAndReset (hs : ∀ l, Config.imageSigned l = true) (hd : ∀ l i, Config.sm3 l i = Config.vendorDigest i) :
    (testBoot.reg 0 0x5000000).getLsbD 63 = true ∧ testBoot.reg 0 0x5000008 = 0 ∧ testBoot.imageCheck 0 0 1 = 0 ∧
    testBoot.bootNum 0 16 8 = 0x100 ∧ testBoot.imageCheck 0 0x100 2 = 0 ∧ testBoot.imageCheck 0 0x100 1 = 1 := by
  have h : ∀ o st, (¬(testBoot.bootNum 0 (o + 0) 4 ≠ 0x5A564249 ∨ testBoot.bootNum 0 (o + 4) 1 ≠ st ∨ testBoot.bootNum 0 (o + 5) 3 ≠ 0 ∨
      testBoot.bootNum 0 (o + 28) 36 ≠ 0 ∨ testBoot.bootNum 0 (o + 12) 4 ≤ testBoot.bootNum 0 (o + 24) 4)) →
      ¬(testBoot.bootNum 0 (o + 12) 4 % 16 ≠ 0 ∨ testBoot.bootNum 0 (o + 12) 4 < 16 ∨ 2 ^ 20 < testBoot.bootNum 0 (o + 12) 4 ∨
        0x12A05F2000 < o + 192 + testBoot.bootNum 0 (o + 12) 4) → testBoot.imageCheck 0 o st = 0 := fun o st h1 h2 => by
    unfold State.imageCheck
    simp only [if_neg h1, if_neg h2, hs, hd]
    simp
  exact ⟨by decide +kernel, by decide +kernel, h 0 1 (by decide +kernel) (by decide +kernel), by decide +kernel,
    h 0x100 2 (by decide +kernel) (by decide +kernel), by decide +kernel⟩

/-- Dies 0 and 1 are done, die 0 is the conductor, and the Pour is off. -/
def testBooted : State :=
  ((testBase.setReg 0 0x5000200 (BitVec.ofNat 64 (2 ^ 63))).setReg 0 0x5000008 (BitVec.ofNat 64 (2 ^ 63))).setReg 1 0x5000008
    (BitVec.ofNat 64 (2 ^ 63))

theorem witness_BootAndReset_done :
    (testBase.setReg 0 0x5000000 (BitVec.ofNat 64 (2 ^ 63))).imageCheck 0 0 1 = 1 ∧ testBooted.conductor 0 = 0 ∧
    (testBooted.domcfg 0).getLsbD 63 = true ∧ 0 ∈ testBooted.booted 0 ∧ 1 ∈ testBooted.booted 0 ∧ (testBooted.pan 0).pourOn = false ∧
    (testBooted.die 1).presSet = false ∧ ((testBase.setReg 0 0x5000300 1).reg 0 0x5000300).getLsbD 0 = true ∧
    (testAt (.mgmt [1, 2, 3, 4]) testBase).pktAt 0 3 = some { num := 3, src := 1, dst := 0, here := 0, body := .mgmt [1, 2, 3, 4] } ∧
    (testAt (.mgmt [1, 2, 3, 4]) testBase).beforePkt 0 { num := 3, src := 1, dst := 0, here := 0, body := .mgmt [1, 2, 3, 4] } = false ∧
    (testBase.die 0).inReset = false ∧ (testBase.reg 0 0x5000300).getLsbD 0 = false := by decide +kernel

/-- No tagged command on die 0; and one, whose STAT says that it ended without a cause of its own. -/
theorem witness_BootAndReset_orphans :
    let s := testBase.modCore 0 fun k => { k with cq := [(0, { next := 2, cmds := [{ testCmd with tag := some 3, run := some { evt := 2 } }] })] }
    testBase.orphans 0 = [] ∧ s.orphans 0 = [{ core := 0, queue := 0, num := testCmd.num, pa := sramPa 0 0x100, evt := 2, fault := false }] ∧
    (∀ i < 8, flagByte 0 (sramPa 0 0x100 + 56 + i) = false) ∧
    after (exec (.dieReset 0) s) (fun t => t.bytes (sramPa 0 0x138) 8 == leBytes 8 2) = true := by decide +kernel

theorem test_boot :
    after (exec (.bootRomRun 0) (testBase.setReg 0 0x5000000 (BitVec.ofNat 64 (2 ^ 63)))) (fun t =>
      t.reg 0 0x5000008 == BitVec.ofNat 64 (2 ^ 62 + 0x54 * 2 ^ 48 + 2 ^ 8 + 1) && (t.pan 0).vectors == [9]) = true ∧
    after (exec (.bootCompletion 0) testBooted) (fun t => (t.pan 0).pourOn && t.reg 0 8 == 3 && t.reg 1 8 == 3 && t.reg 2 8 == 0) = true ∧
    after (exec (.management 0 3) (testAt (.mgmt [1, 2, 3, 4]) testBase)) (fun t => (t.reg 0 0x5000300).getLsbD 0 && t.pkts.isEmpty) = true ∧
    after (exec (.dieReset 0) (testRegs [5])) (fun t => (t.ctx 0).sreg 1 == 0 && (t.ctx 0).st == .dormant && (t.die 0).inReset) = true ∧
    after (exec (.dieReset 0) ((testBase.writeBytes (flagPa 3 5) (leBytes 8 7)).writeBytes (sramPa 0 8) (leBytes 8 7))) (fun t =>
      t.flagWord 3 5 == 0 && t.raw (sramPa 0 8) == 7) = true := by
  decide +kernel

def testRead8 : HostReq := { window := true, hdm := false, offset := 0x80, size := 8, wdata := none }
/-- A write of START to the doorbell of stream 2. -/
def testBell : HostReq := { window := false, hdm := false, offset := 0x1288, size := 8, wdata := some [1, 0, 0, 0, 0, 0, 0, 0] }

theorem witness_HostAndMigration :
    let s := testBase
    let hid := s.setReg 0 0x5001000 (BitVec.ofNat 64 (2 ^ 63 + 1))
    0 % 64 ∈ [0, 7, 56, 63] ∧ s.hostPa 0 testRead8 = some 0x80 ∧ 0 < testRead8.size ∧ s.allPopulated 0 0x80 8 = true ∧ paKind 0x80 ≠ 3 ∧
    s.unreached 0 0x80 = none ∧ (s.pan 0).bells = [] ∧ s.ringsPour 0 testBell = true ∧ testBell.hdm = false ∧ s.secureAt 0x80 8 = false ∧ s.seededPa 0x80 8 = false ∧ hid.secureAt 0x80 8 = true ∧ hid.hostPa 0 testRead8 = some 0x80 := by decide +kernel

/-- A soft error in the buffer of packet 3, which die 0 then holds no more. -/
theorem test_softErrorInPacket :
    after (exec (.uncorrectableSoftError 0 (2 ^ 57 + 3)) (testOut testLinks)) (fun t => t.pkts.isEmpty && t.bad.isEmpty &&
      (t.pan 0).checks == [(0, 0)]) = true := by decide +kernel

/-- A migration of the 16 KiB page at HBM offset 0 to the one at 0x4000, being copied. -/
def testMig : State := ((testBase.setReg 0 0x2000100 1).setReg 0 0x2000110 0x4000).writeBytes 0x45 [9]

theorem witness_HostAndMigration_copy :
    let e := testMig.modDie 0 fun d => { d with migNext := 256 }
    testMig.migState 0 = 1 ∧ testMig.migPick 0 = some 0 ∧ testMig.migFault 0 (0 + 64 * 0) (0x4000 + 64 * 0) = false ∧ e.migState 0 = 1 ∧
    e.migPick 0 = none ∧ (testMig.setReg 0 0x2000110 0x12A05F4000).migFault 0 0 0x12A05F4000 = true ∧ (testMig.die 0).room = true := by
  decide +kernel

theorem test_hostAndMigration :
    after (exec (.hostAccess 0 testRead8) (testBase.writeBytes 0x80 [1, 2])) (fun t => (t.die 0).hostRead == [1, 2, 0, 0, 0, 0, 0, 0]) = true ∧
    after (exec (.hostAccess 0 { testRead8 with wdata := some [8, 7, 6, 5, 4, 3, 2, 1] }) testBase) (fun t => t.byte 0x80 == 8 &&
      t.byte 0x87 == 1 && t.byte 0x88 == 0) = true ∧
    after (exec (.hostAccess 0 testRead8) (testBase.setReg 0 0x5001000 (BitVec.ofNat 64 (2 ^ 63 + 1)))) (fun t =>
      (t.die 0).hostRead == List.replicate 8 0xFF && (t.reg 0 0x7000010).getLsbD 0) = true ∧
    after (exec (.i3cManagementMessage 0 { addr := ctlPa 0 0x5000310, wdata := some 6 }) testBase) (fun t => t.reg 0 0x5000310 == 6) = true ∧
    after (exec (.migrationLineCopy 0) ((testMig.modDie 0 fun d => { d with migNext := 1 }))) (fun t => t.byte 0x4045 == 9 &&
      (t.die 0).migNext == 2) = true ∧
    after (exec (.migrationSwitch 0) (testMig.modDie 0 fun d => { d with migNext := 256 })) (fun t => t.migState 0 == 2) = true ∧
    after (exec (.uncorrectableSoftError 0 0x45) testMig) (fun t => t.bad == [0x45] && (t.pan 0).vectors == [8]) = true := by decide +kernel


/-! ## Witnesses: tile words, sequencers and tile units -/

/-- `tew` add at level 4, its descriptors at VAs 0x40, 0x60 and 0x80. -/
def testTew : TileWord := decodeTile (0x02 + 4 * 2 ^ 8 + 0x40 * 2 ^ 64 + 0x60 * 2 ^ 128 + 0x80 * 2 ^ 192)
/-- `tsync`, and `twait` for the value at VA 0x40 to be 5 or more, at level 4; `tloop` with 3 passes; `tsig` 9; `tend`. -/
def testTsync : TileWord := decodeTile (0x09 + 4 * 2 ^ 8)
def testTwait : TileWord := decodeTile (0x0B + 4 * 2 ^ 8 + 5 * 2 ^ 32 + 0x40 * 2 ^ 64)
def testTloop : TileWord := decodeTile (0x11 + 4 * 2 ^ 8 + 2 ^ 24 + 3 * 2 ^ 32 + 0x40 * 2 ^ 64)
def testTsig : TileWord := decodeTile (0x15 + 4 * 2 ^ 8 + 9 * 2 ^ 32)
def testTend : TileWord := decodeTile (0x12 + 4 * 2 ^ 8)

/-- The Pour of panel 0 with stream 2 at a word, dies 0 and 1 present, and VA 0 translated at die 0. -/
def testDisp (w : TileWord) : State :=
  { ((testPour w).setReg 0 8 3).modDie 0 fun d => { d with tlb := [{ world := false, page := testSram }] } with
    iss := { pan := 0, strm := 2 } }.setCluReg 0 0x40200 (BitVec.ofNat 64 (0x100 * 2 ^ 32))

/-- The same with words in flight. -/
def testFly (w : TileWord) (l : List HWord) : State :=
  (testDisp w).modStrm 0 2 fun t => { t with flight := l }

def testH (n : Nat) (w : TileWord) : HWord :=
  { num := n, src := .stream 0 2, w := w, stream := 2, prio := 0, world := false, top := 4, level := 4 }

theorem witness_TileWords :
    let s := testDisp testTew
    tileDecodes testTew (.tew testTew) = true ∧ tileCheck true testTew = none ∧ pourKeeps testTew = false ∧
    s.selection 0 2 testTew = [0, 1] ∧ (∀ e ∈ s.selection 0 2 testTew, s.seqRoom (.die (64 * 0 + e)) = true) ∧
    tileDecodes { testTew with rsv := true } (.tew { testTew with rsv := true }) = true ∧
    tileCheck true { testTew with rsv := true } = some 0x0B ∧ (s.selection 0 2 { testTew with inv := true }) = [] ∧
    tileDecodes testTsync (.tsync testTsync) = true ∧ tileCheck true testTsync = none ∧ testTsync.level = 4 ∧
    ((testDisp testTsync).strm 0 2).flight = [] ∧ ((testFly testTsync [testH 1 testTew]).strm 0 2).flight ≠ [] := by decide +kernel

/-- No core of the machine has a sent word that waits. -/
theorem witness_TileWords_sends (c : Nat) : ((testDisp testTew).core c).sends = [] := by
  rcases c with _ | c
  · rfl
  · rw [State.core, show (testDisp testTew).cores = [(0, ((testDisp testTew).core 0))] from rfl]
    simp [spGet]

/-- A level-4 `twait` with ORD: with no earlier word, and with one. -/
theorem witness_TileWords_ordered :
    let w := { testTwait with ord := true }
    let s := (testDisp w).writeBytes (sramPa 0 0x40) [5]
    let t := (testFly w [testH 1 testTew]).writeBytes (sramPa 0 0x40) [5]
    tileDecodes w (.twait w) = true ∧ tileCheck true w = none ∧ (s.strm 0 2).flight = [] ∧ (t.strm 0 2).flight ≠ [] ∧
    after (exec (.twait w) s) (fun u => u.strPc 0 2 == 32) = true ∧ after (exec (.twait w) t) (fun u => u == t) = true ∧
    after (exec (.twaitPoll 0 2) t) (fun u => u == t) = true := by decide +kernel

theorem witness_TileWords_wait :
    let s := testDisp testTwait
    tileDecodes testTwait (.twait testTwait) = true ∧ tileCheck true testTwait = none ∧ testTwait.level = 4 ∧ testTwait.da ≠ 0 ∧
    testTwait.da.toNat % 8 = 0 ∧ s.unitFail (s.conductor 0) (s.strWorld 0 2) [(0x40, 8)] false = none ∧
    testTwait.func = 0 ∧ testTwait.param.toNat = 5 ∧ (s.strm 0 2).met = false := by decide +kernel

theorem witness_TileWords_pour :
    (∀ q ∈ [(testTjmp, Instr.tjmp testTjmp), (testTloop, .tloop testTloop), (testTend, .tend testTend), (testTsig, .tsig testTsig)],
      tileDecodes q.1 q.2 = true ∧ tileCheck true q.1 = none) ∧
    (let w := decodeTile (0x13 + 4 * 2 ^ 8 + 9 * 2 ^ 24 + 7 * 2 ^ 32); tileDecodes w (.tdmset w) = true ∧ tileCheck true w = none) ∧
    (let w := decodeTile (0x14 + 4 * 2 ^ 8 + 3 * 2 ^ 32); tileDecodes w (.tstag w) = true ∧ tileCheck true w = none) := by decide +kernel

theorem test_tileDispatch :
    after (exec (.tew testTew) (testDisp testTew)) (fun t => t.strPc 0 2 == 32 && (t.die 0).seq.length == 1 && (t.die 1).seq.length == 1 &&
      (t.die 0).seq.map (fun c => (c.level, c.va)) == [(3, 0)] && (t.strm 0 2).flight.map (fun h => h.live.map (·.unit)) == [[0, 1]]) = true ∧
    after (exec (.tew { testTew with rsv := true }) (testDisp { testTew with rsv := true })) (fun t => t.strState 0 2 == 5 &&
      (t.str 0 2 0x18).toNat / 2 ^ 56 == 0x0B && t.strPc 0 2 == 0) = true ∧
    after (exec (.tsync testTsync) (testDisp testTsync)) (fun t => t.strPc 0 2 == 32) = true ∧
    after (exec (.twait testTwait) (testDisp testTwait)) (fun t => t.strPc 0 2 == 0) = true ∧
    after (exec (.twait testTwait) ((testDisp testTwait).writeBytes (sramPa 0 0x40) [5])) (fun t => t.strPc 0 2 == 32) = true := by
  decide +kernel

theorem test_pourWords :
    after (exec (.tjmp testTjmp) (testDisp testTjmp)) (fun t => t.strPc 0 2 == 0x40) = true ∧
    after (exec (.tloop testTloop) (testDisp testTloop)) (fun t => t.strPc 0 2 == 0x40 && t.str 0 2 0x20 == BitVec.ofNat 64 (2 * 2 ^ 32)) = true ∧
    after (exec (.tend testTend) (testDisp testTend)) (fun t => t.strState 0 2 == 6) = true ∧
    after (exec (.tsig testTsig) (testDisp testTsig)) (fun t => t.str 0 2 0x80 == BitVec.ofNat 64 (2 ^ 63 + 9) && (t.pan 0).vectors == [2]) = true ∧
    after (exec (.tsig testTsig) (testFly testTsig [testH 1 testTew])) (fun t => t.str 0 2 0x80 == 0 && (t.strm 0 2).flight.length == 2) = true := by
  decide +kernel

/-- Stream 2 running with nothing fetched: its words stand at VA 0x40, or where no page is. -/
def testFetch (pc : Nat) : State := ((testDisp testTew).modStrm 0 2 fun t => { t with fetched := none }).setStr 0 2 8 (BitVec.ofNat 64 pc)

theorem witness_PourEvents :
    let s := testFetch 0x40
    let e := { testH 1 testTew with ended := true }
    s.pourEnabled 0 = true ∧ s.strState 0 2 = 1 ∧ (s.strm 0 2).fetched = none ∧ (s.strm 0 2).ended = false ∧
    s.unitFail 0 false [(0x40, 32)] false = none ∧ (testFetch 0x4000000).unitFail 0 false [(0x4000000, 32)] false = some (0x20, 0x4000000) ∧
    (s.die 0).room = true ∧ s.pourPick 0 = none ∧ (testDisp testTew).pourPick 0 = some (2, true) ∧
    ((testDisp testTew).modPan 0 fun q => { q with turn := 2, spent := 1, width := 4 }).pourPick 0 = some (2, false) ∧
    ((testFly testTew [e]).strm 0 2).flight[0]? = some e ∧ (∀ g ∈ [e], g.num ≠ e.num → g.op ≠ 0x15) ∧ e.stream.toNat = 2 ∧
    (testFly testTew [e]).strStill 0 2 = false ∧ (e.status 0).cause = 0 ∧
    (({ e with fail := some { cause := 0x21, nfault := 1 } } : HWord).status 0).cause = 0x21 ∧ ((testFly testTew [e]).strm 0 2).aborting = false ∧
    (testH 2 testTsig).op = 0x15 ∧ (∀ i, i < 64 → ((testDisp testTwait).die (64 * 0 + i)).seq = []) := by decide +kernel

theorem witness_PourEvents_time :
    let s := { (testFly testTew [testH 1 testTew]).setStr 0 2 0x30 1 with now := 3000 }
    let h := { testH 1 (decodeTile (0x0A + 3 * 2 ^ 8)) with level := 3, hold := 600, came := some 2400 }
    let u := s.modDie 0 fun d => { d with seq := [h] }
    (s.str 0 2 0x30).toNat % 2 ^ 32 ≠ 0 ∧ s.strState 0 2 = 1 ∧ (s.strm 0 2).flight ≠ [] ∧ (s.strm 0 2).lastDone + 1 * 3000 ≤ s.now ∧
    (u.die 0).seq = [h] ∧ h.hold ≠ 0 ∧ h.level = 3 ∧ h.op = 0x0A ∧ h.sentBy = none ∧ h.open_ = false ∧ h.ended = false ∧
    u.strStill (0 / 64) h.stream.toNat = false ∧ h.came = some 2400 ∧ 2400 + h.hold ≤ u.now ∧
    ({ u with now := 2999 } : State).now < 2400 + h.hold := by decide +kernel

theorem test_pourEvents :
    let e := { testH 1 testTew with ended := true }
    after (exec (.pourWordFetch 0 2) ((testFetch 0x40).writeBytes (sramPa 0 0x40) (leBytes 32 (encodeTile testTloop)))) (fun t =>
      (t.strm 0 2).fetched == some testTloop) = true ∧
    after (exec (.pourWordFetch 0 2) (testFetch 0x4000000)) (fun t => t.strState 0 2 == 5 && (t.str 0 2 0x18).toNat / 2 ^ 56 == 0x5A &&
      (t.die 0).store.map (fun f => (f.cause, f.src, f.who)) == [(0x5A, 2, 128)]) = true ∧
    after (exec (.wordCompleteAtPour 0 2 0) (testFly testTew [e])) (fun t => (t.strm 0 2).flight.isEmpty && t.strState 0 2 == 1) = true ∧
    after (exec (.wordCompleteAtPour 0 2 0) (testFly testTew [{ e with fail := some { cause := 0x21, nfault := 1 } }])) (fun t =>
      t.strState 0 2 == 5 && (t.str 0 2 0x18).toNat / 2 ^ 48 == 0x3521) = true ∧
    after (exec (.wordCompleteAtPour 0 2 0) (testFly testTew [e, testH 2 testTsig])) (fun t => (t.strm 0 2).flight.isEmpty &&
      t.str 0 2 0x80 == BitVec.ofNat 64 (2 ^ 63 + 9)) = true ∧
    after (exec (.twaitPoll 0 2) ((testDisp testTwait).writeBytes (sramPa 0 0x40) [5])) (fun t => (t.strm 0 2).met) = true ∧
    after (exec (.twaitPoll 0 2) (testDisp testTwait)) (fun t => !(t.strm 0 2).met) = true := by decide +kernel

theorem test_pourTime :
    let s := { (testFly testTew [testH 1 testTew]).setStr 0 2 0x30 1 with now := 3000 }
    let h := { testH 1 (decodeTile (0x0A + 3 * 2 ^ 8)) with level := 3, hold := 600, came := some 2400 }
    after (exec (.watchdogExpire 0 2) s) (fun t => t.strState 0 2 == 5 && (t.str 0 2 0x18).toNat / 2 ^ 56 == 0x0F) = true ∧
    after (exec (.watchdogExpire 0 2) { s with now := 2999 }) (fun t => t.strState 0 2 == 1) = true ∧
    after (exec (.staggerHoldEnd 0) (s.modDie 0 fun d => { d with seq := [h] })) (fun t => (t.die 0).seq.map (·.ended) == [true]) = true ∧
    after (exec (.staggerHoldEnd 0) (s.modDie 0 fun d => { d with seq := [{ h with hold := 601 }] })) (fun t =>
      (t.die 0).seq.map (·.ended) == [false]) = true ∧
    after (exec (.childStart (.die 0) 0 0) (s.modDie 0 fun d => { d with seq := [{ h with came := none }] })) (fun t =>
      (t.die 0).seq.map (·.came) == [some 3000]) = true := by decide +kernel

/-- A `tfence` word at level 2 stands in SRAM at VA 0x40; h2 is its page. -/
def testSend : State :=
  (testMem fun c => { c with s := [(1, 0x40), (3, 0x44)] }).writeBytes (sramPa 0 0x40) (leBytes 32 (0x0A + 2 * 2 ^ 8))

theorem witness_SentWords :
    let s := testSend
    let h := s.me.hreg 2
    h.valid = true ∧ sramHandle 0 h { off := 0x40, len := 64 } = true ∧ s.accessCheck 0 h [{ off := 0x40, len := 64 }] 64 false = none ∧
    sramHandle 0 h { off := 0x44, len := 64 } = true ∧ s.accessCheck 0 h [{ off := 0x44, len := 64 }] 64 false = some (0x24, 0x44) ∧
    (s.me.hreg 3).valid = false ∧ sramHandle 0 h { off := 0x3FFFE0, len := 64 } = false ∧ h.sramOf 0 = true ∧
    (let g : Handle := { valid := true, rd := true, frame := mkPa 0 0 0x10000 }
     s.accessCheck 0 g [{ off := 0x40, len := 64 }] 64 false = none ∧ sramHandle 0 g { off := 0x40, len := 64 } = false ∧ g.sramOf 0 = false) ∧
    inClu 0 (h.pa (0x3FFFE0 + 32)) 1 = false ∧ (∀ i, i < 32 → inClu 0 (h.pa (0x3FFFE0 + i)) 1 = true) := by decide +kernel

theorem witness_SentWords_word :
    let s := testSend
    (decodeTile (leVal ((List.range 32).map fun i => s.byte ((s.me.hreg 2).pa (0x40 + i))))).spec = false ∧ (s.core 0).sends = [] := by
  decide +kernel

/-- That word, as the cluster sequencer holds it. -/
def testSentWord : HWord :=
  { testH 1 (decodeTile (0x0A + 2 * 2 ^ 8)) with level := 2, top := 2, src := .sent 0 2, sentBy := some (0, sramPa 0 0x40, 9, none) }

theorem witness_SentWords_end :
    ((testBase.modClu 0 fun u => { u with seq := [testSentWord] }).words (.clu 0))[0]? = some testSentWord ∧
    (testBase.core 0).sends = [] ∧ testSentWord.ended = false ∧ (testSentWord.status 0).cause = 0 ∧ (testBase.die 0).room = true :=
  ⟨rfl, by decide +kernel⟩

theorem test_sentWords :
    let k := { testSentWord with ended := true }
    let s := fun (k : HWord) => testBase.modClu 0 fun u => { u with seq := [k] }
    after (exec (.tsend 2 1 9) testSend) (fun t => (t.clu 0).seq.map (fun k => (k.level, k.va, k.sentBy)) ==
      [(2, 0x40, some (0, sramPa 0 0x40, 9, none))]) = true ∧
    after (exec (.tsendCompletion (.clu 0) 0) (s k)) (fun t => (t.clu 0).seq.isEmpty && (t.core 0).fport.map (fun r => (r.n, r.op)) == [(9, .add 1)]) = true ∧
    after (exec (.tsendCompletion (.clu 0) 0) (s { k with fail := some { cause := 0x21, nfault := 1 } })) (fun t =>
      t.byte (sramPa 0 0x67) == 0x21 && (t.die 0).store.map (fun f => (f.cause, f.orig, f.src)) == [(0x35, 0x21, 3)]) = true ∧
    after (exec (.tsendCompletion (.clu 0) 0) (s { k with ended := false })) (fun t => (t.clu 0).seq.length == 1) = true := by decide +kernel

/-- A word of cluster 0 that has two children to start, on cores 0 and 5. -/
def testOpen : HWord := { testH 7 testTew with level := 2, open_ := true, reserved := true, todo := [{ idx := 0, unit := 0, lo := 0, len := 1 }, { idx := 1, unit := 5, lo := 1, len := 1 }] }
def testCluster (h : HWord) : State := testBase.modClu 0 fun u => { u with seq := [h] }

theorem witness_Children_reserve :
    let h := { testOpen with reserved := false, reserve := 4096 }
    let s := (testCluster h).setCluReg 0 0x40100 (BitVec.ofNat 64 (2 ^ 12 + 2 ^ 32))
    let t := (testBase.modClu 0 fun u => { u with seq := [h, { h with num := 8, reserved := true }] }).setCluReg 0 0x40100 (BitVec.ofNat 64 (2 ^ 12 + 2 ^ 32))
    (s.clu 0).seq[0]? = some h ∧ overlaps 4096 4096 flagBase flagBytes = false ∧ 4096 + 4096 ≤ 0x400000 ∧
    (s.cluReg 0 0x40100).toNat / 2 ^ 12 % 2 ^ 10 * 4096 = 4096 ∧ (((s.clu 0).seq.filter (·.reserved)).map (·.reserve)).sum + h.reserve ≤ 4096 ∧
    4096 < (((t.clu 0).seq.filter (·.reserved)).map (·.reserve)).sum + h.reserve ∧ 4096 < ({ h with reserve := 4097 } : HWord).reserve := by
  decide +kernel

/-- A word whose share of A, 32 bytes, lies in the die's HBM, behind an earlier word's reservation of 64 bytes in a staging
area of 4,096. -/
def testStage : HWord :=
  { testH 8 testTew with level := 2, open_ := true, reserve := 32, a := testTd 0x8000000 2 4 16 7 }
def testStaging : State :=
  let p : Handle := { valid := true, rd := true, wr := true, size := 1, kind := 0, va := 0x8000000, frame := mkPa 0 0 0x10000 }
  let g := { testH 7 testTew with level := 2, open_ := true, reserved := true, reserve := 64, area := [(sramPa 0 4096, 64)] }
  (((testBase.modDie 0 fun d => { d with tlb := [{ world := false, page := p }] }).modClu 0 fun u => { u with seq := [g, testStage] }).setCluReg
    0 0x40100 (BitVec.ofNat 64 (2 ^ 12 + 2 ^ 32))).writeBytes (mkPa 0 0 0x10000) [1, 2, 3]

theorem witness_Children_stage :
    let s := testStaging
    let a := testStage.da
    (s.clu 0).seq[1]? = some testStage ∧ s.stagedBytes 0 testStage = 32 ∧ 64 + 32 ≤ 4096 ∧ s.tornAt (.clu 0) false a.ranges = false ∧
    (∀ q ∈ [(sramPa 0 4096, 64)], sramPa 0 4096 ≤ q.1 ∧ q.1 + q.2 ≤ sramPa 0 (4096 + 4096)) ∧
    s.operandFail 0 false a.ranges a.base (a.base % fmtAlign a.fmt != 0) false = none ∧
    after (exec (.stagingReserve (.clu 0) 1) s) (fun t => ((t.clu 0).seq[1]?.map fun h => (h.reserved, h.area)) ==
      some (true, [(sramPa 0 4160, 32)]) && t.bytes (sramPa 0 4160) 4 == [1, 2, 3, 0]) = true := by decide +kernel

theorem witness_Children_stage_plain : testStaging.noRegions ∧ ∀ x, testStaging.homeOf x = x := by
  have h : testStaging.ctl = [(ctlPa 0 0x10040100, BitVec.ofNat 64 (2 ^ 12 + 2 ^ 32))] := by decide +kernel
  refine ⟨witness_noRegions ?_, witness_homeOf ?_⟩ <;> rw [h] <;> decide

theorem witness_Children_start :
    let s := testCluster testOpen
    (s.words (.clu 0))[0]? = some testOpen ∧ unitLevel (.clu 0) = 2 ∧ testOpen.barrier = false ∧ s.strStill (unitPanel (.clu 0)) testOpen.stream.toNat = false ∧
    (∀ g ∈ s.words (.clu 0), g.num = testOpen.num → g = testOpen) ∧ testOpen.axis = 0 ∧ testOpen.faulted = false ∧
    s.unitFree (childUnit (.clu 0) 0) testOpen = true ∧ (testOpen.todo.find? (·.idx == 1)).map (·.unit) = some 5 ∧
    testOpen.todo.find? (·.idx == 2) = none ∧
    (s.modCore 0 fun k => { k with tu := [testH 9 testTew] }).unitFree (childUnit (.clu 0) 0) testOpen = false := by decide +kernel

/-- No core has a sent word that waits. -/
theorem witness_Children_sends (h : HWord) (c : Nat) : ((testCluster h).core c).sends = [] := by
  rcases c with _ | c
  · rfl
  · rw [State.core, show (testCluster h).cores = [(0, ((testCluster h).core 0))] from rfl]
    simp [spGet]

/-- The same word with tickets to pull, split along the rows of C of 64 rows. -/
def testPull : HWord :=
  let td := testTd 0x1000 64 4 16 7
  { testOpen with w := { testTew with split := 4 }, a := td, b := td, c := td, todo := [], tickets := 2 }

theorem witness_Children_pull :
    let s := testCluster testPull
    let e : HWord ⊕ Nat := ({ testPull with ticket := 1 } : HWord).share 0 1
    testPull.axis ≠ 0 ∧ testPull.ticket < testPull.tickets ∧ (∀ k ∈ testPull.live, k.unit ≠ 3) ∧ s.unitFree (childUnit (.clu 0) 3) testPull = true ∧
    (match e with | .inl k => k.dc.rows == 32 | .inr _ => false) = true ∧ ({ testPull with ticket := 2 } : HWord).tickets ≤ 2 := by decide +kernel

/-- A child on core 5 of the open word, over with a fault. -/
def testLive (f : Option Status) : State :=
  (testCluster { testOpen with todo := [{ idx := 0, unit := 0, lo := 0, len := 1 }], live := [{ idx := 1, unit := 5, lo := 1, len := 1 }] }).modCore 5 fun k => { k with
    tu := [{ testH 9 testTew with level := 1, parent := some (7, 1), ended := true, fail := f }] }

theorem witness_Children_end :
    let s := testLive none
    (s.words (childUnit (.clu 0) 5)).map (fun e => (e.parent, e.ended)) = [(some (7, 1), true)] ∧ (s.core 5).sends = [] ∧
    ((s.words (.clu 0))[0]?.map fun h => h.live.map (·.unit)) = some [5] := by decide +kernel

/-- The last child of a word split along K is over; C is one FP32 element that is not kept, and the word was accepted here,
or by a unit above. -/
def testAdds (top : Nat) : State :=
  let h := { testH 7 testTew with w := decodeTile (0x01 + 2 * 2 ^ 8 + 3 * 2 ^ 12 + 2 ^ 24 + 0x505 * 2 ^ 32), level := 2, top := top,
                                  open_ := true, reserved := true, live := [{ idx := 1, unit := 5, lo := 1, len := 1 }],
                                  parts := [(0, [0x3F800000])], a := testTd 0x1000 1 64 128 5, b := testTd 0x2000 64 1 2 5, c := testTd 0x400 1 1 4 7 }
  { ((testMem id).modClu 0 fun u => { u with seq := [h] }).modCore 5 fun k => { k with
      tu := [{ testH 9 testTew with level := 1, parent := some (7, 1), ended := true, own := [0x40000000] }] } with iss := {} }

theorem witness_Children_adds :
    let s := testAdds 2
    (s.words (.clu 0)).map (fun h => (h.adds, h.noWork, h.keepsC, h.todo.isEmpty, h.first.isNone)) = [(true, false, false, true, true)] ∧
    (s.words (.clu 0)).map (fun h => (h.level, h.tickets, h.live.map (·.unit))) = [(2, 0, [5])] ∧ ((testAdds 3).words (.clu 0)).map (fun h => decide (h.top ≠ h.level)) = [true] ∧
    (s.words (childUnit (.clu 0) 5)).map (fun e => (e.parent, e.ended, (e.status 5).cause)) = [(some (7, 1), true, 0)] ∧
    s.tornAt (.clu 0) false [(0x400, 4)] = false ∧ s.operandFail 0 false [(0x400, 4)] 0x400 false true = none ∧
    after (exec (.childComplete (.clu 0) 0 1) s) (fun t => t.bytes (sramPa 0 0x400) 4 == leBytes 4 0x40400000 &&
      (t.words (.clu 0)).map (·.ended) == [true]) = true ∧
    after (exec (.childComplete (.clu 0) 0 1) (testAdds 3)) (fun t => (t.words (.clu 0)).map (fun h => (h.own, h.ended)) ==
      [([0x40400000], true)]) = true := by decide +kernel

theorem test_children :
    after (exec (.childStart (.clu 0) 0 1) (testCluster testOpen)) (fun t => ((t.words (.clu 0)).map fun h => (h.todo.map (·.idx), h.live.map (·.idx))) == [([0], [1])] &&
      (t.core 5).tu.map (fun e => (e.level, e.parent)) == [(1, some (7, 1))]) = true ∧
    after (exec (.childStart (.clu 0) 0 0) (testCluster { testOpen with faulted := true })) (fun t => (t.words (.clu 0)).map (fun h => (h.todo.length, h.abt)) == [(1, true)] &&
      (t.core 0).tu.isEmpty) = true ∧
    after (exec (.pullTicket (.clu 0) 0 3) (testCluster testPull)) (fun t => (t.words (.clu 0)).map (·.ticket) == [1] &&
      (t.core 3).tu.map (fun e => (e.dc.rows, e.parent)) == [(32, some (7, 0))]) = true ∧
    after (exec (.childComplete (.clu 0) 0 1) (testLive (some { cause := 0x21, nfault := 1 }))) (fun t => (t.core 5).tu.isEmpty &&
      (t.words (.clu 0)).map (fun h => (h.nf, h.faulted, h.first.map fun q => (q.1, q.2.cause))) == [(1, true, some (1, 0x21))]) = true := by
  decide +kernel

/-- Core 0's tile unit with an FP32 add of two 2 by 4 tiles at VA 0x400, 0x440 into 0x480. -/
def testLeaf : HWord :=
  { testH 9 testTew with level := 1, open_ := true, a := testTd 0x400 2 4 16 7, b := testTd 0x440 2 4 16 7, c := testTd 0x480 2 4 16 7 }
def testUnit : State :=
  ((((testMem id).modCore 0 fun k => { k with tu := [testLeaf] }).writeBytes (sramPa 0 0x414) (leBytes 4 0x3F800000)).writeBytes
    (sramPa 0 0x454) (leBytes 4 0x40000000))

theorem witness_Children_leaf :
    let s := testUnit
    (s.core 0).tu = [testLeaf] ∧ testLeaf.op = 2 ∧ s.strStill (0 / 4096) testLeaf.stream.toNat = false ∧ (s.core 0).active = true ∧
    s.blockFail 0 testLeaf (testLeaf.blockAt 0) = none ∧ (s.clu 0).sb = [] ∧
    s.blockFail 0 { testLeaf with c := testTd 0x4000000 2 4 16 7 } (({ testLeaf with c := testTd 0x4000000 2 4 16 7 } : HWord).blockAt 0) =
      some (0x20, 0x4000000) ∧ (s.core 1).active = false := by decide +kernel

/-- A block whose page no translation holds: the tile unit waits for entry 0 of the translation unit, and a walk that has
faulted ends the word. -/
theorem witness_Children_miss :
    let h := { testLeaf with c := testTd 0x4000000 2 4 16 7 }
    let s := fun (w : Option (Nat × Word)) => testUnit.modCore 0 fun k => { k with tu := [{ h with walk := w }] }
    (s none).unitMiss 0 false (h.touches (h.blockAt 0)) = some 0x4000000 ∧
    ((s none).die 0).tuFault false (0x4000000 / 0x4000) = none ∧ ((s none).die 0).tuFind false (0x4000000 / 0x4000) = none ∧
    ((s none).die 0).freeTu.isSome = true ∧ (s none).blockFail 0 testLeaf (testLeaf.blockAt 0) = none ∧
    after (exec (.leafWork 0) (s none)) (fun t => (t.die 0).tu.map (fun q => (q.2.vpn, q.2.waiters)) ==
      [(0x1000, [.unit 0 9 0x4000000])]) = true ∧
    after (exec (.leafWork 0) (testUnit.modCore 0 fun k => { k with tu := [{ testLeaf with walk := some (0x21, 5) }] })) (fun t =>
      (t.core 0).tu.map (fun h => h.fail.map fun f => (f.cause, f.faddr)) == [some (0x21, 5)]) = true := by decide +kernel

/-- Array steps: on a core that is active, under a throttle in a cycle that is not its own, and on a core that is quiet. -/
theorem witness_Children_gates :
    let h := { testLeaf with w := decodeTile (0x01 + 2 ^ 8 + 2 ^ 24 + 0x505 * 2 ^ 32), a := testTd 0x400 1 2 4 5, b := testTd 0x440 2 1 2 5,
                             c := testTd 0x480 1 1 4 7 }
    let s := (testUnit.modCore 0 fun k => { k with tu := [h], stepFree := 8 }).writeBytes (sramPa 0 0x400) [0x80, 0x3F, 0x80, 0x3F]
    let v := s.modPan 0 fun q => { q with regions := [(0, { tthr := true })] }
    let quiet := s.modCore 0 fun k => { k with active := false }
    h.op = 1 ∧ h.stages = true ∧ (s.core 0).active = true ∧ (s.regionAt 0).crit = false ∧ (v.regionAt 0).tthr = true ∧
    ¬(v.core 0).stepFree ≤ v.now ∧ (quiet.core 0).active = false ∧
    after (exec (.leafWork 0) v) (fun t => t == v) = true ∧
    after (exec (.leafWork 0) quiet) (fun t => (t.core 0).wants && (t.core 0).tu == [h]) = true := by decide +kernel

/-- A `tcall` child for core 0 of a word that is not split: entry 0x40, argument 7. -/
theorem witness_Children_call :
    let w := decodeTile (0x08 + 2 ^ 8 + (0x40 + 7 * 2 ^ 16) * 2 ^ 32)
    let h := { testH 9 w with level := 1, open_ := true, todo := [{ idx := 0, unit := 0, lo := 0, len := 1 }] }
    let s := testBase.modCore 0 fun k => { k with tu := [h] }
    h.op = 8 ∧ h.axis = 0 ∧ h.param % 2 ^ 16 = 0x40 ∧ h.faulted = false ∧ s.strStill 0 2 = false ∧
    after (exec (.childStart (.core 0) 0 0) s) (fun t => (t.ctx 1).st == .ready && (t.ctx 1).pc == 0x40 &&
      (List.range 6).map (t.ctx 1).sreg == [0, 0, 0, 0, 7, 0] && (t.ctx 1).origin == some (.tcall 9 0 false)) = true := by decide +kernel

theorem test_leafWork :
    after (exec (.leafWork 0) testUnit) (fun t => t.bytes (sramPa 0 0x494) 4 == leBytes 4 0x40400000 && (t.core 0).tu.map (·.ended) == [true]) = true := by
  decide +kernel

/-- The store of R357: an 8-byte store of die 5 to PA 0x4000_0010_0000 on die 1, request 0x0123; bytes 0 to 23 of its header
as the spec prints them. -/
theorem test_header :
    let p : Pkt := { num := 0, src := 5, dst := 1, here := 5, seq := 0x123,
                     body := .req (.store ((List.range 8).map fun i => (0x400000100000 + i, 0))) }
    (p.header.map fun h => (h.length, (h.take 24).map (·.toNat))) = some (64, [0x02, 0x01, 0x00, 0x00, 0x05, 0x00, 0x01, 0x00, 0x23, 0x01, 0x00, 0x00,
      0x08, 0x00, 0x00, 0x00, 0x00, 0x00, 0x10, 0x00, 0x00, 0x40, 0x00, 0x00]) ∧ p.body.flits = 2 := by decide +kernel
end

/-! ## Scalar values: what the operations on words come to in numbers (R126 to R134) -/

namespace Sys2Proof.Machine

/-! ### Shifts and rotations -/

theorem shiftLeft_eq_ofNat (x : Word) (n : Nat) : x <<< n = BitVec.ofNat 64 (x.toNat * 2 ^ n) :=
  BitVec.eq_of_toNat_eq (by rw [BitVec.toNat_shiftLeft, Nat.shiftLeft_eq, BitVec.toNat_ofNat])

theorem ushiftRight_eq_ofNat (x : Word) (n : Nat) : x >>> n = BitVec.ofNat 64 (x.toNat / 2 ^ n) := by
  rw [← Nat.shiftRight_eq_div_pow, ← BitVec.toNat_ushiftRight, BitVec.ofNat_toNat, BitVec.setWidth_eq]

theorem sshiftRight_eq_ofInt (x : Word) (n : Nat) : x.sshiftRight n = BitVec.ofInt 64 (x.toInt / 2 ^ n) := by
  have h : (x.sshiftRight n).toInt = x.toInt / 2 ^ n := by
    rw [BitVec.toInt_sshiftRight, Int.shiftRight_eq_div_pow, Int.natCast_pow]; rfl
  rw [← h, BitVec.ofInt_toInt]

/-- The `k` bits that leave a word at the top come back at its bottom, where the shift has left zeros. -/
theorem shiftLeft_or_ushiftRight_eq_ofNat (x : Word) {k : Nat} (hk : k ≤ 64) :
    x <<< k ||| x >>> (64 - k) = BitVec.ofNat 64 (x.toNat * 2 ^ k + x.toNat / 2 ^ (64 - k)) := by
  have hpow : 2 ^ 64 = 2 ^ k * 2 ^ (64 - k) := by rw [← Nat.pow_add, Nat.add_sub_cancel' hk]
  have hlow : x.toNat / 2 ^ (64 - k) < 2 ^ k := by
    rw [Nat.div_lt_iff_lt_mul (Nat.two_pow_pos _), ← hpow]; exact x.isLt
  have htop : x.toNat * 2 ^ k % 2 ^ 64 = 2 ^ k * (x.toNat % 2 ^ (64 - k)) := by
    rw [hpow, Nat.mul_comm x.toNat, Nat.mul_mod_mul_left]
  have hor : (x <<< k ||| x >>> (64 - k)).toNat = x.toNat * 2 ^ k % 2 ^ 64 + x.toNat / 2 ^ (64 - k) := by
    rw [BitVec.toNat_or, BitVec.toNat_shiftLeft, BitVec.toNat_ushiftRight, Nat.shiftLeft_eq, Nat.shiftRight_eq_div_pow,
      htop, Nat.two_pow_add_eq_or_of_lt hlow]
  apply BitVec.eq_of_toNat_eq
  rw [BitVec.toNat_ofNat, ← Nat.mod_add_mod, ← hor, Nat.mod_eq_of_lt (BitVec.isLt _)]

theorem rotateLeft_eq_ofNat (x : Word) {n : Nat} (hn : n < 64) :
    x.rotateLeft n = BitVec.ofNat 64 (x.toNat * 2 ^ n + x.toNat * 2 ^ n / 2 ^ 64) := by
  have hover : x.toNat * 2 ^ n / 2 ^ 64 = x.toNat / 2 ^ (64 - n) := by
    rw [show 2 ^ 64 = 2 ^ (64 - n) * 2 ^ n by rw [← Nat.pow_add, Nat.sub_add_cancel (Nat.le_of_lt hn)],
      Nat.mul_div_mul_right _ _ (Nat.two_pow_pos n)]
  rw [BitVec.rotateLeft_def, Nat.mod_eq_of_lt hn, shiftLeft_or_ushiftRight_eq_ofNat x (Nat.le_of_lt hn), hover]

theorem rotateRight_eq_ofNat (x : Word) {n : Nat} (hn : n < 64) :
    x.rotateRight n = BitVec.ofNat 64 (x.toNat / 2 ^ n + x.toNat * 2 ^ (64 - n)) := by
  have h := shiftLeft_or_ushiftRight_eq_ofNat x (Nat.sub_le 64 n)
  rw [Nat.sub_sub_self (Nat.le_of_lt hn)] at h
  rw [BitVec.rotateRight_def, Nat.mod_eq_of_lt hn, BitVec.or_comm, h, Nat.add_comm]

/-! ### Sums, products and immediates -/

theorem add_eq_ofNat (x y : Word) : x + y = BitVec.ofNat 64 (x.toNat + y.toNat) := by
  simp only [BitVec.ofNat_add, BitVec.ofNat_toNat, BitVec.setWidth_eq]

theorem sub_eq_ofInt (x y : Word) : x - y = BitVec.ofInt 64 (x.toNat - y.toNat) := by
  rw [Int.sub_eq_add_neg, BitVec.ofInt_add, BitVec.ofInt_neg, BitVec.ofInt_natCast, BitVec.ofInt_natCast,
    BitVec.ofNat_toNat, BitVec.ofNat_toNat, BitVec.setWidth_eq, BitVec.setWidth_eq, ← BitVec.sub_eq_add_neg]

/-- The low half of a product does not depend on the sign of its factors. -/
theorem ofInt_mul_toInt_eq_ofNat (x y : Word) :
    BitVec.ofInt 64 (x.toInt * y.toInt) = BitVec.ofNat 64 (x.toNat * y.toNat) := by
  simp only [BitVec.ofInt_mul, BitVec.ofNat_mul, BitVec.ofInt_toInt, BitVec.ofNat_toNat, BitVec.setWidth_eq]

theorem add_signExtend_eq_ofInt (x : Word) (i : BitVec 16) :
    x + i.signExtend 64 = BitVec.ofInt 64 (x.toNat + i.toInt) := by
  rw [BitVec.ofInt_add, BitVec.ofInt_natCast, BitVec.ofNat_toNat, BitVec.setWidth_eq, BitVec.signExtend]

theorem zeroExtend_eq_ofNat (i : BitVec 16) : i.zeroExtend 64 = BitVec.ofNat 64 i.toNat :=
  BitVec.eq_of_toNat_eq (by rw [BitVec.toNat_setWidth, BitVec.toNat_ofNat])

/-! ### Comparisons -/

theorem ofBool_eq_ite (b : Bool) : Word.ofBool b = if b = true then 1 else 0 := rfl

theorem ofBool_slt (x y : Word) : Word.ofBool (x.slt y) = if x.toInt < y.toInt then 1 else 0 := by
  simp only [ofBool_eq_ite, BitVec.slt_iff_toInt_lt]

theorem ofBool_ult (x y : Word) : Word.ofBool (x.ult y) = if x.toNat < y.toNat then 1 else 0 := by
  simp only [ofBool_eq_ite, BitVec.ult_iff_lt, BitVec.lt_def]

theorem ofBool_beq (x y : Word) : Word.ofBool (x == y) = if x = y then 1 else 0 := by
  simp only [ofBool_eq_ite, beq_iff_eq]

theorem ofBool_bne (x y : Word) : Word.ofBool (x != y) = if x = y then 0 else 1 := by
  simp only [ofBool_eq_ite, bne_iff_ne, ite_not]

theorem ofBool_slt_signExtend (x : Word) (i : BitVec 16) :
    Word.ofBool (x.slt (i.signExtend 64)) = if x.toInt < i.toInt then 1 else 0 := by
  rw [ofBool_slt, BitVec.toInt_signExtend_of_le (by decide)]

/-- A choice by the weaker of two conditions differs only where it alone holds, so not where both choices are one. -/
theorem ite_eq_ite_of_imp {p q : Prop} [Decidable p] [Decidable q] {u v : Word} (hpq : p → q)
    (h : q → ¬p → u = v) : (if p then u else v) = if q then u else v := by
  by_cases hp : p
  · rw [if_pos hp, if_pos (hpq hp)]
  · by_cases hq : q
    · rw [if_neg hp, if_pos hq, h hq hp]
    · rw [if_neg hp, if_neg hq]

theorem ite_slt (x y u v : Word) (h : x = y → u = v) :
    (if x.slt y then u else v) = if x.toInt ≤ y.toInt then u else v := by
  simp only [BitVec.slt_iff_toInt_lt]
  exact ite_eq_ite_of_imp Int.le_of_lt fun hle hlt =>
    h (BitVec.toInt_inj.mp (Int.le_antisymm hle (Int.not_lt.mp hlt)))

theorem ite_ult (x y u v : Word) (h : x = y → u = v) :
    (if x.ult y then u else v) = if x.toNat ≤ y.toNat then u else v := by
  simp only [BitVec.ult_iff_lt, BitVec.lt_def]
  exact ite_eq_ite_of_imp Nat.le_of_lt fun hle hlt =>
    h (BitVec.eq_of_toNat_eq (Nat.le_antisymm hle (Nat.not_lt.mp hlt)))

theorem not_slt_iff (x y : Word) : (!x.slt y) = true ↔ y.toInt ≤ x.toInt := by
  rw [Bool.not_eq_true', ← Bool.not_eq_true, BitVec.slt_iff_toInt_lt, Int.not_lt]

theorem not_ult_iff (x y : Word) : (!x.ult y) = true ↔ y.toNat ≤ x.toNat := by
  rw [Bool.not_eq_true', ← Bool.not_eq_true, BitVec.ult_iff_lt, BitVec.lt_def, Nat.not_lt]

/-! ### Division (R131) -/

theorem divS_of_ne_zero {x y : Word} (h : y ≠ 0) : divS x y = BitVec.ofInt 64 (x.toInt.tdiv y.toInt) := if_neg h

theorem divU_of_ne_zero {x y : Word} (h : y ≠ 0) : divU x y = BitVec.ofNat 64 (x.toNat / y.toNat) := if_neg h

theorem remS_of_ne_zero {x y : Word} (h : y ≠ 0) :
    remS x y = BitVec.ofInt 64 (x.toInt - x.toInt.tdiv y.toInt * y.toInt) := by
  rw [remS, if_neg h, Int.tmod_def, Int.mul_comm]

theorem remU_of_ne_zero {x y : Word} (h : y ≠ 0) :
    remU x y = BitVec.ofNat 64 (x.toNat - x.toNat / y.toNat * y.toNat) := by
  rw [remU, if_neg h, Nat.mod_eq_sub_div_mul]

/-! ### Bit fields (R129, R133) -/

/-- The two fields of the control register of `bfx`, `bfxz` and `bfi`: the offset and the width. -/
theorem wfld_offset (y : Word) : wfld y 0 8 = y.toNat % 256 := congrArg (· % 256) (Nat.div_one y.toNat)

theorem wfld_width (y : Word) : wfld y 8 8 = y.toNat / 256 % 256 := rfl

/-- An insertion replaces the bits of its range by the low bits of the value, and keeps the others. -/
theorem getLsbD_insertBits (dst v : Word) (o w : Nat) {j : Nat} (hj : j < 64) :
    (insertBits dst o w v).getLsbD j = if o ≤ j ∧ j < o + w then v.getLsbD (j - o) else dst.getLsbD j := by
  have hmask : (BitVec.ofNat 64 (2 ^ w - 1) <<< o).getLsbD j = decide (o ≤ j ∧ j < o + w) := by
    have hsub : j - o < 64 := by omega
    rw [BitVec.getLsbD_shiftLeft, BitVec.getLsbD_ofNat, Nat.testBit_two_pow_sub_one]
    simp only [hj, hsub, decide_true, Bool.true_and, Bool.decide_and]
    by_cases ho : o ≤ j
    · simp only [ho, decide_true, Bool.true_and, decide_eq_false (Nat.not_lt.mpr ho), Bool.not_false]
      exact decide_eq_decide.mpr (by omega)
    · simp only [ho, decide_false, Bool.false_and, decide_eq_true (Nat.not_le.mp ho), Bool.not_true]
  simp only [insertBits, BitVec.getLsbD_or, BitVec.getLsbD_and, BitVec.getLsbD_not, hmask, hj, decide_true, Bool.true_and]
  by_cases hr : o ≤ j ∧ j < o + w
  · simp only [BitVec.getLsbD_shiftLeft, hr, hj, Nat.not_lt.mpr hr.1, decide_true, decide_false, and_self, if_true,
      Bool.not_true, Bool.not_false, Bool.and_false, Bool.false_or, Bool.true_and, Bool.and_true]
  · simp only [hr, decide_false, if_false, Bool.not_false, Bool.and_true, Bool.and_false, Bool.or_false]

/-- `movk`: the immediate at its place. -/
theorem getLsbD_insertBits_zeroExtend (dst : Word) (o : Nat) (i : BitVec 16) {j : Nat} (hj : j < 64) :
    (insertBits dst o 16 (i.zeroExtend 64)).getLsbD j =
      if o ≤ j ∧ j < o + 16 then i.getLsbD (j - o) else dst.getLsbD j := by
  rw [getLsbD_insertBits _ _ _ _ hj, BitVec.getLsbD_setWidth, decide_eq_true (by omega : j - o < 64), Bool.true_and]

/-- `bfi` and `bfii`: a width that runs past bit 63 is clipped there. -/
theorem getLsbD_bfInsert (dst x : Word) (o w : Nat) {j : Nat} (hj : j < 64) :
    (bfInsert dst x o w).getLsbD j = if o ≤ j ∧ j < o + w then x.getLsbD (j - o) else dst.getLsbD j := by
  unfold bfInsert
  split
  · rw [if_neg (by omega)]
  · have hclip : (o ≤ j ∧ j < o + min w (64 - o)) ↔ (o ≤ j ∧ j < o + w) := by omega
    simp only [getLsbD_insertBits _ _ _ _ hj, hclip]

/-- Sign extension takes the top bit of the field for its sign. -/
theorem sextNat_eq_ite {k f : Nat} (hk : 0 < k) (hf : f < 2 ^ k) :
    sextNat k f = if f.testBit (k - 1) then BitVec.ofInt 64 ((f : Int) - 2 ^ k) else BitVec.ofNat 64 f := by
  have hval : (BitVec.ofNat k f).toNat = f := by rw [BitVec.toNat_ofNat, Nat.mod_eq_of_lt hf]
  have hsign : (BitVec.ofNat k f).msb = f.testBit (k - 1) := by
    rw [BitVec.msb_eq_getLsbD_last, BitVec.getLsbD_ofNat, decide_eq_true (Nat.sub_lt hk Nat.one_pos), Bool.true_and]
  rw [sextNat, BitVec.signExtend, BitVec.toInt_eq_msb_cond, hval, hsign]
  split
  · rw [Int.natCast_pow]; rfl
  · rw [BitVec.ofInt_natCast]

/-- `bfx`, `bfxz` and `bfxi`: the field, clipped at bit 63 and extended. -/
theorem bfExtract_eq (signed : Bool) (x : Word) (o n : Nat) :
    bfExtract signed x o n =
      if 64 ≤ o ∨ n = 0 then 0
      else
        let k := min n (64 - o)
        let f := x.toNat / 2 ^ o % 2 ^ k
        if signed && f.testBit (k - 1) then BitVec.ofInt 64 ((f : Int) - 2 ^ k) else BitVec.ofNat 64 f := by
  unfold bfExtract
  split
  · rfl
  · cases signed with
    | false => rfl
    | true =>
      simp only [Bool.true_and, if_true]
      exact sextNat_eq_ite (by omega) (Nat.mod_lt _ (Nat.two_pow_pos _))

/-! ### Bit counts and reversals (R132) -/

/-- What a count of leading bits says: the bits before it are clear, and the bit at it is set. -/
theorem leadCount_spec (x : Nat) (f : Nat → Nat) (n : Nat) :
    leadCount x f n ≤ n ∧ (∀ j < leadCount x f n, x.testBit (f j) = false) ∧
      (leadCount x f n < n → x.testBit (f (leadCount x f n)) = true) := by
  unfold leadCount
  cases h : (List.range n).find? fun i => x.testBit (f i) with
  | none =>
    have hnone := List.find?_range_eq_none.mp h
    exact ⟨Nat.le_refl n, fun j hj => (Bool.not_eq_true' _).mp (hnone j hj), fun hlt => absurd hlt (Nat.lt_irrefl n)⟩
  | some m =>
    obtain ⟨hset, hmem, hclear⟩ := List.find?_range_eq_some.mp h
    exact ⟨Nat.le_of_lt (List.mem_range.mp hmem), fun j hj => (Bool.not_eq_true' _).mp (hclear j hj), fun _ => hset⟩

theorem popc64_eq_ofNat (x : Word) : popc64 x = BitVec.ofNat 64 ((List.range 64).countP fun j => x.getLsbD j) := by
  rw [popc64, popCount, List.countP_eq_length_filter]; rfl

theorem getLsbD_brev64 (x : Word) {j : Nat} (hj : j < 64) : (brev64 x).getLsbD (63 - j) = x.getLsbD j := by
  rw [brev64, BitVec.getLsbD_reverse, BitVec.getMsbD_eq_getLsbD, decide_eq_true (by omega : 63 - j < 64), Bool.true_and,
    show 64 - 1 - (63 - j) = j by omega]

/-- A number written with eight digits of base 256, digit `i` at place `7 - i`: dividing by a place and taking the rest
reads its digit. -/
theorem byte_sum_reversed (b : Nat → Nat) (hb : ∀ i, b i < 256) {j : Nat} (hj : j < 8) :
    (List.range 8).foldl (fun a i => a + b i * 256 ^ (7 - i)) 0 % 2 ^ 64 / 256 ^ (7 - j) % 256 = b j := by
  have h0 := hb 0; have h1 := hb 1; have h2 := hb 2; have h3 := hb 3
  have h4 := hb 4; have h5 := hb 5; have h6 := hb 6; have h7 := hb 7
  have hsum : (List.range 8).foldl (fun a i => a + b i * 256 ^ (7 - i)) 0 =
      0 + b 0 * 256 ^ 7 + b 1 * 256 ^ 6 + b 2 * 256 ^ 5 + b 3 * 256 ^ 4 + b 4 * 256 ^ 3 + b 5 * 256 ^ 2 + b 6 * 256 ^ 1 +
        b 7 * 256 ^ 0 := rfl
  rw [hsum]
  have hplace : j = 0 ∨ j = 1 ∨ j = 2 ∨ j = 3 ∨ j = 4 ∨ j = 5 ∨ j = 6 ∨ j = 7 := by omega
  rcases hplace with rfl | rfl | rfl | rfl | rfl | rfl | rfl | rfl <;> omega

theorem byte_bytrev64 (x : Word) {j : Nat} (hj : j < 8) :
    (bytrev64 x).toNat / 256 ^ (7 - j) % 256 = x.toNat / 256 ^ j % 256 := by
  rw [bytrev64, BitVec.toNat_ofNat]
  exact byte_sum_reversed _ (fun i => Nat.mod_lt _ (by decide)) hj

end Sys2Proof.Machine

/-! ## Scalar operations and branches: one rule for each shape of instruction (R125 to R139) -/

namespace Sys2Proof.Machine

/-! ### What an instruction of a shape leaves -/

section
variable {s : State} {i : Instr} {lat : Nat} {d a b : BitVec 5} {v : Word}

theorem leaves_scalar {f : State → Word} (he : exec i s = slotOp 0 i s (scalar lat d f)) (hv : f s = v) :
    Leaves 0 lat i s (.s d.toNat v) := leaves_of_body he (hv ▸ rfl)

theorem leaves_unary {f : Word → Word} (he : exec i s = slotOp 0 i s (unary lat d a f)) (hv : f (s.sr a) = v) :
    Leaves 0 lat i s (.s d.toNat v) := leaves_of_body he (hv ▸ rfl)

theorem leaves_binary {f : Word → Word → Word} (he : exec i s = slotOp 0 i s (binary lat d a b f))
    (hv : f (s.sr a) (s.sr b) = v) : Leaves 0 lat i s (.s d.toNat v) := leaves_of_body he (hv ▸ rfl)

/-- A quotient or remainder by a divisor that is not zero is a plain result. -/
theorem leaves_divide {f : Word → Word → Word} (he : exec i s = slotOp 0 i s (divide d a b f)) (hb : s.sr b ≠ 0)
    (hv : f (s.sr a) (s.sr b) = v) : Leaves 0 18 i s (.s d.toNat v) :=
  leaves_of_body he (by rw [divide, if_neg hb, ← hv]; rfl)

/-- By zero, the result carries FLAGS.IDZ and its event (R131). -/
theorem exec_divide_zero {f : Word → Word → Word} (he : exec i s = slotOp 0 i s (divide d a b f)) (hb : s.sr b = 0)
    (hv : f (s.sr a) 0 = v) (h : s.passes 0 i) :
    exec i s = .next (s.laterEv 0 18 (.s d.toNat v) flIDZ (some (s.event 0 0 0 0 0 5))) := by
  rw [he]
  exact slotOp_ok h (by rw [divide, if_pos hb, hv])

end

/-! ### Control transfers (R135, R136, R139) -/

/-- A transfer inside the scratchpad that leaves the loops of R139. -/
theorem transfer_ok (s : State) {goal : Int} (h0 : 0 ≤ goal) (h1 : goal ≤ 0x11FF) :
    transfer true goal s =
      .ok ((s.modCtx s.x fun c => { c with loops := popLoops c.pc goal.toNat c.loops }).goto goal.toNat) := by
  rw [transfer, if_neg (by omega)]; rfl

/-- A transfer out of the scratchpad traps with its target. -/
theorem transfer_trap (s : State) (pops : Bool) {goal : Int} (h : goal < 0 ∨ 0x11FF < goal) :
    transfer pops goal s = .trap 0x06 (BitVec.ofInt 64 goal) := by
  rw [transfer, if_pos h]; rfl

/-- What R136 says of a branch `i` with offset `o` that is taken where `taken` holds. -/
def BranchRule (s : State) (o : BitVec 13) (i : Instr) (taken : Prop) : Prop :=
  let goal : Int := (s.own : Int) + o.toInt
  (s.passes 0 i → ¬taken → exec i s = .next s) ∧
  (s.passes 0 i → taken → 0 ≤ goal → goal ≤ 0x11FF → exec i s = .next ((s.modCtx s.x fun c =>
    { c with loops := popLoops c.pc goal.toNat c.loops }).goto goal.toNat)) ∧
  (taken → (goal < 0 ∨ 0x11FF < goal) → Traps 0 i s 0x06 (BitVec.ofInt 64 goal))

theorem branchRule_of_branch {s : State} {a b : BitVec 5} {o : BitVec 13} {i : Instr} {taken : Prop}
    {f : Word → Word → Bool} (he : exec i s = slotOp 0 i s (branch f a b o))
    (hf : f (s.sr a) (s.sr b) = true ↔ taken) : BranchRule s o i taken := by
  refine ⟨fun hp hn => ?_, fun hp ht h0 h1 => ?_, fun ht hout hp => ?_⟩
  · rw [he]
    exact slotOp_ok hp (by rw [branch, if_neg (hn ∘ hf.mp)])
  · rw [he]
    exact slotOp_ok hp (by rw [branch, if_pos (hf.mpr ht), transfer_ok s h0 h1])
  · rw [he]
    exact slotOp_trap hp (by rw [branch, if_pos (hf.mpr ht), transfer_trap s true hout])

/-- What a transfer from `own` to `target` leaves of the loop stack (R139). -/
theorem popLoops_eq_drop (own target : Nat) (l : List LoopEnt) :
    let left := fun e : LoopEnt => (e.first ≤ own ∧ own ≤ e.last) ∧ ¬(e.first ≤ target ∧ target ≤ e.last)
    ∃ n ≤ l.length, popLoops own target l = l.drop n ∧ (∀ e ∈ l.take n, left e) ∧ ∀ e, l[n]? = some e → ¬left e := by
  intro left
  induction l with
  | nil => exact ⟨0, Nat.le_refl 0, rfl, fun _ h => absurd h List.not_mem_nil, nofun⟩
  | cons e t ih =>
    by_cases hleft : left e
    · obtain ⟨n, hn, hdrop, htake, hnext⟩ := ih
      refine ⟨n + 1, Nat.succ_le_succ hn, ?_, ?_, hnext⟩
      · rw [popLoops, if_pos (and_assoc.mp hleft), hdrop, List.drop_succ_cons]
      · rw [List.take_succ_cons]
        exact List.forall_mem_cons.mpr ⟨hleft, htake⟩
    · refine ⟨0, Nat.zero_le _, ?_, fun _ h => absurd h List.not_mem_nil, ?_⟩
      · rw [popLoops, if_neg (hleft ∘ and_assoc.mpr), List.drop_zero]
      · intro e' he'
        cases he'
        exact hleft

/-! ### Words of the C slot (R62) -/

/-- A word that is the encoding of a slot's instruction decodes to it. -/
theorem decodeSlot_of_roundtrip {i : Instr} {k w : Nat} (h : Laws.Roundtrip.Statement i)
    (hs : slotOf i = some k := by rfl) (hw : w = encode i := by change _ = _ + _; omega) :
    decodeSlot k w = .ok i := hw ▸ h.1 k hs

theorem decC1_reserved {w : Nat} (h : 19 ≤ w % 2 ^ 11) : decC1 w = .bad .reservedField := by
  unfold decC1
  repeat rw [if_neg (by omega)]

theorem decC8_reserved {w : Nat} (h : w / 2 ^ 8 % 2 ^ 8 ≠ 0) : decC8 w = .bad .reservedField := by
  unfold decC8
  repeat rw [if_neg (by omega)]

theorem decC11_reserved {w : Nat} (h : 4 ≤ w % 2 ^ 11) : decC11 w = .bad .reservedField := by
  unfold decC11
  repeat rw [if_neg (by omega)]

theorem decC12_reserved {w : Nat} (h : 4 ≤ w % 2 ^ 11) : decC12 w = .bad .reservedField := by
  unfold decC12
  repeat rw [if_neg (by omega)]

theorem decC13_reserved {w : Nat} (h : w / 2 ^ 11 % 2 ^ 5 ≠ 0 ∨ 5 ≤ w % 2 ^ 11) : decC13 w = .bad .reservedField := by
  unfold decC13
  repeat rw [if_neg (by omega)]

theorem decC19_reserved {w : Nat} (h : 6 ≤ w / 2 ^ 13 % 2 ^ 3) : decC19 w = .bad .reservedField := by
  unfold decC19
  repeat rw [if_neg (by omega)]

end Sys2Proof.Machine

/-! ## The statements on scalar arithmetic and branches (R126 to R134, R136, R139) -/

namespace Sys2Proof.Machine

open Laws

/-- Settles O10: each operation leaves the value that its word operation comes to in numbers, and its words are those of
the encoder. -/
theorem scalarAlu : Obligations.ScalarAlu := by
  refine ⟨fun s d a b => ?_, fun w _ hop hfn => ?_, fun d a b => ?_⟩
  · have hn : (s.sr b).toNat % 64 < 64 := Nat.mod_lt _ (by decide)
    exact ⟨leaves_binary (exec_add s d a b) (add_eq_ofNat _ _),
      leaves_binary (exec_sub s d a b) (sub_eq_ofInt _ _),
      leaves_binary (exec_and s d a b) rfl,
      leaves_binary (exec_or s d a b) rfl,
      leaves_binary (exec_xor s d a b) rfl,
      leaves_binary (exec_andn s d a b) rfl,
      leaves_binary (exec_shl s d a b) (shiftLeft_eq_ofNat _ _),
      leaves_binary (exec_shr s d a b) (ushiftRight_eq_ofNat _ _),
      leaves_binary (exec_sar s d a b) (sshiftRight_eq_ofInt _ _),
      leaves_binary (exec_rol s d a b) (rotateLeft_eq_ofNat _ hn),
      leaves_binary (exec_ror s d a b) (rotateRight_eq_ofNat _ hn),
      leaves_binary (exec_min s d a b) (ite_slt _ _ _ _ id),
      leaves_binary (exec_max s d a b) (ite_slt _ _ _ _ Eq.symm),
      leaves_binary (exec_minu s d a b) (ite_ult _ _ _ _ id),
      leaves_binary (exec_maxu s d a b) (ite_ult _ _ _ _ Eq.symm),
      leaves_binary (exec_slt s d a b) (ofBool_slt _ _),
      leaves_binary (exec_sltu s d a b) (ofBool_ult _ _),
      leaves_binary (exec_seq s d a b) (ofBool_beq _ _),
      leaves_binary (exec_sne s d a b) (ofBool_bne _ _)⟩
  · exact (Roundtrip.opC1 hop).trans (decC1_reserved hfn)
  · simp only [List.forall_mem_cons, List.not_mem_nil, false_imp_iff, implies_true, and_true]
    exact ⟨decodeSlot_of_roundtrip (Roundtrip.add d a b), decodeSlot_of_roundtrip (Roundtrip.sub d a b),
      decodeSlot_of_roundtrip (Roundtrip.and d a b), decodeSlot_of_roundtrip (Roundtrip.or d a b),
      decodeSlot_of_roundtrip (Roundtrip.xor d a b), decodeSlot_of_roundtrip (Roundtrip.andn d a b),
      decodeSlot_of_roundtrip (Roundtrip.shl d a b), decodeSlot_of_roundtrip (Roundtrip.shr d a b),
      decodeSlot_of_roundtrip (Roundtrip.sar d a b), decodeSlot_of_roundtrip (Roundtrip.rol d a b),
      decodeSlot_of_roundtrip (Roundtrip.ror d a b), decodeSlot_of_roundtrip (Roundtrip.min d a b),
      decodeSlot_of_roundtrip (Roundtrip.max d a b), decodeSlot_of_roundtrip (Roundtrip.minu d a b),
      decodeSlot_of_roundtrip (Roundtrip.maxu d a b), decodeSlot_of_roundtrip (Roundtrip.slt d a b),
      decodeSlot_of_roundtrip (Roundtrip.sltu d a b), decodeSlot_of_roundtrip (Roundtrip.seq d a b),
      decodeSlot_of_roundtrip (Roundtrip.sne d a b)⟩

/-- Settles O11: an immediate form is its register form with the extended immediate. -/
theorem scalarImmediate : Obligations.ScalarImmediate := by
  refine ⟨fun s d a i => ?_, fun s d a c => ?_, fun w _ hop hres => ?_, fun d a i => ?_, fun d a c => ?_⟩
  · exact ⟨leaves_unary (exec_addi s d a i) (add_signExtend_eq_ofInt _ _),
      leaves_unary (exec_andi s d a i) (congrArg _ (zeroExtend_eq_ofNat i)),
      leaves_unary (exec_ori s d a i) (congrArg _ (zeroExtend_eq_ofNat i)),
      leaves_unary (exec_xori s d a i) (congrArg _ (zeroExtend_eq_ofNat i)),
      leaves_unary (exec_slti s d a i) (ofBool_slt_signExtend _ _),
      leaves_unary (exec_sltiu s d a i) (ofBool_ult _ _)⟩
  · exact ⟨leaves_unary (exec_shli s d a c) (shiftLeft_eq_ofNat _ _),
      leaves_unary (exec_shri s d a c) (ushiftRight_eq_ofNat _ _),
      leaves_unary (exec_sari s d a c) (sshiftRight_eq_ofInt _ _),
      leaves_unary (exec_roli s d a c) (rotateLeft_eq_ofNat _ c.isLt)⟩
  · exact (Roundtrip.opC8 hop).trans (decC8_reserved hres)
  · simp only [List.forall_mem_cons, List.not_mem_nil, false_imp_iff, implies_true, and_true]
    exact ⟨decodeSlot_of_roundtrip (Roundtrip.addi d a i), decodeSlot_of_roundtrip (Roundtrip.andi d a i),
      decodeSlot_of_roundtrip (Roundtrip.ori d a i), decodeSlot_of_roundtrip (Roundtrip.xori d a i),
      decodeSlot_of_roundtrip (Roundtrip.slti d a i), decodeSlot_of_roundtrip (Roundtrip.sltiu d a i)⟩
  · simp only [List.forall_mem_cons, List.not_mem_nil, false_imp_iff, implies_true, and_true]
    exact ⟨decodeSlot_of_roundtrip (Roundtrip.shli d a c), decodeSlot_of_roundtrip (Roundtrip.shri d a c),
      decodeSlot_of_roundtrip (Roundtrip.sari d a c), decodeSlot_of_roundtrip (Roundtrip.roli d a c)⟩

/-- Settles O12: fields bit by bit, counts by the first set bit, reversals by their bits and bytes. -/
theorem scalarFields : Obligations.ScalarFields := by
  refine ⟨fun s d a b c => ?_, fun s d a => ?_, fun w _ hop hres => ?_, fun d a => ?_⟩
  · refine ⟨fun i => leaves_scalar (exec_movi s d i) rfl, fun p i => ⟨_, leaves_scalar (exec_movk s d p i) rfl, fun j hj =>
        getLsbD_insertBits_zeroExtend _ _ _ hj⟩,
      leaves_binary (exec_bfx s d a b) ?_, leaves_binary (exec_bfxz s d a b) ?_,
      ⟨_, leaves_binary (exec_bfi s d a b) rfl, fun j hj => ?_⟩,
      fun n o => leaves_unary (exec_bfxi s d a n o) (bfExtract_eq _ _ _ _),
      fun n o => ⟨_, leaves_unary (exec_bfii s d a n o) rfl, fun j hj => getLsbD_bfInsert _ _ _ _ hj⟩,
      leaves_scalar (exec_sel s d a b c) rfl⟩
    · rw [wfld_offset, wfld_width]; exact bfExtract_eq _ _ _ _
    · rw [wfld_offset, wfld_width]; exact bfExtract_eq _ _ _ _
    · rw [wfld_offset, wfld_width]; exact getLsbD_bfInsert _ _ _ _ hj
  · obtain ⟨hzle, hzclear, hzset⟩ := leadCount_spec (s.sr a).toNat (fun i => 63 - i) 64
    obtain ⟨htle, htclear, htset⟩ := leadCount_spec (s.sr a).toNat id 64
    exact ⟨⟨_, hzle, leaves_unary (exec_clz s d a) rfl, hzclear, hzset⟩,
      ⟨_, htle, leaves_unary (exec_ctz s d a) rfl, htclear, htset⟩,
      leaves_unary (exec_popc s d a) (popc64_eq_ofNat _),
      ⟨_, leaves_unary (exec_brev s d a) rfl, fun j hj => getLsbD_brev64 _ hj⟩,
      ⟨_, leaves_unary (exec_bytrev s d a) rfl, fun j hj => byte_bytrev64 _ hj⟩⟩
  · exact (Roundtrip.opC13 hop).trans (decC13_reserved hres)
  · simp only [List.forall_mem_cons, List.not_mem_nil, false_imp_iff, implies_true, and_true]
    exact ⟨decodeSlot_of_roundtrip (Roundtrip.clz d a), decodeSlot_of_roundtrip (Roundtrip.ctz d a),
      decodeSlot_of_roundtrip (Roundtrip.popc d a), decodeSlot_of_roundtrip (Roundtrip.brev d a),
      decodeSlot_of_roundtrip (Roundtrip.bytrev d a)⟩

/-- Settles O13: products from the factors' values; a divisor that is not zero gives a plain result, zero an event with it. -/
theorem scalarProducts : Obligations.ScalarProducts := by
  refine ⟨fun s d a b => ?_, fun w _ hop hfn => ?_, fun d a b => ?_⟩
  · refine ⟨leaves_binary (exec_mul s d a b) (ofInt_mul_toInt_eq_ofNat _ _),
      leaves_binary (exec_mulh s d a b) rfl,
      leaves_binary (exec_mulhu s d a b) rfl,
      leaves_binary (exec_mulhsu s d a b) rfl,
      fun hy => leaves_divide (exec_div s d a b) hy (divS_of_ne_zero hy),
      fun hy => leaves_divide (exec_rem s d a b) hy (remS_of_ne_zero hy),
      fun hy => leaves_divide (exec_divu s d a b) hy (divU_of_ne_zero hy),
      fun hy => leaves_divide (exec_remu s d a b) hy (remU_of_ne_zero hy),
      fun hy => exec_divide_zero (exec_div s d a b) hy rfl,
      fun hy => exec_divide_zero (exec_divu s d a b) hy rfl,
      fun hy => exec_divide_zero (exec_rem s d a b) hy rfl,
      fun hy => exec_divide_zero (exec_remu s d a b) hy rfl, fun hx hy => ?_⟩
    have hne : s.sr b ≠ 0 := by rw [hy]; decide
    exact ⟨leaves_divide (exec_div s d a b) hne (by rw [hx, hy]; decide),
      leaves_divide (exec_rem s d a b) hne (by rw [hx, hy]; decide)⟩
  · rcases hop with hop | hop
    · exact (Roundtrip.opC11 hop).trans (decC11_reserved hfn)
    · exact (Roundtrip.opC12 hop).trans (decC12_reserved hfn)
  · simp only [List.forall_mem_cons, List.not_mem_nil, false_imp_iff, implies_true, and_true]
    exact ⟨decodeSlot_of_roundtrip (Roundtrip.mul d a b), decodeSlot_of_roundtrip (Roundtrip.mulh d a b),
      decodeSlot_of_roundtrip (Roundtrip.mulhu d a b), decodeSlot_of_roundtrip (Roundtrip.mulhsu d a b),
      decodeSlot_of_roundtrip (Roundtrip.div d a b), decodeSlot_of_roundtrip (Roundtrip.divu d a b),
      decodeSlot_of_roundtrip (Roundtrip.rem d a b), decodeSlot_of_roundtrip (Roundtrip.remu d a b)⟩

/-- Settles O14: the six branches by the rule of R136, and the loop stack by induction on its entries. -/
theorem branches : Obligations.Branches := by
  refine ⟨fun s a b o => ?_, fun w _ hop hcond => ?_, fun a b o => ?_, popLoops_eq_drop⟩
  · exact ⟨branchRule_of_branch (exec_beq s a b o) beq_iff_eq,
      branchRule_of_branch (exec_bne s a b o) bne_iff_ne,
      branchRule_of_branch (exec_blt s a b o) BitVec.slt_iff_toInt_lt,
      branchRule_of_branch (exec_bge s a b o) (not_slt_iff _ _),
      branchRule_of_branch (exec_bltu s a b o) BitVec.ult_iff_lt,
      branchRule_of_branch (exec_bgeu s a b o) (not_ult_iff _ _)⟩
  · exact (Roundtrip.opC19 hop).trans (decC19_reserved hcond)
  · simp only [List.forall_mem_cons, List.not_mem_nil, false_imp_iff, implies_true, and_true]
    exact ⟨decodeSlot_of_roundtrip (Roundtrip.beq a b o), decodeSlot_of_roundtrip (Roundtrip.bne a b o),
      decodeSlot_of_roundtrip (Roundtrip.blt a b o), decodeSlot_of_roundtrip (Roundtrip.bge a b o),
      decodeSlot_of_roundtrip (Roundtrip.bltu a b o), decodeSlot_of_roundtrip (Roundtrip.bgeu a b o)⟩

end Sys2Proof.Machine
